-- ==== Sys2Proof/Word.lean ====
section
/-! DEFINITION. The word types of the Krytea W56 and the type of a sparse table. -/

namespace Sys2Proof

/-- A byte (R20: multi-byte values are little-endian). -/
abbrev Byte := BitVec 8

/-- A 64-bit word: scalar registers and control registers (R163, R164). -/
abbrev Word := BitVec 64

/-- A 512-bit vector register (R163). -/
abbrev VReg := BitVec 512

/-- A 256-bit descriptor (R228). -/
abbrev Desc := BitVec 256

/-- A sparse table: keys strictly rising; an unlisted key holds the default that the accessor names. -/
abbrev Tbl (α : Type) := List (Nat × α)

end Sys2Proof
end

