-- ==== Sys2Proof/Syntax.lean ====
section
/-! DEFINITION. The commands of the Krytea W56: one constructor for each row of the opcode table, with the row's
operands, and the plain data those operands are made of. An operand is either what the sender of the command chooses
(a unit, an instruction's fields, a host write) or what the outside world shows the device at that moment (a sensor
reading, a received cell, a fault of nature). -/

namespace Sys2Proof

/-- A cluster: site index and cluster number (R12). -/
structure ClusterId where
  site : Fin 56
  cl   : Fin 10
  deriving DecidableEq, Repr

/-- A physical core (R12, R157). -/
structure CoreId where
  site : Fin 56
  cl   : Fin 10
  core : Fin 9
  deriving DecidableEq, Repr

/-- A unit that runs Buine instructions: a core, or a profile unit (R261). -/
inductive UnitId where
  | core   (c : CoreId)
  | spring (u : Fin 16)
  | sluice (u : Fin 16)
  | ue     (k : Fin 44)
  deriving DecidableEq, Repr

/-- What nature has done to a protected word (R170, R389): an error the code corrects, or one it only detects. -/
inductive Mark where
  | corr
  | uncorr
  deriving DecidableEq, Repr

/-- A control cell of Table 13.4 with the body of its TYPE (Table 14.1, Table 14.4). -/
inductive CellBody where
  | arrival (bid : Fin 16) (gen : Nat) (count : Nat)
  | release (bid : Fin 16) (gen : Nat)
  | vote (step : Nat) (repLen : Nat) (repCrc : BitVec 32)
  | result (step : Nat) (verdict : Fin 4) (nRepair : Nat) (resCrc : BitVec 32)
  | poison (step : Nat) (code : BitVec 16) (source : Nat)
  | fence (step : Nat) (reason : Nat)
  | faultReport (code : BitVec 16) (sev : Nat) (source : Nat)
  | restartReport (v : Nat) (needCkpt subst ready : Bool) (manifest : Nat)
  | restartDecision (mode : Fin 3) (v first : Nat)
  | recoveryDone (v : Nat)
  | designation (step : Nat)
  | designationReply (step : Nat) (accept : Bool)
  | substitution (serial : Nat) (coord : BitVec 12)
  deriving DecidableEq, Repr

/-- A control cell (R426). `dst = none` is 0xFFFF, every engine of the group. -/
structure CtlCell where
  cseq : BitVec 8
  dst  : Option (BitVec 12)
  src  : BitVec 12
  body : CellBody
  deriving DecidableEq, Repr

/-- The kind of a message (Table 13.6). -/
inductive MsgKind where
  | blk | run | write | ack | unit
  deriving DecidableEq, Repr

/-- A unit-to-unit message of the all-gather and of replica repair (Table 10.6, R467). -/
inductive UnitMsg where
  | gatherOpen (shard step : Nat)
  | gatherClose (shard step : Nat)
  | gatherAck (shard step : Nat) (digest : Word)
  | gatherRequest (shard step : Nat)
  | other
  deriving DecidableEq, Repr

/-- A message: header of Table 13.6 and payload bytes. -/
structure Message where
  kind  : MsgKind
  ncell : Nat
  dst   : BitVec 12
  src   : BitVec 12
  vc    : Bool
  dnode : BitVec 12
  dunit : Nat
  sunit : Nat
  msgid : BitVec 32
  addr  : Word
  cnt   : Nat
  run   : Nat
  slu   : Fin 16
  ue    : Bool
  step  : Nat
  umsg  : UnitMsg
  payload : List Byte
  deriving DecidableEq, Repr

/-- A group trailer (Table 13.3); its CRC and its GSEQ are what the receiver checks. -/
structure Trailer where
  gseq   : BitVec 12
  ncell  : Nat
  nak    : Bool
  cnak   : Bool
  ackseq : BitVec 12
  cack   : BitVec 8
  cr0    : BitVec 16
  cr1    : BitVec 16
  crc    : BitVec 8
  deriving DecidableEq, Repr

/-- A 64-byte host command (Table 18.6). -/
structure HostCmd where
  opc   : BitVec 8
  rsvd  : BitVec 24
  cid   : BitVec 32
  haddr : Word
  daddr : Word
  len   : Word
  args  : BitVec 256
  deriving DecidableEq, Repr

/-- A multicast group of the job descriptor (R285, R314). -/
structure McGroup where
  group     : Fin 256
  spring    : Option (Fin 16)
  members   : List ClusterId
  throttle  : Nat
  consumers : Nat
  rploff    : Nat
  gate      : Word
  /-- the node at which a group that no Spring roots is rooted -/
  root      : Fin 662
  deriving DecidableEq, Repr

/-- An entry of the shard map (R333). -/
structure ShardEnt where
  shard : Nat
  owner : BitVec 12
  stack : Nat
  nblk  : Nat
  deriving DecidableEq, Repr

/-- An entry of the Lake map (Table 12.4). -/
structure LakeEnt where
  kind  : Nat
  first : Nat
  base  : Nat
  len   : Nat
  deriving DecidableEq, Repr

/-- The job descriptor's fields (the source names them and gives no byte layout). -/
structure JobDesc where
  jobid     : BitVec 32
  seed      : Word
  firstStep : Nat
  keyid     : BitVec 32
  stages    : List (Nat × Nat)
  sitesNeeded : Nat
  cores     : List (ClusterId × Nat × Word)
  springs   : List (Fin 16 × Word)
  sluices   : List (Fin 16 × Word)
  ues       : List (Fin 44 × Word)
  barriers  : List (Fin 16 × List UnitId)
  groups    : List McGroup
  shards    : List ShardEnt
  lakeMap   : List LakeEnt
  period    : Nat
  intake    : Option Word
  wlimit    : Nat
  cancelpol : Nat
  wscalebase : Nat
  clearwin  : Nat
  votewait  : Nat
  gbarwait  : Nat
  spareok   : Nat
  mgrcluster : Option (Nat × Nat)
  groupNo   : Nat
  sluStall  : Nat
  hold      : Nat
  escwait   : Nat
  phaseen   : Nat
  phaseoff  : Nat
  kfloor    : List Nat
  testlend  : Nat
  lendmax   : Nat
  /-- this engine is a spare that takes a failed engine's place (R471) -/
  adopt     : Bool
  deriving DecidableEq, Repr

/-- A part of the module that a self-test judges (Table 15.4) or a reserve replaces (Table 1.9). -/
inductive Part where
  | arrayRow (c : CoreId) (a : Fin 2) (row : Fin 129)
  | core (c : CoreId)
  | site (s : Fin 56)
  | stack (k : Fin 44)
  | link (node : Fin 662) (port : Fin 8)
  | unit (u : UnitId)
  | flashChannel (c : Fin 16)
  | polder (p : Fin 60)
  | bay (b : Fin 16)
  | warden
  deriving DecidableEq, Repr

/-- A firmware image as the ROM's checks see it (Table 19.2, R579). -/
structure FwImage where
  magicOk  : Bool
  keyslot  : Fin 4
  svn      : Nat
  version  : Word
  bodylen  : Nat
  bodyOk   : Bool
  vpubDigest : BitVec 256
  sigOk    : Bool
  deriving DecidableEq, Repr

/-- Why a light port fails (R439). -/
inductive PortFault where
  | retries | resends | lock | laser
  deriving DecidableEq, Repr

/-- Why the module makes an orderly stop (R516). -/
inductive StopCause where
  | feeds | bus | converter
  deriving DecidableEq, Repr

/-- A reset of one port's function state (R558). -/
inductive PortResetKind where
  | perstB | hot | linkDown | flr | d3hotExit | fatal
  deriving DecidableEq, Repr

/-- The commands: one constructor for each row of the opcode table, in its order. A 32-bit instruction carries its bits
[31:7] (`f : BitVec 25`), a 64-bit one its bits [63:7] (`f : BitVec 57`); a row that covers several major opcodes carries
the offset `op` from the first. `u` is the unit that issues. A mesh event carries the index `i` of the packet in flight
that arrives, and `bad` says that its bits were corrupted on the way. -/
inductive Instr where
  /-- `op`: 0x01, or a value that the opcode map leaves unassigned (R194 to R196). -/
  | integerRegisterRegister (u : UnitId) (op : BitVec 7) (f : BitVec 25)
  | integerImmediate (u : UnitId) (f : BitVec 25)
  | lic (u : UnitId) (f : BitVec 25)
  | multiplyDivide (u : UnitId) (f : BitVec 25)
  | scalarLoad (u : UnitId) (f : BitVec 25)
  | scalarStore (u : UnitId) (f : BitVec 25)
  | amoadd (u : UnitId) (f : BitVec 25)
  | amoswap (u : UnitId) (f : BitVec 25)
  | amocas (u : UnitId) (f : BitVec 25)
  | conditionalBranch (u : UnitId) (f : BitVec 25)
  | jal (u : UnitId) (f : BitVec 25)
  | jalr (u : UnitId) (f : BitVec 25)
  | cread (u : UnitId) (f : BitVec 25)
  | cwrite (u : UnitId) (f : BitVec 25)
  | tret (u : UnitId) (f : BitVec 25)
  | scalarFloatingPoint (u : UnitId) (f : BitVec 25)
  | vectorFloatingPoint (u : UnitId) (op : Fin 11) (f : BitVec 25)
  | vcmp (u : UnitId) (f : BitVec 25)
  | vectorInteger (u : UnitId) (op : Fin 4) (f : BitVec 25)
  | vectorMove (u : UnitId) (f : BitVec 25)
  | vectorReduction (u : UnitId) (f : BitVec 25)
  | vld (u : UnitId) (f : BitVec 25)
  | vst (u : UnitId) (f : BitVec 25)
  | vldb (u : UnitId) (f : BitVec 25)
  | predicateOperation (u : UnitId) (f : BitVec 25)
  | vcvt (u : UnitId) (f : BitVec 25)
  | bar (u : UnitId) (f : BitVec 25)
  | tagwait (u : UnitId) (f : BitVec 25)
  | fence (u : UnitId) (f : BitVec 25)
  | spanBegin (u : UnitId) (f : BitVec 25)
  | spanEnd (u : UnitId) (f : BitVec 25)
  | nfmt (u : UnitId) (f : BitVec 25)
  | nround (u : UnitId) (f : BitVec 25)
  | nseed (u : UnitId) (f : BitVec 25)
  | aload (u : UnitId) (f : BitVec 57)
  | astream (u : UnitId) (f : BitVec 57)
  | aswap (u : UnitId) (f : BitVec 57)
  | aacc (u : UnitId) (f : BitVec 57)
  | adrain (u : UnitId) (f : BitVec 57)
  | adiag (u : UnitId) (f : BitVec 57)
  | ddld (u : UnitId) (f : BitVec 57)
  | ddst (u : UnitId) (f : BitVec 57)
  | ddset (u : UnitId) (f : BitVec 57)
  | dget (u : UnitId) (f : BitVec 57)
  | dput (u : UnitId) (f : BitVec 57)
  | dcast (u : UnitId) (f : BitVec 57)
  | dwait (u : UnitId) (f : BitVec 57)
  | smaskPrune (u : UnitId) (f : BitVec 57)
  | smaskKeep (u : UnitId) (f : BitVec 57)
  | smaskBitmap (u : UnitId) (f : BitVec 57)
  | smergeMatch (u : UnitId) (f : BitVec 57)
  | smergeCoalesce (u : UnitId) (f : BitVec 57)
  | smergeUnion (u : UnitId) (f : BitVec 57)
  /-- `flip`: a stationary value of the loaded tile that nature flips before its capture is used (row, column, bit). -/
  | aloadCaptureComplete (c : CoreId) (a : Fin 2) (flip : Option (Nat × Nat × Nat))
  | swapTokenAttach (c : CoreId) (a : Fin 2)
  | drainOutputWrite (c : CoreId) (a : Fin 2)
  | weirReport (k : ClusterId)
  | wave (u : UnitId) (f : BitVec 57)
  | gateWordPoll (sp : Fin 16)
  | sealPoll (sp : Fin 16)
  | reStreamRequest (sp : Fin 16)
  | reStreamStart (sp : Fin 16)
  | reStreamRelease (sp : Fin 16)
  | gopen (u : UnitId) (f : BitVec 57)
  /-- `adder`: the duplicated shifter compare fails (R73). -/
  | gsend (u : UnitId) (f : BitVec 57) (adder : Bool)
  | ghand (u : UnitId) (f : BitVec 57) (adder : Bool)
  | ugrad (u : UnitId) (f : BitVec 57)
  | urld (u : UnitId) (f : BitVec 57)
  /-- `dup`: the duplicate datapaths disagree (R483). -/
  | urst (u : UnitId) (f : BitVec 57) (dup : Bool)
  | uhead (u : UnitId) (f : BitVec 57) (dup : Bool)
  | useal (u : UnitId) (f : BitVec 57) (dup : Bool)
  | usealWaitEnd (k : Fin 44) (dup : Bool)
  | udig (u : UnitId) (f : BitVec 57) (dup : Bool)
  | routerPacketForward (i : Nat)
  /-- `adder`: the adder residue or the duplicated shifter fails (R73). -/
  | gblkCombine (i : Nat) (adder : Bool)
  | combineHoldExpiry (i : Nat)
  | escapeWaitExpiry (i : Nat)
  /-- What the far side of the lane receives of the flit sent `back` flits before the newest: `err` are the bits of the flit and, above
  them, of its sideband that differ from what was sent. -/
  | flitReplayRequest (node : Fin 662) (port : Fin 8) (lane : Fin 4) (back : Fin 16) (err : BitVec 1048)
  | rdRequest (i : Nat) (bad : Bool)
  | wrRequest (i : Nat) (bad : Bool)
  | amoRequest (i : Nat) (bad : Bool)
  | ctlPacket (i : Nat) (bad : Bool)
  | mcPacket (i : Nat) (bad : Bool)
  | gblkSluiceArrival (i : Nat) (bad : Bool) (adder : Bool)
  | grunSluiceArrival (i : Nat) (bad : Bool) (adder : Bool)
  | xtPacket (i : Nat) (bad : Bool)
  | rdrResponse (i : Nat) (bad : Bool)
  | wackResponse (i : Nat) (bad : Bool)
  | amorResponse (i : Nat) (bad : Bool)
  | mack (i : Nat) (bad : Bool)
  | requestTimeout (tid : Nat)
  | barrierUpFrame (p : Fin 60)
  | barrierReleaseFrame (p : Fin 60)
  | bid0Release
  | sludoneWrite (sl : Fin 16) (v : Word)
  | sluiceTagStall (sl : Fin 16) (tag : BitVec 32)
  | clearWindowExpiry
  | ueInboxBlock (i : Nat) (bad : Bool) (adder : Bool)
  | gatherOpen (k : Fin 44)
  | gatherClose (k : Fin 44)
  | gatherAck (k : Fin 44)
  | gatherRequest (k : Fin 44)
  /-- `found`: an error that nature has put into an access of the stack, by its number. `retry`: the read's command, address or data
  parity fails and its retry too (R384); the number counts the stack's accesses since the retry that failed before. -/
  | lakePatrolRead (k : Fin 44) (found : Option (Fin 805306368 × Mark)) (retry : Option Nat)
  /-- `found`: an error that nature has put into a word of the pond, by its number. -/
  | pondScrub (k : ClusterId) (found : Option (Fin 8388608 × Mark))
  | flashDoorbell (q : Fin 63) (tail : Fin 64)
  /-- `lost`: a block of the read is uncorrectable (R405). -/
  | flashRead (q : Fin 63) (lost : Bool)
  /-- `full`: no free block remains; `lost`: a block that the write covers only in part is uncorrectable (R405). -/
  | flashWrite (q : Fin 63) (full lost : Bool)
  | flashTrim (q : Fin 63)
  | flashTeeWrite (q : Fin 63) (full lost : Bool)
  | flashCommandComplete (q : Fin 63)
  /-- Bytes that a channel has moved and blocks that it has erased; `life`, `free`: the rated life used and the free blocks that
  the flash devices then show. -/
  | garbageCollection (ch : Fin 16) (moved erased life free : Nat)
  | checkpointComplete
  /-- `msgs`: the messages that end in the group, in order; `lost`: codewords of the group that FEC could not correct; `good`: its
  GCRC matches. -/
  | groupTrailerReceive (p : Fin 56) (t : Trailer) (msgs : List Message) (lost : Nat) (good : Bool)
  | groupRetryTimeout (p : Fin 56)
  | controlRetryTimeout (p : Fin 56)
  | blkMessage (p : Fin 56) (bad : Bool)
  | runMessage (p : Fin 56) (bad : Bool)
  | writeMessage (p : Fin 56) (bad : Bool)
  | ackMessage (p : Fin 56) (bad : Bool)
  | unitMessage (p : Fin 56) (bad : Bool)
  | transitMessage (p : Fin 56)
  | portFail (p : Fin 56) (why : PortFault)
  | laneDegraded (p : Fin 56) (lane : Fin 9)
  /-- `lock`: receive lanes that reach FEC lock; `txSpare`: the transmit lane that the peer's spare replaces; `peer`: identity word. -/
  | portTraining (p : Fin 56) (lock : BitVec 9) (txSpare : BitVec 4) (peer : Word)
  | portTrainingFail (p : Fin 56)
  | laserModuleFail (b : Fin 16)
  | bayLatchOpen (b : Fin 16)
  | lpctlRetrain (p : Fin 56) (v : Word)
  | lmctlBayoff (b : Fin 16) (v : Word)
  /-- `ser`: the lanes' pre-FEC symbol error ratios, in units of 10^-7. -/
  | opticalCalibration (p : Fin 56) (ser : List Nat)
  | barrierArrivalCell (p : Fin 56) (c : CtlCell) (bad : Bool)
  | barrierReleaseCell (p : Fin 56) (c : CtlCell) (bad : Bool)
  | commitVoteCell (p : Fin 56) (c : CtlCell) (bad : Bool)
  | commitResultCell (p : Fin 56) (c : CtlCell) (bad : Bool)
  | poisonCell (p : Fin 56) (c : CtlCell) (bad : Bool)
  | fenceCell (p : Fin 56) (c : CtlCell) (bad : Bool)
  | faultReport (p : Fin 56) (c : CtlCell) (bad : Bool)
  | restartReport (p : Fin 56) (c : CtlCell) (bad : Bool)
  | restartDecision (p : Fin 56) (c : CtlCell) (bad : Bool)
  | recoveryDone (p : Fin 56) (c : CtlCell) (bad : Bool)
  | checkpointDesignation (p : Fin 56) (c : CtlCell) (bad : Bool)
  | designationReply (p : Fin 56) (c : CtlCell) (bad : Bool)
  | substitutionNotice (p : Fin 56) (c : CtlCell) (bad : Bool)
  | groupBarrierTimeout (bid : Fin 16)
  | voteTimeoutManager
  | resultTimeoutWorker
  | workerRestart
  /-- `parity`: a core whose mod-3 residue or register-file parity check has just failed (R189). -/
  | detectionLatch (parity : Option CoreId)
  | sequencerWatchdog (c : CoreId)
  /-- `diff`: the shadow signature differs. -/
  | spanSignatureCompare (c : CoreId) (diff : Bool)
  | wardenLockstepFail
  | sftestReq (v : Word)
  | selfTestComplete (failed : List Part)
  | clockMonitorWindow (p : Fin 60) (count : Nat)
  | pllLockLoss (p : Fin 60)
  | thermalSample (p : Fin 60) (tmax : Int)
  | vcoreSlewComplete (p : Fin 60)
  /-- `p`: a polder, or 60 for the Warden domain. -/
  | supplyExcursion (p : Fin 61)
  | railOvercurrent (p : Fin 60)
  | dikeClampClose (p : Fin 60) (far : Fin 60)
  | dikePointerSlip (node : Fin 662) (port : Fin 8) (lane : Fin 4)
  | feedLoss (n : Fin 4)
  | feedRestore (n : Fin 4)
  | orderlyStop (why : StopCause)
  | pdctlShut (p : Fin 60) (v : Word)
  | pdctlWake (p : Fin 60) (v : Word)
  | pdctlRestore (p : Fin 60) (v : Word)
  | plannedShutdown (p : Fin 60)
  | polderWake (p : Fin 60) (pass : Bool)
  | powerEstimateInterval
  /-- `meter`: metered input of the last 1 ms, in W. -/
  | powerAllocation (meter : Nat)
  /-- The second's mean estimate and mean metered power, in W. -/
  | trimUpdate (est meter : Nat)
  | capNotMet
  | coolantStale
  | pwctlWrite (port : Fin 2) (v : Word)
  | surroundingsHeatWrite (port : Fin 2) (reg : Fin 2) (v : Word)
  | srtimeWrite (port : Fin 2) (v : Word)
  | registerWrite (port : Fin 2) (off : Nat) (size : Nat) (v : Word)
  | rcRead (port : Fin 2) (off : Nat) (size : Nat)
  | bar2Read (port : Fin 2) (off len : Nat)
  | bar2Write (port : Fin 2) (off : Nat) (bytes : List Byte)
  | hwinWrite (port : Fin 2) (seg : Fin 16) (v : Word)
  | hqcfgWrite (port : Fin 2) (q : Fin 16) (v : Word)
  /-- `cmds`: the commands that the submission ring in host memory then holds, from the head on. -/
  | hqsqdbWrite (port : Fin 2) (q : Fin 16) (v : Word) (cmds : List HostCmd)
  | hqcqdbWrite (port : Fin 2) (q : Fin 16) (v : Word)
  /-- `data`: the bytes at HADDR in host memory. -/
  | copyIn (port : Fin 2) (q : Fin 16) (data : List Byte)
  | copyOut (port : Fin 2) (q : Fin 16)
  | intakeDelivery (port : Fin 2) (q : Fin 16) (records : List (List Byte))
  | intakeWaitTimeout (port : Fin 2) (q : Fin 16)
  | jobSubmit (port : Fin 2) (q : Fin 16) (job : JobDesc)
  | jobStart (port : Fin 2) (q : Fin 16)
  | jobAmend (port : Fin 2) (q : Fin 16) (stages : List (Nat × Nat))
  | jobEnd (port : Fin 2) (q : Fin 16)
  | jobStatus (port : Fin 2) (q : Fin 16)
  | checkpoint (port : Fin 2) (q : Fin 16)
  | exportHeads (port : Fin 2) (q : Fin 16)
  | retrain (port : Fin 2) (q : Fin 16)
  | selfTest (port : Fin 2) (q : Fin 16)
  | errorRecords (port : Fin 2) (q : Fin 16)
  | moduleReset (port : Fin 2) (q : Fin 16)
  | jobReset (port : Fin 2) (q : Fin 16)
  | polderReset (port : Fin 2) (q : Fin 16)
  | firmwareStage (port : Fin 2) (q : Fin 16) (image : FwImage)
  | firmwareActivate (port : Fin 2) (q : Fin 16)
  | rollbackCommit (port : Fin 2) (q : Fin 16)
  | certificateRead (port : Fin 2) (q : Fin 16)
  | jobKeyInstall (port : Fin 2) (q : Fin 16) (key : BitVec 512)
  | jobKeyErase (port : Fin 2) (q : Fin 16)
  | openObservation (port : Fin 2) (q : Fin 16)
  | commandCompletion (port : Fin 2) (q : Fin 16)
  | perstPortA
  | portReset (port : Fin 2) (why : PortResetKind)
  | d3hotEntry (port : Fin 2)
  | poisonedWrite (port : Fin 2) (off : Nat)
  | hostReadError (port : Fin 2) (q : Fin 16)
  | doeAttestationRequest (port : Fin 2) (flags : BitVec 8) (nonce : BitVec 256)
  | keyGenerationComplete
  /-- `feeds`: the feeds in range; `failed`: parts that fail the power-up self-test. -/
  | powerGood (feeds : List (Fin 4)) (failed : List Part)
  | cselWrite (port : Fin 2) (k : ClusterId) (n : Fin 64) (v : Word)
  | cntctlWrite (port : Fin 2) (v : Word)
  | trctlWrite (port : Fin 2) (v : Word)
  | tracePowerLines
  | eventRecordArrival
  | evselWrite (port : Fin 2) (v : Word)
  | mirrorFetchComplete (port : Fin 2)
  /-- `status`: the flash completion status of the block write, 0 = done. -/
  | mirrorBlockWrite (status : Nat)
  | d3hotExit (port : Fin 2)
  | groupTrailerSend (p : Fin 56)
  | pruningUnitComplete (k : ClusterId)
  | lakeInterfaceRetraining (k : Fin 44) (pass : Bool)
  | bayLatchClose (b : Fin 16)
  deriving DecidableEq, Repr

end Sys2Proof
end

