-- ==== Sys2Proof/Decode.lean ====
section
/-! DEFINITION. The decoder of table words. No row of the opcode table gives bits, so no word spells a command. The
encodings that the spec does give, those of Buine instructions (R193 to R198, R234, R247), are the fields that the
commands of the Buine rows carry; the functions here join and take apart their words. -/

namespace Sys2Proof

/-- No row of the table has bits: every word is refused. -/
def decodeTableWord (_nbits _w : Nat) : Option Instr := none

/-- A 32-bit Buine word: OP in bits [6:0], the command's field vector above (R193). -/
def word32 (op : BitVec 7) (f : BitVec 25) : BitVec 32 := f ++ op

/-- A 64-bit Buine word (R194). -/
def word64 (op : BitVec 7) (f : BitVec 57) : BitVec 64 := f ++ op

/-- The major opcode of a word. -/
def opOf32 (w : BitVec 32) : BitVec 7 := w.extractLsb' 0 7
def opOf64 (w : BitVec 64) : BitVec 7 := w.extractLsb' 0 7

/-- The Buine command that unit `u` executes when it fetches the 32-bit word `w` (Tables 6.1, 7.8). A reserved OP goes to
the command whose meaning checks OP, an atomic operation with a reserved function code to `amoadd`, which checks it: both take
the illegal-instruction trap (R195, R196). -/
def decodeBuine32 (u : UnitId) (w : BitVec 32) : Instr :=
  let f := w.extractLsb' 7 25
  let op := (opOf32 w).toNat
  match op with
  | 0x01 => .integerRegisterRegister u 0x01 f
  | 0x02 => .integerImmediate u f
  | 0x03 => .lic u f
  | 0x04 => .multiplyDivide u f
  | 0x05 => .scalarLoad u f
  | 0x06 => .scalarStore u f
  | 0x07 =>
    match (w.extractLsb' 22 10).toNat with
    | 1 => .amoswap u f
    | 2 => .amocas u f
    | _ => .amoadd u f
  | 0x08 => .conditionalBranch u f
  | 0x09 => .jal u f
  | 0x0A => .jalr u f
  | 0x0B => .cread u f
  | 0x0C => .cwrite u f
  | 0x0D => .tret u f
  | 0x10 => .scalarFloatingPoint u f
  | 0x2B => .vcmp u f
  | 0x35 => .predicateOperation u f
  | 0x36 => .vcvt u f
  | 0x37 => .vectorMove u f
  | 0x38 => .vectorReduction u f
  | 0x3C => .vld u f
  | 0x3D => .vst u f
  | 0x3E => .vldb u f
  | 0x50 => .bar u f
  | 0x51 => .tagwait u f
  | 0x52 => .fence u f
  | 0x53 => .spanBegin u f
  | 0x54 => .spanEnd u f
  | 0x55 => .nfmt u f
  | 0x56 => .nround u f
  | 0x57 => .nseed u f
  | _ =>
    if h : 0x20 ≤ op ∧ op ≤ 0x2A then .vectorFloatingPoint u ⟨op - 0x20, by omega⟩ f
    else if h : 0x30 ≤ op ∧ op ≤ 0x33 then .vectorInteger u ⟨op - 0x30, by omega⟩ f
    else .integerRegisterRegister u (opOf32 w) f

/-- The Buine command that unit `u` executes when it fetches the 64-bit word `w` (Tables 7.5, 7.6, 7.11). A reserved OP and a
reserved form of `smask` and `smerge` go to a command whose meaning checks them and traps (R196). `dup` says whether the
duplicate computation of an update engine differs, `adder` whether a shifter comparison fails as a block is stored. -/
def decodeBuine64 (u : UnitId) (w : BitVec 64) (dup adder : Bool) : Instr :=
  let f := w.extractLsb' 7 57
  let form := (w.extractLsb' 54 2).toNat
  match (opOf64 w).toNat with
  | 0x60 => .aload u f
  | 0x61 => .astream u f
  | 0x62 => .aswap u f
  | 0x63 => .aacc u f
  | 0x64 => .adrain u f
  | 0x65 => .adiag u f
  | 0x66 => .ddld u f
  | 0x67 => .ddst u f
  | 0x68 => .dget u f
  | 0x69 => .dput u f
  | 0x6A => .dcast u f
  | 0x6B => .dwait u f
  | 0x6C =>
    match form with
    | 0 => .smaskPrune u f
    | 1 => .smaskKeep u f
    | 2 => .smaskBitmap u f
    | _ => .smaskPrune u f
  | 0x6D =>
    match form with
    | 0 => .smergeMatch u f
    | 1 => .smergeCoalesce u f
    | 2 => .smergeUnion u f
    | _ => .smergeMatch u f
  | 0x6E => .ddset u f
  | 0x70 => .wave u f
  | 0x71 => .gopen u f
  | 0x72 => .gsend u f adder
  | 0x73 => .ghand u f adder
  | 0x74 => .ugrad u f
  | 0x75 => .urld u f
  | 0x76 => .urst u f dup
  | 0x77 => .uhead u f dup
  | 0x78 => .useal u f dup
  | 0x79 => .udig u f dup
  | _ => .integerRegisterRegister u (opOf64 w) (w.extractLsb' 7 25)

end Sys2Proof
end

