-- ==== Sys2Proof/Config.lean ====
section
/-! DEFINITION. What the spec leaves open: constants with no body, so that no proof can lean on a value. -/

namespace Sys2Proof.Config

/-- Is a count of free physical blocks below 2 % of the store's blocks? The spec gives no number of physical blocks (R407). -/
opaque flashScarce : (free : Nat) → Bool

/-- The contents of the store-status area of the flash window, which the spec does not lay out (Table 12.7). -/
opaque storeStatus : (chup off : Nat) → Byte

/-- A byte of a flash block that was trimmed and not written since: the spec states no contents. -/
opaque trimByte : (part off : Nat) → Byte

/-- The slot offset of a block that a restore from a checkpoint slot cannot read, if there is one, by slot and time (R413): no row of
the table brings it. -/
opaque slotLost : (slot : Bool) → (ref : Nat) → Option Nat

/-- Groups that a job spans under a head manager, by job identifier (R454 gives no field that tells the head manager). -/
opaque groupCount : (job : BitVec 32) → Nat

/-- The UNIT field of a packet or message header (Table 8.3 gives no codes), by the unit's node and an identifier of the packet or the
unit. -/
opaque packetUnit : (node tid : Nat) → Nat

/-- The payload bytes of a control packet, whose layout the spec does not give (Table 8.4). -/
opaque ctlPayload : (src dst tid : Nat) → List Byte

/-- Bytes 64 to 79 of an atomic request's head flit (Table 8.4 gives the operation and its operands no layout), by the operation's
function code and its operands. -/
opaque amoByte : (op : Nat) → (operands : List Byte) → (off : Nat) → Byte

/-- The payload cell of a unit message, whose layout the spec does not give (Table 13.6), by the two units and what it says. -/
opaque unitBody : (sunit dunit : Nat) → (body : List Nat) → (off : Nat) → Byte

/-- The syndrome that a check shows (Tables 5.12, 15.7): the spec names no code matrix, and the model holds what a check finds, not
the bits in error. By event code, unit, place and time. -/
opaque syndrome : (code unit addr ref : Nat) → Nat

/-- The row that the Warden's row test locates on a suspect array, if any, by array and time (R122). -/
opaque suspectRow : (array ref : Nat) → Option Nat

/-- Does a polder that is to return to service pass its self-test rows (Table 16.4)? -/
opaque restorePasses : (polder ref : Nat) → Bool

/-- What the job's update program makes of one state record and one gradient (Table 10.7, full update): the program is the
host's. The answer is the new record, with its head echo. -/
opaque updateRecord : (job : BitVec 32) → (step shard i : Nat) → (old grad : Nat) → Nat

/-- The scale that the update program gives a shard's m values in a full update. -/
opaque updateScale : (job : BitVec 32) → (step shard : Nat) → Int

/-- A surviving replica whose sealed digest more than half of the surviving replicas hold, if there is one (R472); the spec gives
no message that tells a spare the digests. -/
opaque majorityPeer : (job : BitVec 32) → (step shard : Nat) → Option (BitVec 12)

/-- A polder's estimated power in W over its last 4,096 ac (R528, R529: the weights are calibrated on each part). -/
opaque polderEst : (polder ref : Nat) → Nat

/-- The array power in W that the held beats of a polder would have drawn (R539). -/
opaque heldPower : (polder ref : Nat) → Nat

/-- Carrier loads and conversion losses in W (R528). -/
opaque carrierLoads : (ref : Nat) → Nat

/-- A polder's full-rate estimate in W (R539). -/
opaque fullRate : (polder : Nat) → Nat

/-- `watts_at` of R538: the power of a polder at a grant k. -/
opaque wattsAt : (polder k : Nat) → Nat

/-- `grant_to_k` of R538, before it is held to 1 to 64. -/
opaque grantToK : (polder grant : Nat) → Nat

/-- `ballast_to_floor` of R538, before it is held to 0 to 64. -/
opaque ballastToFloor : (floor p polder : Nat) → Nat

/-- `IDREPDIG`, a CRC-64 of the repair map: the spec gives the repair map no layout (Table 21.4). -/
opaque repairDigest : (map : List Nat) → Word

/-- Results and details of a completion that no table names (Table 18.6), by command and field. -/
opaque openResult : (cid : BitVec 32) → (field : Nat) → Nat

/-- RESULT0 of a refused job: the byte offset of the offending field in a descriptor whose layout the spec does not give. -/
opaque descOffset : (job : BitVec 32) → (rule : Nat) → Nat

/-- A byte of the 256-byte buffer of the job-status command, which the spec does not lay out, by what it reports. -/
opaque statusByte : (job state v : Nat) → (held : List Nat) → (off : Nat) → Byte

/-- The optical output of a laser module that is lit, in mW. -/
opaque laserPower : (bay ref : Nat) → Nat

/-- Time from power good to ready, in units of 10 ms, before it is held to the 120 s of R581. -/
opaque bootTime : (ref : Nat) → Nat

/-- A measurement of Table 19.8: SHAKE256 over contents whose serialisation the spec does not give. -/
opaque measure : (m : Nat) → (contents : List Nat) → BitVec 256

/-- A byte of an XMSS signature beyond its index, by key generation (0xFF = observed key), index and body. -/
opaque sigByte : (gen index : Nat) → (body : List Byte) → (off : Nat) → Byte

/-- The certificate of a key (0xFF = observed key). -/
opaque certificate : (gen : Nat) → List Byte

/-- Serial of the failed engine that a spare replaces, by job: the substitution notice carries it (Table 14.4). -/
opaque failedSerial : (job : BitVec 32) → Nat

end Sys2Proof.Config
end

