-- ==== Sys2Proof/Machine/Flags.lean ====
section
/-! DEFINITION. Floating-point formats, the one rounding of every unit, and the five exception flags
(02_number_formats, R32 to R45). A value is an integer significand times a power of two; every operation is computed
exactly and rounded once. -/

namespace Sys2Proof.Machine

/-- A floating-point layout: exponent and fraction widths (Table 2.2). -/
structure Fmt where
  eb : Nat
  fb : Nat
  deriving DecidableEq, Repr

/-- The formats of codes 0 to 3 (Table 2.1, Table 2.2). -/
def Fmt.of (code : Nat) : Fmt :=
  match code with
  | 0 => ⟨5, 10⟩
  | 1 => ⟨8, 7⟩
  | 2 => ⟨8, 23⟩
  | _ => ⟨11, 52⟩

def Fmt.width (f : Fmt) : Nat := 1 + f.eb + f.fb
def Fmt.bias (f : Fmt) : Nat := 2 ^ (f.eb - 1) - 1
/-- Exponent of the smallest normal number. -/
def Fmt.emin (f : Fmt) : Int := 1 - (f.bias : Int)
/-- The encoding of +infinity. -/
def Fmt.inf (f : Fmt) : Nat := (2 ^ f.eb - 1) * 2 ^ f.fb
def Fmt.signBit (f : Fmt) : Nat := 2 ^ (f.eb + f.fb)
/-- The canonical quiet NaN (Table 2.2). -/
def Fmt.qnan (f : Fmt) : Nat := f.inf + 2 ^ (f.fb - 1)
/-- Element size in bytes of a format code (R229); code 8 is a 64-byte block. -/
def esize (code : Nat) : Nat :=
  match code with
  | 0 => 2 | 1 => 2 | 2 => 4 | 3 => 8 | _ => 64

/-- The classes of a datum. -/
inductive Cls where
  | zero | fin | inf | qnan | snan
  deriving DecidableEq, Repr

/-- A datum taken apart: a finite one is `±mant × 2^exp`; of a NaN, `mant` is the payload without the quiet bit (R39). -/
structure Unp where
  cls  : Cls
  sign : Bool
  mant : Nat
  exp  : Int
  deriving DecidableEq, Repr

def unpack (f : Fmt) (x : Nat) : Unp :=
  let sg := x / f.signBit % 2 == 1
  let ef := x / 2 ^ f.fb % 2 ^ f.eb
  let fr := x % 2 ^ f.fb
  if ef = 2 ^ f.eb - 1 then
    if fr = 0 then ⟨.inf, sg, 0, 0⟩
    else if fr / 2 ^ (f.fb - 1) = 1 then ⟨.qnan, sg, fr % 2 ^ (f.fb - 1), 0⟩
    else ⟨.snan, sg, fr % 2 ^ (f.fb - 1), 0⟩
  else if ef = 0 then
    if fr = 0 then ⟨.zero, sg, 0, 0⟩ else ⟨.fin, sg, fr, f.emin - f.fb⟩
  else ⟨.fin, sg, 2 ^ f.fb + fr, (ef : Int) - f.bias - f.fb⟩

def Unp.isNan (u : Unp) : Bool := u.cls == .qnan || u.cls == .snan
def Unp.finite (u : Unp) : Bool := u.cls == .zero || u.cls == .fin
/-- The signed significand. -/
def Unp.int (u : Unp) : Int := if u.sign then -(u.mant : Int) else u.mant

/-- floor(log2 of the magnitude), of a non-zero finite datum. -/
def Unp.log2 (u : Unp) : Int := (u.mant.log2 : Int) + u.exp

/-- The exception flags, in the order of `NFLAGS` (Table 2.5). -/
abbrev Flg := BitVec 5
def flNV : Flg := 1
def flDZ : Flg := 2
def flOF : Flg := 4
def flUF : Flg := 8
def flNX : Flg := 16

/-- Rounding modes as Table 2.4 codes them. -/
def mRNE : Nat := 0
def mRTZ : Nat := 1
def mRUP : Nat := 2
def mRDN : Nat := 3
def mSR  : Nat := 4

/-- A rounding result: the encoding and the flags it raises. -/
structure FRes where
  bits : Nat
  fl   : Flg
  deriving DecidableEq, Repr

/-- A magnitude `(mant + s) × 2^exp`, `0 ≤ s < 1`, with `s > 0` exactly when `sticky`, brought to units of `2^lsb`:
the quotient, whether it is rounded up, and whether bits are lost. Stochastic rounding compares the first 16 discarded
bits with the draw `r` (R41). -/
def roundAt (mode : Nat) (sign : Bool) (mant : Nat) (exp : Int) (sticky : Bool) (r : Nat) (lsb : Int) : Nat × Bool :=
  if lsb ≤ exp then
    (mant * 2 ^ (exp - lsb).toNat, sticky)
  else
    let d := (lsb - exp).toNat
    let q := mant / 2 ^ d
    let rem := mant % 2 ^ d
    let inex := rem != 0 || sticky
    let twice := 2 * rem
    let up :=
      if mode = mRNE then
        twice > 2 ^ d || (twice == 2 ^ d && (sticky || q % 2 == 1))
      else if mode = mRUP then inex && !sign
      else if mode = mRDN then inex && sign
      else if mode = mSR then rem * 65536 / 2 ^ d + r ≥ 65536
      else false
    (if up then q + 1 else q, inex)

/-- One rounding of a non-zero magnitude into a format, with overflow as the mode gives (R42, R63) and tininess judged
after rounding with the same draw (R36, R43). -/
def roundNZ (f : Fmt) (mode : Nat) (sign : Bool) (mant : Nat) (exp : Int) (sticky : Bool) (r : Nat) : FRes :=
  let e := (mant.log2 : Int) + exp
  let l1 := e - f.fb
  let lmin := f.emin - f.fb
  let lsb := max l1 lmin
  let (q, inex) := roundAt mode sign mant exp sticky r lsb
  let (q1, _) := roundAt mode sign mant exp sticky r l1
  let e1 := if q1 = 2 ^ (f.fb + 1) then e + 1 else e
  let tiny := e1 < f.emin
  let enc : Int := (lsb - lmin) * 2 ^ f.fb + q
  let sb := if sign then f.signBit else 0
  if enc ≥ f.inf then
    let toInf := mode = mRNE ∨ mode = mSR ∨ (mode = mRUP ∧ ¬ sign) ∨ (mode = mRDN ∧ sign)
    ⟨sb + (if toInf then f.inf else f.inf - 1), flOF ||| flNX⟩
  else
    ⟨sb + enc.toNat, if inex then (if tiny then flNX ||| flUF else flNX) else 0⟩

/-- One rounding of any exact value; a zero keeps the given sign. -/
def roundTo (f : Fmt) (mode : Nat) (sign : Bool) (mant : Nat) (exp : Int) (sticky : Bool) (r : Nat) : FRes :=
  if mant = 0 then ⟨if sign then f.signBit else 0, 0⟩ else roundNZ f mode sign mant exp sticky r

/-- A NaN operand as a result: quietened, payload kept (R38). -/
def quiet (f : Fmt) (x : Nat) : Nat := x ||| 2 ^ (f.fb - 1)

/-- Invalid, when any operand is a signalling NaN (R38). -/
def snanFl (us : List Unp) : Flg := if us.any (·.cls == .snan) then flNV else 0

/-- The result of an operation with a NaN among its operands: the first NaN in operand order (R38). -/
def nanRes (f : Fmt) (xs : List Nat) : FRes :=
  let fl := snanFl (xs.map (unpack f))
  match xs.find? (fun x => (unpack f x).isNan) with
  | some x => ⟨quiet f x, fl⟩
  | none => ⟨f.qnan, fl⟩

def anyNan (f : Fmt) (xs : List Nat) : Bool := xs.any (fun x => (unpack f x).isNan)

/-- The sum of two signed values at a common exponent, rounded once; an exact zero sum of unlike signs is +0, or −0
under RDN (IEEE 754-2019, R34). -/
def sumRes (f : Fmt) (mode : Nat) (a : Int) (ea : Int) (sa : Bool) (b : Int) (eb : Int) (sb : Bool) (r : Nat) : FRes :=
  let e := min ea eb
  let t : Int := a * 2 ^ (ea - e).toNat + b * 2 ^ (eb - e).toNat
  if t = 0 then
    ⟨if sa == sb then (if sa then f.signBit else 0) else if mode = mRDN then f.signBit else 0, 0⟩
  else roundNZ f mode (t < 0) t.natAbs e false r

def fpAdd (f : Fmt) (mode : Nat) (x y : Nat) (r : Nat) : FRes :=
  let a := unpack f x
  let b := unpack f y
  if anyNan f [x, y] then nanRes f [x, y]
  else if a.cls = .inf then
    if b.cls = .inf ∧ a.sign ≠ b.sign then ⟨f.qnan, flNV⟩ else ⟨x, 0⟩
  else if b.cls = .inf then ⟨y, 0⟩
  else if a.cls = .zero ∧ b.cls = .zero then sumRes f mode 0 0 a.sign 0 0 b.sign r
  else if a.cls = .zero then roundTo f mode b.sign b.mant b.exp false r
  else if b.cls = .zero then roundTo f mode a.sign a.mant a.exp false r
  else sumRes f mode a.int a.exp a.sign b.int b.exp b.sign r

/-- The datum with its sign reversed. -/
def fpNeg (f : Fmt) (x : Nat) : Nat := if x / f.signBit % 2 = 1 then x - f.signBit else x + f.signBit

/-- Subtraction: a NaN operand is returned as it stands (R38), so the sign of `y` turns only for a number. -/
def fpSub (f : Fmt) (mode : Nat) (x y : Nat) (r : Nat) : FRes :=
  if anyNan f [x, y] then nanRes f [x, y] else fpAdd f mode x (fpNeg f y) r

def fpMul (f : Fmt) (mode : Nat) (x y : Nat) (r : Nat) : FRes :=
  let a := unpack f x
  let b := unpack f y
  let sg := a.sign ^^ b.sign
  if anyNan f [x, y] then nanRes f [x, y]
  else if a.cls = .inf ∨ b.cls = .inf then
    if a.cls = .zero ∨ b.cls = .zero then ⟨f.qnan, flNV⟩
    else ⟨(if sg then f.signBit else 0) + f.inf, 0⟩
  else roundTo f mode sg (a.mant * b.mant) (a.exp + b.exp) false r

/-- Fused multiply-add `±(x × y) ± z`, one rounding; infinity times zero plus a quiet NaN is invalid and gives the
addend (R38). `np`, `na` reverse the product and the addend. -/
def fpFma (f : Fmt) (mode : Nat) (np na : Bool) (x y z : Nat) (r : Nat) : FRes :=
  let a := unpack f x
  let b := unpack f y
  let c := unpack f z
  let sp := a.sign ^^ b.sign ^^ np
  let sc := c.sign ^^ na
  let bad := (a.cls = .inf ∧ b.cls = .zero) ∨ (a.cls = .zero ∧ b.cls = .inf)
  if anyNan f [x, y, z] then
    let n := nanRes f [x, y, z]
    ⟨n.bits, if bad then n.fl ||| flNV else n.fl⟩
  else if bad then ⟨f.qnan, flNV⟩
  else if a.cls = .inf ∨ b.cls = .inf then
    if c.cls = .inf ∧ sc ≠ sp then ⟨f.qnan, flNV⟩ else ⟨(if sp then f.signBit else 0) + f.inf, 0⟩
  else if c.cls = .inf then ⟨(if sc then f.signBit else 0) + f.inf, 0⟩
  else
    let pm := a.mant * b.mant
    if pm = 0 ∧ c.mant = 0 then sumRes f mode 0 0 sp 0 0 sc r
    else if pm = 0 then roundTo f mode sc c.mant c.exp false r
    else if c.mant = 0 then roundTo f mode sp pm (a.exp + b.exp) false r
    else
      sumRes f mode (if sp then -(pm : Int) else pm) (a.exp + b.exp) sp
        (if sc then -(c.mant : Int) else c.mant) c.exp sc r

/-- Division; the quotient is formed with 80 bits beyond the divisor's and a sticky remainder. -/
def fpDiv (f : Fmt) (mode : Nat) (x y : Nat) (r : Nat) : FRes :=
  let a := unpack f x
  let b := unpack f y
  let sg := a.sign ^^ b.sign
  let sb := if sg then f.signBit else 0
  if anyNan f [x, y] then nanRes f [x, y]
  else if a.cls = .inf then
    if b.cls = .inf then ⟨f.qnan, flNV⟩ else ⟨sb + f.inf, 0⟩
  else if b.cls = .inf then ⟨sb, 0⟩
  else if b.cls = .zero then
    if a.cls = .zero then ⟨f.qnan, flNV⟩ else ⟨sb + f.inf, flDZ⟩
  else
    let n := a.mant * 2 ^ 140
    roundTo f mode sg (n / b.mant) (a.exp - b.exp - 140) (n % b.mant != 0) r

/-- Integer square root by bits, from bit `k` down. -/
def isqrtFrom (n : Nat) : Nat → Nat → Nat
  | 0, acc => acc
  | k + 1, acc =>
    let t := acc + 2 ^ k
    if t * t ≤ n then isqrtFrom n k t else isqrtFrom n k acc

def isqrt (n : Nat) : Nat := isqrtFrom n (n.log2 / 2 + 1) 0

def fpSqrt (f : Fmt) (mode : Nat) (x : Nat) (r : Nat) : FRes :=
  let a := unpack f x
  if a.isNan then nanRes f [x]
  else if a.cls = .zero then ⟨x, 0⟩
  else if a.sign then ⟨f.qnan, flNV⟩
  else if a.cls = .inf then ⟨x, 0⟩
  else
    let odd := a.exp % 2 = 1
    let m := (if odd then a.mant * 2 else a.mant) * 2 ^ 160
    let e := ((if odd then a.exp - 1 else a.exp) - 160) / 2
    let q := isqrt m
    roundTo f mode false q e (q * q != m) r

/-- The order of two data that are not NaN; −0 equals +0. -/
def fpLt (f : Fmt) (x y : Nat) : Bool :=
  let key (z : Nat) : Int := if z / f.signBit % 2 = 1 then -((z % f.signBit : Nat) : Int) else (z % f.signBit : Nat)
  key x < key y

def fpEqv (f : Fmt) (x y : Nat) : Bool :=
  !fpLt f x y && !fpLt f y x

/-- IEEE 754-2019 minimum and maximum, −0 below +0 (Table 6.4); with `num`, minimumNumber and maximumNumber. -/
def fpMinMax (f : Fmt) (mx num : Bool) (x y : Nat) : FRes :=
  let a := unpack f x
  let b := unpack f y
  let fl := snanFl [a, b]
  if num ∧ a.isNan ∧ ¬ b.isNan then ⟨y, fl⟩
  else if num ∧ b.isNan ∧ ¬ a.isNan then ⟨x, fl⟩
  else if a.isNan ∨ b.isNan then nanRes f [x, y]
  else
    let less := fpLt f x y || (fpEqv f x y && a.sign && !b.sign)
    ⟨if less != mx then x else y, 0⟩

/-- Comparison conditions: equal, less, less or equal, unordered; `sig` signals invalid on any NaN (Table 6.4, R216). -/
inductive FCmp where
  | eq | ne | lt | le | un
  deriving DecidableEq, Repr

def fpCmp (f : Fmt) (c : FCmp) (sig : Bool) (x y : Nat) : Bool × Flg :=
  let un := anyNan f [x, y]
  let fl := if un && sig then flNV else snanFl [unpack f x, unpack f y]
  let res := match c with
    | .eq => !un && fpEqv f x y
    | .ne => un || !fpEqv f x y
    | .lt => !un && fpLt f x y
    | .le => !un && !fpLt f y x
    | .un => un
  (res, fl)

/-- The class mask of `fclass` (Table 6.4). -/
def fpClass (f : Fmt) (x : Nat) : Nat :=
  let u := unpack f x
  let sub := u.cls == .fin && x / 2 ^ f.fb % 2 ^ f.eb == 0
  match u.cls, u.sign with
  | .snan, _ => 1
  | .qnan, _ => 2
  | .inf, false => 4
  | .inf, true => 512
  | .zero, false => 32
  | .zero, true => 64
  | .fin, false => if sub then 16 else 8
  | .fin, true => if sub then 128 else 256

/-- A NaN carried to another format: sign kept, quiet, payload cut or extended below; a payload cut to nothing gives the
canonical quiet NaN (R39). Between binary16 and bfloat16 the one with the shorter fraction is the narrower (DESIGN CHOICE, log
entry 89). -/
def nanConv (src dst : Fmt) (x : Nat) : FRes :=
  let u := unpack src x
  let sp := src.fb - 1
  let dp := dst.fb - 1
  let pay := if dp < sp then u.mant / 2 ^ (sp - dp) else u.mant * 2 ^ (dp - sp)
  let fl := snanFl [u]
  if dp < sp ∧ pay = 0 then ⟨dst.qnan, fl⟩
  else ⟨(if u.sign then dst.signBit else 0) + dst.qnan + pay, fl⟩

/-- Conversion between floating-point formats, one rounding (Table 2.10). -/
def fpConv (src dst : Fmt) (mode : Nat) (x : Nat) (r : Nat) : FRes :=
  let u := unpack src x
  if u.isNan then nanConv src dst x
  else if u.cls = .inf then ⟨(if u.sign then dst.signBit else 0) + dst.inf, 0⟩
  else roundTo dst mode u.sign u.mant u.exp false r

/-- Integer types by their codes of Table 6.8: width and signedness. -/
def intWidth (code : Nat) : Nat := if code = 4 ∨ code = 5 then 32 else 64
def intSigned (code : Nat) : Bool := code = 4 || code = 6

/-- Conversion to an integer type, range judged on the rounded value (R226). -/
def fpToInt (src : Fmt) (mode : Nat) (ty : Nat) (x : Nat) (r : Nat) : FRes :=
  let u := unpack src x
  let w := intWidth ty
  let hi : Int := if intSigned ty then 2 ^ (w - 1) - 1 else 2 ^ w - 1
  let lo : Int := if intSigned ty then -(2 ^ (w - 1)) else 0
  let enc (v : Int) : Nat := (v % 2 ^ w).toNat
  if u.isNan then ⟨0, flNV⟩
  else if u.cls = .inf then ⟨enc (if u.sign then lo else hi), flNV⟩
  else
    let (q, inex) := roundAt mode u.sign u.mant u.exp false r 0
    let v : Int := if u.sign then -(q : Int) else q
    if v > hi then ⟨enc hi, flNV⟩
    else if v < lo then ⟨enc lo, flNV⟩
    else ⟨enc v, if inex then flNX else 0⟩

/-- Conversion from an integer type (R227). -/
def intToFp (dst : Fmt) (mode : Nat) (ty : Nat) (x : Nat) (r : Nat) : FRes :=
  let w := intWidth ty
  let n := x % 2 ^ w
  let v : Int := if intSigned ty ∧ n ≥ 2 ^ (w - 1) then (n : Int) - 2 ^ w else n
  roundTo dst mode (v < 0) v.natAbs 0 false r

/-- The rounding generator's mixing function (R45). -/
def mix (z : Word) : Word :=
  let a := (z ^^^ (z >>> 31)) * 0xD6E8FEB86659FD93#64
  let b := (a ^^^ (a >>> 29)) * 0xA5A3564E27F886D3#64
  b ^^^ (b >>> 32)

/-- One draw of the rounding generator at a counter value (R45); the caller advances the counter. -/
def srDraw (jobSeed : Word) (unitId : Nat) (step : Nat) (ctr : Word) : Nat :=
  let k := mix (jobSeed ^^^ (BitVec.ofNat 64 unitId * 0x9E6C63D0676A9A99#64))
  let c := mix (k ^^^ BitVec.ofNat 64 step)
  ((mix (c + ctr)) >>> 48).toNat

/-- mod-65,535 residue of `m × 2^e` (15: Residue checking). -/
def resOf (m : Int) (e : Int) : Nat :=
  ((m % 65535).toNat * 2 ^ (e % 16).toNat) % 65535

end Sys2Proof.Machine
end

