-- ==== Sys2Proof/Machine/State.lean ====
section
/-! DEFINITION. The state of the Krytea W56 as plain data, the reasons a step can stop, and the state at reset.
Registers, tables and memory are sparse tables (`Tbl`) whose unlisted entries hold the default that the accessor names. -/

namespace Sys2Proof.Machine

open Sys2Proof

/-- An SSB-32 block (R64): shared exponent, 32 significands, the flush and combined bits, and the residue carried. -/
structure Block where
  e     : Nat
  sig   : List Int
  flush : Bool
  comb  : Bool
  res   : Nat
  deriving DecidableEq, Repr

/-- One stationary latch of an array (R93 to R96, R130 to R134): format, whether it holds a T24 pair, the values by logical
row and column (none where a T24 pattern marks no value), the checksum residues by row, and the violating groups. -/
structure Latch where
  fmt    : Nat
  t24    : Bool
  vals   : List (List (Option Nat))
  chk    : List Nat
  vgroups : Nat
  deriving DecidableEq, Repr

/-- What the checks at issue know of a latch in program order (R101, R236, R238): its format, whether it is a T24 pair,
whether its tile has a header, and that header's MAXEXP (none for 0x8000). -/
structure LatchInfo where
  fmt : Nat
  t24 : Bool
  hdr : Bool
  maxexp : Option Int
  deriving DecidableEq, Repr

/-- One output register of an array with the facts tracked beside it (R54 to R62, R117, R650). `reg` is in units of the
register's bit 0, `disc` the discard residue, `cnt` the products taken. -/
structure Cell where
  reg   : Int
  nan   : Bool
  pinf  : Bool
  ninf  : Bool
  wloss : Bool
  nzero : Bool
  ovr  : Bool
  disc  : Nat
  cnt   : Nat
  deriving DecidableEq, Repr

/-- A register that has taken no product. -/
def Cell.fresh : Cell := ⟨0, false, false, false, false, true, false, 0, 0⟩

/-- What a drain has gathered for the tile header it will write (R99, R100). -/
structure TileStat where
  maxexp : Option Int
  nonfin : Bool
  ovf    : Bool
  wloss  : Bool
  cancel : Bool
  poison : Bool
  deriving DecidableEq, Repr

def TileStat.fresh : TileStat := ⟨none, false, false, false, false, false⟩

/-- The kinds of instruction an array performs in order (R236 to R241); `swap` is a token not yet attached (R93). -/
inductive ArrKind where
  | swap | pass | acc | drain | diag
  deriving DecidableEq, Repr

/-- An array instruction issued and not yet finished, with what it read at issue (R50, R160, R259): descriptors, counts, the
window top (none for exact), the source formats of its operands by block of 128 vectors, its format and output format, the
drain's mode, seed, step and counter, the tag, the drain range bound (0 = none), and how far it has come. -/
structure ArrOp where
  kind : ArrKind
  d1   : Desc
  d2   : Desc
  d3   : Desc
  d4   : Desc
  n    : Nat
  k    : Nat
  top  : Option Int
  cin  : Bool
  raw  : Bool
  gm   : Bool
  add  : Bool
  src1 : List Nat
  src2 : List Nat
  src4 : List Nat
  fmt  : Nat
  out  : Nat
  f16  : Bool
  mode : Nat
  seed : Word
  step : Nat
  ctr  : Word
  tag  : Option Nat
  inSpan : Bool
  gword : Word
  block : Word
  bound : Nat
  fail : Bool
  pos  : Nat
  stat : TileStat
  cancels : Nat
  resBad : Bool
  /-- zero blocks of an `adrain` waiting to leave as one run (R289) -/
  zrun : Nat
  deriving DecidableEq, Repr

/-- An `aload` issued and not yet captured; `ahead` counts the earlier swaps that have not attached (R96). `src` is the
format of the stored elements (R260). -/
structure LoadReq where
  desc  : Desc
  tr    : Bool
  src   : List Nat
  fmt   : Nat
  tag   : Nat
  inSpan : Bool
  ahead : Nat
  fail  : Bool
  deriving DecidableEq, Repr

/-- One matrix array (03_matrix_arrays). `act` is the latch in use: false = A. `infoAct` and `infoIdle` follow the program
order of issue. `acc` holds the accumulate-in-place registers by row (empty: none live) and `accZ` the checksum cells. -/
structure Arr where
  latA  : Latch
  latB  : Latch
  act   : Bool
  infoAct  : LatchInfo
  infoIdle : LatchInfo
  ops   : List ArrOp
  loads : List LoadReq
  acc   : List (List Cell)
  accZ  : List Nat
  accFmt : Nat
  accTop : Option Int
  accFail : Bool
  accLive : Bool
  split : Option (Nat × Nat)
  suspect : Bool
  vgroups : Nat
  lastv : Nat
  deriving DecidableEq, Repr

/-- A cleared latch: binary16 zeros (R124). -/
def Latch.empty : Latch := ⟨0, false, [], [], 0⟩

def Arr.reset : Arr :=
  { latA := Latch.empty, latB := Latch.empty, act := false, infoAct := ⟨0, false, false, none⟩,
    infoIdle := ⟨0, false, false, none⟩, ops := [], loads := [], acc := [], accZ := [], accFmt := 0, accTop := none,
    accFail := false, accLive := false, split := none, suspect := false, vgroups := 0, lastv := 0 }

/-- An open replay span (R255): its identifier, the saved span format, the address of its `span.begin`, whether this
execution is a replay, and the stream and range words. -/
structure Span where
  id     : Nat
  savedNf : Bool
  pc     : Word
  replay : Bool
  stream : Word
  range  : Word
  deriving DecidableEq, Repr

/-- The registers of a core or of a profile unit (R163, R164, R261) and its two arrays (a profile unit uses none). -/
structure Proc where
  run    : Bool
  pc     : Word
  s      : Tbl Word
  v      : Tbl VReg
  p      : Tbl Word
  d      : Tbl Desc
  tvec   : Word
  tepc   : Word
  tval   : Word
  cause  : Nat
  sub    : Nat
  slot   : Bool
  intrap : Bool
  halted : Bool
  lateerr : Bool
  tags   : Tbl Nat
  tagErr : BitVec 32
  nround : BitVec 3
  nflags : BitVec 5
  seedJob : Word
  seedStep : BitVec 48
  ctrS   : Word
  ctrV   : Word
  ctrA0  : Word
  ctrA1  : Word
  nf     : Bool
  span   : Option Span
  replayNext : Bool
  vthr   : BitVec 14
  vevent : Bool
  /-- the barrier entered and not yet released: BID and SCOPE (R248) -/
  inBar  : Option (Nat × Bool)
  a0     : Arr
  a1     : Arr
  /-- work-clock cycles of the polder at this core's last reset (`CYCLE`, Table 5.4) -/
  cyc0   : Nat
  deriving DecidableEq, Repr

/-- A core or unit as a power-on, module or job reset leaves it (R163, R51, R153). -/
def Proc.reset : Proc :=
  { run := false, pc := 0, s := [], v := [], p := [], d := [], tvec := 0, tepc := 0, tval := 0, cause := 0, sub := 0,
    slot := false, intrap := false, halted := false, lateerr := false, tags := [], tagErr := 0, nround := 0,
    nflags := 0, seedJob := 0, seedStep := 0, ctrS := 0, ctrV := 0, ctrA0 := 0, ctrA1 := 0, nf := false, span := none,
    replayNext := false, vthr := 82, vevent := true, inBar := none, a0 := Arr.reset, a1 := Arr.reset,
    cyc0 := 0 }

/-- A report of a drain, loader or pruning unit on its way to the cluster's Weir aggregator (R367, Table 11.1). `n`
counts the outputs it stands for. -/
inductive RepKind where
  | overflow (follow16 : Bool) (fmt : Nat)
  | nonfinite
  | range (bound value : Nat)
  | cancel (n : Nat)
  | wloss
  deriving DecidableEq, Repr

/-- A report, the core and array it comes from, and whether an open span of that core was its execution. -/
structure Report where
  core : Nat
  arr  : Nat
  inSpan : Bool
  kind : RepKind
  deriving DecidableEq, Repr

/-- What the aggregator holds of one core's open execution (R369, R649): poison called for, the array whose report calls for
a replay, cancelled outputs of a0 and a1, outputs with window loss, whether it began with NF = 1, and whether its `span.end`
waits for the verdict. -/
structure Exec where
  poison : Bool
  replay : Option Nat
  can0   : Nat
  can1   : Nat
  wloss  : Nat
  nf     : Bool
  ended  : Bool
  deriving DecidableEq, Repr

def Exec.fresh : Exec := ⟨false, none, 0, 0, 0, false, false⟩

/-- A span state entry (Table 11.2). -/
structure SpanEnt where
  replayed : Bool
  lastrep  : Bool
  wide     : Bool
  sticky   : Bool
  repcnt   : Nat
  deriving DecidableEq, Repr

def SpanEnt.fresh : SpanEnt := ⟨false, false, false, false, 0⟩

/-- A request of the pruning unit (R145): the issuing core, the form, its operands and its tag. -/
structure PruneReq where
  core : Nat
  form : Nat
  src  : Desc
  dst  : Desc
  fmt  : Nat
  nf   : Bool
  tag  : Nat
  inSpan : Bool
  deriving DecidableEq, Repr

/-- A cluster beside its cores and its pond: core map (R155), Weir aggregator, pruning unit, scrub position, and
counters. -/
structure Cluster where
  coreMap : List Nat
  spare   : Option Nat
  spans   : Tbl SpanEnt
  execs   : Tbl Exec
  reports : List Report
  prune   : List PruneReq
  scrub   : Nat
  phase   : Bool
  cnt     : Tbl Word
  sel     : Tbl Word
  deriving DecidableEq, Repr

def Cluster.reset : Cluster :=
  ⟨[0, 1, 2, 3, 4, 5, 6, 7], some 8, [], [], [], [], 0, false, [], []⟩

/-- The packet kinds of Table 8.4; `other` is an opcode that the table does not list. -/
inductive PKind where
  | rd | wr | amo | ctl | mc | gblk | grun | xt | rdr | wack | amor | mack | other (opc : Nat)
  deriving DecidableEq, Repr

/-- What a control packet says (Table 8.4, R317). -/
inductive CtlMsg where
  | restream (spring wave step cluster core : Nat)
  | release (spring wave step cluster : Nat)
  /-- an ACK or UNIT message on its way to a unit (R431), or the message that an `XT` packet carries (R432) -/
  | message (m : Message)
  | none
  deriving DecidableEq, Repr

/-- A packet in flight: header fields of Table 8.3, where it stands, the port it came in by, the output it waits at, and
its payload. Nodes are node numbers (R268). `esc` is the channel it leaves by, `bufEsc` the channel of the input buffer it stands
in (R275, R279), `arr` its place in the order of arrivals at its node, `branches` the outputs that a class-3 packet has still to
take (none before its node has looked at it). `acks` names the messages of other engines that a gradient block came in. -/
structure Packet where
  kind : PKind
  cls  : Nat
  src  : Nat
  dst  : Nat
  loc  : Nat
  inp  : Nat
  out  : Option Nat
  esc  : Bool
  bufEsc : Bool
  arr  : Nat
  branches : Option (List Nat)
  held : Bool
  status : Nat
  tid  : Nat
  addr : Word
  size : Nat
  data : List Byte
  /-- bytes among those of a vector access that belong to inactive elements and are neither read nor written (R221) -/
  gaps : List Nat
  gtag : Nat
  block : Nat
  cnt  : Nat
  slu  : Nat
  ue   : Bool
  step : Nat
  nrun : Nat
  blk  : Block
  ctl  : CtlMsg
  op   : Nat
  group : Nat
  acks : List Nat
  deriving DecidableEq, Repr

/-- What an initiator waits for, and what it does with the answer (R160, R178, R283). -/
inductive ReqKind where
  | load (rd fn3 : Nat)
  | vload (vd esz : Nat) (mask : Word) (bcast : Bool)
  | dload (dd : Nat)
  | store
  | amo (rd : Nat)
  /-- part of a transfer: where the read data goes -/
  | xferRd (x : Nat) (dst : Word)
  | xferWr (x : Nat)
  | mcast (x : Nat)
  /-- a write of a converted message or of a re-stream, by its transfer -/
  | msgWr (x : Nat)
  /-- a gradient packet handed to an update engine, or a message to another engine, by its transfer: no class-1 request -/
  | ueWr (x : Nat)
  deriving DecidableEq, Repr

/-- An outstanding request: its identifier, the initiator's unit key and node, and the address. -/
structure Req where
  tid  : Nat
  owner : Nat
  node : Nat
  addr : Word
  kind : ReqKind
  deriving DecidableEq, Repr

/-- What is done when every part of a transfer is done. -/
inductive XferEnd where
  /-- the tag of a core or unit completes (R178) -/
  | tag (t : Nat)
  /-- the next phase of a Spring's wave (R307) -/
  | wave (sp : Nat)
  /-- the next phase of a re-stream (R318) -/
  | restream (sp : Nat)
  /-- a write message of a light port is acknowledged (R433) -/
  | message (port : Nat) (src dunit sunit msgid status : Nat)
  /-- the blocks of an armed gradient tag (R344) -/
  | grad (sl : Nat) (gtag step : Nat)
  /-- one exchange of an all-gather (Table 10.6) -/
  | gather (ue shard step peer : Nat)
  /-- the Warden's vote report or result block to a coordinate (R461, R464) -/
  | report (step : Nat)
  deriving DecidableEq, Repr

/-- A transfer in parts (R178, R242). `left` counts parts whose answer is out, `srcLeft` those whose source is not yet read
(R181); `buf` holds the bytes read, by destination, until every part is there (Table 5.7). -/
structure Xfer where
  id    : Nat
  owner : Nat
  fin   : XferEnd
  left  : Nat
  srcLeft : Nat
  err   : Bool
  dma   : Bool
  buf   : List (Word × List Byte)
  deriving DecidableEq, Repr

/-- One node of a multicast's tree while its acknowledgements are out (R286). `up` is none at the root. -/
structure McNode where
  mc   : Nat
  node : Nat
  up   : Option Nat
  left : Nat
  bad  : Bool
  deriving DecidableEq, Repr

/-- A multicast that the root has admitted: its identifier, group, root and sender. -/
structure Mcast where
  mc    : Nat
  group : Nat
  root  : Nat
  sender : Nat
  tid   : Nat
  deriving DecidableEq, Repr

/-- A flit that a lane has sent (R272): the packet as it stood before it left, which of its flits it is, and its number on the
lane. -/
structure SentFlit where
  pkt : Packet
  idx : Nat
  no  : Nat
  deriving DecidableEq, Repr

/-- The grants of an output (R276, R277): the lane whose grant is next, the place in the repeating sequence, and for each class the
input whose turn is next. -/
structure OutArb where
  lane : Nat
  pos  : Nat
  turn : Tbl Nat
  deriving DecidableEq, Repr

def OutArb.reset : OutArb := ⟨0, 0, []⟩

/-- A router's registers (Tables 8.6 to 8.9), its rounding unit (R46, R48), the grants of its outputs, and by lane its last 16 flits,
the times of its replays and the flit that failed last with its failed replays (R272). Unicast entries are the 16 bits of Table 8.8,
multicast entries the 64 bits of Table 8.9. -/
structure Node where
  mode    : Bool
  escwait : Nat
  hold    : Nat
  linkFail : BitVec 8
  /-- ports whose link has failed, whatever `RTSTAT` shows after a job reset -/
  dead    : BitVec 8
  drops   : Nat
  combines : Nat
  uni     : Tbl (BitVec 16)
  multi   : Tbl Word
  seed    : Word
  step    : BitVec 48
  ctr     : Word
  replays : Tbl (List Nat)
  arb     : Tbl OutArb
  sent    : Tbl (List SentFlit)
  failed  : Tbl (Nat × Nat)
  /-- packets that have arrived at the node -/
  arrived : Nat
  deriving DecidableEq, Repr

def Node.reset : Node := ⟨false, 32, 0, 0, 0, 0, 0, [], [], 0, 0, 0, [], [], [], [], 0⟩

/-- A Spring's group entry (Table 9.5) with its gate word address (Table 9.6). -/
structure SprGrp where
  group    : Nat
  throttle : Nat
  consumers : Nat
  rploff   : Nat
  gate     : Word
  deriving DecidableEq, Repr

/-- The order of a wave's work (R307); `stopped` delivers nothing more (R308). -/
inductive WavePhase where
  | gate | seal | tiles | hdrs | flag | stopped
  deriving DecidableEq, Repr

/-- A wave in flight (R307): what `wave` named, the phase, the shards checked, the tiles sent, its transfer, and the headers
of the tiles sent (R309). -/
structure Wave where
  desc   : Desc
  group  : Nat
  wave   : Nat
  gatemin : Nat
  off    : Nat
  step   : Nat
  tag    : Nat
  phase  : WavePhase
  shardsDone : Nat
  sent   : Nat
  xfer   : Nat
  hdrs   : List Byte
  deriving DecidableEq, Repr

/-- A completed wave in the log (R313). -/
structure WaveLog where
  wave  : Nat
  step  : Nat
  group : Nat
  desc  : Desc
  off   : Nat
  deriving DecidableEq, Repr

/-- A re-stream request (R317). -/
structure RsReq where
  wave    : Nat
  step    : Nat
  cluster : Nat
  core    : Nat
  deriving DecidableEq, Repr

/-- A re-stream in service (R320): the wave's source and buffer as the log gave them, releases awaited, its transfer, and whether
the flag write is out. -/
structure RsServ where
  wave    : Nat
  step    : Nat
  cluster : Nat
  group   : Nat
  desc    : Desc
  off     : Nat
  releases : Nat
  xfer    : Nat
  flagOut : Bool
  done    : Bool
  deriving DecidableEq, Repr

/-- A Spring (09_weight_streaming). -/
structure Spring where
  grps     : Tbl SprGrp
  waves    : List Wave
  log      : List WaveLog
  rsQ      : List RsReq
  rs       : List RsServ
  lastWave : Nat
  restreams : Nat
  deriving DecidableEq, Repr

def Spring.reset : Spring := ⟨[], [], [], [], [], 0, 0⟩

/-- How an open tag is armed (R344). -/
inductive Arm where
  | none
  | gsend (peer : Nat) (slu : Nat)
  | ghand (stack : Nat)
  deriving DecidableEq, Repr

/-- An open gradient tag (R336, R341): its step, block count and base, contributions that complete a block, region, arming,
completion tag, entries not yet sent, its transfer, and whether it has stalled. -/
structure OpenTag where
  gtag  : Nat
  step  : Nat
  nb    : Nat
  pb    : Nat
  total : Nat
  base  : Word
  arm   : Arm
  tag   : Nat
  unsent : Nat
  xfer  : Nat
  stalled : Bool
  deriving DecidableEq, Repr

/-- A layer's statistics in a Sluice (Table 11.3, Table 2.8). -/
structure LayerStat where
  zero   : Nat
  handed : Nat
  maxexp : Nat
  flush  : Nat
  deriving DecidableEq, Repr

def LayerStat.fresh : LayerStat := ⟨0, 0, 0, 0⟩

/-- A Sluice (10_gradients_and_update). -/
structure Sluice where
  stallUs : Nat
  done    : BitVec 48
  doneblk : Nat
  tags    : List OpenTag
  layers  : Tbl LayerStat
  deriving DecidableEq, Repr

def Sluice.reset : Sluice := ⟨20000, 0, 0, [], []⟩

/-- An entry of an update engine's shard table (R334). -/
structure UeShard where
  shard : Nat
  owned : Bool
  head  : Word
  state : Word
  sealAt : Word
  nblk  : Nat
  deriving DecidableEq, Repr

/-- The inbox counters of an owned shard (R350). -/
structure Inbox where
  count : Nat
  sum   : Nat
  step  : Nat
  deriving DecidableEq, Repr

def Inbox.fresh : Inbox := ⟨0, 0, 0⟩

/-- The owner's exchange with one replica (Table 10.6): 0 = open sent, 1 = heads out, 2 = close sent, 3 = acknowledged with the
replica's digest. -/
structure Gather where
  shard : Nat
  step  : Nat
  peer  : Nat
  stage : Nat
  digest : Nat
  deriving DecidableEq, Repr

/-- A `useal` that waits (R359): the field, the step, the new scale, and its operands' shard. -/
structure WaitSeal where
  shard : Nat
  field : Nat
  rc    : Word
  deriving DecidableEq, Repr

/-- An update engine (10_gradients_and_update). `digs` names the head step for which `udig` wrote a shard's digest, plus one;
`compared` and `mis` are what the digests of the gather-acks showed (R462). -/
structure UpEng where
  shards  : List UeShard
  inbox   : Tbl Inbox
  inboxBase : Word
  commit  : BitVec 48
  valid   : Bool
  vpoison : Bool
  ummax   : BitVec 32
  msat    : Nat
  waiting : Option WaitSeal
  gathers : List Gather
  digs    : Tbl Nat
  compared : Nat
  mis     : List (Nat × Nat × Bool × Nat)
  deriving DecidableEq, Repr

def UpEng.reset : UpEng := ⟨[], [], 0, 0, false, false, 0, 0, none, [], [], 0, []⟩

/-- A polder's barrier node (R292 to R296): expected and counted arrivals by BID, those already sent up or completed, poison, and of
the down frame: releases and step-number thirds (DSEL, DATA) to hand down, the step number received, and FENCE. -/
structure BarNode where
  expect : Tbl Nat
  count  : Tbl Nat
  sentUp : BitVec 16
  rel    : BitVec 16
  poison : Bool
  data   : List (Nat × BitVec 16)
  stepNo : BitVec 48
  fence  : Bool
  deriving DecidableEq, Repr

def BarNode.reset : BarNode := ⟨[], [], 0, 0, false, [], 0, false⟩

/-- An event record before the recorder stamps it (R611): code, source polder, unit identity, payload items as (bytes, value). -/
structure Event where
  code : Nat
  src  : Nat
  unit : Nat
  pay  : List (Nat × Nat)
  /-- the job, its step and the wall clock when it occurred -/
  job  : Nat
  step : Nat
  time : Nat
  deriving DecidableEq, Repr

/-- An integrity detection on its way to the Warden (R484): event code, polder and unit of the reporter, the address of the data at
fault where there is one, and the mechanism of Table 15.1. -/
structure Det where
  code : Nat
  src  : Nat
  unit : Nat
  addr : Option Nat
  mech : Nat
  deriving DecidableEq, Repr

/-- An array's entry of the repair map (R120 to R123): in service, the replaced row, and whether the spare is unusable. -/
structure ArrMap where
  insvc    : Bool
  failrow  : Option Nat
  sparebad : Bool
  deriving DecidableEq, Repr

def ArrMap.good : ArrMap := ⟨true, none, false⟩

/-- A stack controller: patrol position, its counts of uncorrectable accesses, and whether the stack has failed since the
last restart (R391, R393). -/
structure Stack where
  patrol : Nat
  passes : Nat
  unc    : Nat
  rows   : List (Nat × Nat)
  failed : Bool
  deriving DecidableEq, Repr

def Stack.reset : Stack := ⟨0, 0, 0, [], false⟩

/-- A flash command's end, before its completion record is performed (R405). -/
structure FlDone where
  ctag   : Nat
  status : Nat
  bytes  : Nat
  addr   : Word
  deriving DecidableEq, Repr

/-- A queue of the flash-store command window (R403). -/
structure FlQueue where
  head : Nat
  tail : Nat
  done : List FlDone
  deriving DecidableEq, Repr

/-- The flash store beside its blocks: channels, queues, generations (R415), keys of blocks (R402), wear, manifests. -/
structure Flash where
  chup    : BitVec 16
  queues  : Tbl FlQueue
  keys    : Tbl (BitVec 512)
  coldGen : Nat
  saved   : List Host.Cell
  savedBlks : List Nat
  /-- blocks trimmed and not written since, by block key -/
  trimmed : List Nat
  teeStep : Option Nat
  teeBegun : Bool
  curSlot : Bool
  curValid : Bool
  curStep : Nat
  seq     : Nat
  /-- sequence numbers of manifests whose slot a restore found unusable (R484) -/
  dead    : List Nat
  life    : Nat
  freeBlk : Nat
  deriving DecidableEq, Repr

def Flash.reset : Flash := ⟨0, [], [], 0, [], [], [], none, false, false, false, 0, 0, [], 0, 0⟩

/-- A polder: its status array entry (Tables 16.5, 16.6), thermal controller (R506, R507), dikes (R510, R512) and power
controller figures (Table 17.7). Temperatures are in 0.125 degrees. `hot`, `vhot`, `cool`, `held` count 10 us samples. -/
structure Polder where
  state  : Nat
  lost   : Bool
  cause  : Nat
  div    : Nat
  shutReq : Bool
  wakeReq : Bool
  restReq : Bool
  resetReq : Bool
  trips  : Nat
  steps  : Nat
  tmax   : Int
  tpeak  : Int
  slow   : Nat
  vout   : Nat
  iout   : Nat
  vtarget : Nat
  stepUp : Option Nat
  hot    : Nat
  vhot   : Nat
  cool   : Nat
  held   : Nat
  emTrips : Nat
  clamps : List Nat
  k      : Nat
  bal    : Nat
  phase  : Nat
  /-- the phase changed since the last allocation -/
  moved  : Bool
  hist   : Tbl Nat
  grant  : Nat
  est    : Nat
  /-- ac counted before `acRef`, the reference count at the last change of DIV -/
  acBase : Nat
  acRef  : Nat
  deriving DecidableEq, Repr

def Polder.reset : Polder :=
  { state := 0, lost := false, cause := 0, div := 4, shutReq := false, wakeReq := false, restReq := false,
    resetReq := false, trips := 0, steps := 0, tmax := 0, tpeak := 0, slow := 0, vout := 0, iout := 0, vtarget := 0,
    stepUp := none, hot := 0, vhot := 0, cool := 0, held := 0, emTrips := 0, clamps := [], k := 64, bal := 0,
    phase := 0, moved := false, hist := [], grant := 0, est := 0, acBase := 0, acRef := 0 }

/-- A light port (Tables 13.8 to 13.10) with its link layer (R421 to R427): groups and control cells sent and not yet
acknowledged, what is next in order, credits, and messages delivered and not yet converted. -/
structure LPort where
  state   : Nat
  bind    : Nat
  txSpare : BitVec 4
  rxSpare : BitVec 4
  laser   : Bool
  lock    : BitVec 9
  degraded : BitVec 9
  retries : Nat
  uncorr  : Nat
  drops   : Nat
  peer    : BitVec 55
  retrain : Bool
  egress  : List Message
  /-- cells of the first message of `egress` that have left -/
  sent    : Nat
  gseq    : BitVec 12
  unacked : List (Nat × List Message)
  resends : Nat
  rxNext  : BitVec 12
  nak     : Bool
  cseq    : BitVec 8
  ctlOut  : List CtlCell
  rxCseq  : BitVec 8
  cnak    : Bool
  used0   : BitVec 16
  used1   : BitVec 16
  cr0     : BitVec 16
  cr1     : BitVec 16
  freed0  : BitVec 16
  freed1  : BitVec 16
  ctlUsed : BitVec 8
  ctlCr   : BitVec 8
  ctlFreed : BitVec 8
  rxQ     : List Message
  transit0 : Nat
  transit1 : Nat
  /-- control resends, and the lanes' last logged pre-FEC symbol error ratios in units of 10^-7 -/
  ctlResends : Nat
  ser : List Nat
  deriving DecidableEq, Repr

def LPort.reset : LPort :=
  { state := 0, bind := 0, txSpare := 15, rxSpare := 15, laser := false, lock := 0, degraded := 0, retries := 0,
    uncorr := 0, drops := 0, peer := 0, retrain := false, egress := [], sent := 0, gseq := 0, unacked := [], resends := 0,
    rxNext := 0, nak := false, cseq := 0, ctlOut := [], rxCseq := 0, cnak := false, used0 := 0, used1 := 0, cr0 := 0,
    cr1 := 0, freed0 := 0, freed1 := 0, ctlUsed := 0, ctlCr := 0, ctlFreed := 0, rxQ := [], transit0 := 0,
    transit1 := 0, ctlResends := 0, ser := [] }

/-- A laser bay (Table 13.11). -/
structure Bay where
  present : Bool
  state   : Nat
  serves  : Nat
  power   : Nat
  off     : Bool
  /-- the latch is open -/
  opened  : Bool
  deriving DecidableEq, Repr

def Bay.reset : Bay := ⟨false, 0, 15, 0, false, false⟩

/-- A command being performed: the queue it came from, the command, and how far a transfer has come. -/
structure RunCmd where
  q    : Nat
  cmd  : HostCmd
  done : Nat
  deriving DecidableEq, Repr

/-- A completion formed and not yet posted (Table 18.6). A result or detail that the spec does not name is none: what it holds
is open. -/
structure Compl where
  q      : Nat
  cid    : BitVec 32
  status : Nat
  r0     : Option Nat
  r1     : Option Nat
  detail : Option Nat
  deriving DecidableEq, Repr

/-- A queue pair of a host port (Table 18.5, R561 to R564). `ring` are the commands announced and not yet fetched,
`cmds` those fetched and not yet started. -/
structure HQueue where
  sqbase : Word
  cqbase : Word
  cfg    : BitVec 20
  error  : Bool
  sqhead : Nat
  sqtail : Nat
  /-- completion entries posted and not yet released -/
  cqused : Nat
  cqtail : Nat
  phase  : Bool
  ring   : List HostCmd
  cmds   : List HostCmd
  deriving DecidableEq, Repr

def HQueue.reset : HQueue := ⟨0, 0, 0, false, 0, 0, 0, 0, true, [], []⟩

/-- A host port: BAR2 windows, event vectors, queues, MSI-X table, event window and power state (18_host_interface). -/
structure HPort where
  hwin   : Tbl Word
  hevirq : Tbl (BitVec 13)
  queues : Tbl HQueue
  msix   : Tbl Word
  pba    : Tbl Word
  bar2   : Nat
  d3     : Bool
  running : List RunCmd
  compl  : List Compl
  evsel  : Word
  evValid : Bool
  evMirror : Bool
  evBusy : Bool
  evData : List Byte
  aborts : Nat
  deriving DecidableEq, Repr

/-- 16 GiB of BAR2 (Table 18.1), SEVMIN at 3 (Table 18.3). -/
def HPort.reset : HPort :=
  ⟨[], [], [], [], [], 2 ^ 34, false, [], [], 0, false, false, false, [], 0⟩

/-- What the device sends to a host or answers a host request with. -/
inductive HostTx where
  /-- a write to host memory -/
  | write (port : Nat) (addr : Word) (data : List Byte)
  /-- an MSI-X message -/
  | irq (port vector : Nat)
  /-- read completion data -/
  | rdata (port : Nat) (data : List Byte)
  /-- Completer Abort -/
  | abort (port : Nat)
  /-- Unsupported Request -/
  | unsupported (port : Nat)
  /-- a DOE response object -/
  | doe (port : Nat) (data : List Byte)
  deriving DecidableEq, Repr

/-- The loaded job (IDJOB, R566): its descriptor, state, the job-start command that waits, the current step, the pacing
schedule (R328) in reference cycles, and the last committed step. -/
structure JobSt where
  desc   : JobDesc
  state  : Nat
  start  : Option (Nat × Nat × BitVec 32)
  step   : Nat
  /-- the step that the run began at: the job's first, or the one after a restart -/
  first  : Nat
  /-- the number of the step that the next release of BID 0 starts -/
  nextStep : Nat
  sched  : Option Nat
  /-- since when every member has waited on the intake gate -/
  gateFrom : Option Nat
  anchor : Bool
  lastCommit : Option Nat
  clearAt : Option Nat
  voted  : Bool
  poisoned : Bool
  needCkpt : Bool
  subst  : Bool
  exporting : Bool
  /-- a module reset has passed and the host has not yet resumed the job (R584) -/
  parked : Bool
  deriving DecidableEq, Repr

/-- A layer's quiet record in the Warden's SRAM (R381): first quiet step of the run, and run count. -/
structure Quiet where
  first : Nat
  run   : Nat
  deriving DecidableEq, Repr

/-- A worker's vote as the manager holds it (R463). -/
structure Vote where
  coord : BitVec 12
  step  : Nat
  repLen : Nat
  repCrc : BitVec 32
  deriving DecidableEq, Repr

/-- A restart report as the manager holds it (R468). -/
structure RestartRep where
  coord : BitVec 12
  v     : Nat
  needCkpt : Bool
  subst : Bool
  ready : Bool
  manifest : Nat
  deriving DecidableEq, Repr

/-- The group protocol of the engine: `GRPSTAT` (Table 14.7), the surroundings fields taken (R574), group barriers, and
the manager's record (14_groups_and_commit). -/
structure Group where
  role    : Nat
  widx    : Nat
  last    : BitVec 48
  verdict : Nat
  waiting : Bool
  badsrc  : Nat
  coord   : BitVec 12
  extm1   : BitVec 12
  origin  : BitVec 12
  boxm1   : BitVec 6
  mgr     : BitVec 12
  head    : Option (BitVec 12)
  gen     : Tbl Nat
  arrived : Tbl (List Nat)
  votes   : List Vote
  poisonStep : Option Nat
  fencedStep : Option Nat
  sentV   : Option Nat
  lastVerdict : Nat
  desig   : Option Nat
  accepts : List Nat
  reports : List RestartRep
  dones   : List Nat
  /-- the verdict and repair count whose result blocks are on their way -/
  verdictOut : Option (Nat × Nat)
  /-- length and CRC of the vote report whose messages are not all acknowledged -/
  reportOut : Option (Nat × BitVec 32)
  /-- entries of the last result's repair list, and the shards that this engine has still to repair -/
  nrepair : Nat
  repairs : List Nat
  /-- recovery of this engine runs: V, and whether from the checkpoint -/
  recover : Option (Nat × Bool)
  deriving DecidableEq, Repr

def Group.reset : Group :=
  ⟨0, 0, 0, 0, false, 0, 0, 0, 0, 0, 0, none, [], [], [], none, none, none, 0, none, [], [], [], none, none, 0, [], none⟩

/-- A failure record (R497 to R499), its variable fields. -/
structure FailRec where
  code : Nat
  mech : Nat
  react : Nat
  sev  : Nat
  src  : Nat
  unit : Nat
  step : Nat
  job  : Nat
  /-- the event record's SEQ once the recorder has taken the event; 0 where it dropped it -/
  seq  : Option Nat
  time : Nat
  addr : Option Nat
  synd : Option Nat
  /-- repair map digest, in-service arrays, junction temperature, inlet, supply, divider, firmware version after the event -/
  digest : Word
  insvc : Nat
  tj   : Int
  tin  : Nat
  vpol : Nat
  div  : Nat
  fwver : Word
  deriving DecidableEq, Repr

/-- The safety monitor's registers (Tables 15.8, 15.9), detections reported and not yet latched (R480), and the failure
records. -/
structure Safety where
  fence   : Bool
  wfail   : Bool
  stesting : Bool
  pstep   : BitVec 48
  detCode : Nat
  detMech : Nat
  detSrc  : Nat
  detSet  : Bool
  dets    : Nat
  fences  : Nat
  treq    : Bool
  tbusy   : Bool
  tdone   : Bool
  tfailed : Bool
  tleft   : Nat
  /-- since when arrays of the job are lent to a self-test at a step boundary (R494) -/
  lent    : Option Nat
  queue   : List Det
  recs    : List FailRec
  deriving DecidableEq, Repr

def Safety.reset : Safety :=
  ⟨false, false, false, 0, 0, 0, 63, false, 0, 0, false, false, false, false, 0, none, [], []⟩

/-- The power controller (17_power_and_heat): registers, the envelope, and the heat fields taken (R542). -/
structure Power where
  cap    : Nat
  limit  : Nat
  floor  : Nat
  bind   : Nat
  stale  : Bool
  atFloor : Bool
  ballast : Bool
  est    : Nat
  meter  : Nat
  trim   : Nat
  jobe   : Nat
  stepe  : Nat
  life   : Nat
  stepBase : Nat
  env    : Nat
  steady : Nat
  feeds  : List Nat
  tin    : Nat
  flow   : Nat
  capf   : Nat
  ramp   : Nat
  tout   : Nat
  hcap   : Nat
  ballastOn : Bool
  steadyOn : Bool
  sumEst : Nat
  nEst   : Nat
  loads  : Nat
  free   : Bool
  deriving DecidableEq, Repr

def Power.reset : Power :=
  { cap := 24000, limit := 24000, floor := 0, bind := 0, stale := false, atFloor := false, ballast := false, est := 0,
    meter := 0, trim := 0x8000, jobe := 0, stepe := 0, life := 0, stepBase := 0, env := 0, steady := 0, feeds := [],
    tin := 400, flow := 400, capf := 24000, ramp := 1000, tout := 650, hcap := 690, ballastOn := false,
    steadyOn := false, sumEst := 0, nEst := 0, loads := 0, free := true }

/-- The surroundings registers (Table 18.10). `timeBase`, `timeRef`: the wall clock written and the reference count then. -/
structure Surr where
  topo  : Word
  head  : Word
  heat1 : Word
  heat2 : Word
  timeBase : Word
  timeRef : Nat
  nbr   : Tbl (BitVec 55)
  deriving DecidableEq, Repr

/-- The reset values of Table 18.10: TIN 400, FLOW 400, CAPF 24,000, RAMP 1,000; TOUT 650, HCAP 690. -/
def Surr.reset : Surr :=
  ⟨0, 0, 0x03E8_5DC0_0190_0190#64, 0x0000_0000_02B2_028A#64, 0, 0, []⟩

/-- A stored event record (Tables 20.8, 20.9); `pay` is every byte from the prefix on. -/
structure Rec where
  seq   : Nat
  code  : Nat
  sev   : Nat
  src   : Nat
  rep   : Nat
  first : Nat
  last  : Nat
  pay   : List Byte
  deriving DecidableEq, Repr

/-- A mirror block of P1 (R620): its number, first SEQ, and what it holds. -/
structure MirBlock where
  num   : Nat
  first : Nat
  recs  : List Rec
  notes : List (Nat × Nat × Nat)
  deriving DecidableEq, Repr

/-- The event recorder (20_observation_and_events): events on their way to the Warden, records oldest first, the
newest SEQ and the next one, lost counts, and the mirror. -/
structure Recorder where
  queue  : List Event
  recs   : List Rec
  newest : Nat
  next   : Nat
  lost   : Tbl Nat
  toMir  : List Rec
  toNote : List (Nat × Nat × Nat)
  mirror : List MirBlock
  evmir  : Nat
  blkNum : Nat
  deriving DecidableEq, Repr

def Recorder.reset : Recorder := ⟨[], [], 0, 1, [], [], [], [], 0, 0⟩

/-- The trace line a core is filling (R608, Table 20.6): where it starts, when, its atoms, and instructions retired since
the last atom. -/
structure TrLine where
  addr  : Word
  ref   : Nat
  atoms : List Nat
  run   : Nat
  deriving DecidableEq, Repr

/-- Trace (Table 20.7). -/
structure Trace where
  openT : Bool
  ctl   : BitVec 10
  rings : Tbl Word
  wpOff : Tbl Nat
  wraps : Tbl Nat
  drops : Tbl Nat
  gaps  : Tbl Nat
  core  : Tbl (BitVec 15)
  node  : Tbl (BitVec 14)
  lines : Tbl TrLine
  seen  : Tbl Nat
  deriving DecidableEq, Repr

def Trace.reset : Trace := ⟨false, 0, [], [], [], [], [], [], [], [], []⟩

/-- Fuses (Table 19.1), with the part's grade and stepping (Table 21.3). -/
structure Fuse where
  vkey    : Tbl (BitVec 256)
  revoke  : BitVec 4
  floor   : Nat
  rekey   : Nat
  seed    : BitVec 256
  serial  : BitVec 48
  grade   : BitVec 4
  stepping : Byte
  deriving DecidableEq, Repr

/-- Boot and security (19_boot_reset_security): registers of Table 19.10, image slots and boot-selection record of P0, job
keys, the attestation key's indices, and observation. -/
structure Sec where
  stage  : Nat
  fail   : Nat
  kind   : Nat
  slots  : Tbl FwImage
  okSlot : Tbl Bool
  active : Nat
  running : Option FwImage
  slot   : Nat
  keys   : List (Nat × BitVec 512)
  gen    : Nat
  observed : Bool
  busy   : Bool
  exhausted : Bool
  nextIdx : Nat
  resEnd : Nat
  resSeq : Nat
  /-- the first index of the observed key beyond its reserved blocks (R596) -/
  obsEnd : Nat
  /-- power good to ready, in 10 ms (Table 19.10) -/
  time : Nat
  cache  : Bool
  pendingObs : Bool
  seedLock : Bool
  meas   : Tbl (BitVec 256)
  deriving DecidableEq, Repr

/-- The reasons a step can stop with a fault. -/
inductive Fault where
  /-- No meaning of this model raises it: every command of the table has an effect in the spec. It stands for a command that
  could not occur. Safe. -/
  | impossible
  deriving DecidableEq, Repr

/-- The reasons a step can be refused. -/
inductive Refusal where
  /-- The dispatcher raises it for a command that has no meaning yet. Safe. -/
  | notModelled (mnemonic : String)
  deriving DecidableEq, Repr

/-- The state of the module. -/
structure State where
  pending  : List Instr
  mem      : List Host.Cell
  pondMark : Tbl (Option Mark)
  lakeMark : Tbl (Option Mark)
  procs    : Tbl Proc
  /-- the seed in the rounding units of the cores and units that `procs` does not list (R47) -/
  seedRest : Word
  clusters : Tbl Cluster
  nodes    : Tbl Node
  mesh     : List Packet
  reqs     : List Req
  xfers    : List Xfer
  mcnodes  : List McNode
  mcasts   : List Mcast
  nextId   : Nat
  springs  : Tbl Spring
  sluices  : Tbl Sluice
  ues      : Tbl UpEng
  stackCtl : Tbl Stack
  bars     : Tbl BarNode
  barOver  : Tbl Nat
  bid0Step : Option Nat
  flash    : Flash
  polders  : Tbl Polder
  sites    : BitVec 56
  resv     : BitVec 56
  tileOut  : BitVec 56
  stackSvc : BitVec 44
  stackRes : BitVec 44
  slots    : List Nat
  unitOut  : List Nat
  arrMap   : Tbl ArrMap
  /-- rows of arrays found failed and not yet taken into the repair map: array key and physical row -/
  rowFails : List (Nat × Nat)
  /-- arrays that the Warden tests before the next restart (R122): array keys -/
  suspects : List Nat
  lkSelf   : Bool
  lkSuspect : Bool
  lkPatrols : Nat
  lkCorr   : Nat
  lkUnc    : Nat
  lkLast   : Nat
  ports    : Tbl LPort
  bays     : Tbl Bay
  pmap     : Tbl Nat
  group    : Group
  safety   : Safety
  power    : Power
  surr     : Surr
  hports   : Tbl HPort
  hostTx   : List HostTx
  job      : Option JobSt
  /-- the final completion of a job whose port has been reset (R559) -/
  held     : Option Compl
  quiet    : Tbl Quiet
  layerSum : Tbl LayerStat
  evrec    : Recorder
  trace    : Trace
  ecnt     : Tbl Word
  freeze   : Bool
  fuse     : Fuse
  sec      : Sec
  idgen    : Nat
  orderly  : Option StopCause
  ref      : Nat
  powered  : Bool
  deriving DecidableEq, Repr

/-- Fuses at manufacture. The spec gives the device values no numbers; zero stands for them (DESIGN CHOICE, log entry 3). -/
def Fuse.factory : Fuse := ⟨[], 0, 0, 0, 0, 0, 0, 0⟩

/-- The security block before the boot. -/
def Sec.reset : Sec :=
  { stage := 0, fail := 0, kind := 0, slots := [], okSlot := [], active := 0, running := none, slot := 0, keys := [],
    gen := 0, observed := false, busy := false, exhausted := false, nextIdx := 0, resEnd := 0, resSeq := 0, obsEnd := 0, time := 0,
    cache := false, pendingObs := false, seedLock := false, meas := [] }

/-- The module with no power applied since manufacture: every register at its reset value, every map field zero, the
reserve sites B1, B8, F1 and F8 of the identity block's example, reserve stacks at position 10 of each segment. -/
def State.reset : State :=
  { pending := [], mem := [], pondMark := [], lakeMark := [], procs := [], seedRest := 0, clusters := [], nodes := [],
    mesh := [], reqs := [], xfers := [], mcnodes := [], mcasts := [], nextId := 0, springs := [], sluices := [], ues := [],
    stackCtl := [], bars := [], barOver := [], bid0Step := none, flash := Flash.reset, polders := [],
    sites := 0x00FF_7EFF_FFFF_7EFF#56, resv := 0x0000_8100_0000_8100#56, tileOut := 0,
    stackSvc := 0x7feffdffbff#44, stackRes := 0x80100200400#44, slots := [], unitOut := [], arrMap := [], rowFails := [],
    suspects := [],
    lkSelf := false, lkSuspect := false, lkPatrols := 0, lkCorr := 0, lkUnc := 0, lkLast := 63, ports := [], bays := [],
    pmap := [], group := Group.reset, safety := Safety.reset, power := Power.reset, surr := Surr.reset, hports := [],
    hostTx := [], job := none, held := none, quiet := [], layerSum := [], evrec := Recorder.reset, trace := Trace.reset, ecnt := [],
    freeze := false, fuse := Fuse.factory, sec := Sec.reset, idgen := 0, orderly := none, ref := 0, powered := false }

end Sys2Proof.Machine
end

