-- ==== Sys2Proof/Machine/Ops.lean ====
section
/-! DEFINITION. The named operations over tables, memory, registers, packets and reports, and taking a trap. Every family
of commands is written over these. -/

namespace Sys2Proof

/-- The entry of a sparse table at a key; an unlisted key holds the default. -/
def Tbl.get {α : Type} (t : Tbl α) (d : α) (k : Nat) : α :=
  match t with
  | [] => d
  | (j, v) :: r => if j = k then v else Tbl.get r d k

/-- The table with the entry at `k` set; keys keep their order. -/
def Tbl.put {α : Type} (t : Tbl α) (k : Nat) (v : α) : Tbl α :=
  match t with
  | [] => [(k, v)]
  | (j, w) :: r => if j = k then (k, v) :: r else if k < j then (k, v) :: (j, w) :: r else (j, w) :: Tbl.put r k v

/-- The table without the entries that `f` names. -/
def Tbl.drop {α : Type} (t : Tbl α) (f : Nat → Bool) : Tbl α := t.filter (fun e => !f e.1)

end Sys2Proof

namespace Sys2Proof.Machine

open Sys2Proof

/-! ## Memory: bytes by key (R20, R305, R338, R401, R403) -/

/-- One byte; an unlisted key reads zero (log entry 2). -/
def memByte (m : List Host.Cell) (k : Nat) : Byte :=
  match m with
  | [] => 0
  | (j, v) :: r => if j = k then v else memByte r k

/-- Insertion in key order of a byte that is not zero. -/
def memIns (m : List Host.Cell) (k : Nat) (v : Byte) : List Host.Cell :=
  match m with
  | [] => [(k, v)]
  | (j, w) :: r => if k < j then (k, v) :: (j, w) :: r else (j, w) :: memIns r k v

/-- Write one byte, keeping the canonical form: a zero byte is unlisted. -/
def memPut (m : List Host.Cell) (k : Nat) (v : Byte) : List Host.Cell :=
  let m' := m.filter (fun e => e.1 != k)
  if v = 0 then m' else memIns m' k v

/-- Write bytes at ascending keys. -/
def memWrite (m : List Host.Cell) (k : Nat) (bs : List Byte) : List Host.Cell :=
  match bs with
  | [] => m
  | b :: r => memWrite (memPut m k b) (k + 1) r

/-- Write the bytes that are present, at ascending keys. -/
def memWriteMask (m : List Host.Cell) (k : Nat) (bs : List (Option Byte)) : List Host.Cell :=
  match bs with
  | [] => m
  | none :: r => memWriteMask m (k + 1) r
  | some b :: r => memWriteMask (memPut m k b) (k + 1) r

def memRead (m : List Host.Cell) (k n : Nat) : List Byte :=
  match n with
  | 0 => []
  | n + 1 => memByte m k :: memRead m (k + 1) n

/-- Make a range of keys read zero. -/
def memClear (m : List Host.Cell) (k n : Nat) : List Host.Cell :=
  m.filter (fun e => !(decide (k ≤ e.1) && decide (e.1 < k + n)))

/-- Little-endian value of bytes (R20). -/
def leNat (bs : List Byte) : Nat :=
  match bs with
  | [] => 0
  | b :: r => b.toNat + 256 * leNat r

def leBytes (n v : Nat) : List Byte :=
  match n with
  | 0 => []
  | n + 1 => BitVec.ofNat 8 v :: leBytes n (v / 256)

/-- The canonical form of memory: keys strictly rising, no zero byte listed. -/
def Memory.wf (m : List Host.Cell) : Bool :=
  match m with
  | [] => true
  | (_, v) :: [] => v != 0
  | (k, v) :: (j, w) :: r => v != 0 && decide (k < j) && Memory.wf ((j, w) :: r)

/-! ## Names and places of units (R10 to R14, R267, R268, Tables 1.3, 8.1, 2.3, 15.7) -/

def clKey (c : ClusterId) : Nat := 10 * c.site.val + c.cl.val
def coreKey (c : CoreId) : Nat := 90 * c.site.val + 9 * c.cl.val + c.core.val
def sprKey : Nat := 5040
def sluKey : Nat := 5056
def ueKey  : Nat := 5072

def unitKey (u : UnitId) : Nat :=
  match u with
  | .core c => coreKey c
  | .spring i => sprKey + i.val
  | .sluice i => sluKey + i.val
  | .ue k => ueKey + k.val

def isCore (k : Nat) : Bool := k < 5040
def isSpring (k : Nat) : Bool := 5040 ≤ k && k < 5056
def isSluice (k : Nat) : Bool := 5056 ≤ k && k < 5072
def isUe (k : Nat) : Bool := 5072 ≤ k && k < 5116
/-- The cluster of a core. -/
def clOf (k : Nat) : Nat := k / 9

/-- The polder a unit lies in (R10). -/
def polderOf (k : Nat) : Nat :=
  if isCore k then k / 90
  else if isSpring k then 56 + (k - sprKey) / 4
  else if isSluice k then 56 + (k - sluKey) / 4
  else if isUe k then 56 + (k - ueKey) / 11
  else 56

/-- Node number of a cluster (R13, R268). -/
def nodeOfCl (c : Nat) : Nat :=
  let site := c / 10
  let n := c % 10
  35 * (2 * (site % 8) + n / 5) + (5 * (site / 8) + n % 5)

/-- Node number of position `p` of a segment (R268). -/
def nodeSeg (seg p : Nat) : Nat :=
  match seg with
  | 0 => 560 + p
  | 1 => 595 + p
  | 2 => 611 + p
  | _ => 646 + p

def nodeOfStack (k : Nat) : Nat :=
  let p := k % 11
  match k / 11 with
  | 0 => nodeSeg 0 (3 * p + 2)
  | 1 => nodeSeg 1 (p + 2)
  | 2 => nodeSeg 2 (32 - 3 * p)
  | _ => nodeSeg 3 (13 - p)

def nodeOfSpring (u : Nat) : Nat :=
  let q := u % 4
  match u / 4 with
  | 0 => nodeSeg 0 (9 * q + 3)
  | 1 => nodeSeg 1 (4 * q + 1)
  | 2 => nodeSeg 2 (31 - 9 * q)
  | _ => nodeSeg 3 (14 - 4 * q)

def nodeOfSluice (u : Nat) : Nat :=
  let q := u % 4
  match u / 4 with
  | 0 => nodeSeg 0 (9 * q + 6)
  | 1 => nodeSeg 1 (4 * q + 3)
  | 2 => nodeSeg 2 (28 - 9 * q)
  | _ => nodeSeg 3 (12 - 4 * q)

/-- Flash channel `c`, the channel c % 4 of segment c / 4. -/
def nodeOfFlash (c : Nat) : Nat :=
  let q := c % 4
  match c / 4 with
  | 0 => nodeSeg 0 (9 * q + 1)
  | 1 => nodeSeg 1 (4 * q)
  | 2 => nodeSeg 2 (33 - 9 * q)
  | _ => nodeSeg 3 (15 - 4 * q)

/-- N16: host port A, the Warden and the flash window (Table 8.1). -/
def nodeN16 : Nat := 576
/-- S18: host port B. -/
def nodeS18 : Nat := 629
/-- The node a light port attaches to: cluster c2 of its site (R267). -/
def nodeOfPort (p : Nat) : Nat := nodeOfCl (10 * p + 2)

def nodeOfUnit (k : Nat) : Nat :=
  if isCore k then nodeOfCl (clOf k)
  else if isSpring k then nodeOfSpring (k - sprKey)
  else if isSluice k then nodeOfSluice (k - sluKey)
  else if isUe k then nodeOfStack (k - ueKey)
  else nodeN16

/-- Keys under which the Warden sends its vote report and the manager's result blocks. -/
def wardenKey : Nat := 6000
def resultKey : Nat := 6001
/-- Key of a light port as an initiator (R433). -/
def portKey (p : Nat) : Nat := 6100 + p

def isClNode (n : Nat) : Bool := n < 560
def nodeX (n : Nat) : Nat := n % 35
def nodeY (n : Nat) : Nat := n / 35
/-- Segment of an embankment node. -/
def nodeSegOf (n : Nat) : Nat := if n < 595 then 0 else if n < 611 then 1 else if n < 646 then 2 else 3
def nodePos (n : Nat) : Nat := n - nodeSeg (nodeSegOf n) 0
/-- The polder of a node. -/
def polderOfNode (n : Nat) : Nat :=
  if isClNode n then 8 * (nodeX n / 5) + nodeY n / 2 else 56 + nodeSegOf n
/-- The cluster at a cluster node. -/
def clOfNode (n : Nat) : Nat :=
  10 * (8 * (nodeX n / 5) + nodeY n / 2) + (5 * (nodeY n % 2) + nodeX n % 5)
/-- The 12-bit node code (R268). -/
def nodeCode (n : Nat) : Nat :=
  if isClNode n then nodeX n * 16 + nodeY n else 0x400 + 64 * nodeSegOf n + nodePos n

/-- Identities of Table 2.3 and Table 15.7. -/
def uidCluster (x unit : Nat) : Nat := 0xB * 2 ^ 28 + (x / 10) * 2 ^ 22 + (x % 10) * 2 ^ 18 + unit
def uidCore (k sub : Nat) : Nat := (k / 90) * 2 ^ 22 + (k / 9 % 10) * 2 ^ 18 + (k % 9) * 2 ^ 14 + sub * 2 ^ 12
def uidNode (n : Nat) : Nat :=
  if isClNode n then 0x1 * 2 ^ 28 + nodeX n * 2 ^ 22 + nodeY n * 2 ^ 18
  else 0x5 * 2 ^ 28 + nodeSegOf n * 2 ^ 6 + nodePos n
def uidUnit (k : Nat) : Nat :=
  if isCore k then uidCore k 0
  else if isSpring k then 0x2 * 2 ^ 28 + (k - sprKey)
  else if isSluice k then 0x3 * 2 ^ 28 + (k - sluKey)
  else if isUe k then 0x4 * 2 ^ 28 + (k - ueKey)
  else 0xF * 2 ^ 28
def uidStack (k : Nat) : Nat := 0x6 * 2 ^ 28 + k
def uidPort (p : Nat) : Nat := 0x7 * 2 ^ 28 + p
def uidBay (b : Nat) : Nat := 0x8 * 2 ^ 28 + b
def uidFlash (c : Nat) : Nat := 0x9 * 2 ^ 28 + c
def uidSupply (p : Nat) : Nat := 0xA * 2 ^ 28 + p
def uidDike (p far : Nat) : Nat := 0xC * 2 ^ 28 + p * 2 ^ 6 + far
def uidWarden : Nat := 0xF * 2 ^ 28
def srcWarden : Nat := 0xFFFF

/-! ## Accessors -/

def State.proc (s : State) (k : Nat) : Proc := Tbl.get s.procs { Proc.reset with seedJob := s.seedRest } k
def State.setProc (s : State) (k : Nat) (p : Proc) : State := { s with procs := Tbl.put s.procs k p }
def State.cluster (s : State) (c : Nat) : Cluster := Tbl.get s.clusters Cluster.reset c
def State.setCluster (s : State) (c : Nat) (x : Cluster) : State := { s with clusters := Tbl.put s.clusters c x }
def State.node (s : State) (n : Nat) : Node := Tbl.get s.nodes Node.reset n
def State.setNode (s : State) (n : Nat) (x : Node) : State := { s with nodes := Tbl.put s.nodes n x }
def State.spring (s : State) (u : Nat) : Spring := Tbl.get s.springs Spring.reset u
def State.setSpring (s : State) (u : Nat) (x : Spring) : State := { s with springs := Tbl.put s.springs u x }
def State.sluice (s : State) (u : Nat) : Sluice := Tbl.get s.sluices Sluice.reset u
def State.setSluice (s : State) (u : Nat) (x : Sluice) : State := { s with sluices := Tbl.put s.sluices u x }
def State.ue (s : State) (k : Nat) : UpEng := Tbl.get s.ues UpEng.reset k
def State.setUe (s : State) (k : Nat) (x : UpEng) : State := { s with ues := Tbl.put s.ues k x }
def State.stack (s : State) (k : Nat) : Stack := Tbl.get s.stackCtl Stack.reset k
def State.setStack (s : State) (k : Nat) (x : Stack) : State := { s with stackCtl := Tbl.put s.stackCtl k x }
def State.bar (s : State) (p : Nat) : BarNode := Tbl.get s.bars BarNode.reset p
def State.setBar (s : State) (p : Nat) (x : BarNode) : State := { s with bars := Tbl.put s.bars p x }
def State.polder (s : State) (p : Nat) : Polder := Tbl.get s.polders Polder.reset p
def State.setPolder (s : State) (p : Nat) (x : Polder) : State := { s with polders := Tbl.put s.polders p x }
def State.port (s : State) (p : Nat) : LPort := Tbl.get s.ports LPort.reset p
def State.setPort (s : State) (p : Nat) (x : LPort) : State := { s with ports := Tbl.put s.ports p x }
def State.bay (s : State) (b : Nat) : Bay := Tbl.get s.bays Bay.reset b
def State.setBay (s : State) (b : Nat) (x : Bay) : State := { s with bays := Tbl.put s.bays b x }
def State.hport (s : State) (p : Nat) : HPort := Tbl.get s.hports HPort.reset p
def State.setHport (s : State) (p : Nat) (x : HPort) : State := { s with hports := Tbl.put s.hports p x }
def HPort.queue (h : HPort) (q : Nat) : HQueue := Tbl.get h.queues HQueue.reset q
def HPort.setQueue (h : HPort) (q : Nat) (x : HQueue) : HPort := { h with queues := Tbl.put h.queues q x }
def State.arrMapOf (s : State) (k a : Nat) : ArrMap := Tbl.get s.arrMap ArrMap.good (2 * k + a)

def setSafety (s : State) (x : Safety) : State := { s with safety := x }
def setMem (s : State) (m : List Host.Cell) : State := { s with mem := m }

/-- A new identifier. -/
def State.takeId (s : State) : Nat × State := (s.nextId, { s with nextId := s.nextId + 1 })

/-- A polder whose rails are on and clocks run. -/
def State.polderOn (s : State) (p : Nat) : Bool := (s.polder p).state == 2

/-- The site mask (R15): sites whose tile is in service. -/
def State.siteMask (s : State) : BitVec 56 := s.sites &&& ~~~s.tileOut

def State.siteIn (s : State) (i : Nat) : Bool := s.siteMask.getLsbD i

/-- The wall clock in ns (R574). -/
def State.wall (s : State) : Nat := (s.surr.timeBase.toNat + 10 * (s.ref - s.surr.timeRef)) % 2 ^ 64

def State.jobId (s : State) : Nat := match s.job with | some j => j.desc.jobid.toNat | none => 0
def State.jobStep (s : State) : Nat := match s.job with | some j => j.step | none => 0

/-- Work-clock cycles of a polder (R502): 42 for each reference cycle at 4.2 GHz, divided by DIV; the clock stands while
the polder does not run. -/
def Polder.acNow (x : Polder) (ref : Nat) : Nat := if x.state = 2 then x.acBase + 42 * (ref - x.acRef) / x.div else x.acBase

/-! ## Who is served (R549, R630, R631) -/

/-- Does a port's function answer the host now? -/
def State.hostOk (s : State) (port : Nat) : Bool :=
  s.powered && !(s.hport port).d3 && (port = 0 || s.polderOn 58)

/-- Firmware runs: the module is ready and the Warden has not failed. -/
def State.devUp (s : State) : Bool := s.powered && !s.safety.wfail && s.sec.stage == 9

/-- Blocks that hardware serves: identity, safety and security, and the polder status array (Table 21.1). -/
def idBlock (off : Nat) : Bool := off < 0xB0
def sfBlock (off : Nat) : Bool := 0x600000 ≤ off && off < 0x600020
def secBlock (off : Nat) : Bool := 0x700000 ≤ off && off < 0x700018
def pdBlock (off : Nat) : Bool := 0x800000 ≤ off && off < 0x83C000 && off % 0x1000 < 0x20
/-- Queue pair 0. -/
def q0Block (off : Nat) : Bool := 0x100000 ≤ off && off < 0x100100

/-- Does a port serve an access of the control space at an offset (R631)? -/
def State.regServed (s : State) (port off : Nat) : Bool :=
  s.hostOk port &&
    (if s.safety.wfail then idBlock off || sfBlock off || secBlock off || pdBlock off
     else if s.sec.stage = 9 then true
     else port = 0 && (idBlock off || sfBlock off || secBlock off || (s.sec.stage = 14 && q0Block off)))

/-! ## Reports (R480, R610) -/

/-- An event on its way to the recorder. -/
def State.emit (s : State) (code src unit : Nat) (pay : List (Nat × Nat)) : State :=
  { s with evrec := { s.evrec with queue := s.evrec.queue ++ [⟨code, src, unit, pay, s.jobId, s.jobStep, s.wall⟩] } }

/-- POISON in a polder's barrier-net up frame (R296). -/
def State.poison (s : State) (p : Nat) : State := s.setBar p { s.bar p with poison := true }

/-- The address that a detection names: the pond word's, or the stack-local offset of a Lake access (Table 15.7). -/
def detAddr (code : Nat) (pay : List (Nat × Nat)) : Option Nat :=
  match code with
  | 0x5102 => pay.head?.map (·.2)
  | 0x5302 => pay[1]?.map (·.2)
  | _ => none

/-- The mechanism of Table 15.1 behind an event code. -/
def mechOf (code : Nat) : Nat :=
  match code with
  | 0x2501 => 1 | 0x2101 => 2 | 0x2502 => 3 | 0x2503 => 4 | 0x5102 => 5 | 0x4102 => 7 | 0x4103 => 7 | 0x4105 => 7
  | 0x2305 => 8 | 0x2306 => 8 | 0x4202 => 9 | 0x4208 => 9 | 0x5302 => 10 | 0x2504 => 12 | 0x2505 => 13 | 0x2506 => 14
  | 0x2507 => 14 | _ => 0

/-- An integrity detection reports on two paths (R480): POISON on the barrier net, and a message to the safety monitor. The
event record is written with it. -/
def State.detect (s : State) (code src unit : Nat) (pay : List (Nat × Nat)) : State :=
  let s1 := s.emit code src unit pay
  let s2 := { s1 with safety := { s1.safety with queue := s1.safety.queue ++ [⟨code, src, unit, detAddr code pay, mechOf code⟩] } }
  if src < 60 then s2.poison src else s2

/-- The detections that a scrub or a patrol adds to those of `s0` are of its own mechanism (Table 15.1). -/
def State.latent (s : State) (s0 : State) (mech : Nat) : State :=
  let n := s0.safety.queue.length
  { s with safety := { s.safety with
      queue := s.safety.queue.take n ++ (s.safety.queue.drop n).map (fun d => { d with mech := mech }) } }

/-- Clusters in service, with their place. -/
def State.sitesIn (s : State) : List Nat := (List.range 56).filter (fun i => s.siteIn i)

/-- Cores in service: those in the core maps of the sites in service (Table 21.4). -/
def State.coresIn (s : State) : Nat :=
  s.sitesIn.foldl (fun a i => a + ((List.range 10).foldl (fun b c => b + (s.cluster (10 * i + c)).coreMap.length) 0)) 0

/-- Arrays in service. -/
def State.arraysIn (s : State) : Nat :=
  let out := s.arrMap.filter (fun e => !e.2.insvc && s.siteIn (e.1 / 180) &&
    (s.cluster (e.1 / 18)).coreMap.contains (e.1 / 2 % 9))
  2 * s.coresIn - out.length

/-- What the repair map holds: arrays' rows (R120 to R122) and core maps (R155). -/
def State.repairMap (s : State) : List Nat :=
  s.arrMap.flatMap (fun e => [e.1, if e.2.insvc then 1 else 0, e.2.failrow.getD 255, if e.2.sparebad then 1 else 0]) ++
    s.clusters.flatMap (fun e => e.1 :: e.2.coreMap)

/-- `IDREPDIG`: the digest of the repair map (Table 21.4). -/
def State.repairDigest (s : State) : Word := Config.repairDigest s.repairMap

/-- A failure record is written (R497): the reaction, and severity 0 = recoverable, 1 = fatal, 3 = informational. `addr` is the
address of the data at fault. The event record's sequence number follows when the recorder has taken the event. -/
def State.failRecAt (s : State) (code mech react sev src unit : Nat) (addr : Option Nat) : State :=
  let x := s.polder (if src < 60 then src else 56)
  let f : FailRec :=
    { code := code, mech := mech, react := react, sev := sev, src := src, unit := unit, step := s.jobStep, job := s.jobId,
      seq := none, time := s.wall, addr := addr,
      synd := if [0x2501, 0x4103, 0x5102, 0x5302].contains code then some (Config.syndrome code unit (addr.getD 0) s.ref) else none,
      digest := s.repairDigest, insvc := s.arraysIn, tj := x.tmax,
      tin := s.surr.heat1.toNat % 65536, vpol := x.vout, div := x.div,
      fwver := match s.sec.running with | some f => f.version | none => 0 }
  { s with safety := { s.safety with recs := s.safety.recs ++ [f] } }

def State.failRec (s : State) (code react sev src unit : Nat) : State := s.failRecAt code (mechOf code) react sev src unit none

/-! ## Counters (R601, R604) -/

/-- The program core number of a physical core in its cluster's map (R155). -/
def progOf (c : Cluster) (phys : Nat) : Nat :=
  match c.coreMap.findIdx? (· == phys) with
  | some i => i
  | none => 15

/-- Whether a select admits an event of a core and array (Table 20.1). `core` 15 and `arr` 2 stand for an event to which the
filter does not apply (Table 20.2). -/
def selAdmits (sel : Word) (ev core arr : Nat) : Bool :=
  let f := sel.toNat / 256 % 16
  let a := sel.toNat / 4096 % 4
  sel.toNat % 256 == ev && (f == 15 || core == 15 || f == core) && (a == 0 || arr == 2 || a == arr + 1)

/-- The counters of a cluster after `n` occurrences; a counter saturates. -/
def bumpCnt (cnt : Tbl Word) (sel : Tbl Word) (ev core arr n : Nat) : Tbl Word :=
  match sel with
  | [] => cnt
  | (i, x) :: r =>
    let c' := if selAdmits x ev core arr then
        Tbl.put cnt i (BitVec.ofNat 64 (min ((Tbl.get cnt 0 i).toNat + n) (2 ^ 64 - 1))) else cnt
    bumpCnt c' r ev core arr n

def State.countCl (s : State) (c ev core arr n : Nat) : State :=
  let x := s.cluster c
  if s.freeze || x.sel.isEmpty then s
  else s.setCluster c { x with cnt := bumpCnt x.cnt x.sel ev core arr n }

/-- An event of unit `k` in the counters of its cluster; profile units have none of these. -/
def State.countEv (s : State) (k ev arr n : Nat) : State :=
  if isCore k then s.countCl (clOf k) ev (progOf (s.cluster (clOf k)) (k % 9)) arr n else s

/-- An embankment counter (R605): unit number of Table 20.3 and index. -/
def State.countEmb (s : State) (u i n : Nat) : State :=
  if s.freeze then s
  else
    let k := 16 * u + i
    { s with ecnt := Tbl.put s.ecnt k (BitVec.ofNat 64 (min ((Tbl.get s.ecnt 0 k).toNat + n) (2 ^ 64 - 1))) }

/-! ## Instruction trace (R608, Table 20.5, Table 20.6) -/

/-- The trace area's base in the Lake (Table 12.3). -/
def lakeCap (s : State) : Nat := s.slots.length * 48 * 2 ^ 30
def traceBase (s : State) : Nat := lakeCap s - 2 ^ 30
def wardenBase (s : State) : Nat := lakeCap s - 1280 * 2 ^ 20
def sealBase (s : State) : Nat := lakeCap s - 1536 * 2 ^ 20
/-- Memory key of a Lake offset: its device address. -/
def lakeKey (off : Nat) : Nat := 2 ^ 56 + off

/-- Base and size of ring `r` in bytes (Table 20.7). -/
def State.ringBase (s : State) (r : Nat) : Nat := (Tbl.get s.trace.rings 0 r).toNat % 2 ^ 18 * 4096
def State.ringSize (s : State) (r : Nat) : Nat := (Tbl.get s.trace.rings 0 r).toNat / 2 ^ 18 % 2 ^ 19 * 4096

/-- Does ring `r` take a line: it has room, or it wraps (R608)? -/
def State.ringTakes (s : State) (r : Nat) : Bool :=
  s.ringSize r != 0 && !(s.trace.ctl.getLsbD 4 && decide (Tbl.get s.trace.wraps 0 r > 0))

/-- A line at the ring's write point. -/
def State.putLine (s : State) (r : Nat) (line : List Byte) : State :=
  let off := Tbl.get s.trace.wpOff 0 r
  let wraps := Tbl.get s.trace.wraps 0 r
  let full := decide (off + 64 ≥ s.ringSize r)
  { s with mem := memWrite s.mem (lakeKey (traceBase s + s.ringBase r + off)) line,
           trace := { s.trace with wpOff := Tbl.put s.trace.wpOff r (if full then 0 else off + 64),
                                   wraps := Tbl.put s.trace.wraps r (if full then wraps + 1 else wraps) } }

/-- A line is dropped and counted (R609). -/
def State.dropLine (s : State) (r : Nat) : State :=
  { s with trace := { s.trace with drops := Tbl.put s.trace.drops r (min (Tbl.get s.trace.drops 0 r + 1) (2 ^ 32 - 1)),
                                   gaps := Tbl.put s.trace.gaps r (Tbl.get s.trace.gaps 0 r + 1) } }

/-- A 64-byte line into ring `r` of the trace area; a gap line goes before the first line after a drop (R608, R609). -/
def State.traceLine (s : State) (r : Nat) (line : List Byte) : State :=
  if !s.ringTakes r then s.dropLine r
  else
    let g := Tbl.get s.trace.gaps 0 r
    if g = 0 then s.putLine r line
    else
      let s1 := s.putLine r ([4, 0, 0xFF, 0xFF] ++ leBytes 4 0 ++ leBytes 8 s.ref ++ leBytes 8 g ++ leBytes 40 0)
      let s2 := { s1 with trace := { s1.trace with gaps := Tbl.put s1.trace.gaps r 0 } }
      if s2.ringTakes r then s2.putLine r line else s2.dropLine r

/-- Pairs of atoms as bytes, low nibble first, padded to 40 bytes. -/
def atomBytes (n : Nat) (as : List Nat) : List Byte :=
  match n with
  | 0 => []
  | n + 1 =>
    match as with
    | [] => 0 :: atomBytes n []
    | [a] => BitVec.ofNat 8 a :: atomBytes n []
    | a :: b :: r => BitVec.ofNat 8 (a + 16 * b) :: atomBytes n r

/-- Is this core traced: trace open, ring 0 enabled, and an enabled `TRCORE` entry names it. -/
def State.traced (s : State) (k : Nat) : Bool :=
  s.trace.openT && s.trace.ctl.getLsbD 1 && isCore k &&
    s.trace.core.any (fun e => e.2.getLsbD 14 && e.2.toNat % 2 ^ 14 == k / 90 + 64 * (k / 9 % 10) + 1024 * (k % 9))

/-- Record an atom for core `k` that was at `pc`; atoms 0xA to 0xE, and the 80th, close the line. Sequential retirements
gather into atoms 1 to 7. -/
def State.traceAtom (s : State) (k : Nat) (pc : Word) (atom : Nat) : State :=
  if !s.traced k then s
  else
    let l := match s.trace.lines.find? (fun e => e.1 == k) with
      | some e => e.2
      | none => ⟨pc, s.ref, [], 0⟩
    let l1 : TrLine :=
      if atom = 1 then
        if l.run = 6 then { l with atoms := l.atoms ++ [7], run := 0 } else { l with run := l.run + 1 }
      else { l with atoms := (if l.run > 0 then l.atoms ++ [l.run] else l.atoms) ++ [atom], run := 0 }
    if (10 ≤ atom && atom ≤ 14) || l1.atoms.length ≥ 80 then
      let src := k / 90 + 64 * (k / 9 % 10) + 1024 * (k % 9)
      let line := [1, 0] ++ leBytes 2 src ++ leBytes 4 0 ++ leBytes 8 l1.ref ++ leBytes 8 l1.addr.toNat ++
        atomBytes 40 l1.atoms
      let s1 := { s with trace := { s.trace with lines := Tbl.drop s.trace.lines (· == k) } }
      s1.traceLine 0 line
    else { s with trace := { s.trace with lines := Tbl.put s.trace.lines k l1 } }

/-! ## Registers of a core or unit (R163, R261) -/

def Proc.getS (p : Proc) (r : Nat) : Word := if r = 0 then 0 else Tbl.get p.s 0 r
def Proc.setS (p : Proc) (r : Nat) (x : Word) : Proc := if r = 0 then p else { p with s := Tbl.put p.s r x }
def Proc.getV (p : Proc) (r : Nat) : VReg := Tbl.get p.v 0 r
def Proc.setV (p : Proc) (r : Nat) (x : VReg) : Proc := { p with v := Tbl.put p.v r x }
def Proc.getP (p : Proc) (r : Nat) : Word := if r = 0 then BitVec.allOnes 64 else Tbl.get p.p 0 r
def Proc.setP (p : Proc) (r : Nat) (x : Word) : Proc := if r = 0 then p else { p with p := Tbl.put p.p r x }
def Proc.getD (p : Proc) (r : Nat) : Desc := Tbl.get p.d 0 r
def Proc.setD (p : Proc) (r : Nat) (x : Desc) : Proc := { p with d := Tbl.put p.d r x }
def Proc.arr (p : Proc) (a : Nat) : Arr := if a = 0 then p.a0 else p.a1
def Proc.setArr (p : Proc) (a : Nat) (x : Arr) : Proc := if a = 0 then { p with a0 := x } else { p with a1 := x }
/-- The array's registers hold sums not yet drained (R109): of an `aacc` issued since the last `adrain`, or of an `adrain` that
has not ended. -/
def Arr.live (x : Arr) : Bool := x.accLive || x.ops.any (fun o => o.kind == .drain && o.k != 0)

def Proc.pcAt (p : Proc) (x : Word) : Proc := { p with pc := x }

/-- Tag counts (R178). -/
def Proc.tagCount (p : Proc) (t : Nat) : Nat := Tbl.get p.tags 0 t
def Proc.tagUp (p : Proc) (t : Nat) : Proc := { p with tags := Tbl.put p.tags t (p.tagCount t + 1) }
/-- An operation that names the tag ends (R178, R179). -/
def Proc.tagDone (p : Proc) (t : Nat) (err : Bool) : Proc :=
  let e := if err then p.tagErr ||| (1#32 <<< t) else p.tagErr
  { p with tags := Tbl.put p.tags t (p.tagCount t - 1), tagErr := e }

def State.tagDone (s : State) (k t : Nat) (err : Bool) : State := s.setProc k ((s.proc k).tagDone t err)

/-- `TAGPEND` (Table 5.8). -/
def tagPend (p : Proc) : Nat → Nat
  | 0 => 0
  | n + 1 => tagPend p n + (if p.tagCount n > 0 then 2 ^ n else 0)

/-- A waiting `useal` holds every younger instruction of its engine (R261). -/
def State.sealWaits (s : State) (k : Nat) : Bool := isUe k && (s.ue (k - ueKey)).waiting.isSome

/-- A unit that fetches and issues: started, not halted, no fence, not in a barrier, its polder running. -/
def State.canRun (s : State) (k : Nat) : Bool :=
  let p := s.proc k
  p.run && !p.halted && !s.safety.fence && p.inBar.isNone && s.polderOn (polderOf k) && !s.sealWaits k

/-- Names of registers for the scoreboard of R160. -/
inductive Reg where
  | s (n : Nat) | v (n : Nat) | d (n : Nat)
  deriving DecidableEq, Repr

/-- The register that an outstanding request will write. -/
def ReqKind.dest (r : ReqKind) : Option Reg :=
  match r with
  | .load rd _ => if rd = 0 then none else some (.s rd)
  | .amo rd => if rd = 0 then none else some (.s rd)
  | .vload vd _ _ _ => some (.v vd)
  | .dload d => some (.d d)
  | _ => none

/-- An instruction waits while a register it names is still to be written by an outstanding request (R160). -/
def State.interlocked (s : State) (k : Nat) (regs : List Reg) : Bool :=
  s.reqs.any (fun r => r.owner == k && (match r.kind.dest with | some x => regs.contains x | none => false))

/-- Outstanding stores of a unit (R183, R185, R248). -/
def State.storesOut (s : State) (k : Nat) : Bool :=
  s.reqs.any (fun r => r.owner == k && (match r.kind with | .store => true | .amo _ => true | _ => false))

/-- Outstanding loads of a unit, atomic operations among them (R185, R207). -/
def State.loadsOut (s : State) (k : Nat) : Bool :=
  s.reqs.any (fun r => r.owner == k && (match r.kind with
    | .load .. => true | .vload .. => true | .dload _ => true | .amo _ => true | _ => false))

/-! ## Traps and halts (R187 to R189, R262) -/

def causeIllegal : Nat := 1
def causeFormat : Nat := 2
def causeOperand : Nat := 3
def causeAddress : Nat := 4
def causeUnavail : Nat := 5
def causeBusy : Nat := 6
def causeSparse : Nat := 7
def causePond : Nat := 8
def causeXfer : Nat := 9

/-- A core or unit halts: it issues nothing more, and the step is poisoned. -/
def State.halt (s : State) (k : Nat) : State :=
  (s.setProc k { s.proc k with halted := true }).poison (polderOf k)

/-- A halt whose event record has just been written: the failure record too (R497). -/
def State.haltRec (s : State) (k code : Nat) : State := (s.failRec code 3 0 (polderOf k) (uidUnit k)).halt k

/-! ## Addresses (R20 to R24, R648) -/

/-- Where a device address leads. -/
inductive Place where
  | pond (site cl off : Nat)
  | lake (off : Nat)
  | window (off : Nat)
  | control (off : Nat)
  | scratchE (off : Nat)
  | scratchD (off : Nat)
  | resbit
  | bad
  deriving DecidableEq, Repr

/-- The fields of Table 1.6, and the scratch spaces of R305 and R338. -/
def place (a : Word) : Place :=
  let n := a.toNat
  match n / 2 ^ 56 with
  | 0x00 => if n / 2 ^ 36 % 2 ^ 20 = 0 then .pond (n / 2 ^ 30 % 64) (n / 2 ^ 26 % 16) (n % 2 ^ 26) else .resbit
  | 0x01 => if n / 2 ^ 41 % 2 ^ 15 = 0 then .lake (n % 2 ^ 41) else .resbit
  | 0x02 => if n / 2 ^ 24 % 2 ^ 32 = 0 then .window (n % 2 ^ 24) else .resbit
  | 0x0F => if n / 2 ^ 32 % 2 ^ 24 = 0 then .control (n % 2 ^ 32) else .resbit
  | 0x0E => if n / 2 ^ 18 % 2 ^ 38 = 0 then .scratchE (n % 2 ^ 18) else .resbit
  | 0x0D => if n / 2 ^ 18 % 2 ^ 38 = 0 then .scratchD (n % 2 ^ 18) else .resbit
  | _ => .bad

/-- Who asks (Table 1.7). -/
inductive Who where
  | unit (k : Nat)
  | warden
  | port (n : Nat)
  | host (p : Nat)
  deriving DecidableEq, Repr

/-- The memory key of an address for a unit: its device address, or the unit's own scratch. -/
def keyFor (k : Nat) (a : Word) : Nat :=
  match place a with
  | .scratchE off => 2 ^ 64 + k * 2 ^ 18 + off
  | .scratchD off => 2 ^ 64 + k * 2 ^ 18 + off
  | .window off => 2 ^ 71 + off
  | _ => a.toNat

/-- Does [a, a+n) meet [b, b+m). -/
def overlaps (a n b m : Nat) : Bool := decide (a < b + m) && decide (b < a + n) && n != 0 && m != 0

/-- Does a Lake range meet an entry of the loaded job's Lake map of the given kind (Table 12.4). -/
def State.inMap (s : State) (kind off n : Nat) : Bool :=
  match s.job with
  | none => false
  | some j => j.desc.lakeMap.any (fun e => e.kind == kind && overlaps off n e.base e.len)

/-- The rights of Table 1.7 in the Lake, with the regions of R394 and the state planes of R79. -/
def State.lakeRight (s : State) (w : Who) (off n : Nat) (write : Bool) : Bool :=
  let tr := overlaps off n (traceBase s) (2 ^ 30)
  let wa := overlaps off n (wardenBase s) (256 * 2 ^ 20)
  let se := overlaps off n (sealBase s) (256 * 2 ^ 20)
  match w with
  | .warden => true
  | .unit _ => !tr && !wa && !(se && write)
  | .port _ => write && !tr && !wa && !se && !s.inMap 2 off n
  | .host _ => !(tr && (write || !s.trace.openT)) && !se && !s.inMap 2 off n

/-- The rights in the flash-store command window (R403): a Spring or update engine has the status (read), its own queue and
doorbell (write) and its own head (read); the Warden queues 60 to 62. -/
def windowRight (w : Who) (off n : Nat) (write : Bool) : Bool :=
  let own (q : Nat) : Bool :=
    if write then
      (decide (0x010000 + 0x1000 * q ≤ off) && decide (off + n ≤ 0x010000 + 0x1000 * q + 4096)) ||
        (off == 0x080000 + 8 * q && n == 8)
    else off == 0x090000 + 8 * q && n == 8
  let status := !write && decide (off + n ≤ 0x1000)
  match w with
  | .unit k => if isSpring k then status || own (k - sprKey) else if isUe k then status || own (16 + (k - ueKey)) else false
  | .warden => status || own 60 || own 61 || own 62
  | _ => false

/-- The stack and stack-local offset of a Lake offset (R385); `slots` is the slot table (R387). -/
def lakeLoc (slots : List Nat) (a : Nat) : Nat × Nat :=
  let n := slots.length
  let g := a / 2048
  let r := g / n
  let l := (g % n + 3 * r) % n
  (slots.getD l 0, 2048 * r + a % 2048)

/-- The node that serves an address (R268). -/
def State.targetNode (s : State) (a : Word) : Nat :=
  match place a with
  | .pond site cl _ => nodeOfCl (10 * site + cl)
  | .lake off => nodeOfStack (lakeLoc s.slots off).1
  | _ => nodeN16

/-- The sub-cause with which an access of `n` bytes is refused, none when it is granted (R22, R24, R648). -/
def State.refuses (s : State) (w : Who) (a : Word) (n : Nat) (write : Bool) : Option Nat :=
  match place a with
  | .resbit => some 2
  | .bad => some 0
  | .control _ => some 0
  | .pond site cl off =>
    if site ≥ 56 ∨ cl ≥ 10 ∨ off + n > 2 ^ 26 then some 0
    else if (s.polder site).lost then some 3
    else if !s.siteIn site || !s.polderOn site then some 0
    else match w with
      | .port _ => if write then none else some 0
      | _ => none
  | .lake off =>
    if off + n > lakeCap s then some 0
    else if s.lakeRight w off n write then none else some 0
  | .window off => if windowRight w off n write then none else some 0
  | .scratchE off =>
    match w with
    | .unit k => if isSpring k && decide (off + n ≤ 2 ^ 18) then none else some 0
    | _ => some 0
  | .scratchD off =>
    match w with
    | .unit k => if (isSluice k || isUe k) && decide (off + n ≤ 2 ^ 18) then none else some 0
    | _ => some 0

/-- With tables in use, a target whose entry in the initiator's own node is not valid is refused (R648). -/
def State.noRoute (s : State) (k : Nat) (a : Word) : Bool :=
  let nd := s.node (nodeOfUnit k)
  nd.mode && !(Tbl.get nd.uni 0 (s.targetNode a)).getLsbD 9

/-- An address that a unit reaches without the mesh: a core's own pond, a unit's own scratch. -/
def localTo (k : Nat) (a : Word) : Bool :=
  match place a with
  | .pond site cl _ => isCore k && 10 * site + cl == clOf k
  | .scratchE _ => true
  | .scratchD _ => true
  | _ => false

/-- The refusal of R24 leaves an event of the host family. -/
def State.refusedEvent (s : State) (k : Nat) (a : Word) : State :=
  s.emit 0x7101 (polderOf k) (uidUnit k) [(8, a.toNat)]

/-! ## Protected reads and writes (R170, R171, R390, R647) -/

/-- The mark key of an access of the Lake: stack and 64-byte access. -/
def lakeMarkKey (slots : List Nat) (off : Nat) : Nat :=
  let (k, l) := lakeLoc slots off
  k * 2 ^ 30 + l / 64

/-- A pond word is read: a correctable error is corrected and written back, an uncorrectable one reported (R171). -/
def State.readWord (s : State) (a : Nat) (requestor : Nat) : State × Bool :=
  match Tbl.get s.pondMark none (a / 8) with
  | none => (s, false)
  | some .corr =>
    let site := a / 2 ^ 30 % 64
    let s1 := { s with pondMark := Tbl.put s.pondMark (a / 8) none }
    ((s1.emit 0x5101 site requestor [(8, a / 8 * 8), (4, Config.syndrome 0x5101 requestor (a / 8 * 8) s.ref)]).countCl (10 * site + a / 2 ^ 26 % 16) 0x1B 15 2 1, false)
  | some .uncorr =>
    let site := a / 2 ^ 30 % 64
    (s.detect 0x5102 site requestor [(8, a / 8 * 8), (4, requestor), (4, Config.syndrome 0x5102 requestor (a / 8 * 8) s.ref)], true)

/-- A stack fails: the record, and the step poisoned; the restart that follows replaces it (R387, R393). -/
def State.stackFail (s : State) (st : Nat) : State :=
  let x := s.stack st
  if x.failed then s
  else ((s.setStack st { x with failed := true }).emit 0x5303 srcWarden (uidStack st) [(1, st)]).poison (56 + st / 11)

/-- The counts of R393: more than 64 uncorrectable accesses in a patrol pass, or four rows within 1 s. -/
def Stack.tooMany (x : Stack) (ref : Nat) : Bool :=
  decide (x.unc > 64) || decide ((((x.rows.filter (fun e => e.2 + 100000000 > ref)).map (·.1)).eraseDups).length ≥ 4)

/-- A stack-local address in the fields of Table 12.2. -/
structure StackAddr where
  byte    : Nat
  channel : Nat
  pseudo  : Nat
  bank    : Nat
  column  : Nat
  row     : Nat
  rank    : Nat
  deriving DecidableEq, Repr

/-- Where a stack controller places a stack-local offset (R386). -/
def stackAddr (l : Nat) : StackAddr :=
  ⟨l % 64, l / 2 ^ 6 % 32, l / 2 ^ 11 % 2, l / 2 ^ 12 % 16, l / 2 ^ 16 % 32, l / 2 ^ 21 % 8192, l / 2 ^ 34 % 4⟩

/-- The rows of a stack, apart (R393): row, rank, bank and channel. -/
def StackAddr.rowId (x : StackAddr) : Nat :=
  ((x.rank * 8192 + x.row) * 16 + x.bank) * 64 + 2 * x.channel + x.pseudo

/-- A 64-byte access of a stack is uncorrectable (R390, R393); `off` is its Lake offset, none in a stack that no slot maps. -/
def State.accessLost (s : State) (st acc : Nat) (off : Option Nat) : State :=
  let s1 := { s with lkUnc := min (s.lkUnc + 1) 65535, lkLast := st }
  let x := s1.stack st
  let y := { x with unc := x.unc + 1, rows := ((stackAddr (64 * acc)).rowId, s1.ref) :: x.rows }
  let s2 := s1.setStack st y
  let susp := match off with
    | some o => [1, 2, 3, 6].any (fun kd => s2.inMap kd o 64) || overlaps o 64 (sealBase s2) (256 * 2 ^ 20)
    | none => false
  let s3 := { s2 with lkSuspect := s2.lkSuspect || susp }
  let s4 := s3.detect 0x5302 (56 + st / 11) (uidStack st) [(1, st), (8, 64 * acc)]
  if y.tooMany s.ref then s4.stackFail st else s4

/-- Access `acc` of a stack is read (R390). -/
def State.readAccess (s : State) (st acc : Nat) (off : Option Nat) : State × Bool :=
  let key := st * 2 ^ 30 + acc
  match Tbl.get s.lakeMark none key with
  | none => (s, false)
  | some .corr =>
    let s1 := { s with lakeMark := Tbl.put s.lakeMark key none, lkCorr := min (s.lkCorr + 1) (2 ^ 32 - 1) }
    ((s1.emit 0x5301 (56 + st / 11) (uidStack st) [(1, st), (8, 64 * acc)]).countEmb (32 + st) 2 1, false)
  | some .uncorr => (s.accessLost st acc off, true)

/-- A 64-byte access at a Lake offset is read. -/
def State.readLine (s : State) (off : Nat) : State × Bool :=
  let x := lakeLoc s.slots off
  s.readAccess x.1 (x.2 / 64) (some off)

/-- Count the 64-byte reads (`i` = 0) or writes (`i` = 1) of the stack controllers that `n` accesses from an offset make
(Table 20.3). -/
def State.countLines (s : State) (i off : Nat) : Nat → State
  | 0 => s
  | n + 1 => State.countLines (s.countEmb (32 + (lakeLoc s.slots off).1) i 1) i (off + 64) n

/-- The 64-byte accesses that `n` bytes at an offset touch. -/
def lineCount (off n : Nat) : Nat := if n = 0 then 0 else (off + n - 1) / 64 - off / 64 + 1

/-- Check every protected unit that `n` bytes at a device address touch, in ascending order; `cnt` units remain. The answer
names the first uncorrectable one. -/
def State.scan (s : State) (lake : Bool) (unit : Nat) (requestor : Nat) : Nat → State × Option Nat
  | 0 => (s, none)
  | cnt + 1 =>
    let (s1, bad) := if lake then s.readLine (unit * 64) else s.readWord (unit * 8) requestor
    let (s2, more) := State.scan s1 lake (unit + 1) requestor cnt
    (s2, if bad then some unit else more)

/-- A read of `n` bytes at an address by a requestor: the bytes, and the device address of the first word or access that is
uncorrectable. With no error injected nothing but the read happens. -/
def State.eccRead (s : State) (a : Word) (n : Nat) (requestor : Nat) : State × Option Nat :=
  match place a with
  | .pond _ _ _ =>
    if s.pondMark.isEmpty || n = 0 then (s, none)
    else
      let lo := a.toNat / 8
      let (s1, b) := s.scan false lo requestor ((a.toNat + n - 1) / 8 - lo + 1)
      (s1, b.map (· * 8))
  | .lake off =>
    let s0 := s.countLines 0 (off / 64 * 64) (lineCount off n)
    if s0.lakeMark.isEmpty || n = 0 then (s0, none)
    else
      let (s1, b) := s0.scan true (off / 64) requestor (lineCount off n)
      (s1, b.map (fun u => lakeKey (u * 64)))
  | _ => (s, none)

/-- Write one protected unit's part of a masked write: a unit that is only partly covered is read first, and an
uncorrectable one keeps its bytes (Table 5.7, R647); a whole write makes fresh check bits. -/
def State.writeUnit (s : State) (lake : Bool) (key : Nat) (bs : List (Option Byte)) (whole : Bool) (requestor : Nat) :
    State × Bool :=
  if bs.all (·.isNone) then (s, false)
  else if whole then
    let s1 := if lake then { s with lakeMark := Tbl.put s.lakeMark (lakeMarkKey s.slots (key % 2 ^ 41)) none }
      else { s with pondMark := Tbl.put s.pondMark (key / 8) none }
    ({ s1 with mem := memWriteMask s1.mem key bs }, false)
  else
    let (s1, bad) := if lake then s.readLine (key % 2 ^ 41) else s.readWord key requestor
    if bad then (s1, true) else ({ s1 with mem := memWriteMask s1.mem key bs }, false)

/-- Split a masked write at protected units of `g` bytes and write each; `fuel` bounds the units. -/
def State.writeUnits (s : State) (lake : Bool) (g key : Nat) (bs : List (Option Byte)) (requestor : Nat) :
    Nat → State × Bool
  | 0 => (s, false)
  | fuel + 1 =>
    if bs.isEmpty then (s, false)
    else
      let room := g - key % g
      let part := bs.take room
      let whole := room == g && part.length == g && part.all (·.isSome)
      let (s1, b1) := s.writeUnit lake key part whole requestor
      let (s2, b2) := State.writeUnits s1 lake g (key + room) (bs.drop room) requestor fuel
      (s2, b1 || b2)

/-- A masked write at a device address; the answer says whether part of it was not performed. -/
def State.eccWrite (s : State) (a : Word) (bs : List (Option Byte)) (requestor : Nat) : State × Bool :=
  match place a with
  | .pond _ _ _ =>
    if s.pondMark.isEmpty then (setMem s (memWriteMask s.mem a.toNat bs), false)
    else s.writeUnits false 8 a.toNat bs requestor (bs.length + 1)
  | .lake off =>
    let s0 := s.countLines 1 (off / 64 * 64) (lineCount off bs.length)
    if s0.lakeMark.isEmpty then (setMem s0 (memWriteMask s0.mem a.toNat bs), false)
    else s0.writeUnits true 64 a.toNat bs requestor (bs.length + 1)
  | _ => (setMem s (memWriteMask s.mem a.toNat bs), false)

/-- Bytes at a key, and plain writes of a unit to its key. -/
def State.bytesAt (s : State) (key n : Nat) : List Byte := memRead s.mem key n
def State.natAt (s : State) (key n : Nat) : Nat := leNat (memRead s.mem key n)
def State.putNat (s : State) (key n v : Nat) : State := setMem s (memWrite s.mem key (leBytes n v))

/-- A write whose every byte is present. -/
def present (bs : List Byte) : List (Option Byte) := bs.map some

/-! ## Packets (R268 to R271, R274) -/

def emptyBlock : Block := ⟨0, [], false, false, 0⟩

/-- A packet with its header's common fields, at its source, not yet given an output. -/
def mkPacket (kind : PKind) (cls src dst tid : Nat) : Packet :=
  { kind := kind, cls := cls, src := src, dst := dst, loc := src, inp := 0, out := none, esc := false, bufEsc := false,
    arr := 0, branches := none, held := false, status := 0, tid := tid, addr := 0, size := 0, data := [], gaps := [], gtag := 0, block := 0, cnt := 0, slu := 0, ue := false,
    step := 0, nrun := 0, blk := emptyBlock, ctl := .none, op := 0, group := 0, acks := [] }

def State.send (s : State) (p : Packet) : State := { s with mesh := s.mesh ++ [p] }

/-- A class-1 request of unit `k` (R283): a fresh identifier, the request recorded, its packet sent. -/
def State.requestGaps (s : State) (owner node : Nat) (kind : ReqKind) (pk : PKind) (a : Word) (size : Nat) (data : List Byte)
    (op : Nat) (gaps : List Nat) : State :=
  let (id, s1) := s.takeId
  let s2 := { s1 with reqs := s1.reqs ++ [Req.mk id owner node a kind] }
  s2.send { mkPacket pk 1 node (s2.targetNode a) id with addr := a, size := size, data := data, op := op, gaps := gaps }

/-- A request for whole bytes. -/
def State.request (s : State) (owner node : Nat) (kind : ReqKind) (pk : PKind) (a : Word) (size : Nat) (data : List Byte)
    (op : Nat) : State := s.requestGaps owner node kind pk a size data op []

/-! ## CRC (R646, R355) -/

/-- One bit into a CRC register of `w` bits. -/
def crcBit (w poly reg bit : Nat) : Nat :=
  let top := reg / 2 ^ (w - 1) % 2
  let sh := reg * 2 % 2 ^ w
  if top != bit then Nat.xor sh poly else sh

/-- One byte into a CRC register, most significant bit first. -/
def crcByte (w poly reg : Nat) (b : Byte) : Nat :=
  (List.range 8).foldl (fun r i => crcBit w poly r (b.toNat / 2 ^ (7 - i) % 2)) reg

def crcOf (w poly init : Nat) (bs : List Byte) : Nat := bs.foldl (crcByte w poly) init

def crc16 (bs : List Byte) : Nat := crcOf 16 0x1021 0xFFFF bs
def crc32 (bs : List Byte) : Nat := crcOf 32 0x04C11DB7 0xFFFFFFFF bs
/-- ECMA-182, initial value 0 (R355). -/
def crc64 (bs : List Byte) : Nat := crcOf 64 0x42F0E1EBA9EA3693 0 bs

/-! ## Issue, fetch, traps, retirement (R158, R165, R187 to R189, R262) -/

/-- The sub-cause of an access refused at issue, none when it passes (R648); `align` is the alignment it needs. -/
def State.accessFault (s : State) (k : Nat) (a : Word) (n align : Nat) (write : Bool) : Option Nat :=
  match s.refuses (.unit k) a n write with
  | some 3 => some 3
  | r =>
    if a.toNat % align ≠ 0 then some 1
    else match r with
      | some x => some x
      | none => if !localTo k a && s.noRoute k a then some 0 else none

/-- A core's pc that cannot be fetched: a space other than the pond and the Lake, or refused (R165, R203, R24). -/
def State.fetchFault (s : State) (k : Nat) (pc : Word) : Option Nat :=
  if !isCore k then none
  else match place pc with
    | .pond _ _ _ => s.accessFault k pc 4 4 false
    | .lake _ => s.accessFault k pc 4 4 false
    | .resbit => some 2
    | _ => some 0

/-- A trap with no usable handler, or inside the handler, halts the core (R189). -/
def State.haltTrap (s : State) (k cause : Nat) (tval pc : Word) : State :=
  (s.emit 0x7201 (polderOf k) (uidUnit k) [(1, k % 9), (1, cause), (8, tval.toNat), (8, pc.toNat)]).haltRec k 0x7201

/-- Taking a trap (R188): the registers saved, INTRAP set, the handler's address. A trap inside the handler or with no
handler halts the core (R189), as does a handler that cannot be fetched; a trap of a profile unit halts the unit (R262). -/
def State.trap (s : State) (k cause sub : Nat) (tval : Word) (slot1 : Bool) : State :=
  let p := s.proc k
  let handler := p.tvec &&& ~~~(63#64)
  if !isCore k then
    (s.emit 0x7202 (polderOf k) (uidUnit k) [(4, uidUnit k), (1, cause), (8, tval.toNat), (8, p.pc.toNat)]).haltRec k 0x7202
  else if p.intrap || handler = 0 then s.haltTrap k cause tval p.pc
  else
    let s1 := ((s.setProc k { p with tepc := p.pc, cause := cause, sub := sub, slot := slot1, tval := tval, intrap := true,
                                     pc := handler }).countEv k 0x06 2 1).traceAtom k p.pc 0xB
    match s1.fetchFault k handler with
    | none => s1
    | some _ => s1.haltTrap k causeAddress handler handler

/-- What an instruction does to the registers of its unit: go on, an untaken branch, continue at an address (a taken
transfer, with the trace atom), wait without retiring, or trap. -/
inductive IRes where
  | ok (p : Proc)
  | jump (p : Proc) (pc : Word) (atom : Nat)
  | branch (p : Proc)
  | wait
  | trap (cause sub : Nat) (tval : Word)
  deriving DecidableEq, Repr

/-- Retirement: the pc moves past the instruction and the counters count it (Table 20.2). -/
def State.retire (s : State) (k : Nat) (p : Proc) (len : Nat) (slot0 : Bool) (atom : Nat) : State :=
  let pc := (s.proc k).pc
  ((s.setProc k (p.pcAt (pc + BitVec.ofNat 64 len))).countEv k (if slot0 then 2 else 3) 2 1).traceAtom k pc atom

/-- Retirement of a taken transfer. A target that cannot be fetched traps at the target (R203). -/
def State.transfer (s : State) (k : Nat) (p : Proc) (target : Word) (slot0 : Bool) (atom : Nat) : State :=
  let pc := (s.proc k).pc
  let s1 := ((s.setProc k (p.pcAt target)).countEv k (if slot0 then 2 else 3) 2 1).traceAtom k pc atom
  match s1.fetchFault k target with
  | none => s1
  | some sub => (if sub = 1 then s1 else s1.refusedEvent k target).trap k causeAddress sub target false

/-- The fetch of an instruction's bytes: an uncorrectable pond word traps with the pond-data cause at the instruction
fetched (Table 5.7), an uncorrectable Lake access with the address-fault cause (R648). -/
def State.fetch (s : State) (k len : Nat) : State × Option (Nat × Word) :=
  if !isCore k then (s, none)
  else
    let pc := (s.proc k).pc
    let (s1, bad) := s.eccRead pc len (uidUnit k)
    match bad with
    | none => (s1, none)
    | some w => (s1, some (match place pc with | .pond _ _ _ => (causePond, BitVec.ofNat 64 w) | _ => (causeAddress, pc)))

/-- Does a 64-bit instruction issue in slot 1 (R158)? Descriptor moves issue in slot 0 (R235), and `smerge` issues alone. -/
def slot1Of (op : Nat) : Bool := op != 0x66 && op != 0x67 && op != 0x6D && op != 0x6E

/-- Issue of an instruction of `len` bytes whose registers are `regs`: nothing happens while the unit does not issue or a
register is interlocked (R158, R160); a 64-bit instruction off its boundary is illegal (R194). -/
def State.issue (s : State) (k : Nat) (regs : List Reg) (len : Nat) (word : Word) (g : State → State) : State :=
  if !s.canRun k || s.interlocked k regs then s
  else
    match s.fetch k len with
    | (s1, some (cause, tv)) => s1.trap k cause 0 tv false
    | (s1, none) =>
      if len = 8 && (s1.proc k).pc.getLsbD 2 then s1.trap k causeIllegal 0 (word &&& 0xFFFFFFFF#64) (slot1Of (word.toNat % 128))
      else g s1

/-- Act on an instruction's result. -/
def State.finish (s : State) (k len : Nat) (slot0 slot1 : Bool) (r : IRes) : State :=
  match r with
  | .ok p => s.retire k p len slot0 1
  | .branch p => s.retire k p len slot0 8
  | .jump p pc atom => s.transfer k p pc slot0 atom
  | .wait => s
  | .trap c sub v => s.trap k c sub v slot1

/-- Run a 32-bit instruction that touches only its unit's registers. -/
def State.runInstr (s : State) (k : Nat) (regs : List Reg) (slot0 : Bool) (f : Proc → IRes) : State :=
  s.issue k regs 4 0 (fun s1 => s1.finish k 4 slot0 false (f (s1.proc k)))

/-- The illegal-instruction trap of a 32-bit word (R196): TVAL holds the word. -/
def illegal32 (op : Nat) (f : BitVec 25) : IRes :=
  .trap causeIllegal 0 ((word32 (BitVec.ofNat 7 op) f).zeroExtend 64)

/-- The illegal-instruction trap of a 64-bit word: TVAL holds its first 32 bits. -/
def illegal64 (op : Nat) (f : BitVec 57) : IRes :=
  .trap causeIllegal 0 ((word64 (BitVec.ofNat 7 op) f) &&& 0xFFFFFFFF#64)

end Sys2Proof.Machine
end

