-- ==== Sys2Proof/Machine/Aes.lean ====
section
/-! DEFINITION. AES-256 and its XTS mode for one logical block of the flash store (R402): the byte that a reader under one key gets
from a block that was written under another. -/

namespace Sys2Proof.Machine

open Sys2Proof

/-! ## The field of AES -/

/-- A byte times x. -/
def gfDouble (b : Byte) : Byte := (b <<< 1) ^^^ (if b.getLsbD 7 then 0x1B else 0)

def gfMul (a b : Byte) : Byte :=
  (List.range 8).foldl (fun acc i => gfDouble acc ^^^ (if b.getLsbD (7 - i) then a else 0)) 0

/-- The inverse, 0 for 0: the 254th power. -/
def gfInv (a : Byte) : Byte :=
  ((List.range 7).foldl (fun (x : Byte × Byte) _ => let q := gfMul x.1 x.1; (q, gfMul x.2 q)) (a, 1)).2

def aesSub (b : Byte) : Byte :=
  let i := gfInv b
  i ^^^ i.rotateLeft 1 ^^^ i.rotateLeft 2 ^^^ i.rotateLeft 3 ^^^ i.rotateLeft 4 ^^^ 0x63

def aesSubInv (b : Byte) : Byte := gfInv (b.rotateLeft 1 ^^^ b.rotateLeft 3 ^^^ b.rotateLeft 6 ^^^ 0x05)

/-! ## Rounds. A state is 16 bytes, column by column. -/

def xorBytes (a b : List Byte) : List Byte := List.zipWith (· ^^^ ·) a b

/-- The word at place `i` of the key schedule from the words before it, newest first. -/
def aesWord (ws : List (List Byte)) (i : Nat) : List Byte :=
  let t := ws.headD []
  let u :=
    if i % 8 = 0 then
      xorBytes ((t.drop 1 ++ t.take 1).map aesSub) [(List.range (i / 8 - 1)).foldl (fun r _ => gfDouble r) 1, 0, 0, 0]
    else if i % 8 = 4 then t.map aesSub
    else t
  xorBytes (ws.getD 7 []) u

/-- The 15 round keys of a 32-byte key. -/
def aesKeys (key : List Byte) : List (List Byte) :=
  let first := (List.range 8).foldl (fun ws i => (key.drop (4 * i)).take 4 :: ws) []
  let all := ((List.range 52).foldl (fun ws i => aesWord ws (i + 8) :: ws) first).reverse
  (List.range 15).map (fun r => ((all.drop (4 * r)).take 4).flatten)

/-- Row `r` of the state moves left by `by'` of it. -/
def aesShift (by' : Nat → Nat) (s : List Byte) : List Byte :=
  (List.range 16).map (fun i => s.getD (i % 4 + 4 * ((i / 4 + by' (i % 4)) % 4)) 0)

/-- Every column times the circulant matrix whose first row is `m`. -/
def aesMix (m : List Byte) (s : List Byte) : List Byte :=
  (List.range 16).map (fun i =>
    (List.range 4).foldl (fun acc k => acc ^^^ gfMul (m.getD k 0) (s.getD (4 * (i / 4) + (i + k) % 4) 0)) 0)

def aesEncrypt (keys : List (List Byte)) (bs : List Byte) : List Byte :=
  let mid := ((keys.drop 1).take 13).foldl (fun s k =>
    xorBytes (aesMix [2, 3, 1, 1] (aesShift (fun r => r) (s.map aesSub))) k) (xorBytes bs (keys.getD 0 []))
  xorBytes (aesShift (fun r => r) (mid.map aesSub)) (keys.getD 14 [])

def aesDecrypt (keys : List (List Byte)) (bs : List Byte) : List Byte :=
  let first := (aesShift (fun r => 4 - r) (xorBytes bs (keys.getD 14 []))).map aesSubInv
  let mid := (((keys.drop 1).take 13).reverse).foldl (fun s k =>
    (aesShift (fun r => 4 - r) (aesMix [14, 11, 13, 9] (xorBytes s k))).map aesSubInv) first
  xorBytes mid (keys.getD 0 [])

/-! ## XTS -/

/-- The bytes of the first and of the second AES key of a job key (R589): data, tweak. -/
def xtsKeys (key : BitVec 512) : List (List Byte) × List (List Byte) :=
  let bs := leBytes 64 key.toNat
  (aesKeys (bs.take 32), aesKeys (bs.drop 32))

/-- A tweak times x in the field of 128 bits. -/
def xtsDouble (t : BitVec 128) : BitVec 128 := (t <<< 1) ^^^ (if t.getLsbD 127 then 0x87 else 0)

/-- The mask of the 16 bytes at place `j` of a data unit. -/
def xtsMask (k2 : List (List Byte)) (tweak j : Nat) : List Byte :=
  let t := BitVec.ofNat 128 (leNat (aesEncrypt k2 (leBytes 16 tweak)))
  leBytes 16 ((List.range j).foldl (fun x _ => xtsDouble x) t).toNat

def xtsEncrypt (key : BitVec 512) (tweak j : Nat) (bs : List Byte) : List Byte :=
  let (k1, k2) := xtsKeys key
  let m := xtsMask k2 tweak j
  xorBytes (aesEncrypt k1 (xorBytes bs m)) m

def xtsDecrypt (key : BitVec 512) (tweak j : Nat) (bs : List Byte) : List Byte :=
  let (k1, k2) := xtsKeys key
  let m := xtsMask k2 tweak j
  xorBytes (aesDecrypt k1 (xorBytes bs m)) m

/-- What 16 bytes that were written under one key read back as under another. -/
def xtsReread (written read : BitVec 512) (tweak j : Nat) (bs : List Byte) : List Byte :=
  xtsDecrypt read tweak j (xtsEncrypt written tweak j bs)

end Sys2Proof.Machine
end

