-- ==== Sys2Proof/Machine/Operands.lean ====
section
/-! DEFINITION. Operand forms: the fields of instruction words (Tables 6.2, 7.4, 7.7), vector elements (Table 2.2), the
rounding field (R40) and the draws of a core's generators (R44, R45). -/

namespace Sys2Proof.Machine

open Sys2Proof

/-- Word bits `[lo + len - 1 : lo]` of a field vector, whose bit 0 is word bit 7. -/
def fld {n : Nat} (f : BitVec n) (lo len : Nat) : Nat := f.toNat / 2 ^ (lo - 7) % 2 ^ len

/-- A `len`-bit field, sign-extended. -/
def sxt (len n : Nat) : Word := (BitVec.ofNat len n).signExtend 64

/-- rd, ra and rb of formats SA, SF and of the synchronisation format (R198, Table 7.7). -/
def rdOf (f : BitVec 25) : Nat := fld f 7 5
def raOf (f : BitVec 25) : Nat := fld f 12 5
def rbOf (f : BitVec 25) : Nat := fld f 17 5
def regs3 (f : BitVec 25) : List Reg := [.s (rdOf f), .s (raOf f), .s (rbOf f)]

/-- Elements of width `w` of a vector register, in element order. -/
def elems (w : Nat) (v : VReg) : List Nat := (List.range (512 / w)).map (fun i => v.toNat / 2 ^ (w * i) % 2 ^ w)

/-- The value whose elements of width `w` are given, lowest first. -/
def packElems (w : Nat) (xs : List Nat) : Nat := xs.foldr (fun x acc => x % 2 ^ w + 2 ^ w * acc) 0

def ofElems (w : Nat) (xs : List Nat) : VReg := BitVec.ofNat 512 (packElems w xs)

/-- Element `i` of a list of elements. -/
def elemAt (xs : List Nat) (i : Nat) : Nat := xs.getD i 0

/-- The mode that a rounding field selects; none for the encodings 0b101 and 0b110 (R40). -/
def rmMode (p : Proc) (rm : Nat) : Option Nat :=
  if rm ≤ 4 then some rm else if rm = 7 then some p.nround.toNat else none

/-- Identity of the scalar or the vector rounding unit (Table 2.3). A profile unit is one rounding unit. -/
def srId (k : Nat) (vec : Bool) : Nat := if isCore k then uidCore k (if vec then 1 else 0) else uidUnit k

/-- The element counter that the unit draws with (R45). -/
def Proc.ctrOf (p : Proc) (k : Nat) (vec : Bool) : Word := if isCore k && !vec then p.ctrS else p.ctrV
def Proc.setCtr (p : Proc) (k : Nat) (vec : Bool) (c : Word) : Proc :=
  if isCore k && !vec then { p with ctrS := c } else { p with ctrV := c }

/-- `n` draws in ascending element order; the counter advances by `n` when the mode is SR, and else nothing is drawn (R44). -/
def Proc.draws (p : Proc) (k : Nat) (vec : Bool) (mode n : Nat) : List Nat × Proc :=
  if mode = mSR then
    let c := p.ctrOf k vec
    ((List.range n).map (fun i => srDraw p.seedJob (srId k vec) p.seedStep.toNat (c + BitVec.ofNat 64 i)),
      p.setCtr k vec (c + BitVec.ofNat 64 n))
  else (List.replicate n 0, p)

/-- Raise sticky flags (R37). -/
def Proc.raise (p : Proc) (fl : Flg) : Proc := { p with nflags := p.nflags ||| fl }

/-- The flags of a list of results. -/
def flagsOf (rs : List FRes) : Flg := rs.foldl (fun a r => a ||| r.fl) 0

/-- Is element `i` active under a predicate value (R212). -/
def active (pg : Word) (i : Nat) : Bool := pg.getLsbD i

/-- Merge results into a destination: an inactive element keeps its old value, or is zero when `mz` (R212). -/
def mergeElems (pg : Word) (mz : Bool) (old new : List Nat) : List Nat :=
  (List.range new.length).map (fun i =>
    if active pg i then elemAt new i else if mz then 0 else elemAt old i)

/-- Flags of the active elements only. -/
def activeFlags (pg : Word) (rs : List FRes) : Flg :=
  (List.range rs.length).foldl (fun a i => if active pg i then a ||| (rs.getD i ⟨0, 0⟩).fl else a) 0

/-- The size in bits of a format code's elements. -/
def fmtWidth (code : Nat) : Nat := (Fmt.of code).width

end Sys2Proof.Machine
end

