-- ==== Sys2Proof/Machine/ArrayMath.lean ====
section
/-! DEFINITION. The arithmetic of arrays and SSB-32 blocks: descriptors (R228 to R232), products into a register (R53 to
R62), the drain's rounding (R56 to R63, R650), raw elements (Table 3.4), tile headers (Table 3.6), shared-scale blocks
(R64 to R74) and the T24 pattern (R125). -/

namespace Sys2Proof.Machine

open Sys2Proof

/-! ## Descriptors (Tables 7.1 to 7.4) -/

/-- Bits `[lo + len - 1 : lo]` of a descriptor, and the same signed. -/
def dbits (d : Desc) (lo len : Nat) : Nat := d.toNat / 2 ^ lo % 2 ^ len
def dsigned (d : Desc) (lo len : Nat) : Int := (BitVec.ofNat len (dbits d lo len)).toInt

def dBase (d : Desc) : Word := d.truncate 64
def dFmt (d : Desc) : Nat := dbits d 64 4
def dKind (d : Desc) : Nat := dbits d 68 2
def dHdrv (d : Desc) : Bool := d.getLsbD 70
def dMdv (d : Desc) : Bool := d.getLsbD 71
def dFollow (d : Desc) : Bool := d.getLsbD 72
def dRsplit (d : Desc) : Bool := d.getLsbD 73
/-- Address of the header of the operand's `m`-th block of 128 vectors (R232). -/
def dHdr (d : Desc) (m : Nat) : Word := dBase d + BitVec.ofInt 64 (16 * dsigned d 80 24 + 16 * m)
/-- Address of the sparsity metadata. -/
def dMd (d : Desc) : Word := dBase d + BitVec.ofInt 64 (16 * dsigned d 104 24)
def dE (d : Desc) (i : Nat) : Nat :=
  if i = 3 then (if dRsplit d then 1 else dbits d 176 16) else dbits d (128 + 16 * i) 16
/-- Stride of dimension `i` (1 to 3) in bytes. -/
def dS (d : Desc) (i : Nat) : Nat := 16 * dbits d (192 + 21 * (i - 1)) 21
def dHot (d : Desc) : Nat := dbits d 176 7
def dPartner (d : Desc) : Nat := dbits d 183 7
/-- COUNT and X of an index stream. -/
def dCount (d : Desc) : Nat := dbits d 128 25
def dX (d : Desc) : Nat := dbits d 153 32

/-- Vectors that a tensor descriptor describes (R230). -/
def dVectors (d : Desc) : Nat := dE d 1 * dE d 2 * dE d 3
/-- Address of vector `v` (R229, R230). -/
def dVec (d : Desc) (v : Nat) : Word :=
  dBase d + BitVec.ofNat 64 (v % dE d 1 * dS d 1 + v / dE d 1 % dE d 2 * dS d 2 + v / (dE d 1 * dE d 2) * dS d 3)

/-- A window-walk element (R111, R231): the byte offset from BASE, none for a zero outside the input. -/
def wwOffset (d : Desc) (es v i : Nat) : Option Nat :=
  let cin := dbits d 128 16
  let hin := dbits d 144 16
  let win := dbits d 160 16
  let kh := dbits d 176 3 + 1
  let kw := dbits d 179 3 + 1
  let ow := dbits d 239 16
  let p := dbits d 215 24 + v
  let r := 128 * dbits d 200 15 + i
  let c := r % cin
  let q := r / cin
  let iy : Int := (p / ow * (dbits d 182 2 + 1) + q / kw * (dbits d 186 2 + 1) : Nat) - (dbits d 190 5 : Int)
  let ix : Int := (p % ow * (dbits d 184 2 + 1) + q % kw * (dbits d 188 2 + 1) : Nat) - (dbits d 195 5 : Int)
  if r ≥ kh * kw * cin ∨ iy < 0 ∨ iy ≥ hin ∨ ix < 0 ∨ ix ≥ win then none
  else some (iy.toNat * (win * cin * es) + ix.toNat * (cin * es) + c * es)

/-- The limits of R112 and Table 7.3. -/
def wwValid (d : Desc) : Bool :=
  let kh := dbits d 176 3 + 1
  let kw := dbits d 179 3 + 1
  dbits d 128 16 != 0 && dbits d 144 16 != 0 && dbits d 160 16 != 0 && dbits d 239 16 != 0 && kh ≤ 7 && kw ≤ 7 &&
    dbits d 190 5 ≤ (dbits d 186 2 + 1) * (kh - 1) && dbits d 195 5 ≤ (dbits d 188 2 + 1) * (kw - 1)

/-! ## Products into a register -/

/-- Exponent of the register's bit 0: −48 for binary16, `T` − 111 for a window (R54, R57). -/
def regExp (top : Option Int) : Int := match top with | some t => t - 111 | none => -48

/-- Does a register image fit 112 bits? -/
def fits112 (x : Int) : Bool := decide (-(2 ^ 111) ≤ x) && decide (x < 2 ^ 111)

/-- One product into a cell (R54 to R62, R117, R650). -/
def Cell.mulAdd (c : Cell) (F : Fmt) (top : Option Int) (x y : Nat) : Cell :=
  let a := unpack F x
  let b := unpack F y
  let sg := a.sign ^^ b.sign
  let c := { c with cnt := c.cnt + 1 }
  if a.isNan || b.isNan || (a.cls == .inf && b.cls == .zero) || (a.cls == .zero && b.cls == .inf) then
    { c with nan := true, nzero := false }
  else if a.cls == .inf || b.cls == .inf then
    if sg then { c with ninf := true, nzero := false } else { c with pinf := true, nzero := false }
  else
    let m := a.mant * b.mant
    if m = 0 then { c with nzero := c.nzero && sg }
    else
      let e := a.exp + b.exp
      let g := regExp top
      let d := (g - e).toNat
      let q : Nat := if e ≥ g then m * 2 ^ (e - g).toNat else m / 2 ^ d
      let lost : Nat := if e ≥ g then 0 else m % 2 ^ d
      let sq : Int := if sg then -(q : Int) else q
      let sl : Int := if sg then -(lost : Int) else lost
      let r := c.reg + sq
      { c with reg := r, nzero := false, wloss := c.wloss || lost != 0, ovr := c.ovr || !fits112 sq || !fits112 r,
               disc := (c.disc + resOf sl e) % 65535 }

/-- One logical row's element into the cells of a row of outputs; a position without a value takes no product (R131,
R137). -/
def rowInto (F : Fmt) (top : Option Int) (x : Nat) (cells : List Cell) (row : List (Option Nat)) : List Cell :=
  List.zipWith (fun c y => match y with | some v => c.mulAdd F top x v | none => c) cells row

/-- One vector through a tile: the registers of the 128 columns. An element that is no operand (none) adds nothing. -/
def passCells (F : Fmt) (top : Option Int) (xs : List (Option Nat)) (rows : List (List (Option Nat))) (start : List Cell) :
    List Cell :=
  (List.zip xs rows).foldl (fun cs xr => match xr.1 with | some x => rowInto F top x cs xr.2 | none => cs) start

/-- Residue of a datum; a non-finite one contributes 0 (R116). -/
def resDatum (F : Fmt) (x : Nat) : Nat :=
  let u := unpack F x
  if u.finite then resOf u.int u.exp else 0

/-- Checksum residue of a row (R95, R116). -/
def rowResidue (F : Fmt) (row : List (Option Nat)) : Nat :=
  (row.foldl (fun acc y => acc + (match y with | some v => resDatum F v | none => 0)) 0) % 65535

/-- The checksum column's sum for a vector (R116). -/
def vecResidue (F : Fmt) (xs : List (Option Nat)) (chk : List Nat) : Nat :=
  ((List.zip xs chk).foldl (fun acc xc => acc + (match xc.1 with | some x => resDatum F x | none => 0) * xc.2) 0) % 65535

/-- The residue row's sum over outputs (R117). -/
def outResidue (top : Option Int) (cells : List Cell) : Nat :=
  (cells.foldl (fun acc c => acc + resOf c.reg (regExp top) + c.disc) 0) % 65535

/-- Live products of a vector (R137, event 0x0B). -/
def liveProducts (xs : List (Option Nat)) (rows : List (List (Option Nat))) : Nat :=
  (List.zip xs rows).foldl (fun acc xr => if xr.1.isSome then acc + (xr.2.filter (·.isSome)).length else acc) 0

/-! ## Raw elements (Table 3.4, R92, R651) -/

def b2n (b : Bool) : Nat := if b then 1 else 0

def rawPack (c : Cell) : List Byte :=
  leBytes 14 (c.reg % 2 ^ 112).toNat ++
    [BitVec.ofNat 8 (b2n c.nan + 2 * b2n c.pinf + 4 * b2n c.ninf + 8 * b2n c.wloss + 16 * b2n (c.nzero && c.cnt != 0) +
      32 * b2n c.ovr), 0]

/-- A carried-in element as the start of a column; the discard residue starts at minus its residue (R117). A faulty word
enters as a NaN (Table 5.7). -/
def rawStart (top : Option Int) (bad : Bool) (bs : List Byte) : Cell :=
  let n := leNat (bs.take 14)
  let fl := (bs.getD 14 0).toNat
  let reg : Int := if n ≥ 2 ^ 111 then (n : Int) - 2 ^ 112 else n
  let bit (i : Nat) : Bool := fl / 2 ^ i % 2 == 1
  ⟨reg, bad || bit 0, bit 1, bit 2, bit 3, !bad && bit 4, bit 5, (65535 - resOf reg (regExp top)) % 65535, 1⟩

/-! ## The drain's rounding (R55 to R63, R113, R114, R650) -/

/-- A drained output: its encoding, and whether it is reported non-finite, overflowed, with window loss, cancelled. -/
structure Drained where
  bits   : Nat
  nonfin : Bool
  ovf    : Bool
  wloss  : Bool
  cancel : Bool
  deriving DecidableEq, Repr

/-- Is a register's output non-finite (R55, R60, R62)? Only binary16 has no window, and there the products are counted. -/
def Cell.nonfinite (c : Cell) (top : Option Int) : Bool :=
  c.ovr || c.nan || c.pinf || c.ninf || (top.isNone && c.cnt > 2 ^ 30)

/-- Magnitude `m × 2^e` below `2^b`. -/
def belowPow (m : Nat) (e b : Int) : Bool := m == 0 || decide ((m.log2 : Int) + e < b)

/-- One output of the drain (R56, R60, R62, R63, R650). An output that overflowed its window, or counted more than 2^30 products,
is the NaN of R55 and R60 whatever infinities it met (DESIGN CHOICE, log entry 79). An output that took no product is +0 (log
entry 79). -/
def Cell.drain (c : Cell) (top : Option Int) (F : Fmt) (mode r : Nat) : Drained :=
  if c.ovr || c.nan || (c.pinf && c.ninf) || (top.isNone && c.cnt > 2 ^ 30) then ⟨F.qnan, true, false, false, false⟩
  else if c.pinf then ⟨F.inf, true, false, false, false⟩
  else if c.ninf then ⟨F.signBit + F.inf, true, false, false, false⟩
  else
    let res : FRes :=
      if c.reg = 0 then ⟨if (c.nzero && c.cnt != 0) || mode == mRDN then F.signBit else 0, 0⟩
      else roundNZ F mode (c.reg < 0) c.reg.natAbs (regExp top) false r
    let u := unpack F res.bits
    let can := c.wloss && (match top with | some t => u.finite && belowPow u.mant u.exp (t - 56) | none => false)
    ⟨res.bits, false, (res.fl &&& flOF) != 0, c.wloss, can⟩

/-- Is a finite output's magnitude above a binary32 bound (R370)? -/
def aboveBound (F : Fmt) (x bound : Nat) : Bool :=
  let a := unpack F x
  let b := unpack (Fmt.of 2) bound
  if bound = 0 || !a.finite || b.cls == .inf then false
  else
    let e := min a.exp b.exp
    decide (a.mant * 2 ^ (a.exp - e).toNat > b.mant * 2 ^ (b.exp - e).toNat)

/-! ## Tile headers (Table 3.6) -/

structure TileHdr where
  fmt    : Nat
  poison : Bool
  nonfin : Bool
  maxexp : Option Int
  top    : Option Int
  rows   : Nat
  cols   : Nat
  deriving DecidableEq, Repr

/-- A signed 16-bit field whose 0x8000 stands for none; a value beyond 16 bits is held modulo 65536 (DESIGN CHOICE, log entry
80). -/
def exp16 (n : Nat) : Option Int := if n = 0x8000 then none else some (BitVec.ofNat 16 n).toInt
def exp16Enc (e : Option Int) : Nat := match e with | some x => (x % 65536).toNat | none => 0x8000

def tileHdr (bs : List Byte) : TileHdr :=
  let n := leNat bs
  ⟨n % 16, n / 16 % 2 == 1, n / 32 % 2 == 1, exp16 (n / 2 ^ 16 % 65536), exp16 (n / 2 ^ 32 % 65536), n / 2 ^ 48 % 256,
    n / 2 ^ 56 % 256⟩

def tileHdrBytes (fmt : Nat) (t : TileStat) (raw : Bool) (top : Option Int) (rows cols step : Nat) : List Byte :=
  leBytes 2 (fmt + 16 * b2n t.poison + 32 * b2n t.nonfin + 64 * b2n (t.ovf && !raw) + 128 * b2n t.wloss +
    256 * b2n (t.cancel && !raw)) ++ leBytes 2 (exp16Enc (if raw then none else t.maxexp)) ++ leBytes 2 (exp16Enc top) ++
    leBytes 1 rows ++ leBytes 1 cols ++ leBytes 6 step ++ [0, 0]

/-- The window top from two MAXEXP fields and K (R101, R102). -/
def ceilLog2 (k : Nat) : Nat := if k ≤ 1 then 0 else (k - 1).log2 + 1
def windowTop (fmt k : Nat) (ms mx : Option Int) : Int :=
  match ms, mx with
  | some a, some b => a + b + ceilLog2 k + 2
  | _, _ => 2 * ((Fmt.of fmt).emin - (Fmt.of fmt).fb)

def optMax (a b : Option Int) : Option Int :=
  match a, b with
  | some x, some y => some (max x y)
  | some x, none => some x
  | none, y => y

/-- The statistic of an output in its tile's header. -/
def TileStat.take (t : TileStat) (F : Fmt) (o : Drained) : TileStat :=
  let u := unpack F o.bits
  { t with maxexp := if u.cls == .fin then optMax t.maxexp (some u.log2) else t.maxexp,
           nonfin := t.nonfin || !u.finite, ovf := t.ovf || o.ovf, wloss := t.wloss || o.wloss,
           cancel := t.cancel || o.cancel }

/-! ## SSB-32 (R64 to R74) -/

def maxAbs (xs : List Int) : Nat := xs.foldl (fun m x => max m x.natAbs) 0
def sumRes32 (xs : List Int) : Nat := (xs.foldl (· + ·) 0 % 65535).toNat

/-- `x × 2^-d`, stochastic with the draw `r` (R69). -/
def srShift (x : Int) (d : Int) (r : Nat) : Int :=
  if d ≤ 0 then x * 2 ^ (-d).toNat
  else
    let k := d.toNat
    let mag := x.natAbs
    let f16 := if k ≥ 16 then mag / 2 ^ (k - 16) % 65536 else mag * 2 ^ (16 - k) % 65536
    let q := if f16 + r ≥ 65536 then mag / 2 ^ k + 1 else mag / 2 ^ k
    if x < 0 then -(q : Int) else q

/-- Shift 32 elements; a right shift takes one draw per element, in order (R69). The counter follows. -/
def shiftAll (draw : Word → Nat) (ctr : Word) (xs : List Int) (d : Int) : List Int × Word :=
  if d ≤ 0 then (xs.map (fun x => srShift x d 0), ctr)
  else ((List.range xs.length).map (fun i => srShift (xs.getD i 0) d (draw (ctr + BitVec.ofNat 64 i))),
        ctr + BitVec.ofNat 64 xs.length)

/-- A reduction's running sum: exponent (0 empty, 255 poisoned), 32 elements, FLUSH, COMB. -/
structure Accum where
  e     : Nat
  s     : List Int
  flush : Bool
  comb  : Bool
  deriving DecidableEq, Repr

def zeros32 : List Int := List.replicate 32 0
def Accum.empty : Accum := ⟨0, zeros32, false, false⟩

/-- `poison_accum` of R69. -/
def poisonAccum (a : Accum) (b : Block) : Accum :=
  let live := b.e != 0   -- a zero block's fields are ignored (R66)
  ⟨255, zeros32, a.flush || (live && b.flush), a.comb || (live && b.comb) || (a.e != 0 && live)⟩

/-- `add_block` of R69. -/
def addBlock (draw : Word → Nat) (ctr : Word) (a : Accum) (b : Block) : Accum × Word :=
  if a.e = 255 ∨ b.e = 255 then (poisonAccum a b, ctr)
  else if b.e = 0 then (a, ctr)
  else if a.e = 0 then (⟨b.e, b.sig, b.flush, b.comb⟩, ctr)
  else
    let (s1, c1) := if b.e > a.e then shiftAll draw ctr a.s ((b.e : Int) - a.e) else (a.s, ctr)
    let e1 := max a.e b.e
    let (bs, c2) := shiftAll draw c1 b.sig ((e1 : Int) - b.e)
    let s2 := List.zipWith (· + ·) s1 bs
    if maxAbs s2 ≥ 2 ^ 23 then
      let (s3, c3) := shiftAll draw c2 s2 1
      if e1 + 1 > 254 then (⟨255, zeros32, a.flush || b.flush, true⟩, c3)
      else (⟨e1 + 1, s3, a.flush || b.flush, true⟩, c3)
    else (⟨e1, s2, a.flush || b.flush, true⟩, c2)

/-- `flush_test` of R74 over what the output is formed from. -/
def flushTest (src : List Bool) (o : List Int) : Bool :=
  (o.filter (fun x => decide (2 ≤ x.natAbs))).length == 1 &&
    (List.zip src o).any (fun so => so.1 && decide (so.2.natAbs ≤ 1))

def zeroBlock : Block := ⟨0, zeros32, false, false, 0⟩
def poisonBlock (flush comb : Bool) : Block := ⟨255, zeros32, flush, comb, 0⟩

/-- `normalise` of R69. -/
def normalise (draw : Word → Nat) (ctr : Word) (a : Accum) : Block × Word :=
  let m := maxAbs a.s
  if a.e = 255 then (poisonBlock a.flush a.comb, ctr)
  else if a.e = 0 ∨ m = 0 then (zeroBlock, ctr)
  else
    let r0 : Int := (m.log2 : Int) - 13
    let r : Int := if (a.e : Int) + r0 < 1 then 1 - (a.e : Int) else r0
    let (o, c1) := shiftAll draw ctr a.s r
    let e1 := (a.e : Int) + r
    let (o2, c2, e2) : List Int × Word × Int :=
      if maxAbs o = 16384 then let x := shiftAll draw c1 o 1; (x.1, x.2, e1 + 1) else (o, c1, e1)
    if e2 > 254 then (poisonBlock a.flush a.comb, c2)
    else (⟨e2.toNat, o2, a.flush || flushTest (a.s.map (· != 0)) o2, a.comb, sumRes32 o2⟩, c2)

/-- The 64 bytes of a block (Table 2.7), and a block from its bytes. -/
def blockBytes (b : Block) : List Byte :=
  let sig := (List.range 32).foldl (fun acc i => acc + ((b.sig.getD i 0) % 32768).toNat * 2 ^ (15 * i)) 0
  leBytes 60 sig ++ [BitVec.ofNat 8 b.e, BitVec.ofNat 8 (b2n b.flush + 2 * b2n b.comb)] ++ leBytes 2 b.res

def blockOf (bs : List Byte) : Block :=
  let n := leNat (bs.take 60)
  let el (i : Nat) : Int := let x := n / 2 ^ (15 * i) % 32768; if x ≥ 16384 then (x : Int) - 32768 else x
  let fl := (bs.getD 61 0).toNat
  ⟨(bs.getD 60 0).toNat, (List.range 32).map el, fl % 2 == 1, fl / 2 % 2 == 1, leNat ((bs.drop 62).take 2)⟩

/-- The residue check on arrival (R67); zero and poisoned blocks are not checked (R66). -/
def blockBad (b : Block) : Bool := b.e != 0 && b.e != 255 && sumRes32 b.sig != b.res

/-- Two registers added exactly, with what was tracked beside them (R133, R143). -/
def Cell.merge (c d : Cell) : Cell :=
  ⟨c.reg + d.reg, c.nan || d.nan, c.pinf || d.pinf, c.ninf || d.ninf, c.wloss || d.wloss, c.nzero && d.nzero,
    c.ovr || d.ovr || !fits112 (c.reg + d.reg), (c.disc + d.disc) % 65535, c.cnt + d.cnt⟩

/-- The values of a T24 pair's rows that one wave multiplies: for each group of four rows and each column the two lower-indexed
values stand in the latches, the third and fourth in the overflow slots (R130, R132, R133). -/
def waveRows (second : Bool) (rows : List (List (Option Nat))) : List (List (Option Nat)) :=
  (List.range rows.length).map (fun i => (List.range 128).map (fun j =>
    let at' (r : Nat) : Option Nat := (rows.getD r []).getD j none
    let before := ((List.range (i % 4)).filter (fun r => (at' (i / 4 * 4 + r)).isSome)).length
    if decide (before ≥ 2) == second then at' i else none))

/-- A vector's column sums: one wave, or two that each start a sum of their own and that the drain adds exactly (R133). A
carried-in sum starts the first wave (DESIGN CHOICE, log entry 81). -/
def waveSums (two : Bool) (F : Fmt) (top : Option Int) (xs : List (Option Nat)) (rows : List (List (Option Nat)))
    (start : List Cell) : List Cell :=
  if two then
    List.zipWith Cell.merge (passCells F top xs (waveRows false rows) start)
      (passCells F top xs (waveRows true rows) (List.replicate 128 Cell.fresh))
  else passCells F top xs rows start

/-- A drain's block from 32 exact values `reg × 2^g`, one draw per element (R71, R72): the block, and whether it is
poisoned because its exponent would exceed 254. -/
def drainBlock (g : Int) (regs : List Int) (rs : List Nat) : Block × Bool :=
  let m := maxAbs regs
  if m = 0 then (zeroBlock, false)
  else
    let e0 : Int := max 1 ((m.log2 : Int) + g + 127)
    let elem (e : Int) (i : Nat) : Int :=
      let x := regs.getD i 0
      let q := (roundAt mSR (x < 0) x.natAbs g false (rs.getD i 0) (e - 140)).1
      if x < 0 then -(q : Int) else q
    let at' (e : Int) : List Int := (List.range 32).map (elem e)
    let o := at' e0
    let (e1, o1) := if maxAbs o ≥ 16384 then (e0 + 1, at' (e0 + 1)) else (e0, o)
    if e1 > 254 then (poisonBlock false false, true)
    else (⟨e1.toNat, o1, flushTest (regs.map (· != 0)) o1, false, sumRes32 o1⟩, false)

/-- Element `j` of a block as binary32, exactly (Table 2.10); a poisoned block's elements are the canonical NaN (R81). -/
def Block.elem32 (b : Block) (j : Nat) : Nat :=
  if b.e = 255 then (Fmt.of 2).qnan
  else
    let x := b.sig.getD j 0
    if b.e = 0 ∨ x = 0 then 0 else (roundNZ (Fmt.of 2) mRNE (x < 0) x.natAbs ((b.e : Int) - 140) false 0).bits

/-! ## T24 (R125 to R132) -/

/-- Row bits of a pair code (Table 4.1). -/
def pairBits (p : Nat) : Nat := match p with | 0 => 3 | 1 => 5 | 2 => 9 | 3 => 6 | 4 => 10 | _ => 12

/-- Ones in column `c` of a tuple of pair codes. -/
def colOnes (ps : List Nat) (c : Nat) : Nat := (ps.filter (fun p => pairBits p / 2 ^ c % 2 == 1)).length

/-- The 90 patterns in order (R125). -/
def t24Patterns : List (List Nat) :=
  ((List.range 1296).map (fun n => [n / 216, n / 36 % 6, n / 6 % 6, n % 6])).filter
    (fun ps => (List.range 4).all (fun c => colOnes ps c == 2))

/-- The block mask of a pattern index. -/
def patMask (i : Nat) : Nat :=
  match t24Patterns.getD i [] with
  | [a, b, c, d] => pairBits a + 16 * pairBits b + 256 * pairBits c + 4096 * pairBits d
  | _ => 0

/-- Bit positions (4r + c) that a mask marks, ascending. -/
def maskBits (m : Nat) : List Nat := (List.range 16).filter (fun i => m / 2 ^ i % 2 == 1)

end Sys2Proof.Machine
end

