-- ==== Sys2Proof/Machine/Weir.lean ====
section
/-! DEFINITION. The Weir of a cluster (11_numeric_watch, R367 to R373, R649): what a drain report does, the verdict of an
execution, the span state table, and the commands `WEIR_REPORT`, `span.begin` and `span.end` (R255, R256, R258). -/

namespace Sys2Proof.Machine

open Sys2Proof

/-- Exec and span entry of a cluster. -/
def Cluster.exec (c : Cluster) (core : Nat) : Exec := Tbl.get c.execs Exec.fresh core
def Cluster.span (c : Cluster) (id : Nat) : SpanEnt := Tbl.get c.spans SpanEnt.fresh id

/-- Payload fields that Weir records share: span or none, site, cluster, core, array, micro-batch. -/
def weirPay (cl core arr : Nat) (sp : Option Span) : List (Nat × Nat) :=
  [(2, match sp with | some x => x.id | none => 0xFFFF), (1, cl / 10), (1, cl % 10), (1, core), (1, arr),
   (4, match sp with | some x => x.range.toNat / 2 ^ 32 | none => 0)]

/-- The span that a report belongs to. -/
def State.spanOf (s : State) (cl : Nat) (r : Report) : Option Span :=
  if r.inSpan then (s.proc (9 * cl + r.core)).span else none

/-- Poison of a step by a cluster's aggregator, with its record (R368, Table 11.5). -/
def State.weirPoison (s : State) (code cl : Nat) (r : Report) (more : List (Nat × Nat)) : State :=
  (s.emit code (cl / 10) (uidCluster cl 0) (weirPay cl r.core r.arr (s.spanOf cl r) ++ more)).poison (cl / 10)

/-- Change what the aggregator holds of a core's execution. -/
def State.setExec (s : State) (cl core : Nat) (e : Exec) : State :=
  s.setCluster cl { s.cluster cl with execs := Tbl.put (s.cluster cl).execs core e }

/-- Does a cancellation poison the step (`CANCELPOL`, Table 11.6)? -/
def State.cancelPoisons (s : State) : Bool := match s.job with | some j => j.desc.cancelpol == 1 | none => false

/-- A cancellation record (R649), with its poison when `CANCELPOL` = 1. -/
def State.cancelRecord (s : State) (cl core arr : Nat) (sp : Option Span) (n : Nat) : State :=
  let s1 := s.emit 0x1106 (cl / 10) (uidCluster cl 0) (weirPay cl core arr sp ++ [(4, n)])
  if s.cancelPoisons then s1.poison (cl / 10) else s1

/-- `n` cancelled outputs of an open execution: counted, and a call for poison under `CANCELPOL` (R369). -/
def Exec.cancel (e : Exec) (arr n : Nat) (poisons : Bool) : Exec :=
  { e with poison := e.poison || poisons, can0 := if arr = 0 then e.can0 + n else e.can0,
           can1 := if arr = 0 then e.can1 else e.can1 + n }

/-- What one report does (Table 11.1). A cancellation that drains after the fence has stopped its core is recorded as it comes
(R649; DESIGN CHOICE, log entry 87). -/
def State.weirAct (s : State) (cl : Nat) (r : Report) : State :=
  let e := (s.cluster cl).exec r.core
  let bad : State := if r.inSpan then s.setExec cl r.core { e with poison := true } else s
  match r.kind with
  | .overflow follow16 fmt =>
    if r.inSpan && follow16 && !e.nf then s.setExec cl r.core { e with replay := some (e.replay.getD r.arr) }
    else bad.weirPoison 0x1104 cl r [(1, fmt)]
  | .nonfinite => bad.weirPoison 0x1105 cl r []
  | .range bound value =>
    bad.detect 0x2101 (cl / 10) (uidCluster cl 0) (weirPay cl r.core r.arr (s.spanOf cl r) ++ [(4, bound), (8, value)])
  | .cancel n =>
    if !r.inSpan then s.cancelRecord cl r.core r.arr none n
    else if s.safety.fence && !e.ended then s.cancelRecord cl r.core r.arr (s.spanOf cl r) n
    else s.setExec cl r.core (e.cancel r.arr n s.cancelPoisons)
  | .wloss => if r.inSpan then s.setExec cl r.core { e with wloss := e.wloss + 1 } else s

/-- The cancellation records of a core's open execution (R649). -/
def State.flushCancels (s : State) (k : Nat) : State :=
  let cl := clOf k
  let core := k % 9
  match (s.proc k).span with
  | none => s
  | some sp =>
    let e := (s.cluster cl).exec core
    let s1 := if e.can0 > 0 then s.cancelRecord cl core 0 (some sp) e.can0 else s
    let s2 := if e.can1 > 0 then s1.cancelRecord cl core 1 (some sp) e.can1 else s1
    if e.can0 = 0 ∧ e.can1 = 0 then s2 else s2.setExec cl core { e with can0 := 0, can1 := 0 }

/-- Work of the core's arrays inside the span that has not drained, and reports on their way (R256). -/
def State.spanBusy (s : State) (k : Nat) : Bool :=
  let p := s.proc k
  let arr (a : Arr) : Bool := a.ops.any (·.inSpan) || a.loads.any (·.inSpan)
  arr p.a0 || arr p.a1 || (s.cluster (clOf k)).reports.any (fun r => r.core == k % 9 && r.inSpan)

/-- Under the fence the aggregator still forms the verdict of an execution whose `span.end` was reached, and writes its records
(R649). -/
def State.verdictLeft (s : State) (k : Nat) : State :=
  if s.safety.fence && ((s.cluster (clOf k)).exec (k % 9)).ended && !s.spanBusy k then s.flushCancels k else s

/-- The fence stops a core: the cancellations of its execution on their way are counted, and recorded unless its `span.end`
was reached (R649). -/
def State.fenceExec (s : State) (k : Nat) : State :=
  let cl := clOf k
  let mine (r : Report) : Bool := r.core == k % 9 && r.inSpan && (match r.kind with | .cancel _ => true | _ => false)
  let x := s.cluster cl
  if ((s.cluster cl).exec (k % 9)).ended then s.verdictLeft k
  else
    let e := (x.reports.filter mine).foldl (fun (e : Exec) r =>
      match r.kind with | .cancel n => e.cancel r.arr n s.cancelPoisons | _ => e) (x.exec (k % 9))
    let s1 := if x.reports.any mine then
        (s.setCluster cl { x with reports := x.reports.filter (fun r => !mine r) }).setExec cl (k % 9) e else s
    s1.flushCancels k

/-- The oldest report of the cluster reaches the aggregator (R367). -/
def execWeirReport (k : ClusterId) (s : State) : Host.Outcome State Fault Refusal :=
  .next (
    let cl := clKey k
    match (s.cluster cl).reports with
    | [] => s
    | r :: rest =>
      ((s.setCluster cl { s.cluster cl with reports := rest }).weirAct cl r).verdictLeft (9 * cl + r.core))

/-- A span state entry at a release of BID 0 (R372); the answer says whether the span becomes sticky. -/
def SpanEnt.stepStart (e : SpanEnt) (wlimit : Nat) : SpanEnt × Bool :=
  let cnt := if e.replayed then min (e.repcnt + 1) 255 else 0
  let now := decide (wlimit ≠ 0) && decide (wlimit ≤ cnt) && !e.sticky
  let st := e.sticky || now
  (⟨false, e.replayed, st, st, cnt⟩, now)

/-- Every entry of a cluster's table at a release of BID 0. -/
def State.weirStepCl (s : State) (cl wlimit : Nat) : State :=
  let x := s.cluster cl
  let s1 := s.setCluster cl { x with spans := x.spans.map (fun e => (e.1, (e.2.stepStart wlimit).1)) }
  x.spans.foldl (fun acc e =>
    let r := e.2.stepStart wlimit
    if r.2 then acc.emit 0x1102 (cl / 10) (uidCluster cl 0) [(2, e.1), (1, cl / 10), (1, cl % 10), (1, r.1.repcnt)] else acc) s1

def State.weirStep (s : State) : State :=
  let w := match s.job with | some j => j.desc.wlimit | none => 8
  (s.clusters.map (·.1)).foldl (fun acc cl => acc.weirStepCl cl w) s

/-! ## `span.begin` and `span.end` -/

/-- Fields of the synchronisation format (Table 7.7). -/
def syImm (f : BitVec 25) : Nat := fld f 22 10

/-- A binary32 bound that `span.begin` refuses: a NaN, or negative other than −0 (R370). -/
def badBound (b : Nat) : Bool := (unpack (Fmt.of 2) b).isNan || (b / 2 ^ 31 == 1 && b != 2 ^ 31)

/-- The bound that a range word declares, none for either zero. -/
def boundOf (range : Word) : Option Nat :=
  let b := range.toNat % 2 ^ 32
  if b % 2 ^ 31 = 0 then none else some b

def execSpanBegin (u : UnitId) (f : BitVec 25) (s : State) : Host.Outcome State Fault Refusal :=
  .next (
    let k := unitKey u
    s.issue k (([rdOf f, raOf f, rbOf f]).map Reg.s) 4 0 (fun s1 =>
      let p := s1.proc k
      let id := syImm f
      let range := p.getS (rbOf f)
      let e := (s1.cluster (clOf k)).span id
      let nf := e.wide || p.replayNext
      if !isCore k then s1.finish k 4 false true (illegal32 0x53 f)
      else if p.span.isSome then s1.trap k causeOperand 0 (BitVec.ofNat 64 id) true
      else if badBound (range.toNat % 2 ^ 32) then s1.trap k causeOperand 0 range true
      else
        let st := (if nf then 1 else 0) + (if e.sticky then 2 else 0) + (if p.replayNext then 4 else 0)
        let sp : Span := ⟨id, p.nf, p.pc, p.replayNext, p.getS (raOf f), range⟩
        let p1 := { p with nf := nf, span := some sp, replayNext := false }
        ((s1.setExec (clOf k) (k % 9) { Exec.fresh with nf := nf }).countEv k 0x10 2 1).retire k
          (p1.setS (rdOf f) (BitVec.ofNat 64 st)) 4 false 1))

/-- The re-stream request of a span's stream word, a class-0 packet to the Spring's node (R317). -/
def State.sendRestream (s : State) (k : Nat) (sp : Span) : State :=
  if !sp.stream.getLsbD 20 then s
  else
    let n := sp.stream.toNat
    let spring := n % 16
    s.send { mkPacket .ctl 0 (nodeOfUnit k) (nodeOfSpring spring) 0 with
      ctl := .restream spring (n / 16 % 65536) (s.proc k).seedStep.toNat (clOf k) (k % 9) }

/-- The re-stream release, sent when a replay execution ends clean (R317). -/
def State.sendRelease (s : State) (k : Nat) (sp : Span) : State :=
  if !sp.stream.getLsbD 20 then s
  else
    let n := sp.stream.toNat
    let spring := n % 16
    s.send { mkPacket .ctl 0 (nodeOfUnit k) (nodeOfSpring spring) 0 with
      ctl := .release spring (n / 16 % 65536) (s.proc k).seedStep.toNat (clOf k) }

def execSpanEnd (u : UnitId) (f : BitVec 25) (s : State) : Host.Outcome State Fault Refusal :=
  .next (
    let k := unitKey u
    s.issue k [] 4 0 (fun s1 =>
      let p := s1.proc k
      let id := syImm f
      let cl := clOf k
      if !isCore k || rdOf f != 0 || raOf f != 0 || rbOf f != 0 then s1.finish k 4 false true (illegal32 0x54 f)
      else match p.span with
        | none => s1.trap k causeOperand 0 (BitVec.ofNat 64 id) true
        | some sp =>
          if sp.id ≠ id then s1.trap k causeOperand 0 (BitVec.ofNat 64 id) true
          else if s1.spanBusy k then s1.setExec cl (k % 9) { (s1.cluster cl).exec (k % 9) with ended := true }
          else
            let e := (s1.cluster cl).exec (k % 9)
            let s2 := s1.flushCancels k
            let p1 := { s2.proc k with nf := sp.savedNf, span := none }
            match e.poison, e.replay with
            | false, some arr =>
              let x := s2.cluster cl
              let ent := x.span id
              let s3 := s2.setCluster cl { x with spans := Tbl.put x.spans id { ent with replayed := true, wide := true } }
              let s4 := (s3.emit 0x1101 (cl / 10) (uidCluster cl 0) (weirPay cl (k % 9) arr (some sp))).countEv k 0x0F 2 1
              (s4.sendRestream k sp).transfer k { p1 with replayNext := true } sp.pc false 0xD
            | true, _ => s2.retire k p1 4 false 1
            | false, none => (if sp.replay then s2.sendRelease k sp else s2).retire k p1 4 false 1))

end Sys2Proof.Machine
end

