-- ==== Sys2Proof/Machine/Feed.lean ====
section
/-! DEFINITION. What the array instructions share: the fields and checks of the 64-bit format (R228 to R234, R259), traps
and stalls at issue, reads by the feeder and loader (R136, R260, Table 5.7), writes by the drain, and reports to the
Weir. -/

namespace Sys2Proof.Machine

open Sys2Proof

/-! ## The 64-bit format (Table 7.5) -/

def lAr (f : BitVec 57) : Nat := fld f 7 1
def lD1 (f : BitVec 57) : Nat := fld f 8 4
def lD2 (f : BitVec 57) : Nat := fld f 12 4
def lD3 (f : BitVec 57) : Nat := fld f 16 4
def lD4 (f : BitVec 57) : Nat := fld f 20 4
def lTag (f : BitVec 57) : Nat := fld f 24 5
def lRm (f : BitVec 57) : Nat := fld f 29 3
def lRa (f : BitVec 57) : Nat := fld f 39 5
def lRb (f : BitVec 57) : Nat := fld f 44 5
def lRc (f : BitVec 57) : Nat := fld f 49 5
def lFlags (f : BitVec 57) : Nat := fld f 54 10

/-- The fields that an instruction uses, one letter of Table 7.6's columns each; FLAGS below `flags`. Every other field is
zero and bits [38:32] hold 0x7F (R194, R234). -/
def lOk (f : BitVec 57) (use : List Char) (flags : Nat) : Bool :=
  let z (c : Char) (x : Nat) : Bool := use.contains c || x == 0
  fld f 32 7 == 0x7F && z 'r' (lAr f) && z '1' (lD1 f) && z '2' (lD2 f) && z '3' (lD3 f) && z '4' (lD4 f) &&
    z 't' (lTag f) && z 'm' (lRm f) && z 'a' (lRa f) && z 'b' (lRb f) && z 'c' (lRc f) && lFlags f < flags

/-- A trap found at issue: cause, sub-cause, TVAL. -/
abbrev Trp := Nat × Nat × Word

/-- The illegal-operand trap for an operand, which TVAL holds: a scalar's value, or the number of a descriptor register. -/
def opTrap (x : Word) : Trp := (causeOperand, 0, x)
def dTrap (r : Nat) : Trp := (causeOperand, 0, BitVec.ofNat 64 r)
def fmtTrap (c : Nat) : Trp := (causeFormat, 0, BitVec.ofNat 64 c)

def when' (b : Bool) (t : Trp) : Option Trp := if b then some t else none

/-- The first trap of a list. -/
def firstTrap (l : List (Option Trp)) : Option Trp := l.findSome? id

/-- The format that a descriptor resolves to (R259): FOLLOW with a format code other than 0, or without a header, traps. -/
def resolveFmt (nf : Bool) (d : Desc) : Nat := if dFollow d then b2n nf else dFmt d
def resolveTrap (nf : Bool) (r : Nat) (d : Desc) (ok : List Nat) : Option Trp :=
  firstTrap [when' (dFollow d && dFmt d != 0) (fmtTrap (dFmt d)), when' (dFollow d && !dHdrv d) (dTrap r),
    when' (!ok.contains (resolveFmt nf d)) (fmtTrap (resolveFmt nf d))]

/-- The checks of R233 on a descriptor of one of the kinds given: kind, extents, window-walk limits. -/
def descTrap (r : Nat) (d : Desc) (kinds : List Nat) : Option Trp :=
  let bad := !kinds.contains (dKind d) ||
    (dKind d == 0 && (dE d 0 == 0 || dE d 1 == 0 || dE d 2 == 0 || dE d 3 == 0)) || (dKind d == 1 && !wwValid d)
  when' bad (dTrap r)

/-- Alignment (R228, R230, R233): BASE to the element, and for a tensor that supplies vectors BASE and every stride in use to
64 bytes; the metadata address to 64 bytes. -/
def alignTrap (r : Nat) (d : Desc) (es : Nat) (vec : Bool) : Option Trp :=
  let stride (i : Nat) : Bool := dE d i > 1 && dS d i % 64 != 0
  let bad := (dBase d).toNat % es != 0 || (dMdv d && (dMd d).toNat % 64 != 0) ||
    (vec && dKind d == 0 && ((dBase d).toNat % 64 != 0 || stride 1 || stride 2 || stride 3))
  when' bad (dTrap r)

/-- Issue of a 64-bit instruction: an ill-formed word is illegal. -/
def State.issue64 (s : State) (k op : Nat) (f : BitVec 57) (ok : Bool) (regs : List Reg) (g : State → State) : State :=
  s.issue k regs 8 (word64 (BitVec.ofNat 7 op) f) (fun s1 =>
    if ok then g s1 else s1.finish k 8 false (slot1Of op) (illegal64 op f))

def State.trap1 (s : State) (k : Nat) (t : Trp) : State := s.trap k t.1 t.2.1 t.2.2 true

/-- Array instructions issued that the array has not begun to perform (R162). -/
def Arr.waiting (a : Arr) : Nat :=
  (match a.ops with
   | [] => 0
   | o :: r => if o.kind == .swap then r.length + 1 else r.length) +
  (match a.loads with
   | [] => 0
   | l :: r => if l.ahead = 0 then r.length else r.length + 1)

/-- Conditions that stall slot 1 for an array instruction that reads memory (R162, R178, R183). -/
def State.arrStall (s : State) (k a : Nat) (tag : Option Nat) : Bool :=
  let p := s.proc k
  s.storesOut k || (p.arr a).waiting ≥ 8 || (match tag with | some t => p.tagCount t ≥ 255 | none => false)

/-! ## Own-pond addresses (R23, R24, R242) -/

/-- `n` bytes lie in the core's own pond. -/
def ownPond (k : Nat) (a : Word) (n : Nat) : Bool :=
  match place a with
  | .pond site cl off => 10 * site + cl == clOf k && decide (off + n ≤ 2 ^ 26)
  | _ => false

/-- The first address of a list of ranges that is refused. -/
def refusedIn (k : Nat) (rs : List (Word × Nat)) : Option Word :=
  (rs.find? (fun r => !ownPond k r.1 r.2)).map (·.1)

/-- Byte ranges of `n` vectors of a tensor or window walk from vector 0, `len` bytes each for a tensor. -/
def vecRanges (d : Desc) (es len n : Nat) : List (Word × Nat) :=
  if dKind d = 1 then
    (List.range n).flatMap (fun v => (List.range 128).filterMap (fun i =>
      (wwOffset d es v i).map (fun o => (dBase d + BitVec.ofNat 64 o, es))))
  else (List.range n).map (fun v => (dVec d v, len))

/-- Blocks of 128 vectors. -/
def blocksOf (n : Nat) : Nat := (n + 127) / 128

def hdrRanges (d : Desc) (n : Nat) : List (Word × Nat) := (List.range (blocksOf n)).map (fun m => (dHdr d m, 16))

/-! ## Reads by feeder and loader -/

/-- Words of a list that are uncorrectable, read in order (R171). -/
def State.badWords (s : State) (req : Nat) (ws : List Nat) : State × List Nat :=
  match ws with
  | [] => (s, [])
  | w :: r =>
    let (s1, b) := s.readWord (8 * w) req
    let (s2, bs) := State.badWords s1 req r
    (s2, if b then w :: bs else bs)

/-- Aligned words that `n` bytes at each address touch. -/
def wordsOf (as : List (Option Word)) (n : Nat) : List Nat :=
  ((as.filterMap id).flatMap (fun a => (List.range ((a.toNat + n - 1) / 8 - a.toNat / 8 + 1)).map (· + a.toNat / 8))).eraseDups

/-- Metadata, bitmaps and masks read at validation (R151): an uncorrectable word among them is reported (R171), and the
operation that needs it fails (DESIGN CHOICE, log entry 82). -/
def State.readMeta (s : State) (k : Nat) (rs : List (Word × Nat)) : State × Bool :=
  match rs with
  | [] => (s, false)
  | r :: more =>
    let (s1, b1) := s.eccRead r.1 r.2 (uidUnit k)
    let (s2, b2) := State.readMeta s1 k more
    (s2, b1.isSome || b2)

/-- Elements of `es` bytes at addresses of the own pond, none for a window-walk zero: each value with whether a faulty word
holds it. -/
def State.readElems (s : State) (k es : Nat) (as : List (Option Word)) : State × List (Nat × Bool) :=
  let (s1, bad) := if s.pondMark.isEmpty then (s, []) else s.badWords (uidUnit k) (wordsOf as es)
  (s1, as.map (fun a => match a with
    | none => (0, false)
    | some x => (s1.natAt x.toNat es, (List.range es).any (fun i => bad.contains ((x.toNat + i) / 8)))))

/-- An element as it enters the array (R260, Table 5.7): a faulty one is the canonical quiet NaN, one of another format is
converted in RNE; the second answer says that the conversion overflowed. -/
def enterElem (src dst : Nat) (x : Nat × Bool) : Nat × Bool :=
  if x.2 then ((Fmt.of dst).qnan, false)
  else if src = dst then (x.1, false)
  else
    let r := fpConv (Fmt.of src) (Fmt.of dst) mRNE x.1 0
    (r.bits, (r.fl &&& flOF) != 0)

/-- Addresses of the elements of vector `v`: `n` of a tensor, 128 of a window walk. -/
def elemAddrs (d : Desc) (es n v : Nat) : List (Option Word) :=
  if dKind d = 1 then (List.range 128).map (fun i => (wwOffset d es v i).map (fun o => dBase d + BitVec.ofNat 64 o))
  else (List.range n).map (fun i => some (dVec d v + BitVec.ofNat 64 (i * es)))

/-- A report on its way to the aggregator (R367). -/
def State.report (s : State) (k a : Nat) (inSpan : Bool) (kind : RepKind) : State :=
  let cl := clOf k
  let x := s.cluster cl
  s.setCluster cl { x with reports := x.reports ++ [⟨k % 9, a, inSpan, kind⟩] }

/-- Vector `v` of an operand as it enters array `a`; an overflow of a FOLLOW conversion is reported (R260). The last answer
says that a word was faulty. -/
def State.feedVec (s : State) (k a : Nat) (inSpan : Bool) (d : Desc) (src dst n v : Nat) : State × List Nat × Bool :=
  let (s1, xs) := s.readElems k (esize src) (elemAddrs d (esize src) n v)
  let ys := xs.map (enterElem src dst)
  let s2 := if ys.any (·.2) then s1.report k a inSpan (.overflow true 0) else s1
  (s2, ys.map (·.1), xs.any (·.2))

/-- The bitmap word of a vector: bit `i` set when element `i` is an operand (R136). -/
def State.bitmapOf (s : State) (d : Desc) (n v : Nat) : Nat :=
  s.natAt ((dMd d) + BitVec.ofNat 64 (n / 8 * v)).toNat (n / 8)

/-- An operand whose descriptor names bitmaps, with a zero in place of each element whose bit is clear (R136). -/
def State.bitmapped (s : State) (d : Desc) (n v : Nat) (xs : List Nat) : List Nat :=
  if dMdv d then
    let bm := s.bitmapOf d n v
    (List.range xs.length).map (fun i => if bm / 2 ^ i % 2 = 1 then xs.getD i 0 else 0)
  else xs

/-- Elements whose bitmap bit is 0 are no operands. -/
def maskVec (bm : Nat) (xs : List Nat) : List (Option Nat) :=
  (List.range xs.length).map (fun i => if bm / 2 ^ i % 2 = 1 then some (xs.getD i 0) else none)

/-- Source format of vector `v`'s block; with no header named it is the pass's own. -/
def srcOf (srcs : List Nat) (fmt v : Nat) : Nat := srcs.getD (v / 128) fmt

/-! ## Headers at issue (R99, R103, R260) -/

/-- Read a header at issue; an address that is refused or uncorrectable gives none. A tile with NONFIN or POISON set is
reported (Table 11.1). -/
def State.readHdr (s : State) (k a : Nat) (inSpan : Bool) (addr : Word) : State × Option TileHdr :=
  if !ownPond k addr 16 then (s, none)
  else
    let (s1, bad) := s.eccRead addr 16 (uidUnit k)
    match bad with
    | some _ => (s1, none)
    | none =>
      let h := tileHdr (s1.bytesAt addr.toNat 16)
      (if h.nonfin || h.poison then s1.report k a inSpan .nonfinite else s1, some h)

def State.readHdrs (s : State) (k a : Nat) (inSpan : Bool) (as : List Word) : State × List (Option TileHdr) :=
  match as with
  | [] => (s, [])
  | x :: r =>
    let (s1, h) := s.readHdr k a inSpan x
    let (s2, hs) := State.readHdrs s1 k a inSpan r
    (s2, h :: hs)

/-- The format check of headers: a FOLLOW operand accepts formats 0 and 1, any other only its own (R103, R260). -/
def hdrTrap (follow : Bool) (fmt : Nat) (hs : List (Option TileHdr)) : Option Trp :=
  hs.findSome? (fun h => match h with
    | some x => if (if follow then x.fmt ≤ 1 else x.fmt == fmt) then none else some (fmtTrap x.fmt)
    | none => none)

/-- Source formats by block. -/
def hdrSrcs (fmt : Nat) (hs : List (Option TileHdr)) : List Nat :=
  hs.map (fun h => match h with | some x => x.fmt | none => fmt)

def hdrMax (hs : List (Option TileHdr)) : Option Int :=
  hs.foldl (fun acc h => match h with | some x => optMax acc x.maxexp | none => acc) none

/-! ## Precise sparse-index faults (R152) -/

/-- Set a bit in a byte of the own pond, a partial store (R152, R175). -/
def State.setPondBit (s : State) (k : Nat) (addr : Word) (m : Byte) : State :=
  (s.eccWrite addr [some (memByte s.mem addr.toNat ||| m)] (uidUnit k)).1

/-- A sparse-index fault: the destination's header poisoned, event 0x1402, the trap. `unit` 0 and 1 name an array, 2 the
merge unit. -/
def State.sparseFault (s : State) (k unit sub : Nat) (tval : Word) (hdr : Option Word) : State :=
  let s1 := match hdr with | some h => s.setPondBit k h 0x10 | none => s
  (s1.emit 0x1402 (polderOf k) (uidUnit k)
    [(1, k / 90), (1, k / 9 % 10), (1, k % 9), (1, unit), (1, sub), (8, tval.toNat)]).trap k causeSparse sub tval (unit != 2)

/-! ## T24 metadata (R127, Table 4.5) -/

/-- Pattern bytes of a metadata area. -/
def State.patBytes (s : State) (md : Word) : List Nat := (s.bytesAt md.toNat 1024).map (·.toNat)

/-- Validation: reserved pattern bytes, the escape count, the escape list's alignment. -/
def State.t24Bad (s : State) (md : Word) : Bool :=
  let ps := s.patBytes md
  let cnt := s.natAt (md.toNat + 1032) 2
  ps.any (fun p => p > 89 && p != 0x7F) || cnt != (ps.filter (· == 0x7F)).length ||
    (cnt != 0 && s.natAt (md.toNat + 1024) 8 % 64 != 0)

/-- A stored T24 tile as a 128 × 128 matrix: the marked values of the patterns, the non-zero values of escape blocks
(R126 to R128). `val` and `esc` give the stored elements of the value area and of the escape list. -/
def t24Tile (F : Fmt) (pats : List Nat) (val : Nat → Nat) (esc : Nat → Nat) : List (List (Option Nat)) :=
  let isZero (x : Nat) : Bool := x % F.signBit == 0
  let marks := (List.range 90).map (fun i => maskBits (patMask i))
  let escIdx (b : Nat) : Nat := ((pats.take b).filter (· == 0x7F)).length
  let cell (i j : Nat) : Option Nat :=
    let b := i / 4 * 32 + j / 4
    let q := 4 * (i % 4) + j % 4
    let p := pats.getD b 0
    if p = 0x7F then
      let x := esc (16 * escIdx b + q)
      if isZero x then none else some x
    else
      match (marks.getD p []).findIdx? (· == q) with
      | some n => some (val (8 * b + n))
      | none => none
  (List.range 128).map (fun i => (List.range 128).map (fun j => cell i j))

end Sys2Proof.Machine
end

