-- ==== Sys2Proof/Machine/Arrays.lean ====
section
/-! DEFINITION. Issue of the array instructions `aload`, `astream`, `aswap`, `aacc`, `adrain`, `adiag`
(03_matrix_arrays, 04_sparsity, R236 to R241): the precise traps, the stalls, and what an instruction takes with it into the
array's queue. -/

namespace Sys2Proof.Machine

open Sys2Proof

/-- An array that is not in service (R104). -/
def State.arrOut (s : State) (k a : Nat) : Option Trp :=
  if (s.arrMapOf k a).insvc then none else some (causeUnavail, 0, BitVec.ofNat 64 a)

/-- Stationary, transposed or diagonal work while sums are live (R109). -/
def arrBusy (p : Proc) (a : Nat) : Option Trp :=
  if (p.arr a).live then some (causeBusy, 0, BitVec.ofNat 64 a) else none

/-- The bound of the open span's drain range check, 0 for none (R370). -/
def boundNow (p : Proc) : Nat := match p.span with | some sp => (boundOf sp.range).getD 0 | none => 0

/-- A fresh operation with the unit's numeric state of the moment (R50). -/
def newOp (p : Proc) (kind : ArrKind) (a : Nat) : ArrOp :=
  { kind := kind, d1 := 0, d2 := 0, d3 := 0, d4 := 0, n := 0, k := 0, top := none, cin := false, raw := false, gm := false,
    add := false, src1 := [], src2 := [], src4 := [], fmt := 0, out := 0, f16 := false, mode := 0, seed := p.seedJob,
    step := p.seedStep.toNat, ctr := if a = 0 then p.ctrA0 else p.ctrA1, tag := none, inSpan := p.span.isSome, gword := 0,
    block := 0, bound := boundNow p, fail := false, pos := 0, stat := TileStat.fresh, cancels := 0, resBad := false, zrun := 0 }

/-- The drain's counter moves past the draws of an operation when it issues (R44, R50), also where the operation is refused or
fails afterwards (DESIGN CHOICE, log entry 83). -/
def Proc.drainDraws (p : Proc) (a n : Nat) : Proc :=
  if a = 0 then { p with ctrA0 := p.ctrA0 + BitVec.ofNat 64 n } else { p with ctrA1 := p.ctrA1 + BitVec.ofNat 64 n }

/-- Add an operation to an array's queue, with its tag. -/
def Proc.pushOp (p : Proc) (a : Nat) (o : ArrOp) : Proc :=
  let x := p.arr a
  let p1 := p.setArr a { x with ops := x.ops ++ [o] }
  match o.tag with | some t => p1.tagUp t | none => p1

/-- The refusal of an operation's ranges (R24): the event, and the operation marked failed. -/
def State.refuseRanges (s : State) (k : Nat) (rs : List (Word × Nat)) : State × Bool :=
  match refusedIn k rs with
  | none => (s, false)
  | some w => (s.refusedEvent k w, true)

/-- Ranges of a descriptor's bitmaps for `n` vectors of `e` elements. -/
def bitmapRanges (d : Desc) (e n : Nat) : List (Word × Nat) :=
  if dMdv d then (List.range n).map (fun v => (dMd d + BitVec.ofNat 64 (e / 8 * v), e / 8)) else []

def hdrRangesIf (d : Desc) (n : Nat) : List (Word × Nat) := if dHdrv d then hdrRanges d n else []

/-! ## `aload` -/

/-- The checks of `aload` that read no memory (R96, R105, R230, R233, R236). -/
def aloadTrap (p : Proc) (r : Nat) (d : Desc) (tr : Bool) : Option Trp :=
  firstTrap [descTrap r d [0], resolveTrap p.nf r d [0, 1, 2, 3],
    when' (if dMdv d then dE d 0 != 128 || dE d 1 != 2 else dE d 0 > 128 || dE d 1 > 128) (dTrap r),
    when' (tr && !dMdv d && dS d 1 % 64 != 0) (dTrap r), alignTrap r d (esize (dFmt d)) true]

/-- Ranges that an `aload` reads. -/
def aloadRanges (d : Desc) : List (Word × Nat) :=
  let es := esize (dFmt d)
  if dMdv d then
    [(dBase d, 8192 * es), (dBase d + BitVec.ofNat 64 (dS d 1), 8192 * es), (dMd d, 2176)]
  else (List.range (dE d 1)).map (fun i => (dBase d + BitVec.ofNat 64 (i * dS d 1), dE d 0 * es))

/-- Escape lists of a T24 pair. -/
def State.escRanges (s : State) (d : Desc) : List (Word × Nat) :=
  (List.range 2).map (fun t =>
    let md := dMd d + BitVec.ofNat 64 (1088 * t)
    (BitVec.ofNat 64 (s.natAt (md.toNat + 1024) 8), s.natAt (md.toNat + 1032) 2 * 16 * esize (dFmt d)))

def execAload (u : UnitId) (f : BitVec 57) (s : State) : Host.Outcome State Fault Refusal :=
  .next (
    let k := unitKey u
    let a := lAr f
    let tr := lFlags f == 1
    s.issue64 k 0x60 f (isCore k && lOk f ['r', '1', 't'] 2) [.d (lD1 f)] (fun s1 =>
      let p := s1.proc k
      let d := p.getD (lD1 f)
      if s1.arrStall k a (some (lTag f)) then s1
      else match firstTrap [s1.arrOut k a, arrBusy p a, aloadTrap p (lD1 f) d tr] with
        | some t => s1.trap1 k t
        | none =>
          let fmt := resolveFmt p.nf d
          let tiles := if dMdv d then 2 else 1
          let (s2, bad1) := s1.refuseRanges k (aloadRanges d ++ (if dHdrv d then hdrRanges d (128 * tiles) else []))
          let (s2, unc) := if bad1 || !dMdv d then (s2, false) else s2.readMeta k [(dMd d, 2176)]
          let bad1 := bad1 || unc
          if !bad1 && dMdv d && (s2.t24Bad (dMd d) || s2.t24Bad (dMd d + 1088)) then s1.trap1 k (dTrap (lD1 f))
          else
            let (s3, bad2) := if bad1 || !dMdv d then (s2, bad1)
              else s2.refuseRanges k ((s2.escRanges d).filter (fun r => r.2 != 0))
            let addrs := if dHdrv d && !bad2 then (List.range tiles).map (dHdr d) else []
            let (s4, hs) := s3.readHdrs k a p.span.isSome addrs
            match hdrTrap (dFollow d) fmt hs with
            | some t => s1.trap1 k t
            | none =>
              if dMdv d && hs.any (fun h => match h with | some x => x.rows != 128 || x.cols != 128 | none => false) then
                s1.trap1 k (dTrap (lD1 f))
              else
                let p1 := s4.proc k
                let x := p1.arr a
                let req : LoadReq := ⟨d, tr, hdrSrcs (dFmt d) hs, fmt, lTag f, p.span.isSome,
                  (x.ops.filter (·.kind == .swap)).length, bad2 || hs.any (·.isNone)⟩
                let x1 := { x with loads := x.loads ++ [req], infoIdle := ⟨fmt, dMdv d, dHdrv d, hdrMax hs⟩ }
                s4.retire k ((p1.setArr a x1).tagUp (lTag f)) 8 false 1))

/-! ## `aswap` -/

def execAswap (u : UnitId) (f : BitVec 57) (s : State) : Host.Outcome State Fault Refusal :=
  .next (
    let k := unitKey u
    let a := lAr f
    s.issue64 k 0x62 f (isCore k && lOk f ['r'] 1) [] (fun s1 =>
      let p := s1.proc k
      let x := p.arr a
      match s1.arrOut k a with
      | some t => s1.trap1 k t
      | none =>
        if x.ops.any (·.kind == .swap) || x.waiting ≥ 8 then s1
        else
          let x1 := { x with infoAct := x.infoIdle, infoIdle := x.infoAct }
          s1.retire k ((p.setArr a x1).pushOp a { newOp p .swap a with inSpan := false }) 8 false 1))

/-! ## `astream` -/

/-- The checks of `astream` that read no memory (R91, R103, R230, R233, R238, R259). A raw output's format field is not used
(R238), but a FOLLOW descriptor needs its header all the same (R259). -/
def astreamTrap (p : Proc) (f : BitVec 57) (a : Nat) : Option Trp :=
  let x := p.getD (lD1 f)
  let c := p.getD (lD2 f)
  let o := p.getD (lD3 f)
  let te := lFlags f % 2 == 1
  let cin := lFlags f / 2 % 2 == 1
  let raw := lFlags f / 4 == 1
  let n := (p.getS (lRa f)).toNat
  let kk := (p.getS (lRb f)).toNat
  let info := (p.arr a).infoAct
  let fmt := resolveFmt p.nf x
  let e := if info.t24 then 256 else 128
  firstTrap [descTrap (lD1 f) x [0, 1], descTrap (lD3 f) o [0], if cin then descTrap (lD2 f) c [0] else none,
    resolveTrap p.nf (lD1 f) x [0, 1, 2, 3],
    if raw then when' (dFollow o && !dHdrv o) (dTrap (lD3 f)) else resolveTrap p.nf (lD3 f) o [0, 1, 2, 3],
    if cin then resolveTrap p.nf (lD2 f) c [0, 1, 2, 3] else none,
    when' (fmt != info.fmt) (fmtTrap fmt),
    when' (kk == 0 || (!cin && !raw && kk > e) || ((cin || raw) && fmt == 0 && kk > 2 ^ 30)) (opTrap (p.getS (lRb f))),
    when' (n == 0 || n > 4096) (opTrap (p.getS (lRa f))),
    when' ((dKind x == 0 && (dE x 0 != e || dVectors x < n)) || (dKind x == 1 && e != 128)) (dTrap (lD1 f)),
    when' (dE o 0 != 128 || dVectors o < n) (dTrap (lD3 f)),
    when' (cin && (dE c 0 != 128 || dVectors c < n)) (dTrap (lD2 f)),
    alignTrap (lD1 f) x (esize (dFmt x)) true, alignTrap (lD3 f) o 16 true, if cin then alignTrap (lD2 f) c 16 true else none,
    when' (fmt != 0 && !te && cin && !dHdrv c) (dTrap (lD2 f)),
    when' (fmt != 0 && !te && !(info.hdr && dHdrv x)) (dTrap (lD1 f))]

/-- A bitmap bit beyond the vector or the declared K, by vector and position (Table 4.5). In a chain K is the chain's total. -/
def State.bitmapFault (s : State) (d : Desc) (e lim n : Nat) : Option (Nat × Nat) :=
  if !dMdv d then none
  else (List.range n).findSome? (fun v =>
    let b := s.bitmapOf d e v
    if b / 2 ^ lim = 0 then none
    else (List.range e).findSome? (fun i => if lim ≤ i ∧ b / 2 ^ i % 2 = 1 then some (v, i) else none))

/-- Everything a pass reads and writes. -/
def astreamRanges (x c o : Desc) (cin raw : Bool) (fmt out e n : Nat) (hdrs : Bool) : List (Word × Nat) :=
  vecRanges x (esize (dFmt x)) (e * esize fmt) n ++ bitmapRanges x e n ++ (if hdrs then hdrRanges x n else []) ++
    (if cin then vecRanges c 16 2048 n ++ hdrRangesIf c n else []) ++
    vecRanges o 16 (if raw then 2048 else 128 * esize out) n ++ (if raw then [] else bitmapRanges o 128 n) ++
    hdrRangesIf o n

def execAstream (u : UnitId) (f : BitVec 57) (s : State) : Host.Outcome State Fault Refusal :=
  .next (
    let k := unitKey u
    let a := lAr f
    let regs : List Reg := [.d (lD1 f), .d (lD2 f), .d (lD3 f), .s (lRa f), .s (lRb f), .s (lRc f)]
    s.issue64 k 0x61 f (isCore k && lOk f ['r', '1', '2', '3', 't', 'm', 'a', 'b', 'c'] 8 &&
        (rmMode (s.proc k) (lRm f)).isSome) regs (fun s1 =>
      let p := s1.proc k
      if s1.arrStall k a (some (lTag f)) then s1
      else match firstTrap [s1.arrOut k a, arrBusy p a, astreamTrap p f a] with
        | some t => s1.trap1 k t
        | none =>
          let x := p.getD (lD1 f)
          let c := p.getD (lD2 f)
          let o := p.getD (lD3 f)
          let te := lFlags f % 2 == 1
          let cin := lFlags f / 2 % 2 == 1
          let raw := lFlags f / 4 == 1
          let n := (p.getS (lRa f)).toNat
          let kk := (p.getS (lRb f)).toNat
          let info := (p.arr a).infoAct
          let fmt := resolveFmt p.nf x
          let out := if raw then fmt else resolveFmt p.nf o
          let e := if info.t24 then 256 else 128
          let hdrs := dHdrv x && (dFollow x || fmt == 0 || !te)
          let (s2, refd) := s1.refuseRanges k (astreamRanges x c o cin raw fmt out e n hdrs)
          let (s2, unc) := if refd then (s2, false) else s2.readMeta k (bitmapRanges x e n)
          let bad := refd || unc
          match (if bad then none else s2.bitmapFault x e (min e kk) n) with
          | some (v, i) =>
            s2.sparseFault k a 0 (BitVec.ofNat 64 i) (if dHdrv o then some (dHdr o (v / 128)) else none)
          | none =>
            let (s3, hs) := s2.readHdrs k a p.span.isSome (if hdrs && !bad then (List.range (blocksOf n)).map (dHdr x) else [])
            let chain := cin && dHdrv c && !(fmt != 0 && te) && !bad
            let (s4, hc) := if chain then s3.readHdrs k a p.span.isSome ((List.range (blocksOf n)).map (dHdr c)) else (s3, [])
            match firstTrap [hdrTrap (dFollow x) fmt hs, hdrTrap false fmt hc] with
            | some t => s1.trap1 k t
            | none =>
              let top : Option Int :=
                if fmt = 0 then none
                else if te then some (p.getS (lRc f)).toInt
                else if cin then
                  -- a carry-in header without a window top gives the T of R102 (DESIGN CHOICE, log entry 84)
                  match hc with
                  | some h :: _ => some (h.top.getD (windowTop fmt kk none none))
                  | _ => some (windowTop fmt kk none none)
                else some (windowTop fmt kk info.maxexp (hdrMax hs))
              let mode := (rmMode p (lRm f)).getD 0
              let p1 := s4.proc k
              let op := { newOp p1 .pass a with
                d1 := x, d2 := c, d3 := o, n := n, k := kk, top := top, cin := cin, raw := raw, src1 := hdrSrcs fmt hs,
                fmt := fmt, out := out, f16 := dFollow o && out == 0, mode := mode, tag := some (lTag f),
                fail := bad || hs.any (·.isNone) || hc.any (·.isNone) }
              let p2 := p1.pushOp a op
              s4.retire k (if mode = mSR ∧ !raw then p2.drainDraws a (128 * n) else p2) 8 false 1))

/-! ## `adrain` -/

def adrainTrap (p : Proc) (f : BitVec 57) : Option Trp :=
  let o := p.getD (lD3 f)
  let out := resolveFmt p.nf o
  firstTrap [descTrap (lD3 f) o [0], resolveTrap p.nf (lD3 f) o [0, 1, 2, 3, 8],
    when' ((p.getS (lRa f)).toNat / 2 ^ 36 != 0) (opTrap (p.getS (lRa f))),
    when' (out != 8 && (dE o 0 != 128 || dVectors o < 128)) (dTrap (lD3 f)),
    if out = 8 then alignTrap (lD3 f) o 64 false else alignTrap (lD3 f) o (esize out) true]

def execAdrain (u : UnitId) (f : BitVec 57) (s : State) : Host.Outcome State Fault Refusal :=
  .next (
    let k := unitKey u
    let a := lAr f
    let o := (s.proc k).getD (lD3 f)
    let out := resolveFmt (s.proc k).nf o
    let ok := if out = 8 then lTag f == 0 else (rmMode (s.proc k) (lRm f)).isSome
    s.issue64 k 0x64 f (isCore k && lOk f ['r', '3', 't', 'm', 'a', 'b'] 1 && ok) [.d (lD3 f), .s (lRa f), .s (lRb f)] (fun s1 =>
      let p := s1.proc k
      let tag : Option Nat := if out = 8 then none else some (lTag f)
      if s1.arrStall k a tag then s1
      else match firstTrap [s1.arrOut k a, adrainTrap p f] with
        | some t => s1.trap1 k t
        | none =>
          let r := p.arr a
          let (s2, bad) := s1.refuseRanges k
            ((if out = 8 then [] else vecRanges o 16 (128 * esize out) 128 ++ bitmapRanges o 128 128) ++ hdrRangesIf o 128)
          let p1 := s2.proc k
          let mode := if out = 8 then mSR else (rmMode p1 (lRm f)).getD 0
          let op := { newOp p1 .drain a with
            d3 := o, n := 128, k := if r.accLive then 1 else 0, top := if r.accLive then r.accTop else none,
            fmt := if r.accLive then r.accFmt else 0, out := out, f16 := dFollow o && out == 0, mode := mode, tag := tag,
            gword := p.getS (lRa f), block := p.getS (lRb f), fail := bad }
          let p2 := (p1.setArr a { r with accLive := false }).pushOp a op
          s2.retire k (if mode = mSR then p2.drainDraws a 16384 else p2) 8 false 1))

/-! ## `adiag` -/

def adiagTrap (p : Proc) (f : BitVec 57) : Option Trp :=
  let x := p.getD (lD1 f)
  let y := p.getD (lD2 f)
  let o := p.getD (lD3 f)
  let c := p.getD (lD4 f)
  let add := lFlags f == 1
  let n := (p.getS (lRa f)).toNat
  let fx := resolveFmt p.nf x
  let one (r : Nat) (d : Desc) : List (Option Trp) :=
    [descTrap r d [0], resolveTrap p.nf r d [0, 1, 2, 3], when' (dE d 0 != 128 || dVectors d < n) (dTrap r),
      alignTrap r d (esize (dFmt d)) true]
  firstTrap (one (lD1 f) x ++ one (lD2 f) y ++ one (lD3 f) o ++ (if add then one (lD4 f) c else []) ++
    [when' (n == 0 || n > 4096) (opTrap (p.getS (lRa f))), when' (resolveFmt p.nf y != fx) (fmtTrap (resolveFmt p.nf y)),
      when' (add && resolveFmt p.nf c != fx) (fmtTrap (resolveFmt p.nf c))])

def execAdiag (u : UnitId) (f : BitVec 57) (s : State) : Host.Outcome State Fault Refusal :=
  .next (
    let k := unitKey u
    let a := lAr f
    let add := lFlags f == 1
    let regs : List Reg := [.d (lD1 f), .d (lD2 f), .d (lD3 f), .d (lD4 f), .s (lRa f)]
    s.issue64 k 0x65 f (isCore k && lOk f ['r', '1', '2', '3', '4', 't', 'm', 'a'] 2 &&
        (rmMode (s.proc k) (lRm f)).isSome) regs (fun s1 =>
      let p := s1.proc k
      if s1.arrStall k a (some (lTag f)) then s1
      else match firstTrap [s1.arrOut k a, arrBusy p a, adiagTrap p f] with
        | some t => s1.trap1 k t
        | none =>
          let x := p.getD (lD1 f)
          let y := p.getD (lD2 f)
          let o := p.getD (lD3 f)
          let c := p.getD (lD4 f)
          let n := (p.getS (lRa f)).toNat
          let fmt := resolveFmt p.nf x
          let out := resolveFmt p.nf o
          let rng (d : Desc) : List (Word × Nat) :=
            vecRanges d (esize fmt) (128 * esize fmt) n ++ bitmapRanges d 128 n ++ hdrRangesIf d n
          let (s2, refd) := s1.refuseRanges k (rng x ++ rng y ++ (if add then rng c else []) ++
            vecRanges o 16 (128 * esize out) n ++ bitmapRanges o 128 n ++ hdrRangesIf o n)
          let (s2, unc) := if refd then (s2, false)
            else s2.readMeta k (bitmapRanges x 128 n ++ bitmapRanges y 128 n ++ (if add then bitmapRanges c 128 n else []))
          let bad := refd || unc
          let as (d : Desc) : List Word := if dHdrv d && !bad then (List.range (blocksOf n)).map (dHdr d) else []
          let (s3, h1) := s2.readHdrs k a p.span.isSome (as x)
          let (s4, h2) := s3.readHdrs k a p.span.isSome (as y)
          let (s5, h4) := s4.readHdrs k a p.span.isSome (if add then as c else [])
          match firstTrap [hdrTrap (dFollow x) fmt h1, hdrTrap (dFollow y) fmt h2, hdrTrap (dFollow c) fmt h4] with
          | some t => s1.trap1 k t
          | none =>
            let mode := (rmMode p (lRm f)).getD 0
            let p1 := s5.proc k
            let op := { newOp p1 .diag a with
              d1 := x, d2 := y, d3 := o, d4 := c, n := n, add := add, src1 := hdrSrcs fmt h1, src2 := hdrSrcs fmt h2,
              src4 := hdrSrcs fmt h4, fmt := fmt, out := out, f16 := dFollow o && out == 0, mode := mode,
              tag := some (lTag f), fail := bad || h1.any (·.isNone) || h2.any (·.isNone) || h4.any (·.isNone) }
            let p2 := p1.pushOp a op
            s5.retire k (if mode = mSR then p2.drainDraws a (128 * n) else p2) 8 false 1))

end Sys2Proof.Machine
end

