-- ==== Sys2Proof/Machine/ArrayRun.lean ====
section
/-! DEFINITION. What an array does with the instructions in its queue: `ALOAD_CAPTURE_COMPLETE`, `SWAP_TOKEN_ATTACH`,
`DRAIN_OUTPUT_WRITE` (R85 to R124, R130 to R144, R236 to R241). An array performs its instructions in order (R236); a drain
writes one vector or row at a time. -/

namespace Sys2Proof.Machine

open Sys2Proof

def State.setArray (s : State) (k a : Nat) (x : Arr) : State := s.setProc k ((s.proc k).setArr a x)
def State.array (s : State) (k a : Nat) : Arr := (s.proc k).arr a

def Arr.active (x : Arr) : Latch := if x.act then x.latB else x.latA
def Arr.setIdle (x : Arr) (l : Latch) : Arr := if x.act then { x with latA := l } else { x with latB := l }
def Arr.idle (x : Arr) : Latch := if x.act then x.latA else x.latB

/-- A latch's rows; a cleared latch holds zeros (R124). -/
def Latch.rows (l : Latch) : List (List (Option Nat)) :=
  if l.vals.isEmpty then List.replicate 128 (List.replicate 128 (some 0)) else l.vals

/-! ## Loading -/

/-- Transpose of a square matrix of `n` rows and columns. -/
def transposeM (n : Nat) (m : List (List (Option Nat))) : List (List (Option Nat)) :=
  (List.range n).map (fun i => (List.range n).map (fun j => (m.getD j []).getD i none))

/-- The violating groups of a T24 pair's rows: groups of four rows with more than two values in a column (R132). -/
def violations (rows : List (List (Option Nat))) : Nat :=
  ((List.range 64).flatMap (fun g => (List.range 128).filter (fun j =>
    decide (((List.range 4).filter (fun i => ((rows.getD (4 * g + i) []).getD j none).isSome)).length > 2)))).length

/-- A dense tile's rows: positions outside the extents latch zero (R236). -/
def State.denseRows (s : State) (k a : Nat) (l : LoadReq) : State × List (List (Option Nat)) :=
  let d := l.desc
  let src := srcOf l.src l.fmt 0
  let es := esize src
  let go := (List.range (dE d 1)).foldl (fun (acc : State × List (List Nat)) i =>
    let as := (List.range (dE d 0)).map (fun j => some (dBase d + BitVec.ofNat 64 (i * dS d 1 + j * es)))
    let (s1, xs) := acc.1.readElems k es as
    let ys := xs.map (enterElem src l.fmt)
    (if ys.any (·.2) then s1.report k a l.inSpan (.overflow true 0) else s1, acc.2 ++ [ys.map (·.1)])) (s, [])
  let full := (List.range 128).map (fun i => (List.range 128).map (fun j => some ((go.2.getD i []).getD j 0)))
  (go.1, if l.tr then transposeM 128 full else full)

/-- One stored tile of a T24 pair. -/
def State.t24Rows (s : State) (k a t : Nat) (l : LoadReq) : State × List (List (Option Nat)) :=
  let d := l.desc
  let src := l.src.getD t l.fmt
  let es := esize src
  let base := dBase d + BitVec.ofNat 64 (t * dS d 1)
  let md := dMd d + BitVec.ofNat 64 (1088 * t)
  let pats := s.patBytes md
  let ec := s.natAt (md.toNat + 1032) 2
  let ea := BitVec.ofNat 64 (s.natAt (md.toNat + 1024) 8)
  let list (b : Word) (n : Nat) : List (Option Word) := (List.range n).map (fun i => some (b + BitVec.ofNat 64 (i * es)))
  let (s1, vs) := s.readElems k es (list base 8192)
  let (s2, xs) := s1.readElems k es (list ea (16 * ec))
  let vs' := vs.map (enterElem src l.fmt)
  let xs' := xs.map (enterElem src l.fmt)
  let s3 := if (vs' ++ xs').any (·.2) then s2.report k a l.inSpan (.overflow true 0) else s2
  let m := t24Tile (Fmt.of l.fmt) pats (fun i => (vs'.getD i (0, false)).1) (fun i => (xs'.getD i (0, false)).1)
  (s3, if l.tr then transposeM 128 m else m)

/-- The rows of a load (R94, R105, R130). -/
def State.loadRows (s : State) (k a : Nat) (l : LoadReq) : State × List (List (Option Nat)) :=
  if dMdv l.desc then
    let (s1, m0) := s.t24Rows k a 0 l
    let (s2, m1) := s1.t24Rows k a 1 l
    (s2, m0 ++ m1)
  else s.denseRows k a l

/-- Nature flips one bit of a latched value. -/
def flipRows (F : Fmt) (flip : Option (Nat × Nat × Nat)) (rows : List (List (Option Nat))) : List (List (Option Nat)) :=
  match flip with
  | none => rows
  | some (i, j, b) =>
    rows.modify i (fun r => r.modify j (fun v => v.map (fun x => Nat.xor x (2 ^ (b % F.width)))))

/-- The last row of the oldest load is captured (R94 to R96, R135). -/
def State.captureLoad (s : State) (k a : Nat) (l : LoadReq) (flip : Option (Nat × Nat × Nat)) : State :=
  let F := Fmt.of l.fmt
  let t24 := dMdv l.desc
  let (s1, rows) := s.loadRows k a l
  let v := if t24 then violations rows else 0
  let lat : Latch := ⟨l.fmt, t24, flipRows F flip rows, rows.map (rowResidue F), v⟩
  let x := s1.array k a
  let x1 := x.setIdle lat
  let x2 := if t24 then { x1 with vgroups := min (x1.vgroups + v) 0xFFFFFFFF, lastv := v } else x1
  let s2 := s1.setArray k a x2
  let p := s2.proc k
  if t24 && p.vevent && v > p.vthr.toNat then
    s2.emit 0x1401 (polderOf k) (uidUnit k) [(1, k / 90), (1, k / 9 % 10), (1, k % 9), (1, a), (2, v)]
  else s2

/-- A core's arrays work while its polder runs. Under the fence they inject nothing more (Table 15.2). -/
def State.arrRuns (s : State) (k : Nat) : Bool := (s.proc k).run && s.polderOn (polderOf k)

def execAloadCaptureComplete (c : CoreId) (a : Fin 2) (flip : Option (Nat × Nat × Nat)) (s : State) :
    Host.Outcome State Fault Refusal :=
  .next (
    let k := coreKey c
    let x := s.array k a.val
    match x.loads with
    | [] => s
    | l :: rest =>
      if l.ahead ≠ 0 || !s.arrRuns k then s
      else
        let s1 := s.setArray k a.val { x with loads := rest }
        let s2 := if l.fail then s1 else s1.captureLoad k a.val l flip
        s2.tagDone k l.tag l.fail)

/-! ## Accumulate-in-place (R106, R107, R139 to R143) -/

/-- The rows of the gradient mask; no mask marks every position (R141). -/
def State.gradMask (s : State) (o : ArrOp) : List (List Bool) :=
  if !o.gm then []
  else (t24Tile (Fmt.of 0) (s.patBytes (dMd o.d3)) (fun _ => 1) (fun _ => 1)).map (fun r => r.map (·.isSome))

/-- The west elements of position `k`: with a bitmap a dead lane takes no part and a clear bit is a zero operand; with a row
split the hot row's element goes to row h or row p (R136, R139, R143). -/
def westVec (o : ArrOp) (bm kpos : Nat) (xs : List Nat) : List (Option Nat) :=
  let d := o.d1
  let split := dRsplit d && dKind d == 0
  let h := dHot d
  let p := dPartner d
  let useP := kpos % 2 == 1
  let bit (i : Nat) : Bool := !dMdv d || bm / 2 ^ i % 2 == 1
  -- the bit and the value that row i takes
  let rowBit (i : Nat) : Bool :=
    if split && i == p then useP && bit h else if split && i == h then !useP && bit h else bit i
  let live (lane : Nat) : Bool := !dMdv d || (List.range 64).any (fun i => rowBit (64 * lane + i))
  (List.range 128).map (fun i =>
    if !live (i / 64) then none
    else if split && i == p then (if useP then some (if bit h then xs.getD h 0 else 0) else none)
    else if split && i == h then (if useP then none else some (if bit h then xs.getD h 0 else 0))
    else some (if bit i then xs.getD i 0 else 0))

/-- The north row as one array row sees it, under the gradient mask. -/
def northRow (mask : List (List Bool)) (i : Nat) (bs : List Nat) : List (Option Nat) :=
  match mask with
  | [] => bs.map some
  | m => List.zipWith (fun b (ok : Bool) => if ok then some b else none) bs (m.getD i [])

/-- One position into the registers and the checksum cells. -/
def accPosition (o : ArrOp) (mask : List (List Bool)) (ws : List (Option Nat)) (bs : List Nat) (acc : List (List Cell))
    (z : List Nat) : List (List Cell) × List Nat :=
  let F := Fmt.of o.fmt
  let rows := (List.range 128).map (fun i =>
    let cells := acc.getD i (List.replicate 128 Cell.fresh)
    match ws.getD i none with
    | none => (cells, z.getD i 0)
    | some x =>
      let br := northRow mask i bs
      (rowInto F o.top x cells br, (z.getD i 0 + resDatum F x * rowResidue F br) % 65535))
  (rows.map (·.1), rows.map (·.2))

/-- The registers and checksum cell of row `i`. -/
def Arr.accRow (x : Arr) (i : Nat) : List Cell × Nat := (x.acc.getD i (List.replicate 128 Cell.fresh), x.accZ.getD i 0)

/-- Products that a position's live elements take in the cells that the mask marks (R137, R141). -/
def accLiveProducts (mask : List (List Bool)) (ws : List (Option Nat)) : Nat :=
  (List.range ws.length).foldl (fun n i =>
    if (ws.getD i none).isSome then n + (match mask with | [] => 128 | m => ((m.getD i []).filter id).length) else n) 0

/-- The registers that a gradient mask leaves unmarked drain as zero (R141): an earlier pass's sum is cleared there, and its
residue leaves the row's checksum cell (DESIGN CHOICE, log entry 86). -/
def Arr.maskAcc (x : Arr) (mask : List (List Bool)) : Arr :=
  match mask with
  | [] => x
  | m =>
    if x.acc.isEmpty then x
    else
      let rows := (List.range 128).map (fun i =>
        let (cells, z) := x.accRow i
        let ok := m.getD i []
        let gone := (List.range 128).filter (fun j => !ok.getD j true)
        let cellAt (j : Nat) : Cell := cells.getD j Cell.fresh
        let r := gone.foldl (fun acc j => acc + resOf (cellAt j).reg (regExp x.accTop) + (cellAt j).disc) 0
        (List.zipWith (fun (c : Cell) (keep : Bool) => if keep then c else Cell.fresh) cells ok, (z + (65535 - r % 65535)) % 65535))
      { x with acc := rows.map (·.1), accZ := rows.map (·.2) }

/-- All positions of an `aacc`, from position `i` on; the answer counts the live positions of the two lanes. -/
def State.accWalk (s : State) (k a : Nat) (o : ArrOp) (mask : List (List Bool)) : Nat → Nat → Nat × Nat → State × Nat × Nat
  | 0, _, c => (s, c)
  | n + 1, i, c =>
    let (s1, xs, b1) := s.feedVec k a o.inSpan o.d1 (srcOf o.src1 o.fmt i) o.fmt 128 i
    let (s2, bs, b2) := s1.feedVec k a o.inSpan o.d2 (srcOf o.src2 o.fmt i) o.fmt 128 i
    let ws := westVec o (if dMdv o.d1 then s2.bitmapOf o.d1 128 i else 0) i xs
    let x := s2.array k a
    let (acc, z) := accPosition o mask ws (s2.bitmapped o.d2 128 i bs) x.acc x.accZ
    let s3 := s2.setArray k a { x with acc := acc, accZ := z, accFail := x.accFail || b1 || b2 }
    let s4 := s3.countEv k 0x0B a (accLiveProducts mask ws / 128)
    State.accWalk s4 k a o mask n (i + 1)
      (c.1 + b2n ((ws.take 64).any (·.isSome)), c.2 + b2n ((ws.drop 64).any (·.isSome)))

/-- Perform an `aacc`; a refused operand marks the sums failed (R239). The pass takes as many beats as the busier lane has
live positions (R140). -/
def State.performAcc (s : State) (k a : Nat) (o : ArrOp) : State :=
  let split : Option (Nat × Nat) := if dRsplit o.d1 && dKind o.d1 == 0 then some (dHot o.d1, dPartner o.d1) else none
  let x := s.array k a
  let s1 := s.setArray k a { x with split := if split.isSome then split else x.split, accFail := x.accFail || o.fail }
  if o.fail then s1
  else
    let mask := s1.gradMask o
    let s1 := s1.setArray k a ((s1.array k a).maskAcc mask)
    let (s2, l0, l1) := s1.accWalk k a o mask o.k 0 (0, 0)
    s2.countEv k 0x07 a (max l0 l1)

/-- The array performs every `aacc` that has come to the head of its queue. -/
def State.settle (s : State) (k a : Nat) : Nat → State
  | 0 => s
  | n + 1 =>
    let x := s.array k a
    match x.ops with
    | o :: rest =>
      if o.kind = .acc ∧ ¬ s.safety.fence then State.settle ((s.setArray k a { x with ops := rest }).performAcc k a o) k a n else s
    | [] => s

/-! ## `aacc` -/

def aaccTrap (p : Proc) (f : BitVec 57) (a : Nat) : Option Trp :=
  let x := p.getD (lD1 f)
  let y := p.getD (lD2 f)
  let m := p.getD (lD3 f)
  let te := lFlags f % 2 == 1
  let gm := lFlags f / 2 == 1
  let kk := (p.getS (lRa f)).toNat
  let t := p.getS (lRc f)
  let fx := resolveFmt p.nf x
  let r := p.arr a
  firstTrap [descTrap (lD1 f) x [0, 1], descTrap (lD2 f) y [0], resolveTrap p.nf (lD1 f) x [0, 1, 2, 3],
    resolveTrap p.nf (lD2 f) y [0, 1, 2, 3], when' (resolveFmt p.nf y != fx) (fmtTrap (resolveFmt p.nf y)),
    when' (r.accLive && r.accFmt != fx) (fmtTrap fx), when' (kk == 0) (opTrap (p.getS (lRa f))),
    when' (dKind x == 0 && (dE x 0 != 128 || dVectors x < kk)) (dTrap (lD1 f)),
    when' (dE y 0 != 128 || dVectors y < kk) (dTrap (lD2 f)), when' (fx != 0 && !te) (opTrap t),
    when' (fx != 0 && r.accLive && r.accTop != some t.toInt) (opTrap t),
    when' (dRsplit x && dKind x == 0 && decide (dHot x / 64 = dPartner x / 64)) (dTrap (lD1 f)),
    alignTrap (lD1 f) x (esize (dFmt x)) true, alignTrap (lD2 f) y (esize (dFmt y)) true,
    when' (gm && !dMdv m) (dTrap (lD3 f)), if gm then descTrap (lD3 f) m [0] else none,
    if gm then resolveTrap p.nf (lD3 f) m [0, 1, 2, 3] else none, if gm then alignTrap (lD3 f) m (esize (dFmt m)) false else none]

def execAacc (u : UnitId) (f : BitVec 57) (s : State) : Host.Outcome State Fault Refusal :=
  .next (
    let k := unitKey u
    let a := lAr f
    let gm := lFlags f / 2 == 1
    let regs : List Reg := [.d (lD1 f), .d (lD2 f), .d (lD3 f), .s (lRa f), .s (lRc f)]
    s.issue64 k 0x63 f (isCore k && lOk f ['r', '1', '2', '3', 'a', 'c'] 4) regs
        (fun s1 =>
      let p := s1.proc k
      if s1.arrStall k a none then s1
      else match firstTrap [s1.arrOut k a, aaccTrap p f a] with
        | some t => s1.trap1 k t
        | none =>
          let x := p.getD (lD1 f)
          let y := p.getD (lD2 f)
          let m := p.getD (lD3 f)
          let kk := (p.getS (lRa f)).toNat
          let fmt := resolveFmt p.nf x
          let hx := dHdrv x && (dFollow x || fmt == 0)
          let hy := dHdrv y && (dFollow y || fmt == 0)
          let bits := bitmapRanges x 128 kk ++ bitmapRanges y 128 kk ++ (if gm then [(dMd m, 1088)] else [])
          let (s2, refd) := s1.refuseRanges k (vecRanges x (esize fmt) (128 * esize fmt) kk ++
            vecRanges y (esize fmt) (128 * esize fmt) kk ++ (if hx then hdrRanges x kk else []) ++
            (if hy then hdrRanges y kk else []) ++ bits)
          let (s2, unc) := if refd then (s2, false) else s2.readMeta k bits
          let bad := refd || unc
          if !bad && gm && s2.t24Bad (dMd m) then s1.trap1 k (dTrap (lD3 f))
          else
            let (s3, h1) := s2.readHdrs k a p.span.isSome (if hx && !bad then (List.range (blocksOf kk)).map (dHdr x) else [])
            let (s4, h2) := s3.readHdrs k a p.span.isSome (if hy && !bad then (List.range (blocksOf kk)).map (dHdr y) else [])
            match firstTrap [hdrTrap (dFollow x) fmt h1, hdrTrap (dFollow y) fmt h2] with
            | some t => s1.trap1 k t
            | none =>
              let p1 := s4.proc k
              let r := p1.arr a
              let top : Option Int := if fmt = 0 then none else some (p.getS (lRc f)).toInt
              let r1 := { r with accLive := true, accFmt := fmt, accTop := top }
              let op := { newOp p1 .acc a with
                d1 := x, d2 := y, d3 := m, k := kk, top := top, gm := gm, src1 := hdrSrcs fmt h1, src2 := hdrSrcs fmt h2,
                fmt := fmt, out := fmt, fail := bad || h1.any (·.isNone) || h2.any (·.isNone) }
              (s4.retire k ((p1.setArr a r1).pushOp a op) 8 false 1).settle k a (r1.ops.length + 1)))

/-! ## The swap token (R93, R96, R98) -/

def execSwapTokenAttach (c : CoreId) (a : Fin 2) (s : State) : Host.Outcome State Fault Refusal :=
  .next (
    let k := coreKey c
    let x := s.array k a.val
    match x.ops with
    | o :: v :: rest =>
      -- a drain that waits between the token and a vector is performed first: no vector of it enters the array
      if o.kind ≠ .swap || v.kind == .drain || x.loads.any (·.ahead == 0) || !s.arrRuns k || s.safety.fence then s
      else
        let x1 := { x with act := !x.act, ops := v :: rest,
                           loads := x.loads.map (fun l => { l with ahead := l.ahead - 1 }) }
        (s.setArray k a.val x1).settle k a.val (rest.length + 1)
    | _ => s)

/-! ## Drains -/

/-- The 128 draws of output vector `v` of an operation. -/
def ArrOp.draws (o : ArrOp) (unit v : Nat) : List Nat :=
  if o.mode = mSR then
    (List.range 128).map (fun j => srDraw o.seed unit o.step (o.ctr + BitVec.ofNat 64 (128 * v + j)))
  else []

/-- The reports of drained outputs, in column order (R113, R114). -/
def State.reportOut (s : State) (k a : Nat) (o : ArrOp) (F : Fmt) (d : Drained) : State :=
  if d.nonfin then s.report k a o.inSpan .nonfinite
  else
    let s1 := if d.ovf then s.report k a o.inSpan (.overflow o.f16 o.out) else s
    let s2 := if d.wloss && !d.cancel then s1.report k a o.inSpan .wloss else s1
    if o.bound != 0 && aboveBound F d.bits o.bound then s2.report k a o.inSpan (.range o.bound d.bits) else s2

/-- Counters and the cancellation report of a vector (R649): inside a span at once, outside with the last output. -/
def State.reportVec (s : State) (k a : Nat) (o : ArrOp) (F : Fmt) (ds : List Drained) : State :=
  let s1 := ds.foldl (fun acc d => acc.reportOut k a o F d) s
  let nc := (ds.filter (·.cancel)).length
  let nw := (ds.filter (·.wloss)).length
  let s2 := if nw = 0 then s1 else (s1.countEv k 0x0D a nw).countEv k 0x0E a nc
  if o.inSpan && nc != 0 then s2.report k a true (.cancel nc) else s2

/-- Write a vector's bytes to the own pond. -/
def State.writePond (s : State) (k : Nat) (a : Word) (bs : List Byte) : State := (s.eccWrite a (present bs) (uidUnit k)).1

/-- Write output vector `v`, its bitmap word when the output names bitmaps (R138), and update the tile's statistic. -/
def State.writeOut (s : State) (k a : Nat) (o : ArrOp) (v : Nat) (ds : List Drained) : State × ArrOp :=
  let F := Fmt.of o.out
  let s1 := s.writePond k (dVec o.d3 v) (ds.flatMap (fun d => leBytes (esize o.out) d.bits))
  let bm := (List.range 128).foldl (fun acc j =>
    if (ds.getD j ⟨0, false, false, false, false⟩).bits % F.signBit != 0 then acc + 2 ^ j else acc) 0
  let s2 := if dMdv o.d3 then s1.writePond k (dMd o.d3 + BitVec.ofNat 64 (16 * v)) (leBytes 16 bm) else s1
  (s2.reportVec k a o F ds,
    { o with stat := ds.foldl (fun t d => t.take F d) o.stat, cancels := o.cancels + (ds.filter (·.cancel)).length })

/-- The header of the tile that ends with vector `v` (R100). TOP is 0x8000 where there is no window: for an `adiag` in formats 1 to 3
and an `adrain` that holds no sums (DESIGN CHOICE, log entry 92). -/
def State.writeHdr (s : State) (k : Nat) (o : ArrOp) (v : Nat) : State × ArrOp :=
  if v % 128 ≠ 127 ∧ v + 1 ≠ o.n then (s, o)
  else
    let m := v / 128
    let bytes := tileHdrBytes o.out o.stat o.raw o.top (v % 128 + 1) 128 o.step
    (if dHdrv o.d3 then s.writePond k (dHdr o.d3 m) bytes else s, { o with stat := TileStat.fresh })

/-- Carry-in elements of vector `v` (R90); a faulty word enters as a NaN. -/
def State.carryIn (s : State) (k : Nat) (o : ArrOp) (v : Nat) : State × List Cell :=
  let base := dVec o.d2 v
  let (s1, bad) := if s.pondMark.isEmpty then (s, []) else
    s.badWords (uidUnit k) ((List.range 256).map (· + base.toNat / 8))
  (s1, (List.range 128).map (fun j =>
    let at' := base.toNat + 16 * j
    rawStart o.top (bad.contains (at' / 8) || bad.contains (at' / 8 + 1)) (s1.bytesAt at' 16)))

/-- One vector of a stationary pass (R85, R101, R116, R117, R133). -/
def State.passVec (s : State) (k a : Nat) (o : ArrOp) (v : Nat) : State × ArrOp :=
  let F := Fmt.of o.fmt
  let lat := (s.array k a).active
  let e := if lat.t24 then 256 else 128
  let rows := lat.rows
  let (s1, xs, _) := s.feedVec k a o.inSpan o.d1 (srcOf o.src1 o.fmt v) o.fmt e v
  let ox := if dMdv o.d1 then maskVec (s1.bitmapOf o.d1 e v) xs else xs.map some
  let (s2, start) := if o.cin then s1.carryIn k o v else (s1, List.replicate 128 Cell.fresh)
  let cells := waveSums (lat.vgroups > 0) F o.top ox rows start
  let ovr := cells.any (·.ovr)
  let bad := !ovr && vecResidue F ox lat.chk != outResidue o.top cells
  let waves := if lat.vgroups > 0 then 2 else 1
  let s3 := (s2.countEv k 0x07 a waves).countEv k 0x0B a (liveProducts ox rows / 128)
  let s4 := if waves = 2 then s3.countEv k 0x0C a 1 else s3
  let o1 := { o with resBad := o.resBad || bad }
  if o.raw then
    let s5 := s4.writePond k (dVec o.d3 v) (cells.flatMap rawPack)
    let st := { o1.stat with
      nonfin := o1.stat.nonfin || cells.any (fun c => c.nan || c.pinf || c.ninf || c.ovr),
      wloss := o1.stat.wloss || cells.any (·.wloss) }
    (s5, { o1 with stat := st })
  else
    let rs := o.draws (uidCore k (2 + a)) v
    s4.writeOut k a o1 v (List.zipWith (fun c j => c.drain o.top (Fmt.of o.out) o.mode (rs.getD j 0)) cells (List.range 128))

/-- What cell (i, i) of a diagonal pass forms: `a × b + c` exactly as `m × 2^e` (R110), or nothing where it is non-finite. -/
def diagSum (F : Fmt) (add : Bool) (x y c : Nat) : Option (Int × Int) :=
  let a := unpack F x
  let b := unpack F y
  let w := unpack F c
  if !a.finite || !b.finite || (add && !w.finite) then none
  else
    let pm : Int := if a.sign ^^ b.sign then -((a.mant * b.mant : Nat) : Int) else (a.mant * b.mant : Nat)
    let pe := a.exp + b.exp
    let cm : Int := if add then w.int else 0
    let e := if cm = 0 then pe else if pm = 0 then w.exp else min pe w.exp
    some ((if pm = 0 then 0 else pm * 2 ^ (pe - e).toNat) + (if cm = 0 then 0 else cm * 2 ^ (w.exp - e).toNat), e)

/-- One output of a diagonal pass, rounded once. -/
def diagOne (F G : Fmt) (add : Bool) (mode r x y c : Nat) : Drained :=
  let a := unpack F x
  let b := unpack F y
  let w := unpack F c
  let sp := a.sign ^^ b.sign
  let pi := a.cls == .inf || b.cls == .inf
  let ci := add && w.cls == .inf
  match diagSum F add x y c with
  | none =>
    if a.isNan || b.isNan || (add && w.isNan) || (a.cls == .inf && b.cls == .zero) || (a.cls == .zero && b.cls == .inf) ||
        (pi && ci && sp != w.sign) then ⟨G.qnan, true, false, false, false⟩
    else ⟨(if (if pi then sp else w.sign) then G.signBit else 0) + G.inf, true, false, false, false⟩
  | some (t, e) =>
    if t = 0 then
      let neg := (a.mant * b.mant == 0 && sp && (!add || (w.int == 0 && w.sign))) || mode == mRDN
      ⟨if neg then G.signBit else 0, false, false, false, false⟩
    else
      let r := roundNZ G mode (t < 0) t.natAbs e false r
      ⟨r.bits, false, (r.fl &&& flOF) != 0, false, false⟩

/-- The residue comparison of a diagonal vector: the checksum column is fed res(b[i]) in place of c_i, and the addend's residue
(R119). Non-finite sums enter neither side (R117). -/
def diagResidueBad (F : Fmt) (add : Bool) (xs ys cs : List Nat) : Bool :=
  let d := (List.range 128).map (fun i => (xs.getD i 0, ys.getD i 0, cs.getD i 0))
  let fin := d.filter (fun t => (diagSum F add t.1 t.2.1 t.2.2).isSome)
  let z := fin.foldl (fun acc t => acc + resDatum F t.1 * resDatum F t.2.1 + (if add then resDatum F t.2.2 else 0)) 0
  let w := fin.foldl (fun acc t => acc + (match diagSum F add t.1 t.2.1 t.2.2 with | some (m, e) => resOf m e | none => 0)) 0
  z % 65535 != w % 65535

/-- One vector of a diagonal pass; an element whose bitmap bit is clear is a zero operand (R136). -/
def State.diagVec (s : State) (k a : Nat) (o : ArrOp) (v : Nat) : State × ArrOp :=
  let F := Fmt.of o.fmt
  let (s1, xs0, _) := s.feedVec k a o.inSpan o.d1 (srcOf o.src1 o.fmt v) o.fmt 128 v
  let (s2, ys0, _) := s1.feedVec k a o.inSpan o.d2 (srcOf o.src2 o.fmt v) o.fmt 128 v
  let (s3, cs0) := if o.add then
      let r := s2.feedVec k a o.inSpan o.d4 (srcOf o.src4 o.fmt v) o.fmt 128 v
      (r.1, r.2.1)
    else (s2, [])
  let xs := s3.bitmapped o.d1 128 v xs0
  let ys := s3.bitmapped o.d2 128 v ys0
  let cs := if o.add then s3.bitmapped o.d4 128 v cs0 else []
  let rs := o.draws (uidCore k (2 + a)) v
  let ds := (List.range 128).map (fun j =>
    diagOne F (Fmt.of o.out) o.add o.mode (rs.getD j 0) (xs.getD j 0) (ys.getD j 0) (cs.getD j 0))
  let o1 := { o with resBad := o.resBad || diagResidueBad F o.add xs ys cs }
  (s3.countEv k 0x07 a 1).countEv k 0x0B a 1 |>.writeOut k a o1 v ds

/-- The array with row `i`'s registers and checksum cell as given. -/
def Arr.setAccRow (x : Arr) (i : Nat) (r : List Cell × Nat) : Arr :=
  { x with acc := (List.range 128).map (fun j => if j = i then r.1 else (x.accRow j).1),
           accZ := (List.range 128).map (fun j => if j = i then r.2 else (x.accRow j).2) }

/-- A cleared row (R108). -/
def clearRow : List Cell × Nat := (List.replicate 128 Cell.fresh, 0)

/-- As a drain begins, a split row's partner is added into it exactly and cleared (R143). -/
def Arr.joinSplit (x : Arr) : Arr :=
  match x.split with
  | none => x
  | some (h, p) =>
    let rh := x.accRow h
    let rp := x.accRow p
    { (x.setAccRow h (List.zipWith Cell.merge rh.1 rp.1, (rh.2 + rp.2) % 65535)).setAccRow p clearRow with split := none }

/-- Row `i` leaves the registers, which are cleared behind it (R108); an array without live sums drains zeros (R240). -/
def Arr.takeAccRow (x : Arr) (live : Bool) (i : Nat) : Arr × (List Cell × Nat) :=
  if !live then (x, clearRow)
  else
    let y := x.joinSplit
    (y.setAccRow i clearRow, y.accRow i)

/-- A class-4 packet of a drain for block number `idx` of the instruction (R240). -/
def ArrOp.packet (o : ArrOp) (k : Nat) (kind : PKind) (idx : Nat) : Packet :=
  let g := o.gword.toNat
  let slu := g / 2 ^ 32 % 16
  { mkPacket kind 4 (nodeOfUnit k) (nodeOfSluice slu) 0 with
    gtag := g % 2 ^ 32, block := (o.block.toNat + idx) % 2 ^ 32, cnt := 1, slu := slu, step := o.step % 65536 }

/-- The zero blocks that wait leave as one run (R289); blocks leave in descending order, so the run begins at block `idx`. -/
def State.flushRun (s : State) (k : Nat) (o : ArrOp) (idx : Nat) : State :=
  if o.zrun = 0 then s else s.send { o.packet k .grun idx with nrun := o.zrun }

/-- A drain sends its block `idx`: a zero block joins the waiting run, the last block ends it. -/
def State.sendBlock (s : State) (k : Nat) (o : ArrOp) (idx : Nat) (b : Block) : State × ArrOp :=
  if b.e = 0 then
    let o1 := { o with zrun := o.zrun + 1 }
    if idx = 0 then (s.flushRun k o1 0, { o1 with zrun := 0 }) else (s, o1)
  else ((s.flushRun k o (idx + 1)).send { o.packet k .gblk idx with blk := b }, { o with zrun := 0 })

/-- Column quarter `q` of row `i` as a block, and its outputs as the drain reports them (R71, R72, R108, R113): each output is
the block's element as binary32, a non-finite one its NaN. When the exponent would exceed 254 every finite output of the block
is an overflow. -/
def ArrOp.quarter (o : ArrOp) (unit i q : Nat) (cells : List Cell) (fail : Bool) : Block × List Drained :=
  let part := (cells.drop (32 * q)).take 32
  let rs := (List.range 32).map (fun j => srDraw o.seed unit o.step (o.ctr + BitVec.ofNat 64 (128 * i + 32 * q + j)))
  let bad := part.any (·.nonfinite o.top)
  let (b, big) := drainBlock (regExp o.top) (part.map (fun c => if c.nonfinite o.top then 0 else c.reg)) rs
  let small (j : Nat) : Bool := match o.top with
    | some t => belowPow ((b.sig.getD j 0).natAbs) ((b.e : Int) - 140) (t - 56)
    | none => false
  let out (c : Cell) (j : Nat) : Drained :=
    if c.nonfinite o.top then ⟨(Fmt.of 2).qnan, true, false, false, false⟩
    else ⟨b.elem32 j, false, big, c.wloss, c.wloss && !big && small j⟩
  (if bad || fail then poisonBlock false false else b, List.zipWith out part (List.range 32))

/-- The header statistic of a block's outputs: the elements that the tile holds, NaN where the block is poisoned (DESIGN CHOICE,
log entry 85). -/
def TileStat.takeBlock (t : TileStat) (b : Block) (ds : List Drained) : TileStat :=
  let held (d : Drained) : Drained := if b.e = 255 then { d with bits := (Fmt.of 2).qnan } else d
  { ds.foldl (fun acc d => acc.take (Fmt.of 2) (held d)) t with poison := t.poison || b.e == 255 }

/-- The four blocks of a row: the reports in column order, then the blocks, the last first. -/
def State.sendBlocks (s : State) (k a : Nat) (o : ArrOp) (i : Nat) (cells : List Cell) (fail : Bool) : State × ArrOp :=
  let qs := (List.range 4).map (fun q => o.quarter (uidCore k (2 + a)) i q cells fail)
  let s1 := qs.foldl (fun acc r => acc.reportVec k a o (Fmt.of 2) r.2) s
  let o1 := { o with cancels := o.cancels + (qs.map (fun r => (r.2.filter (·.cancel)).length)).sum,
                     stat := qs.foldl (fun t r => t.takeBlock r.1 r.2) o.stat }
  [3, 2, 1, 0].foldl (fun acc q => acc.1.sendBlock k acc.2 (4 * i + q) (qs.getD q (zeroBlock, [])).1) (s1, o1)

/-- One row of an `adrain` (R108, R240). The registers shift south, so the southmost row leaves first. -/
def State.drainVec (s : State) (k a : Nat) (o : ArrOp) (pos : Nat) : State × ArrOp :=
  let i := 127 - pos
  let x := s.array k a
  let (x1, cells, z) := x.takeAccRow (o.k != 0) i
  let s1 := s.setArray k a x1
  let bad := !(cells.any (·.ovr)) && z != outResidue o.top cells
  let o1 := { o with resBad := o.resBad || bad }
  if o.out = 8 then s1.sendBlocks k a o1 i cells x.accFail
  else
    let rs := o.draws (uidCore k (2 + a)) i
    s1.writeOut k a o1 i (List.zipWith (fun c j => c.drain o.top (Fmt.of o.out) o.mode (rs.getD j 0)) cells (List.range 128))

/-- The queue as the drain sees it: a swap token that waits for a vector stays in front of an `adrain`, which moves no vector
(R93, R236). -/
def splitHead (ops : List ArrOp) : List ArrOp × List ArrOp :=
  match ops with
  | t :: o :: r => if t.kind = .swap ∧ o.kind = .drain then ([t], o :: r) else ([], ops)
  | _ => ([], ops)

/-- An operation ends: the tag, the records of R649 outside a span, the residue report (R119), registers cleared after a
drain; the next `aacc` of the queue is performed. The residue report of an operation without a tag names tag 0 (DESIGN CHOICE, log
entry 93). -/
def State.endOp (s : State) (k a : Nat) (o : ArrOp) (err : Bool) : State :=
  let x := s.array k a
  let x1 := { x with ops := (splitHead x.ops).1 ++ (splitHead x.ops).2.tail }
  let x2 := if o.kind = .drain then { x1 with acc := [], accZ := [], accFail := false, split := none } else x1
  let x3 := { x2 with suspect := x2.suspect || o.resBad }
  let s1 := s.setArray k a x3
  let s2 := match o.tag with | some t => s1.tagDone k t err | none => s1
  let s3 := if !o.inSpan && o.cancels != 0 then s2.report k a false (.cancel o.cancels) else s2
  let s4 := if o.resBad then
      { s3 with suspects := if s3.suspects.contains (2 * k + a) then s3.suspects else s3.suspects ++ [2 * k + a] }.detect 0x2501 (polderOf k) (uidCore k (2 + a))
        [(1, k / 90), (1, k / 9 % 10), (1, k % 9), (1, a), (1, o.tag.getD 0)]
    else s3
  (s4.settle k a x.ops.length).verdictLeft k

/-- A vector or row leaves the drain. Under the fence only an `adrain` goes on: a vector of the other operations is injected and
drained in one. -/
def execDrainOutputWrite (c : CoreId) (a : Fin 2) (s : State) : Host.Outcome State Fault Refusal :=
  .next (
    let k := coreKey c
    let x := s.array k a.val
    let (token, queue) := splitHead x.ops
    match queue with
    | [] => s
    | o :: rest =>
      let failed := o.fail || (o.kind == .drain && o.out != 8 && x.accFail && o.k != 0)
      if o.kind = .swap || o.kind = .acc || !s.arrRuns k || (s.safety.fence && o.kind != .drain) then s
      else if failed then s.endOp k a.val o true
      else
        let (s1, o1) := match o.kind with
          | .pass => s.passVec k a.val o o.pos
          | .diag => s.diagVec k a.val o o.pos
          | _ => s.drainVec k a.val o o.pos
        let (s2, o2) := s1.writeHdr k o1 o.pos
        if o.pos + 1 = o.n then s2.endOp k a.val o2 false
        else s2.setArray k a.val { s2.array k a.val with ops := token ++ { o2 with pos := o.pos + 1 } :: rest })

end Sys2Proof.Machine
end

