-- ==== Sys2Proof/Machine/LoadStore.lean ====
section
/-! DEFINITION. Scalar and vector loads and stores and the atomic operations (R175, R182, R183, R190, R204 to R207, R220,
R221, R648). An access of the core's own pond, or of a unit's own scratch, is performed at once; every other one becomes
class-1 requests (R283) that the mesh carries. -/

namespace Sys2Proof.Machine

open Sys2Proof

/-- Read where the unit needs no mesh. The answer names the first uncorrectable word. -/
def State.localRead (s : State) (k : Nat) (a : Word) (n : Nat) : State × List Byte × Option Nat :=
  let (s1, bad) := s.eccRead a n (uidUnit k)
  (s1, s1.bytesAt (keyFor k a) n, bad)

/-- Write where the unit needs no mesh; a word that cannot be read keeps its bytes (Table 5.7). -/
def State.localWriteMask (s : State) (k : Nat) (a : Word) (bs : List (Option Byte)) : State :=
  match place a with
  | .pond _ _ _ => (s.eccWrite a bs (uidUnit k)).1
  | _ => setMem s (memWriteMask s.mem (keyFor k a) bs)

def State.localWrite (s : State) (k : Nat) (a : Word) (bs : List Byte) : State := s.localWriteMask k a (present bs)

/-- The requests of the load/store port. -/
def ReqKind.ofPort (r : ReqKind) : Bool :=
  match r with
  | .load .. => true | .vload .. => true | .dload _ => true | .store => true | .amo _ => true | _ => false

def ReqKind.writes (r : ReqKind) : Bool :=
  match r with
  | .store => true | .amo _ => true | _ => false

/-- An access that must wait for an outstanding one of the same unit to overlapping bytes (R182). -/
def State.hazard (s : State) (k : Nat) (a : Word) (n : Nat) (write : Bool) : Bool :=
  s.reqs.any (fun r => r.owner == k && r.kind.ofPort && (write || r.kind.writes) && overlaps a.toNat n r.addr.toNat 64)

def State.portUse (s : State) (k : Nat) : Nat :=
  (s.reqs.filter (fun r => r.owner == k && r.kind.ofPort)).length

/-- A refusal at issue: the event of R24, and the address-fault trap (R648). -/
def State.addrTrap (s : State) (k sub : Nat) (a : Word) (slot1 : Bool) : State :=
  (if sub = 1 then s else s.refusedEvent k a).trap k causeAddress sub a slot1

/-! ## Scalar loads and stores -/

/-- Bytes that FN3 moves (R204, R205). -/
def ldSize (fn3 : Nat) : Nat :=
  match fn3 with
  | 0 => 1 | 1 => 2 | 2 => 4 | 3 => 8 | 4 => 1 | 5 => 2 | 6 => 4 | _ => 2

/-- The value that a scalar load writes, with its flags (R204). -/
def ldValue (fn3 : Nat) (bs : List Byte) : Word × Flg :=
  let n := leNat bs
  match fn3 with
  | 0 => (sxt 8 n, 0)
  | 1 => (sxt 16 n, 0)
  | 2 => (sxt 32 n, 0)
  | 7 => let r := fpConv (Fmt.of 0) (Fmt.of 2) mRNE n 0
         (BitVec.ofNat 64 r.bits, r.fl)
  | _ => (BitVec.ofNat 64 n, 0)

/-- A load's registers once its bytes are there. -/
def Proc.loaded (p : Proc) (rd fn3 : Nat) (bs : List Byte) : Proc :=
  (p.raise (ldValue fn3 bs).2).setS rd (ldValue fn3 bs).1

def execScalarLoad (u : UnitId) (f : BitVec 25) (s : State) : Host.Outcome State Fault Refusal :=
  .next (
    let k := unitKey u
    let rd := rdOf f
    let fn3 := fld f 17 3
    s.issue k [.s rd, .s (raOf f)] 4 0 (fun s1 =>
      let p := s1.proc k
      let a := p.getS (raOf f) + sxt 12 (fld f 20 12)
      let n := ldSize fn3
      match s1.accessFault k a n n false with
      | some sub => s1.addrTrap k sub a false
      | none =>
        if s1.hazard k a n false then s1
        else if localTo k a then
          match s1.localRead k a n with
          | (s2, _, some w) => s2.trap k causePond 0 (BitVec.ofNat 64 w) false
          | (s2, bs, none) => s2.retire k ((s2.proc k).loaded rd fn3 bs) 4 true 1
        else if s1.portUse k ≥ 16 then s1
        else (s1.request k (nodeOfUnit k) (.load rd fn3) .rd a n [] 0).retire k p 4 true 1))

/-- The bytes a scalar store writes, and the unit after a conversion (R205). -/
def storeBytes (k : Nat) (p : Proc) (fn3 : Nat) (x : Word) : List Byte × Proc :=
  if fn3 = 7 then
    let mode := p.nround.toNat
    let (ds, p1) := p.draws k false mode 1
    let r := fpConv (Fmt.of 2) (Fmt.of 0) mode (x.toNat % 2 ^ 32) (elemAt ds 0)
    (leBytes 2 r.bits, p1.raise r.fl)
  else (leBytes (ldSize fn3) x.toNat, p)

def execScalarStore (u : UnitId) (f : BitVec 25) (s : State) : Host.Outcome State Fault Refusal :=
  .next (
    let k := unitKey u
    let fn3 := fld f 17 3
    s.issue k [.s (rdOf f), .s (raOf f)] 4 0 (fun s1 =>
      let p := s1.proc k
      let a := p.getS (raOf f) + sxt 12 (fld f 20 12)
      let n := ldSize fn3
      if 4 ≤ fn3 ∧ fn3 ≤ 6 then s1.finish k 4 true false (illegal32 0x06 f)
      else match s1.accessFault k a n n true with
        | some sub => s1.addrTrap k sub a false
        | none =>
          if s1.hazard k a n true then s1
          else
            let (bs, p1) := storeBytes k p fn3 (p.getS (rdOf f))
            if localTo k a then (s1.localWrite k a bs).retire k p1 4 true 1
            else if s1.portUse k ≥ 16 then s1
            else (s1.request k (nodeOfUnit k) .store .wr a n bs 0).retire k p1 4 true 1))

/-! ## Atomic operations (R175, R206, R207) -/

/-- The new word of an atomic operation, none when `amocas` does not write. -/
def amoNew (fn : Nat) (old b expected : Word) : Option Word :=
  match fn with
  | 0 => some (old + b)
  | 1 => some b
  | _ => if old = expected then some b else none

/-- Perform an atomic operation on a pond word: the state, the old value, and whether the word could not be read. -/
def State.amoAt (s : State) (fn : Nat) (a b expected : Word) (requestor : Nat) : State × Word × Bool :=
  match s.eccRead a 8 requestor with
  | (s1, some _) => (s1, 0, true)
  | (s1, none) =>
    let old := BitVec.ofNat 64 (s1.natAt a.toNat 8)
    match amoNew fn old b expected with
    | some x => ((s1.eccWrite a (present (leBytes 8 x.toNat)) requestor).1, old, false)
    | none => (s1, old, false)

/-- The sub-cause of an atomic operation's address (R206, R648): only pond space, aligned. -/
def State.amoFault (s : State) (k : Nat) (a : Word) : Option Nat :=
  match place a with
  | .pond _ _ _ => s.accessFault k a 8 8 true
  | .resbit => if a.toNat / 2 ^ 56 = 0 then s.accessFault k a 8 8 true else some 0
  | _ => some 0

/-- The three atomic operations share everything but the new value; a word with another function code is a reserved encoding (R196,
R206). An error late or at the bank writes zero to rd, leaves the word, and sets LATEERR (R648). -/
def State.amo (s : State) (u : UnitId) (fn : Nat) (f : BitVec 25) : State :=
  let k := unitKey u
  s.issue k (regs3 f) 4 0 (fun s1 =>
    let p := s1.proc k
    let a := p.getS (raOf f)
    let b := p.getS (rbOf f)
    let e := p.getS (rdOf f)
    if !isCore k || fld f 22 10 != fn then s1.finish k 4 true false (illegal32 0x07 f)
    else match s1.amoFault k a with
      | some sub => s1.addrTrap k sub a false
      | none =>
        if s1.hazard k a 8 true then s1
        else if localTo k a then
          let (s2, old, bad) := s1.amoAt fn a b e (uidUnit k)
          let p2 := (s2.proc k).setS (rdOf f) old
          s2.retire k (if bad then { p2 with lateerr := true } else p2) 4 true 1
        else if s1.portUse k ≥ 16 then s1
        else
          (s1.request k (nodeOfUnit k) (.amo (rdOf f)) .amo a 8 (leBytes 8 b.toNat ++ leBytes 8 e.toNat) fn).retire
            k p 4 true 1)

def execAmoadd (u : UnitId) (f : BitVec 25) (s : State) : Host.Outcome State Fault Refusal :=
  .next (s.amo u 0 f)

def execAmoswap (u : UnitId) (f : BitVec 25) (s : State) : Host.Outcome State Fault Refusal :=
  .next (s.amo u 1 f)

def execAmocas (u : UnitId) (f : BitVec 25) (s : State) : Host.Outcome State Fault Refusal :=
  .next (s.amo u 2 f)

/-! ## Vector loads and stores (R220, R221) -/

/-- Runs (first element, count) of active elements that lie together in one 64-byte line, last first. -/
def elemRuns (esz a n : Nat) (act : Nat → Bool) : List (Nat × Nat) :=
  (List.range n).foldl (fun acc i =>
    if !act i then acc
    else match acc with
      | (st, ln) :: r => if st + ln = i ∧ (a + i * esz) % 64 ≠ 0 then (st, ln + 1) :: r else (i, 1) :: acc
      | [] => [(i, 1)]) []

/-- Mask with the bits of a run. -/
def runMask (st ln : Nat) : Word := BitVec.ofNat 64 ((2 ^ ln - 1) * 2 ^ st)

/-- A vector register after loaded bytes reach the elements of a mask; the bytes begin at the lowest one. -/
def vloadMerge (old : VReg) (esz : Nat) (mask : Word) (bcast : Bool) (data : List Byte) : VReg :=
  let w := 8 * esz
  let st := ((List.range 64).find? (fun i => mask.getLsbD i)).getD 0
  let xs := elems w old
  ofElems w ((List.range (512 / w)).map (fun i =>
    if mask.getLsbD i then leNat ((data.drop (if bcast then 0 else (i - st) * esz)).take esz) else elemAt xs i))

/-- Size in bytes of ESZ (R220); none for 0b00, and for what a profile does not accept (Table 7.9). -/
def eszOf (k esz : Nat) : Option Nat :=
  if esz = 0 then none
  else if isCore k then some (2 ^ esz)
  else if isUe k ∧ esz = 2 then some 4
  else none

/-- VM fields (Table 6.2): the address, and the active elements. -/
def vmAddr (p : Proc) (f : BitVec 25) : Word := p.getS (fld f 12 5) + (sxt 10 (fld f 22 10) <<< 6)
def vmPg (p : Proc) (f : BitVec 25) : Word := p.getP (fld f 17 3)

/-- The first active element's address that is refused, lowest first (R221). -/
def State.vmFault (s : State) (k : Nat) (a : Word) (esz n : Nat) (act : Nat → Bool) (write : Bool) : Option (Nat × Word) :=
  (List.range n).findSome? (fun i =>
    if act i then
      let ea := a + BitVec.ofNat 64 (i * esz)
      (s.accessFault k ea esz esz write).map (fun sub => (sub, ea))
    else none)

/-- The active elements of a vector access by 64-byte line, ascending: a mask for each line that has any. -/
def lineMasks (esz a n : Nat) (act : Nat → Bool) : List Word :=
  ([a / 64, a / 64 + 1].map (fun line => BitVec.ofNat 64 ((List.range n).foldl (fun m i =>
    if act i && (a + i * esz) / 64 == line then m + 2 ^ i else m) 0))).filter (· != 0)

/-- The lowest element of a mask, and how many elements lie from it to the highest. -/
def maskLow (m : Word) : Nat := ((List.range 64).find? (fun i => m.getLsbD i)).getD 0
def maskSpan (m : Word) : Nat := (((List.range 64).reverse.find? (fun i => m.getLsbD i)).getD 0) + 1 - maskLow m

/-- The bytes of a line's span that belong to inactive elements. -/
def maskGaps (esz : Nat) (m : Word) : List Nat :=
  (List.range (maskSpan m * esz)).filter (fun j => !m.getLsbD (maskLow m + j / esz))

def maskAddr (a : Word) (esz : Nat) (m : Word) : Word := a + BitVec.ofNat 64 (maskLow m * esz)

/-- Read runs of elements where the unit needs no mesh. The answer names an uncorrectable word. -/
def State.vloadLocal (s : State) (k esz : Nat) (a : Word) (rs : List (Nat × Nat)) (v : VReg) : State × VReg × Option Nat :=
  match rs with
  | [] => (s, v, none)
  | (st, ln) :: r =>
    match s.localRead k (a + BitVec.ofNat 64 (st * esz)) (ln * esz) with
    | (s1, _, some w) => (s1, v, some w)
    | (s1, bs, none) => State.vloadLocal s1 k esz a r (vloadMerge v esz (runMask st ln) false bs)

/-- Perform the lines of a load: local bytes at once, each other line as one request. -/
def State.vloadLines (s : State) (k vd esz : Nat) (a : Word) (ms : List Word) (v : VReg) : State × VReg × Option Nat :=
  match ms with
  | [] => (s, v, none)
  | m :: r =>
    if localTo k (maskAddr a esz m) then
      match s.vloadLocal k esz a (elemRuns esz a.toNat (64 / esz) (fun i => m.getLsbD i)).reverse v with
      | (s1, v1, some w) => (s1, v1, some w)
      | (s1, v1, none) => State.vloadLines s1 k vd esz a r v1
    else
      State.vloadLines (s.requestGaps k (nodeOfUnit k) (.vload vd esz m false) .rd (maskAddr a esz m) (maskSpan m * esz) [] 0
        (maskGaps esz m)) k vd esz a r v

/-- Local lines of a load are read before any request is sent, so that a trap leaves nothing behind. -/
def localFirst (k : Nat) (a : Word) (esz : Nat) (ms : List Word) : List Word :=
  ms.filter (fun m => localTo k (maskAddr a esz m)) ++ ms.filter (fun m => !localTo k (maskAddr a esz m))

/-- The requests that the lines of an access need of the load/store port. -/
def remoteLines (k : Nat) (a : Word) (esz : Nat) (ms : List Word) : Nat :=
  (ms.filter (fun m => !localTo k (maskAddr a esz m))).length

def execVld (u : UnitId) (f : BitVec 25) (s : State) : Host.Outcome State Fault Refusal :=
  .next (
    let k := unitKey u
    let vd := fld f 7 5
    s.issue k [.v vd, .s (fld f 12 5)] 4 0 (fun s1 =>
      let p := s1.proc k
      match eszOf k (fld f 20 2) with
      | none => s1.finish k 4 true false (illegal32 0x3C f)
      | some esz =>
        let a := vmAddr p f
        let n := 64 / esz
        let act := active (vmPg p f)
        match s1.vmFault k a esz n act false with
        | some (sub, ea) => s1.addrTrap k sub ea false
        | none =>
          let ms := localFirst k a esz (lineMasks esz a.toNat n act)
          if s1.hazard k a 64 false || s1.portUse k + remoteLines k a esz ms > 16 then s1
          else match s1.vloadLines k vd esz a ms (p.getV vd) with
            | (s2, _, some w) => s2.trap k causePond 0 (BitVec.ofNat 64 w) false
            | (s2, v, none) => s2.retire k ((s2.proc k).setV vd v) 4 true 1))

/-- Bytes with those of inactive elements left out. -/
def withGaps (bs : List Byte) (gaps : List Nat) : List (Option Byte) :=
  bs.zipIdx.map (fun e => if gaps.contains e.2 then none else some e.1)

/-- Perform the lines of a store, each as one write, so that every aligned 8-byte word is written at once (R221). -/
def State.vstoreLines (s : State) (k esz : Nat) (a : Word) (bs : List Byte) (ms : List Word) : State :=
  match ms with
  | [] => s
  | m :: r =>
    let part := (bs.drop (maskLow m * esz)).take (maskSpan m * esz)
    if localTo k (maskAddr a esz m) then
      State.vstoreLines (s.localWriteMask k (maskAddr a esz m) (withGaps part (maskGaps esz m))) k esz a bs r
    else
      State.vstoreLines (s.requestGaps k (nodeOfUnit k) .store .wr (maskAddr a esz m) (maskSpan m * esz) part 0 (maskGaps esz m))
        k esz a bs r

def execVst (u : UnitId) (f : BitVec 25) (s : State) : Host.Outcome State Fault Refusal :=
  .next (
    let k := unitKey u
    let vd := fld f 7 5
    s.issue k [.v vd, .s (fld f 12 5)] 4 0 (fun s1 =>
      let p := s1.proc k
      match eszOf k (fld f 20 2) with
      | none => s1.finish k 4 true false (illegal32 0x3D f)
      | some esz =>
        let a := vmAddr p f
        let n := 64 / esz
        let act := active (vmPg p f)
        match s1.vmFault k a esz n act true with
        | some (sub, ea) => s1.addrTrap k sub ea false
        | none =>
          let ms := lineMasks esz a.toNat n act
          if s1.hazard k a 64 true || s1.portUse k + remoteLines k a esz ms > 16 then s1
          else (s1.vstoreLines k esz a (leBytes 64 (p.getV vd).toNat) ms).retire k p 4 true 1))

def execVldb (u : UnitId) (f : BitVec 25) (s : State) : Host.Outcome State Fault Refusal :=
  .next (
    let k := unitKey u
    let vd := fld f 7 5
    s.issue k [.v vd, .s (fld f 12 5)] 4 0 (fun s1 =>
      let p := s1.proc k
      match eszOf k (fld f 20 2) with
      | none => s1.finish k 4 true false (illegal32 0x3E f)
      | some esz =>
        let a := vmAddr p f
        let mask := vmPg p f &&& runMask 0 (64 / esz)
        if mask = 0 then s1.retire k p 4 true 1
        else match s1.accessFault k a esz esz false with
          | some sub => s1.addrTrap k sub a false
          | none =>
            if s1.hazard k a esz false then s1
            else if localTo k a then
              match s1.localRead k a esz with
              | (s2, _, some w) => s2.trap k causePond 0 (BitVec.ofNat 64 w) false
              | (s2, bs, none) => s2.retire k ((s2.proc k).setV vd (vloadMerge (p.getV vd) esz mask true bs)) 4 true 1
            else if s1.portUse k ≥ 16 then s1
            else (s1.request k (nodeOfUnit k) (.vload vd esz mask true) .rd a esz [] 0).retire k p 4 true 1))

end Sys2Proof.Machine
end

