-- ==== Sys2Proof/Machine/Dma.lean ====
section
/-! DEFINITION. Descriptor moves and cluster DMA: `ddld`, `ddst`, `ddset`, `dget`, `dput`, `dcast`, `dwait` (R177 to R181,
R235, R242 to R244, R264, R285). A transfer reads its whole source before it writes, so a faulty word leaves every
destination line as it was (Table 5.7). -/

namespace Sys2Proof.Machine

open Sys2Proof

/-! ## Descriptor moves (R235) -/

/-- The address-fault sub-cause of a descriptor move: pond or Lake, 32-byte aligned. -/
def State.ddFault (s : State) (k : Nat) (a : Word) (write : Bool) : Option Nat :=
  match place a with
  | .pond _ _ _ => s.accessFault k a 32 32 write
  | .lake _ => s.accessFault k a 32 32 write
  | .resbit => some 2
  | _ => some 0

def execDdld (u : UnitId) (f : BitVec 57) (s : State) : Host.Outcome State Fault Refusal :=
  .next (
    let k := unitKey u
    s.issue64 k 0x66 f (lOk f ['1', 'a'] 1) [.d (lD1 f), .s (lRa f)] (fun s1 =>
      let p := s1.proc k
      let a := p.getS (lRa f)
      match s1.ddFault k a false with
      | some sub => s1.addrTrap k sub a false
      | none =>
        if s1.hazard k a 32 false then s1
        else if localTo k a then
          match s1.localRead k a 32 with
          | (s2, _, some w) => s2.trap k causePond 0 (BitVec.ofNat 64 w) false
          | (s2, bs, none) => s2.retire k ((s2.proc k).setD (lD1 f) (BitVec.ofNat 256 (leNat bs))) 8 true 1
        else if s1.portUse k ≥ 16 then s1
        else (s1.request k (nodeOfUnit k) (.dload (lD1 f)) .rd a 32 [] 0).retire k p 8 true 1))

def execDdst (u : UnitId) (f : BitVec 57) (s : State) : Host.Outcome State Fault Refusal :=
  .next (
    let k := unitKey u
    s.issue64 k 0x67 f (lOk f ['1', 'a'] 1) [.d (lD1 f), .s (lRa f)] (fun s1 =>
      let p := s1.proc k
      let a := p.getS (lRa f)
      let bs := leBytes 32 (p.getD (lD1 f)).toNat
      match s1.ddFault k a true with
      | some sub => s1.addrTrap k sub a false
      | none =>
        if s1.hazard k a 32 true then s1
        else if localTo k a then (s1.localWrite k a bs).retire k p 8 true 1
        else if s1.portUse k ≥ 16 then s1
        else (s1.request k (nodeOfUnit k) .store .wr a 32 bs 0).retire k p 8 true 1))

/-- Word `w` of a descriptor replaced. -/
def setDescWord (d : Desc) (w : Nat) (x : Word) : Desc :=
  BitVec.ofNat 256 (d.toNat - dbits d (64 * w) 64 * 2 ^ (64 * w) + x.toNat * 2 ^ (64 * w))

def execDdset (u : UnitId) (f : BitVec 57) (s : State) : Host.Outcome State Fault Refusal :=
  .next (
    let k := unitKey u
    let w := lFlags f % 4
    let add := lFlags f / 4 == 1
    s.issue64 k 0x6E f (lOk f ['1', 'a'] 8 && !(add && w != 0)) [.d (lD1 f), .s (lRa f)] (fun s1 =>
      let p := s1.proc k
      let d := p.getD (lD1 f)
      let x := p.getS (lRa f)
      s1.retire k (p.setD (lD1 f) (setDescWord d w (if add then dBase d + x else x))) 8 true 1))

/-! ## Transfers -/

/-- Addresses of a tensor's elements in walk order (R229). -/
def walkAddrs (d : Desc) (es : Nat) : List Word :=
  (List.range (dE d 3)).flatMap (fun i3 => (List.range (dE d 2)).flatMap (fun i2 => (List.range (dE d 1)).flatMap (fun i1 =>
    (List.range (dE d 0)).map (fun i0 =>
      dBase d + BitVec.ofNat 64 (i0 * es + i1 * dS d 1 + i2 * dS d 2 + i3 * dS d 3)))))

/-- Parts of a transfer: source, destination, bytes. -/
abbrev DmaPart := Word × Word × Nat

/-- Neighbouring elements joined while both sides run on and neither passes a multiple of 2 KiB. -/
def joinParts (es : Nat) (l : List (Word × Word)) : List DmaPart :=
  (l.foldl (fun (acc : List DmaPart) e =>
    match acc with
    | (s, d, n) :: r =>
      if e.1 = s + BitVec.ofNat 64 n ∧ e.2 = d + BitVec.ofNat 64 n ∧ e.1.toNat % 2048 ≠ 0 ∧ e.2.toNat % 2048 ≠ 0 then
        (s, d, n + es) :: r
      else (e.1, e.2, es) :: acc
    | [] => [(e.1, e.2, es)]) []).reverse

def dmaParts (x y : Desc) : List DmaPart :=
  let es := esize (dFmt x)
  joinParts es (List.zip (walkAddrs x es) (walkAddrs y es))

/-- The checks of a DMA instruction at issue (R233, R243). -/
def dmaTrap (f : BitVec 57) (x y : Desc) : Option Trp :=
  let okf (d : Desc) : Bool := [0, 1, 2, 3, 8].contains (dFmt d)
  let ext (d : Desc) : Nat := dE d 0 * dE d 1 * dE d 2 * dE d 3
  firstTrap [descTrap (lD1 f) x [0], descTrap (lD3 f) y [0], when' (!okf x) (fmtTrap (dFmt x)), when' (!okf y) (fmtTrap (dFmt y)),
    when' (dFmt x != dFmt y) (fmtTrap (dFmt y)), alignTrap (lD1 f) x (esize (dFmt x)) false,
    alignTrap (lD3 f) y (esize (dFmt y)) false, when' (ext x != ext y) (dTrap (lD3 f))]

/-- The operand that must be the unit's own: a core's pond, a profile unit's scratch (R242, R264). -/
def ownSide (k : Nat) (a : Word) (n : Nat) : Bool :=
  if isCore k then ownPond k a n
  else match place a with
    | .scratchE off => isSpring k && decide (off + n ≤ 2 ^ 18)
    | .scratchD off => (isSluice k || isUe k) && decide (off + n ≤ 2 ^ 18)
    | _ => false

/-- The other operand lies in any pond or in the Lake. -/
def farSide (a : Word) : Bool :=
  match place a with
  | .pond _ _ _ => true
  | .lake _ => true
  | .resbit => true
  | _ => false

/-- The first refused address of the parts of a transfer; `get` tells which side is the unit's own. -/
def State.dmaRefused (s : State) (k : Nat) (get : Bool) (ps : List DmaPart) : Option Word :=
  ps.findSome? (fun p =>
    let own := if get then p.2.1 else p.1
    let far := if get then p.1 else p.2.1
    if !ownSide k own p.2.2 then some own
    else if !farSide far || (s.refuses (.unit k) far p.2.2 (!get)).isSome then some far
    else none)

/-- Stalls of a DMA instruction: the core's 16 and the cluster's 64 requests, a full tag, older stores (R162, R177, R178,
R183). -/
def State.dmaStall (s : State) (k tag : Nat) : Bool :=
  let mine := (s.xfers.filter (fun x => x.owner == k && x.dma)).length
  let all := (s.xfers.filter (fun x => x.dma && isCore x.owner && isCore k && clOf x.owner == clOf k)).length
  s.storesOut k || decide (mine ≥ 16) || decide (all ≥ 64) || decide ((s.proc k).tagCount tag ≥ 255)

/-- Retire a DMA instruction whose transfer ends at once. -/
def State.dmaEnd (s : State) (k tag : Nat) (err : Bool) : State :=
  let p := (s.proc k).tagUp tag
  s.retire k (p.tagDone tag err) 8 false 1

/-- Read `n` bytes at a key of the unit's side or at a near address; the flag tells an uncorrectable word. -/
def State.readSide (s : State) (k : Nat) (a : Word) (n : Nat) : State × List Byte × Bool :=
  let (s1, bs, bad) := s.localRead k a n
  (s1, bs, bad.isSome)

/-- Perform writes of a transfer at the unit's own side. -/
def State.writeBuf (s : State) (k : Nat) (buf : List (Word × List Byte)) : State :=
  buf.foldl (fun acc b => acc.localWrite k b.1 b.2) s

/-- Read the parts that need no mesh; the others become read requests of transfer `x`. The answers: bytes by destination,
parts outstanding, and an uncorrectable word met. -/
def State.getParts (s : State) (k x : Nat) (ps : List DmaPart) : State × List (Word × List Byte) × Nat × Bool :=
  match ps with
  | [] => (s, [], 0, false)
  | (a, d, n) :: r =>
    if localTo k a then
      let (s1, bs, bad) := s.readSide k a n
      let (s2, buf, cnt, e) := State.getParts s1 k x r
      (s2, (d, bs) :: buf, cnt, bad || e)
    else
      let (s2, buf, cnt, e) := State.getParts (s.request k (nodeOfUnit k) (.xferRd x d) .rd a n [] 0) k x r
      (s2, buf, cnt + 1, e)

def totalBytes (ps : List DmaPart) : Nat := ps.foldl (fun acc p => acc + p.2.2) 0

def execDget (u : UnitId) (f : BitVec 57) (s : State) : Host.Outcome State Fault Refusal :=
  .next (
    let k := unitKey u
    s.issue64 k 0x68 f (lOk f ['1', '3', 't'] 1) [.d (lD1 f), .d (lD3 f)] (fun s1 =>
      let p := s1.proc k
      let x := p.getD (lD1 f)
      let y := p.getD (lD3 f)
      if s1.dmaStall k (lTag f) then s1
      else match dmaTrap f x y with
        | some t => s1.trap1 k t
        | none =>
          let ps := dmaParts x y
          match s1.dmaRefused k true ps with
          | some w => (s1.refusedEvent k w).dmaEnd k (lTag f) true
          | none =>
            let (id, s2) := s1.takeId
            let (s3, buf, cnt, e) := s2.getParts k id ps
            let s4 := s3.countEv k 0x1C 2 (totalBytes ps)
            if cnt = 0 then
              (if e then s4 else (s4.writeBuf k buf).countEv k 0x1D 2 (totalBytes ps)).dmaEnd k (lTag f) e
            else
              let xf : Xfer := ⟨id, k, .tag (lTag f), cnt, cnt, e, true, buf⟩
              { s4 with xfers := s4.xfers ++ [xf] }.retire k ((s4.proc k).tagUp (lTag f)) 8 false 1))

/-- Read every part's source at the unit's own side: the bytes by destination, and an uncorrectable word met. -/
def State.readParts (s : State) (k : Nat) (ps : List DmaPart) : State × List (Word × List Byte) × Bool :=
  match ps with
  | [] => (s, [], false)
  | (a, d, n) :: r =>
    let (s1, bs, bad) := s.readSide k a n
    let (s2, out, e) := State.readParts s1 k r
    (s2, (d, bs) :: out, bad || e)

/-- Write bytes at far destinations: near ones at once, the others as requests of transfer `x`; counts the requests. -/
def State.putParts (s : State) (k x : Nat) (ps : List (Word × List Byte)) : State × Nat :=
  match ps with
  | [] => (s, 0)
  | (d, bs) :: r =>
    if localTo k d then State.putParts (s.localWrite k d bs) k x r
    else
      let (s2, n) := State.putParts (s.request k (nodeOfUnit k) (.xferWr x) .wr d bs.length bs 0) k x r
      (s2, n + 1)

def execDput (u : UnitId) (f : BitVec 57) (s : State) : Host.Outcome State Fault Refusal :=
  .next (
    let k := unitKey u
    s.issue64 k 0x69 f (lOk f ['1', '3', 't'] 1) [.d (lD1 f), .d (lD3 f)] (fun s1 =>
      let p := s1.proc k
      let x := p.getD (lD1 f)
      let y := p.getD (lD3 f)
      if s1.dmaStall k (lTag f) then s1
      else match dmaTrap f x y with
        | some t => s1.trap1 k t
        | none =>
          let ps := dmaParts x y
          match s1.dmaRefused k false ps with
          | some w => (s1.refusedEvent k w).dmaEnd k (lTag f) true
          | none =>
            let (s2, src, e) := s1.readParts k ps
            let s3 := s2.countEv k 0x1C 2 (totalBytes ps)
            if e then s3.dmaEnd k (lTag f) true
            else
              let (id, s4) := s3.takeId
              let (s5, cnt) := s4.putParts k id src
              let s6 := s5.countEv k 0x1D 2 (totalBytes ps)
              if cnt = 0 then s6.dmaEnd k (lTag f) false
              else
                let xf : Xfer := ⟨id, k, .tag (lTag f), cnt, 0, false, true, []⟩
                { s6 with xfers := s6.xfers ++ [xf] }.retire k ((s6.proc k).tagUp (lTag f)) 8 false 1))

/-! ## `dcast` (R242, R285) -/

/-- A multicast entry's fields (Table 8.9). -/
def mcOut (e : Word) : Nat := e.toNat % 256
def mcIn (e : Word) : Nat := e.toNat / 256 % 8
def mcValid (e : Word) : Bool := e.getLsbD 11
def mcRoot (e : Word) : Nat := e.toNat / 2 ^ 16 % 4096

/-- The node of a node code (R268). -/
def nodeOfCode (c : Nat) : Nat :=
  if c / 1024 = 0 then 35 * (c % 16) + c / 16 % 64 else nodeSeg (c / 64 % 4) (c % 64)

/-- Send one multicast packet of a transfer to the group's root: the request that its MACK answers, and the packet. -/
def State.sendMc (s : State) (k node x group root off : Nat) (bs : List Byte) : State :=
  let (id, s1) := s.takeId
  let s2 := { s1 with reqs := s1.reqs ++ [Req.mk id k node (BitVec.ofNat 64 off) (.mcast x)] }
  s2.send { mkPacket .mc 1 node root id with addr := BitVec.ofNat 64 off, size := bs.length, data := bs, group := group }

/-- Send all the parts of a multicast; counts them. -/
def State.sendMcs (s : State) (k node x group root : Nat) (ps : List (Word × List Byte)) : State :=
  ps.foldl (fun acc p => acc.sendMc k node x group root (p.1.toNat % 2 ^ 26) p.2) s

def execDcast (u : UnitId) (f : BitVec 57) (s : State) : Host.Outcome State Fault Refusal :=
  .next (
    let k := unitKey u
    s.issue64 k 0x6A f (isCore k && lOk f ['1', '3', 't', 'a'] 1) [.d (lD1 f), .d (lD3 f), .s (lRa f)] (fun s1 =>
      let p := s1.proc k
      let x := p.getD (lD1 f)
      let y := p.getD (lD3 f)
      let ra := p.getS (lRa f)
      let group := ra.toNat % 256
      let node := nodeOfUnit k
      if s1.dmaStall k (lTag f) then s1
      else match firstTrap [dmaTrap f x y, when' (ra.toNat / 256 != 0) (opTrap ra)] with
        | some t => s1.trap1 k t
        | none =>
          let ps := dmaParts x y
          let bad := ps.findSome? (fun q =>
            if !ownPond k q.1 q.2.2 then some q.1
            else match place q.2.1 with
              | .pond _ _ off => if off + q.2.2 ≤ 2 ^ 26 then none else some q.2.1
              | _ => some q.2.1)
          match bad with
          | some w => (s1.refusedEvent k w).dmaEnd k (lTag f) true
          | none =>
            let e := Tbl.get (s1.node node).multi 0 group
            if !mcValid e then
              (s1.emit 0x4106 (polderOfNode node) (uidNode node) [(2, node), (1, group), (1, 0)]).dmaEnd k (lTag f) true
            else
              let (s2, src, err) := s1.readParts k ps
              let s3 := s2.countEv k 0x1C 2 (totalBytes ps)
              if err then s3.dmaEnd k (lTag f) true
              else
                let (id, s4) := s3.takeId
                let s5 := s4.sendMcs k node id group (nodeOfCode (mcRoot e)) src
                let xf : Xfer := ⟨id, k, .tag (lTag f), src.length, 0, false, true, []⟩
                { s5 with xfers := s5.xfers ++ [xf] }.retire k ((s5.proc k).tagUp (lTag f)) 8 false 1))

/-- `dwait` (R181). -/
def execDwait (u : UnitId) (f : BitVec 57) (s : State) : Host.Outcome State Fault Refusal :=
  .next (
    let k := unitKey u
    s.issue64 k 0x6B f (lOk f [] 1) [] (fun s1 =>
      if s1.xfers.any (fun x => x.owner == k && x.dma && x.srcLeft > 0) then s1
      else s1.retire k (s1.proc k) 8 false 1))

end Sys2Proof.Machine
end

