-- ==== Sys2Proof/Machine/Routes.lean ====
section
/-! DEFINITION. The links of the mesh (R266, R284) and the route tables that firmware builds at a job's start and restart
(R279, R280, R285, R286). -/

namespace Sys2Proof.Machine

open Sys2Proof

/-! ## Links (R266, R284) -/

/-- The embankment node that faces an edge cluster node (R14), by output port 5 or 6. A corner has its north or south one at
port 5, its east or west one at port 6. -/
def facingEmb (n port : Nat) : Option Nat :=
  let x := nodeX n
  let y := nodeY n
  let ns := if y = 0 then some (nodeSeg 0 x) else if y = 15 then some (nodeSeg 2 x) else none
  let ew := if x = 34 then some (nodeSeg 1 y) else if x = 0 then some (nodeSeg 3 y) else none
  match ns, ew with
  | some a, some b => if port = 5 then some a else if port = 6 then some b else none
  | some a, none => if port = 5 then some a else none
  | none, some b => if port = 5 then some b else none
  | none, none => none

/-- The cluster node that an embankment node faces. -/
def facingCl (e : Nat) : Nat :=
  match nodeSegOf e with
  | 0 => nodePos e
  | 1 => 35 * nodePos e + 34
  | 2 => 35 * 15 + nodePos e
  | _ => 35 * nodePos e

/-- Position on the embankment ring, clockwise from N0, and its inverse. -/
def ringIdx (e : Nat) : Nat :=
  match nodeSegOf e with
  | 0 => nodePos e
  | 1 => 35 + nodePos e
  | 2 => 51 + (34 - nodePos e)
  | _ => 86 + (15 - nodePos e)
def ringNode (i : Nat) : Nat :=
  if i < 35 then nodeSeg 0 i else if i < 51 then nodeSeg 1 (i - 35) else if i < 86 then nodeSeg 2 (85 - i)
  else nodeSeg 3 (101 - i)

/-- The port of an embankment node that leads onto the grid. -/
def embIn (e : Nat) : Nat := match nodeSegOf e with | 0 => 3 | 1 => 4 | 2 => 1 | _ => 2

/-- The node that an output port leads to. -/
def meshNext (n port : Nat) : Option Nat :=
  if isClNode n then
    match port with
    | 1 => if nodeY n > 0 then some (n - 35) else none
    | 2 => if nodeX n < 34 then some (n + 1) else none
    | 3 => if nodeY n < 15 then some (n + 35) else none
    | 4 => if nodeX n > 0 then some (n - 1) else none
    | _ => facingEmb n port
  else if port = 5 then some (ringNode ((ringIdx n + 1) % 102))
  else if port = 6 then some (ringNode ((ringIdx n + 101) % 102))
  else if port = embIn n then some (facingCl n)
  else none

/-- The port of node `m` that leads back to node `n`. -/
def portBack (n m : Nat) : Nat := ((List.range 8).find? (fun p => meshNext m p == some n)).getD 0

/-- STATUS for an output that has gone down (R282): 2 for a polder that is off, tripped or clamped off, 4 for a failed link or
one that does not exist. -/
def State.outDown (s : State) (n port : Nat) : Option Nat :=
  match meshNext n port with
  | none => some 4
  | some m =>
    let a := polderOfNode n
    let b := polderOfNode m
    if (s.node n).dead.getLsbD port then some 4
    else if !s.polderOn b || (s.polder a).clamps.contains b || (s.polder b).clamps.contains a then some 2
    else none

/-! ## The registers of a router as the Warden reads them over the configuration bus (Tables 8.6, 8.7) -/

def State.rtctl (s : State) (n : Nat) : Nat :=
  let x := s.node n
  b2n x.mode + 2 ^ 8 * (x.escwait % 256) + 2 ^ 16 * (x.hold % 256)

/-- Output ports whose link is trained and whose far side is powered; the local port has no link. -/
def State.linksUp (s : State) (n : Nat) : Nat :=
  (List.range 8).foldl (fun m p =>
    let up := if p = 7 then (List.range 56).any (fun q => nodeOfPort q == n && (s.port q).state == 2) else p != 0 && (s.outDown n p).isNone
    m + if up then 2 ^ p else 0) 0

/-- A read of `RTSTAT`, which clears `DROPS` and `COMBINES`. -/
def State.readRtstat (s : State) (n : Nat) : Nat × State :=
  let x := s.node n
  (s.linksUp n + 2 ^ 8 * x.linkFail.toNat + 2 ^ 16 * (x.drops % 65536) + 2 ^ 32 * (x.combines % 65536),
    s.setNode n { x with drops := 0, combines := 0 })

/-! ## Routing (R278, R279) -/

/-- Dimension order: x first, then y; an embankment node is reached through the node that faces it. -/
def dimRoute (n d : Nat) : Nat :=
  if n = d then 0
  else if !isClNode n then embIn n
  else
    let t := if isClNode d then d else facingCl d
    if nodeX t > nodeX n then 2
    else if nodeX t < nodeX n then 4
    else if nodeY t > nodeY n then 3
    else if nodeY t < nodeY n then 1
    else if facingEmb n 5 = some d then 5 else 6

/-- The output of a packet at its node; none where the unicast entry is not valid. -/
def State.routeOf (s : State) (p : Packet) : Option Nat :=
  let nd := s.node p.loc
  if p.loc = p.dst then some 0
  else if !nd.mode then some (dimRoute p.loc p.dst)
  else
    let e := Tbl.get nd.uni 0 p.dst
    if !e.getLsbD 9 then none
    else some (if p.cls = 4 then e.toNat / 64 % 8 else if p.esc then e.toNat / 8 % 8 else e.toNat % 8)

/-- Does a request from node `n` reach node `d`: every output on its primary path is up? `fuel` bounds the hops. -/
def State.reaches (s : State) (n d : Nat) : Nat → Bool
  | 0 => false
  | fuel + 1 =>
    match s.routeOf (mkPacket .rd 1 n d 0) with
    | none => false
    | some 0 => true
    | some o => match meshNext n o with
      | none => false
      | some m => (s.outDown n o).isNone && State.reaches s m d fuel

/-- Does a request from node `n` to node `t`, and its response, reach where they go? -/
def State.nodesServe (s : State) (n t : Nat) : Bool :=
  s.polderOn (polderOfNode n) && s.polderOn (polderOfNode t) && s.reaches n t 300 && s.reaches t n 300

/-- The same for an address: a transfer of the Warden or of a flash channel that the mesh does not carry ends with an error
(R19, R283). -/
def State.meshServes (s : State) (n : Nat) (a : Word) : Bool := s.nodesServe n (s.targetNode a)

/-- Is every place of a range served? Consecutive 2 KiB of the Lake lie in different stacks (R385). -/
def State.spanServed (s : State) (n : Nat) (a : Word) (len : Nat) : Bool :=
  (List.range (min ((a.toNat % 2048 + len + 2047) / 2048) 44)).all (fun i => s.meshServes n (a + BitVec.ofNat 64 (2048 * i)))

/-! ## Data accesses of the Warden (R19) -/

/-- A transfer of the Warden ends without a response (R283). -/
def State.wardenLost (s : State) (a : Word) : State :=
  s.detect 0x4105 56 uidWarden [(2, nodeN16), (4, uidWarden), (2, 0), (8, a.toNat)]

/-- The Warden reads a range: none when its transfer ends with an error, or an access is uncorrectable (R390). -/
def State.wardenRead (s : State) (a : Word) (n : Nat) : State × Option (List Byte) :=
  if !s.spanServed nodeN16 a n then (s.wardenLost a, none)
  else match s.eccRead a n uidWarden with
    | (s1, some _) => (s1, none)
    | (s1, none) => (s1, some (s1.bytesAt a.toNat n))

/-- The Warden writes a range. -/
def State.wardenWrite (s : State) (a : Word) (bs : List Byte) : State :=
  if s.spanServed nodeN16 a bs.length then (s.eccWrite a (present bs) uidWarden).1 else s.wardenLost a

/-! ## Graph of what is up -/

/-- Nodes, each with the ports and far nodes of its links. -/
abbrev MeshGraph := Tbl (List (Nat × Nat))

/-- Ports and far nodes of the links that are up at a node. -/
def State.upLinks (s : State) (n : Nat) : List (Nat × Nat) :=
  (List.range 7).filterMap (fun p => match meshNext n p with
    | some m => if (s.outDown n p).isNone then some (p, m) else none
    | none => none)

/-- Every node that is up, with its links. -/
def State.graph (s : State) : MeshGraph :=
  ((List.range 662).filter (fun n => s.polderOn (polderOfNode n))).map (fun n => (n, s.upLinks n))

/-- Distances by breadth-first search over the edges that `ok` admits, from the nodes of a frontier; `fuel` bounds the levels. -/
def bfs (g : MeshGraph) (ok : Nat → Nat → Bool) (dist : Tbl Nat) (front : List Nat) (d : Nat) : Nat → Tbl Nat
  | 0 => dist
  | fuel + 1 =>
    let next := (front.flatMap (fun n => ((Tbl.get g [] n).map (·.2)).filter (fun m =>
      ok n m && !dist.any (fun e => e.1 == m)))).eraseDups
    if next.isEmpty then dist
    else bfs g ok (next.foldl (fun t m => Tbl.put t m (d + 1)) dist) next (d + 1) fuel

/-- Distance of a node in a table, none where it is not reached. -/
def distOf (t : Tbl Nat) (n : Nat) : Option Nat := (t.find? (fun e => e.1 == n)).map (·.2)

/-- The root of the spanning tree: the cluster node in service nearest to (17, 7). -/
def State.treeRoot (s : State) (g : MeshGraph) : Nat :=
  let far (n : Nat) : Nat := ((nodeX n : Int) - 17).natAbs + ((nodeY n : Int) - 7).natAbs
  match (g.map (·.1)).filter (fun n => isClNode n && s.siteIn (clOfNode n / 10)) with
  | [] => (g.map (·.1)).headD 262
  | n :: r => r.foldl (fun best m => if far m < far best then m else best) n

/-- Is the link from `n` to `m` up, toward the root? Nodes of one level are ordered by number. -/
def isUp (level : Tbl Nat) (n m : Nat) : Bool :=
  match distOf level n, distOf level m with
  | some a, some b => decide (b < a) || (a == b && decide (m < n))
  | _, _ => false

/-- The first port of a node that leads one nearer by a table of distances, over the links that `ok` admits. -/
def portNearer (g : MeshGraph) (dist : Tbl Nat) (ok : Nat → Nat → Bool) (n : Nat) : Option Nat :=
  match distOf dist n with
  | none => none
  | some a => ((Tbl.get g [] n).find? (fun e => ok n e.2 && distOf dist e.2 == some (a - 1))).map (·.1)

/-- Lengths of the shortest escape routes. A node from which a route only goes down takes the shortest of those, since a packet that
came down may not go up again; every other node goes up first. `fuel` bounds the levels, `d` is the level reached. -/
def upDist (g : MeshGraph) (level : Tbl Nat) (dist : Tbl Nat) (d : Nat) : Nat → Tbl Nat
  | 0 => dist
  | fuel + 1 =>
    let front := (dist.filter (fun e => e.2 == d)).map (·.1)
    let next := (front.flatMap (fun n => ((Tbl.get g [] n).map (·.2)).filter (fun m =>
      isUp level m n && !dist.any (fun e => e.1 == m)))).eraseDups
    upDist g level (next.foldl (fun t m => Tbl.put t m (d + 1)) dist) (d + 1) fuel

/-- The unicast entry of node `n` toward `d` (Table 8.8, R280): the primary output on a shortest path, the escape and gradient
outputs on a path with no up link after a down link. -/
def uniEntry (g : MeshGraph) (level all down up : Tbl Nat) (n d : Nat) : Option (BitVec 16) :=
  if n = d then some (BitVec.ofNat 16 512)
  else match portNearer g all (fun _ _ => true) n with
    | none => none
    | some pri =>
      let esc := match distOf down n with
        | some _ => portNearer g down (fun a b => !isUp level a b) n
        | none => portNearer g up (fun a b => isUp level a b) n
      some (BitVec.ofNat 16 (pri + 8 * esc.getD pri + 64 * esc.getD pri + 512))

/-- The unicast tables of every node, by destination. -/
def State.uniTables (s : State) : Tbl (Tbl (BitVec 16)) :=
  let g := s.graph
  let level := bfs g (fun _ _ => true) [(s.treeRoot g, 0)] [s.treeRoot g] 0 700
  (g.map (·.1)).foldl (fun acc d =>
    let all := bfs g (fun _ _ => true) [(d, 0)] [d] 0 700
    let down := bfs g (fun n m => isUp level n m) [(d, 0)] [d] 0 700
    let up := upDist g level down 0 300
    acc.map (fun e => match uniEntry g level all down up e.1 d with
      | some x => (e.1, Tbl.put e.2 d x)
      | none => e)) (g.map (fun e => (e.1, [])))

/-! ## Multicast trees -/

/-- The node that serves as the root of a group (R285). -/
def rootNode (m : McGroup) : Nat :=
  match m.spring with
  | some u => nodeOfSpring u.val
  | none => m.root.val

/-- Nodes from `a` to the cluster node `b`, y first and then x; `fuel` bounds the hops. -/
def pathYX (a b : Nat) : Nat → List Nat
  | 0 => [a]
  | fuel + 1 =>
    if a = b then [a]
    else if !isClNode a then a :: pathYX (facingCl a) b fuel
    else
      let m := if nodeY b > nodeY a then a + 35 else if nodeY b < nodeY a then a - 35 else if nodeX b > nodeX a then a + 1 else a - 1
      a :: pathYX m b fuel

/-- Nodes from a node up its tree to the root, by a table of levels. -/
def toRoot (g : MeshGraph) (level : Tbl Nat) (n : Nat) : Nat → List Nat
  | 0 => [n]
  | fuel + 1 =>
    match portNearer g level (fun _ _ => true) n with
    | none => [n]
    | some p => n :: (match meshNext n p with | some m => toRoot g level m fuel | none => [])

/-- The path between two nodes of the spanning tree. -/
def treePath (g : MeshGraph) (level : Tbl Nat) (a b : Nat) : List Nat :=
  let ua := toRoot g level a 700
  let ub := toRoot g level b 700
  let up := ua.takeWhile (fun n => !ub.contains n)
  let top := (ua.find? ub.contains).toList
  up ++ top ++ (ub.takeWhile (fun n => !ua.contains n)).reverse

/-- Parent and child pairs of a list of paths from one root. -/
def edgesOf (paths : List (List Nat)) : List (Nat × Nat) := (paths.flatMap (fun l => List.zip l (l.drop 1))).eraseDups

/-- The multicast entry of a node for a group (Table 8.9). -/
def mcEntry (edges : List (Nat × Nat)) (members : List Nat) (root n : Nat) : Word :=
  let out := (edges.filter (·.1 == n)).foldl (fun a e => a + 2 ^ portBack e.2 n) (if members.contains n then 1 else 0)
  let inp := match edges.find? (·.2 == n) with | some e => portBack e.1 n | none => 0
  BitVec.ofNat 64 (out + 256 * inp + 2048 + 65536 * nodeCode root)

/-- Groups of the job as (group number, edges, members, root). -/
def State.mcTrees (s : State) (holes : Bool) (d : JobDesc) : List (Nat × List (Nat × Nat) × List Nat × Nat) :=
  let g := if holes then s.graph else []
  let level := if holes then bfs g (fun _ _ => true) [(s.treeRoot g, 0)] [s.treeRoot g] 0 700 else []
  d.groups.map (fun m =>
    let root := rootNode m
    let ms := m.members.map (fun c => nodeOfCl (clKey c))
    let paths := ms.map (fun n => if holes then treePath g level root n else pathYX root n 60)
    (m.group.val, edgesOf paths, ms, root))

/-- Are there holes: a polder that is off, or a link that has failed (R278)? -/
def State.holes (s : State) : Bool :=
  (List.range 60).any (fun p => !s.polderOn p) || s.nodes.any (fun e => e.2.dead != 0)

/-- Firmware writes every router for a job: `RTCTL`, the tables, the seed of its rounding unit (R47, R280, R285). -/
def State.writeRoutes (s : State) (d : JobDesc) : State :=
  let holes := s.holes
  let uni := if holes then s.uniTables else []
  let trees := s.mcTrees holes d
  let job := ((d.cores.map (fun c => nodeOfCl (clKey c.1))) ++ trees.flatMap (fun t => t.2.2.2 :: t.2.2.1)).eraseDups
  { s with nodes := (List.range 662).map (fun n =>
      let x := s.node n
      let multi := trees.foldl (fun t e =>
        if job.contains n || e.2.1.any (fun y => y.1 == n || y.2 == n) then
          Tbl.put t e.1 (mcEntry e.2.1 e.2.2.1 e.2.2.2 n) else t) []
      (n, { x with mode := holes, escwait := d.escwait, hold := d.hold, seed := d.seed, ctr := 0, uni := Tbl.get uni [] n,
                   multi := multi })) }

/-- Firmware writes route tables for the nodes that are up, with `RTCTL.MODE` = 1 where one is not (R280, R522); a loaded job's trees too. It does so with
no packet in flight (R281): what a fenced job left in the mesh is gone, and its initiators time out (R283). -/
def State.reroute (s0 : State) : State :=
  let s := { s0 with mesh := [] }
  match s.job with
  | some j => s.writeRoutes j.desc
  | none =>
    let uni := if s.holes then s.uniTables else []
    { s with nodes := (List.range 662).map (fun n => (n, { s.node n with mode := s.holes, uni := Tbl.get uni [] n })) }

end Sys2Proof.Machine
end

