-- ==== Sys2Proof/Machine/Seal.lean ====
section
/-! DEFINITION. Seals and the head and state planes: the seal's layout and its check (R357, R358, Table 10.4), where a shard's
planes and seal lie (R334, R335, R394 to R396), and the digest of a shard's heads (R355). -/

namespace Sys2Proof.Machine

open Sys2Proof

/-- A seal's fields (Table 10.4). -/
structure Seal where
  sstep   : Nat
  hstep   : Nat
  cstep   : Nat
  mscale  : Int
  nmscale : Int
  pass    : Bool
  owned   : Bool
  owner   : Nat
  nblkm1  : Nat
  digest  : Nat
  job     : Nat
  shard   : Nat
  deriving DecidableEq, Repr

/-- A signed byte. -/
def sbyte (b : Byte) : Int := b.toInt

def sealOf (bs : List Byte) : Seal :=
  let n := leNat bs
  let at' (lo len : Nat) : Nat := n / 2 ^ (8 * lo) % 2 ^ (8 * len)
  ⟨at' 0 6, at' 6 6, at' 12 6, sbyte (bs.getD 18 0), sbyte (bs.getD 19 0), at' 20 1 % 2 == 1, at' 20 1 / 2 % 2 == 1, at' 21 1,
    at' 22 2, at' 24 8, at' 32 4, at' 36 4 % 2 ^ 22⟩

/-- Bytes 0 to 59. -/
def sealBody (x : Seal) : List Byte :=
  leBytes 6 x.sstep ++ leBytes 6 x.hstep ++ leBytes 6 x.cstep ++ [BitVec.ofInt 8 x.mscale, BitVec.ofInt 8 x.nmscale] ++
    leBytes 1 (b2n x.pass + 2 * b2n x.owned) ++ leBytes 1 x.owner ++ leBytes 2 x.nblkm1 ++ leBytes 8 x.digest ++
    leBytes 4 x.job ++ leBytes 4 x.shard ++ leBytes 20 0

/-- The 64 bytes of a seal, with a fresh SCRC. -/
def sealBytes (x : Seal) : List Byte := sealBody x ++ leBytes 4 (crc32 (sealBody x))

/-- Does SCRC agree? -/
def sealGood (bs : List Byte) : Bool := crc32 (bs.take 60) == leNat (bs.drop 60)

/-- The device address of shard `sh`'s seal (R394). -/
def sealAddr (s : State) (sh : Nat) : Word := BitVec.ofNat 64 (lakeKey (sealBase s + 64 * sh))

/-- The 64 bytes of a seal as a reader gets them, none when they cannot be read. -/
def State.fetchSeal (s : State) (sh unit : Nat) : State × Option (List Byte) :=
  if unit = uidWarden then s.wardenRead (sealAddr s sh) 64
  else match s.eccRead (sealAddr s sh) 64 unit with
    | (s1, some _) => (s1, none)
    | (s1, none) => (s1, some (s1.bytesAt (sealAddr s1 sh).toNat 64))

/-- Read a seal and check it (R358): none when it cannot be read or SCRC differs, which is a detection of the reader. -/
def State.readSeal (s : State) (sh src unit : Nat) : State × Option Seal :=
  match s.fetchSeal sh unit with
  | (s1, none) => (s1, none)
  | (s1, some bs) =>
    if sealGood bs then (s1, some (sealOf bs))
    else ({ s1 with lkSuspect := true }.detect 0x2304 src unit [(4, sh)], none)

/-- The Warden reads the seals of shards in turn: does every one read well and satisfy `f`? -/
def State.sealsAll (s : State) (f : Seal → Bool) : List Nat → State × Bool
  | [] => (s, true)
  | sh :: r =>
    let (s1, q) := s.readSeal sh srcWarden uidWarden
    let (s2, b) := State.sealsAll s1 f r
    (s2, (match q with | some x => f x | none => false) && b)

/-- Rewrite a seal as one 64-byte write (R357). -/
def State.writeSeal (s : State) (sh : Nat) (x : Seal) (unit : Nat) : State :=
  if unit = uidWarden then s.wardenWrite (sealAddr s sh) (sealBytes x)
  else (s.eccWrite (sealAddr s sh) (present (sealBytes x)) unit).1

/-- Bytes of a shard in a plane of the Lake map: 4 MiB of heads, 16 MiB of state records, 4 MiB of inbox. -/
def planeStep (kind : Nat) : Nat := if kind = 2 then 2 ^ 24 else 2 ^ 22

/-- The Lake offset of a shard's plane of a kind, from the Lake map (R396). -/
def planeBase (s : State) (kind sh : Nat) : Option Nat :=
  match s.job with
  | none => none
  | some j => j.desc.lakeMap.findSome? (fun e =>
      if e.kind == kind && decide (e.first ≤ sh) && decide ((sh - e.first + 1) * planeStep kind ≤ e.len) then
        some (e.base + planeStep kind * (sh - e.first))
      else none)

/-- The shard whose heads lie at a Lake offset. -/
def shardAt (s : State) (off : Nat) : Option Nat :=
  match s.job with
  | none => none
  | some j => j.desc.lakeMap.findSome? (fun e =>
      if e.kind == 1 && decide (e.base ≤ off) && decide (off < e.base + e.len) then
        let sh := e.first + (off - e.base) / 2 ^ 22
        if j.desc.shards.any (·.shard == sh) then some sh else none
      else none)

/-- The digest of `nblk` blocks of heads at a device address (R355), and whether a line of them is uncorrectable. -/
def State.digestAt (s : State) (a : Word) (nblk unit : Nat) : State × Nat × Bool :=
  let (s1, bad) := s.eccRead a (64 * nblk) unit
  (s1, crc64 (s1.bytesAt a.toNat (64 * nblk)), bad.isSome)

end Sys2Proof.Machine
end

