-- ==== Sys2Proof/Machine/Store.lean ====
section
/-! DEFINITION. The blocks of the flash store: partitions, the encryption under the job key, and the generations of the cold
tier (R401, R402, R405, R415, Table 12.6). -/

namespace Sys2Proof.Machine

open Sys2Proof

/-- Bytes of a partition (Table 12.6). -/
def partSize (p : Nat) : Nat :=
  match p with
  | 0 => 64 * 2 ^ 30
  | 1 => 2 ^ 30
  | 2 => 2 ^ 30
  | 3 => 2 * 2 ^ 40
  | 4 => 2 * 2 ^ 40
  | 5 => 53182 * 2 ^ 30
  | _ => 0

/-- Partitions that hold data under the job key (R402). -/
def encrypted (p : Nat) : Bool := p == 3 || p == 4 || p == 5

def flashKey (p off : Nat) : Nat := 2 ^ 72 + p * 2 ^ 60 + off
/-- The key of a logical block in the table of keys, and its tweak (R402). -/
def blkKey (p blk : Nat) : Nat := p * 2 ^ 40 + blk
def blkTweak (p blk : Nat) : Nat := p * 2 ^ 56 + blk

/-- The job key that the loaded job names; none for KEYID 0 or a key that is not installed (R591). -/
def State.jobKey (s : State) : Option (BitVec 512) :=
  match s.job with
  | none => none
  | some j => (s.sec.keys.find? (fun e => e.1 == j.desc.keyid.toNat)).map (·.2)

/-- One byte of a partition as a reader with key `key` sees it (R402). What a trimmed block reads as is open. -/
def State.flByte (s : State) (key : BitVec 512) (p off : Nat) : Byte :=
  let blk := off / 4096
  let raw := memByte s.mem (flashKey p off)
  if s.flash.trimmed.contains (blkKey p blk) then Config.trimByte p off
  else if !encrypted p then raw
  else
    let w := Tbl.get s.flash.keys key (blkKey p blk)
    if w = key then raw
    else
      let j := off % 4096 / 16
      (xtsReread w key (blkTweak p blk) j (memRead s.mem (flashKey p (off / 16 * 16)) 16)).getD (off % 16) 0

def State.flRead (s : State) (key : BitVec 512) (p off n : Nat) : List Byte :=
  (List.range n).map (fun i => s.flByte key p (off + i))

/-- Keep the copy of a cold block that the manifest of the last checkpoint covers, before it is overwritten (R415). -/
def State.keepBlock (s : State) (p blk : Nat) : State :=
  if p != 5 || s.flash.savedBlks.contains blk then s
  else
    let base := flashKey 5 (4096 * blk)
    let old := s.mem.filter (fun c => decide (base ≤ c.1) && decide (c.1 < base + 4096))
    { s with flash := { s.flash with savedBlks := blk :: s.flash.savedBlks, saved := s.flash.saved ++ old } }

/-- Write part of one logical block: a read-modify-write under the writer's key (R405). -/
def State.flBlock (s : State) (key : BitVec 512) (p off : Nat) (bs : List Byte) : State :=
  let blk := off / 4096
  let s0 := s.keepBlock p blk
  let s1 := if s0.flash.trimmed.contains (blkKey p blk) then
      let old := s0.flRead key p (4096 * blk) 4096
      let f := s0.flash
      let f1 := { f with trimmed := f.trimmed.filter (· != blkKey p blk), keys := Tbl.put f.keys (blkKey p blk) key }
      setMem { s0 with flash := f1 } (memWrite s0.mem (flashKey p (4096 * blk)) old)
    else s0
  if !encrypted p then setMem s1 (memWrite s1.mem (flashKey p off) bs)
  else
    let w := Tbl.get s1.flash.keys key (blkKey p blk)
    let s2 := if w = key then s1
      else setMem s1 (memWrite s1.mem (flashKey p (4096 * blk)) (s1.flRead key p (4096 * blk) 4096))
    let s3 := setMem s2 (memWrite s2.mem (flashKey p off) bs)
    { s3 with flash := { s3.flash with keys := Tbl.put s3.flash.keys (blkKey p blk) key } }

/-- Write bytes at a partition offset, block by block; `fuel` bounds the blocks. -/
def State.flWrite (s : State) (key : BitVec 512) (p off : Nat) (bs : List Byte) : Nat → State
  | 0 => s
  | n + 1 =>
    if bs.isEmpty then s
    else
      let room := 4096 - off % 4096
      State.flWrite (s.flBlock key p off (bs.take room)) key p (off + room) (bs.drop room) n

/-- The blocks that `n` bytes at an offset can touch. -/
def blkFuel (n : Nat) : Nat := n / 4096 + 2

/-- The partition of a checkpoint slot: A is P3, B is P4 (Table 12.6). -/
def slotPart (b : Bool) : Nat := if b then 4 else 3

/-- The polder a channel lies in (R9). -/
def flPolder (ch : Nat) : Nat := 56 + ch / 4

/-- Does a channel run: trained, not marked out, its embankment polder on? -/
def State.chanRuns (s : State) (ch : Nat) : Bool := s.flash.chup.getLsbD ch && s.polderOn (flPolder ch)

/-- The channel of the logical block at a partition offset. -/
def flChanAt (off : Nat) : Nat := off / 4096 % 16

/-- The slot that is not current takes the tee writes (R408). -/
def State.teeSlot (s : State) : Bool := s.flash.curValid && !s.flash.curSlot

/-- Is step `n` the tee step? -/
def State.teeing (s : State) (n : Nat) : Bool := s.flash.teeStep == some n

/-- Is a tee step in progress (Table 12.12)? -/
def State.teeOn (s : State) : Bool := match s.flash.teeStep with | some n => decide (n ≤ s.jobStep) | none => false

/-- A tee write of step `n` at a slot offset that its channel cannot accept stalls the update engine (R408). -/
def State.teeStalls (s : State) (n off : Nat) : Bool := s.teeing n && s.jobKey.isSome && !s.chanRuns (flChanAt off)

/-- A tee write of the update engines into the slot (R408). A job that names no key writes nothing (R591). -/
def State.tee (s : State) (off : Nat) (bs : List Byte) : State :=
  match s.jobKey with
  | none => s
  | some key =>
    let s1 := s.flWrite key (slotPart s.teeSlot) off bs (blkFuel bs.length)
    { s1 with flash := { s1.flash with teeBegun := true } }

end Sys2Proof.Machine
end

