-- ==== Sys2Proof/Machine/Flash.lean ====
section
/-! DEFINITION. The flash store's command window (R403 to R405), its commands, garbage collection (R407), and checkpoints:
the completion of one and the reading of manifests (R408 to R411). -/

namespace Sys2Proof.Machine

open Sys2Proof

/-! ## The window (Table 12.7) -/

def State.flq (s : State) (q : Nat) : FlQueue := Tbl.get s.flash.queues ⟨0, 0, []⟩ q
def State.setFlq (s : State) (q : Nat) (x : FlQueue) : State :=
  { s with flash := { s.flash with queues := Tbl.put s.flash.queues q x } }

/-- A doorbell is written: the queue's tail. -/
def State.ringFlash (s : State) (q tail : Nat) : State := s.setFlq q { s.flq q with tail := tail % 64 }

def execFlashDoorbell (q : Fin 63) (tail : Fin 64) (s : State) : Host.Outcome State Fault Refusal :=
  .next (s.ringFlash q.val tail.val)

/-- Channels that run, as `FLSTAT.CHUP` shows them. -/
def State.chansUp (s : State) : BitVec 16 := (List.range 16).foldl (fun m c => if s.chanRuns c then m ||| (1#16 <<< c) else m) 0

/-- One byte of the window: the status area, a head index, or the queue's memory. -/
def State.windowByte (s : State) (off : Nat) : Byte :=
  if off < 0x1000 then Config.storeStatus s.chansUp.toNat off
  else if 0x090000 ≤ off ∧ off < 0x090200 then
    (if off % 8 = 0 then BitVec.ofNat 8 (s.flq ((off - 0x090000) / 8)).head else 0)
  else memByte s.mem (2 ^ 71 + off)

def State.windowRead (s : State) (off n : Nat) : List Byte := (List.range n).map (fun i => s.windowByte (off + i))

/-- A write into the window: a doorbell, or a queue's entries. -/
def State.windowWrite (s : State) (off : Nat) (bs : List Byte) : State :=
  if 0x080000 ≤ off ∧ off < 0x080200 then s.ringFlash ((off - 0x080000) / 8) (leNat bs % 64)
  else setMem s (memWrite s.mem (2 ^ 71 + off) bs)

/-! ## Commands (Table 12.8) -/

structure FlCmd where
  opc  : Nat
  part : Nat
  len  : Nat
  loff : Nat
  addr : Word
  done : Word
  ctag : Nat
  rsvd : Bool
  deriving DecidableEq, Repr

def flCmdOf (bs : List Byte) : FlCmd :=
  let at' (lo n : Nat) : Nat := leNat ((bs.drop lo).take n)
  ⟨at' 0 1, at' 1 1, at' 4 4, at' 8 8, BitVec.ofNat 64 (at' 16 8), BitVec.ofNat 64 (at' 24 8), at' 32 4,
    at' 2 2 == 0 && at' 36 28 == 0⟩

/-- The command at a queue's head, none for an empty queue. -/
def State.flFront (s : State) (q : Nat) : Option FlCmd :=
  let x := s.flq q
  if x.head = x.tail then none
  else some (flCmdOf (memRead s.mem (2 ^ 71 + 0x010000 + 0x1000 * q + 64 * x.head) 64))

/-- Who owns a queue: a Spring, an update engine, or the Warden. -/
def flWho (q : Nat) : Who := if q < 16 then .unit (sprKey + q) else if q < 60 then .unit (ueKey + (q - 16)) else .warden

/-- May the queue give the opcode on the partition (R404)? -/
def State.flMay (s : State) (q : Nat) (c : FlCmd) : Bool :=
  if q < 16 then c.opc == 1
  else if q < 60 then
    (c.part == 5 && (c.opc == 1 || c.opc == 2 || c.opc == 3)) || (c.opc == 4 && c.part == slotPart s.teeSlot)
  else 1 ≤ c.opc && c.opc ≤ 4

/-- Is the data of a command at an address its queue may use: the Lake, or the unit's own scratch? -/
def State.flAddrOk (s : State) (q : Nat) (c : FlCmd) (write : Bool) : Bool :=
  match place c.addr with
  | .lake off => (match flWho q with | .warden => decide (off + c.len ≤ lakeCap s) | w => s.lakeRight w off c.len write && decide (off + c.len ≤ lakeCap s))
  | .scratchE off => decide (q < 16) && decide (off + c.len ≤ 2 ^ 18)
  | .scratchD off => decide (16 ≤ q) && decide (q < 60) && decide (off + c.len ≤ 2 ^ 18)
  | _ => false

/-- A command that is accepted (R405, R591). -/
def State.flOk (s : State) (q : Nat) (c : FlCmd) : Bool :=
  c.rsvd && s.flMay q c && decide (c.part ≤ 5) && decide (64 ≤ c.len) && decide (c.len ≤ 2 ^ 24) && c.len % 64 == 0 &&
    c.loff % 64 == 0 && decide (c.loff + c.len ≤ partSize c.part) && (!encrypted c.part || s.jobKey.isSome) &&
    (c.opc == 3 || s.flAddrOk q c (c.opc == 1))

/-- The memory key of a command's data. -/
def flDataKey (q : Nat) (a : Word) : Nat :=
  match flWho q with
  | .unit k => keyFor k a
  | _ => a.toNat

/-! ## Channels (R9, R14, R267) -/

/-- The channel whose counters a command counts in (Table 20.3). -/
def flChan (c : FlCmd) : Nat := 120 + flChanAt c.loff

/-- The channels that a command uses. -/
def flChans (c : FlCmd) : List Nat :=
  (List.range (min ((c.loff % 4096 + c.len + 4095) / 4096) 16)).map (fun i => (c.loff / 4096 + i) % 16)

/-- Does the mesh carry the data between the channels and the command's address? A 2 KiB piece of the partition lies in one channel,
and in at most two stacks of the Lake. -/
def State.flServed (s : State) (q : Nat) (c : FlCmd) : Bool :=
  match place c.addr with
  | .lake _ =>
    (List.range (min ((c.loff % 2048 + c.len + 2047) / 2048) 1408)).all (fun i =>
      let lo := max c.loff (c.loff / 2048 * 2048 + 2048 * i)
      let hi := min (c.loff + c.len) (c.loff / 2048 * 2048 + 2048 * (i + 1)) - 1
      let n := nodeOfFlash (flChanAt lo)
      let at' (o : Nat) : Word := c.addr + BitVec.ofNat 64 (o - c.loff)
      s.meshServes n (at' lo) && s.meshServes n (at' hi))
  | _ => match flWho q with
    | .unit k => (flChans c).all (fun ch => s.nodesServe (nodeOfFlash ch) (nodeOfUnit k))
    | _ => true

/-- The owner of a queue as a source of records. -/
def flSrc (q : Nat) : Nat × Nat :=
  match flWho q with
  | .unit k => (polderOf k, uidUnit k)
  | _ => (srcWarden, uidWarden)

/-- A command ends: its completion waits, the queue's head moves on. -/
def State.flEnd (s : State) (q : Nat) (c : FlCmd) (status bytes : Nat) : State :=
  let x := s.flq q
  (s.setFlq q { x with head := (x.head + 1) % 64, done := x.done ++ [⟨c.ctag, status, bytes, c.done⟩] }).countEmb (flChan c) 4 1

/-- Priority of a command at its channels, the lowest first (R406). -/
def flPrio (q : Nat) (c : FlCmd) : Nat := if 60 ≤ q then 0 else if c.opc = 4 then 1 else if c.opc = 1 then 2 else 3

/-- Could the command at a queue's front be served: accepted, on channels that all run? -/
def State.flReady (s : State) (q : Nat) (c : FlCmd) : Bool := s.flOk q c && (flChans c).all s.chanRuns

/-- Does a command of another queue go before it, on a channel that both use (R406)? -/
def State.flYields (s : State) (q : Nat) (c : FlCmd) : Bool :=
  (s.flash.queues.map (·.1)).any (fun p => match s.flFront p with
    | some d => p != q && s.flReady p d && decide (flPrio p d < flPrio q c) && (flChans d).any (flChans c).contains
    | none => false)

/-- A command that is refused ends with status 0x01; an address that its queue may not use is a refused access (R24). -/
def State.flRefuse (s : State) (q : Nat) (c : FlCmd) : State :=
  let s1 := if c.opc != 3 && !s.flAddrOk q c (c.opc == 1) then s.emit 0x7101 (flSrc q).1 (flSrc q).2 [(8, c.addr.toNat)] else s
  s1.flEnd q c 1 0

/-- The front command of a queue when its opcode is `op`, or when it is refused, which any of the command rows may end. A command
waits while a channel of it does not run, or serves another first. -/
def State.flStep (s : State) (q op : Nat) (g : FlCmd → BitVec 512 → State) : State :=
  match s.flFront q with
  | none => s
  | some c =>
    if s.safety.fence || !s.polderOn 56 then s
    else if !s.flOk q c then s.flRefuse q c
    else if c.opc = op && s.flReady q c && !s.flYields q c then g c (s.jobKey.getD 0)
    else s

/-- A block cannot be read: code 0x5401 from its channel, status 0x02. -/
def State.flLost (s : State) (q : Nat) (c : FlCmd) (off : Nat) : State :=
  (s.emit 0x5401 (flPolder (flChanAt off)) (uidFlash (flChanAt off)) [(1, c.part), (8, c.loff)]).flEnd q c 2 0

/-- The data of a transfer did not reach its place: a detection of the channel (R283), status 0x02. -/
def State.flUnreached (s : State) (q : Nat) (c : FlCmd) : State :=
  let ch := flChanAt c.loff
  (s.detect 0x4105 (flPolder ch) (uidFlash ch) [(2, nodeOfFlash ch), (4, uidFlash ch), (2, 0), (8, c.addr.toNat)]).flEnd q c 2 0

/-- Data of a read arrive: a partial Lake access is a read-modify-write, which an uncorrectable one stops (R647). -/
def State.flDeliver (s : State) (q : Nat) (c : FlCmd) (bs : List Byte) : State :=
  match place c.addr with
  | .lake _ =>
    match s.eccWrite c.addr (present bs) (uidFlash (flChanAt c.loff)) with
    | (s1, true) => s1.flEnd q c 2 0
    | (s1, false) => (s1.countEmb (flChan c) 0 c.len).flEnd q c 0 c.len
  | _ => ((setMem s (memWrite s.mem (flDataKey q c.addr) bs)).countEmb (flChan c) 0 c.len).flEnd q c 0 c.len

def execFlashRead (q : Fin 63) (lost : Bool) (s : State) : Host.Outcome State Fault Refusal :=
  .next (s.flStep q.val 1 (fun c key =>
    if lost then s.flLost q.val c c.loff
    else if !s.flServed q.val c then s.flUnreached q.val c
    else s.flDeliver q.val c (s.flRead key c.part c.loff c.len)))

/-- The offset of the first block that a write fills in part only, which is a read-modify-write of it (R405). -/
def flPartial (c : FlCmd) : Option Nat :=
  if c.loff % 4096 ≠ 0 then some c.loff
  else if (c.loff + c.len) % 4096 ≠ 0 then some (c.loff + c.len - 1)
  else none

/-- A write of either kind: its source is read first; an uncorrectable access of it, or an uncorrectable block that it fills in
part (`lost`), stops the command. -/
def State.flPut (s : State) (q : Nat) (c : FlCmd) (key : BitVec 512) (full lost : Bool) : State :=
  if full then s.flEnd q c 3 0
  else if !s.flServed q c then s.flUnreached q c
  else match s.eccRead c.addr c.len (flSrc q).2 with
    | (s1, some _) => s1.flLost q c c.loff
    | (s1, none) =>
      match (if lost then flPartial c else none) with
      | some off => s1.flLost q c off
      | none =>
        let s2 := s1.flWrite key c.part c.loff (s1.bytesAt (flDataKey q c.addr) c.len) (blkFuel c.len)
        (s2.countEmb (flChan c) 1 c.len).flEnd q c 0 c.len

def execFlashWrite (q : Fin 63) (full lost : Bool) (s : State) : Host.Outcome State Fault Refusal :=
  .next (s.flStep q.val 2 (fun c key => s.flPut q.val c key full lost))

/-- The whole blocks of a trimmed range no longer hold what was written. -/
def State.trimBlocks (s : State) (p blk : Nat) : Nat → State
  | 0 => s
  | n + 1 =>
    let s1 := s.keepBlock p blk
    State.trimBlocks { s1 with flash := { s1.flash with
      trimmed := if s1.flash.trimmed.contains (blkKey p blk) then s1.flash.trimmed else blkKey p blk :: s1.flash.trimmed } }
      p (blk + 1) n

def execFlashTrim (q : Fin 63) (s : State) : Host.Outcome State Fault Refusal :=
  .next (s.flStep q.val 3 (fun c _ =>
    let lo := (c.loff + 4095) / 4096
    let hi := (c.loff + c.len) / 4096
    (s.trimBlocks c.part lo (hi - lo)).flEnd q.val c 0 c.len))

def execFlashTeeWrite (q : Fin 63) (full lost : Bool) (s : State) : Host.Outcome State Fault Refusal :=
  .next (s.flStep q.val 4 (fun c key =>
    let s1 := s.flPut q.val c key full lost
    if full then s1 else { s1 with flash := { s1.flash with teeBegun := true } }))

/-- A completion record is written (R405). One whose place the owner may not write is refused (R24) and lost. -/
def State.flRecord (s : State) (q : Nat) (a : Word) (bs : List Byte) : State :=
  let no : State := s.emit 0x7101 (flSrc q).1 (flSrc q).2 [(8, a.toNat)]
  let own (mine : Bool) : State := if mine then setMem s (memWrite s.mem (flDataKey q a) bs) else no
  match place a with
  | .scratchE _ => own (decide (q < 16))
  | .scratchD _ => own (decide (16 ≤ q) && decide (q < 60))
  | _ => if (s.refuses (flWho q) a 16 true).isNone then (s.eccWrite a (present bs) (flSrc q).2).1 else no

/-- The oldest completion of a queue. -/
def execFlashCommandComplete (q : Fin 63) (s : State) : Host.Outcome State Fault Refusal :=
  .next (
    let x := s.flq q.val
    match x.done with
    | [] => s
    | d :: r =>
      (s.setFlq q.val { x with done := r }).flRecord q.val d.addr
        (leBytes 4 d.ctag ++ leBytes 1 d.status ++ leBytes 3 0 ++ leBytes 8 d.bytes))

/-- Under the fence every command still queued ends with status 0x04 (Table 15.2). -/
def State.flAbandon (s : State) (q : Nat) : Nat → State
  | 0 => s
  | n + 1 =>
    match s.flFront q with
    | none => s
    | some c => State.flAbandon (s.flEnd q c 4 0) q n

def State.fenceFlash (s : State) : State := (s.flash.queues.map (·.1)).foldl (fun t q => t.flAbandon q 64) s

/-- Does garbage collection wait at a channel: behind a command (R406), or for the end of a tee step while blocks are free (R407)? -/
def State.gcWaits (s : State) (ch : Nat) : Bool :=
  (s.teeOn && !Config.flashScarce s.flash.freeBlk) || !s.chanRuns ch ||
    (s.flash.queues.map (·.1)).any (fun p => match s.flFront p with
      | some d => s.flReady p d && (flChans d).contains ch
      | none => false)

/-- Garbage collection and wear: what a channel has done (Table 20.3), and the figures the flash devices then show (R407). -/
def execGarbageCollection (ch : Fin 16) (moved erased life free : Nat) (s0 : State) : Host.Outcome State Fault Refusal :=
  .next (
    if s0.gcWaits ch.val then s0
    else
      let s := (s0.countEmb (120 + ch.val) 2 moved).countEmb (120 + ch.val) 3 erased
      let l := min life 255
      let old := s.flash.life
      let s1 := { s with flash := { s.flash with life := l, freeBlk := free % 2 ^ 32 } }
      let s2 := if old < 80 && 80 ≤ l then s1.emit 0x5404 srcWarden uidWarden [(1, l)] else s1
      if old < 100 && 100 ≤ l then s2.emit 0x5404 srcWarden uidWarden [(1, l)] else s2)

/-! ## Manifests (Table 12.9) -/

structure Manifest where
  seq   : Nat
  job   : Nat
  step  : Nat
  coord : Nat
  owned : Nat
  tail  : Nat
  keyid : Nat
  deriving DecidableEq, Repr

def manifestBytes (slot : Bool) (m : Manifest) : List Byte :=
  let body := leBytes 4 0x4B57434D ++ leBytes 4 (b2n slot) ++ leBytes 8 m.seq ++ leBytes 4 m.job ++ leBytes 6 m.step ++
    leBytes 2 m.coord ++ leBytes 4 m.owned ++ leBytes 8 m.tail ++ leBytes 8 m.step ++ leBytes 8 m.keyid
  let body := body ++ leBytes (4088 - body.length) 0
  body ++ leBytes 8 (crc64 body)

/-- Where the manifest area of a slot lies in P2. -/
def manifestOff (slot : Bool) : Nat := if slot then 2 ^ 29 else 0

/-- The manifest of a slot, none when it is not valid (R410). -/
def State.manifest (s : State) (slot : Bool) : Option Manifest :=
  let bs := s.flRead 0 2 (manifestOff slot) 4096
  let at' (lo n : Nat) : Nat := leNat ((bs.drop lo).take n)
  if at' 0 4 == 0x4B57434D && at' 4 1 == b2n slot && at' 4088 8 == crc64 (bs.take 4088) &&
      !s.flash.dead.contains (at' 8 8) then
    some ⟨at' 8 8, at' 16 4, at' 20 6, at' 26 2, at' 28 4, at' 32 8, at' 48 8⟩
  else none

/-- Find the current slot (R410). -/
def State.flashScan (s : State) : State :=
  let set (slot : Bool) (m : Manifest) : State :=
    { s with flash := { s.flash with curSlot := slot, curValid := true, curStep := m.step, seq := m.seq, coldGen := m.step } }
  match s.manifest false, s.manifest true with
  | some a, some b => if b.seq > a.seq then set true b else set false a
  | some a, none => set false a
  | none, some b => set true b
  | none, none => { s with flash := { s.flash with curValid := false } }

/-- The latest valid manifest's step for the group's restart (Table 14.4), 0 for none. -/
def State.manifestStep (s : State) : Nat := if s.flash.curValid then s.flash.curStep else 0

/-! ## Completing a checkpoint (R409) -/

def State.ownedShards (s : State) : List ShardEnt :=
  match s.job with
  | some j => (j.desc.shards.filter (fun e => e.owner == s.group.coord)).mergeSort (fun a b => decide (a.shard ≤ b.shard))
  | none => []

/-- Does every owned seal show CSTEP = n? The Warden reads them (R358). -/
def State.sealedAll (s : State) (n : Nat) : State × Bool :=
  s.sealsAll (fun q => q.cstep == n && !q.pass) (s.ownedShards.map (·.shard))

/-- The Lake offset of a job's scale table, at `WSCALEBASE` (R377); none where the job has none. -/
def scaleAt (d : JobDesc) : Option Nat :=
  match place (BitVec.ofNat 64 d.wscalebase) with
  | .lake off => some off
  | _ => none

def State.scaleOff (s : State) : Option Nat := s.job.bind (fun j => scaleAt j.desc)

/-- What follows the records and heads in a slot: the owned seals, and the scale table (R408). None when the Warden cannot read them. -/
def State.slotTail (s : State) : State × Option (List Byte) :=
  let (s1, seals) := s.ownedShards.foldl (fun (acc : State × Option (List Byte)) e =>
    match acc.2, acc.1.wardenRead (sealAddr acc.1 e.shard) 64 with
    | some l, (t, some bs) => (t, some (l ++ bs))
    | _, (t, _) => (t, none)) (s, some [])
  match seals, s1.scaleOff with
  | some l, some o =>
    let (s2, t) := s1.wardenRead (BitVec.ofNat 64 (lakeKey o)) 16384
    (s2, t.map (l ++ ·))
  | x, _ => (s1, x)

/-- The checkpoint of a tee step is completed, once every owned seal shows the step (R409). -/
def State.completeCkpt (s : State) (n : Nat) (key : BitVec 512) (j : JobSt) : State :=
  match s.slotTail with
  | (s0, none) => s0
  | (s0, some tail) =>
    let slot := s0.teeSlot
    let owned := s0.ownedShards
    let off := 20 * 2 ^ 20 * owned.length
    let s1 := s0.flWrite key (slotPart slot) off tail (blkFuel tail.length)
    let m : Manifest := ⟨s0.flash.seq + 1, j.desc.jobid.toNat, n, s0.group.coord.toNat, owned.length, off, j.desc.keyid.toNat⟩
    let s2 := s1.flWrite 0 2 (manifestOff slot) (manifestBytes slot m) 2
    let s3 := { s2 with flash := { s2.flash with
      teeStep := none, teeBegun := false, curSlot := slot, curValid := true, curStep := n, seq := m.seq, coldGen := n,
      saved := [], savedBlks := [] } }
    s3.emit 0x5402 srcWarden uidWarden [(1, b2n slot), (6, n)]

def execCheckpointComplete (s : State) : Host.Outcome State Fault Refusal :=
  .next (
    match s.flash.teeStep, s.jobKey, s.job with
    | some n, some key, some j =>
      if s.safety.fence || !s.flash.teeBegun then s
      else match s.sealedAll n with
        | (s1, true) => s1.completeCkpt n key j
        | (s1, false) => s1
    | _, _, _ => s)
/-- A designation lapses: code 0x5403 unless tee writes have begun, which leave no manifest (R412). -/
def State.lapse (s : State) : State :=
  match s.flash.teeStep with
  | none => s
  | some n =>
    let s1 := { s with flash := { s.flash with teeStep := none, teeBegun := false } }
    if s.flash.teeBegun then s1 else s1.emit 0x5403 srcWarden uidWarden [(6, n)]

end Sys2Proof.Machine
end

