-- ==== Sys2Proof/Machine/Spring.lean ====
section
/-! DEFINITION. Springs (09_weight_streaming): `wave` and its phases (R306 to R313), the polls of gate words and seals, and
re-streams (R317 to R320). -/

namespace Sys2Proof.Machine

open Sys2Proof

/-- A Spring works while its polder runs and no fence stops it (Table 15.2). -/
def State.sprRuns (s : State) (u : Nat) : Bool := s.polderOn (polderOf (sprKey + u)) && !s.safety.fence

/-- The Spring's entry for a multicast group (Table 9.5). -/
def Spring.grp (x : Spring) (g : Nat) : Option SprGrp := (x.grps.find? (fun e => e.2.group == g)).map (·.2)

/-! ## A wave's tiles (R303, R309) -/

def tileCount (d : Desc) : Nat := dE d 2
/-- Offsets in the wave buffer of T tiles: headers, flag. -/
def hdrOff (t : Nat) : Nat := 32768 * t
def flagOff (t : Nat) : Nat := 32768 * t + 64 * ((t + 3) / 4)
/-- The rows of tile `i`: device address, and offset in the wave buffer. -/
def tileRows (d : Desc) (i : Nat) : List (Word × Nat) :=
  (List.range (dE d 1)).map (fun r => (dBase d + BitVec.ofNat 64 (r * dS d 1 + i * dS d 2), 32768 * i + 256 * r))

/-- Lake offset of a device address. -/
def lakeOffOf (a : Word) : Nat := a.toNat % 2 ^ 41

/-- The shards that tile `i` covers, in walk order (R307). -/
def tileShards (s : State) (d : Desc) (i : Nat) : List Nat :=
  ((tileRows d i).flatMap (fun r =>
    ([lakeOffOf r.1, lakeOffOf r.1 + 2 * dE d 0 - 1]).filterMap (shardAt s))).eraseDups

/-- The shards that a wave covers, in walk order. -/
def waveShards (s : State) (d : Desc) : List Nat :=
  ((List.range (tileCount d)).flatMap (tileShards s d)).eraseDups

/-- A tile's rows read from the Lake, with its header; none when a line cannot be read (R309, R312). -/
def State.readTile (s : State) (u : Nat) (d : Desc) (i step : Nat) :
    State × Option (List (Nat × List Byte) × TileStat × List Byte) :=
  let F := Fmt.of 0
  let n := 2 * dE d 0
  let go := (tileRows d i).foldl (fun (acc : State × List (Nat × List Byte) × TileStat × Bool) r =>
    let (s1, bad) := acc.1.eccRead r.1 n (uidUnit (sprKey + u))
    let bs := s1.bytesAt r.1.toNat n
    let heads := (List.range (dE d 0)).map (fun j => leNat ((bs.drop (2 * j)).take 2))
    let st := heads.foldl (fun t x => t.take F ⟨x, !(unpack F x).finite, false, false, false⟩) acc.2.2.1
    (s1, acc.2.1 ++ [(r.2, bs)], st, acc.2.2.2 || bad.isSome)) (s, [], TileStat.fresh, false)
  if go.2.2.2 then (go.1, none)
  else (go.1, some (go.2.1, go.2.2.1, tileHdrBytes 0 go.2.2.1 false none (dE d 1) (dE d 0) step))

/-- The shard that holds a tile's first non-finite head. -/
def State.nonfiniteShard (s : State) (d : Desc) (tile : Nat) : Nat :=
  let F := Fmt.of 0
  (((tileRows d tile).findSome? (fun r =>
    ((List.range (dE d 0)).find? (fun j => !(unpack F (s.natAt (r.1.toNat + 2 * j) 2)).finite)).map (fun j =>
      lakeOffOf r.1 + 2 * j))).bind (shardAt s)).getD 0

/-- A non-finite head: record and poison (R309). -/
def State.nonfiniteHead (s : State) (u wave step tile : Nat) (d : Desc) : State :=
  let sh := s.nonfiniteShard d tile
  (s.emit 0x1502 (polderOf (sprKey + u)) (uidUnit (sprKey + u)) [(1, u), (2, wave), (6, step), (2, tile), (4, sh)]).poison
    (polderOf (sprKey + u))

/-- A refusal on a seal check (R308, R319). -/
def State.sealRefused (s : State) (u wave step sh : Nat) (x : Option Seal) : State :=
  let hs := match x with | some q => (q.hstep, q.sstep) | none => (0, 0)
  (s.emit 0x1501 (polderOf (sprKey + u)) (uidUnit (sprKey + u))
    [(1, u), (2, wave), (6, step), (4, sh), (6, hs.1), (6, hs.2)]).poison (polderOf (sprKey + u))

/-! ## Transfers of a Spring -/

def State.xfer (s : State) (id : Nat) : Option Xfer := s.xfers.find? (·.id == id)
def State.setXfer (s : State) (x : Xfer) : State := { s with xfers := s.xfers.map (fun y => if y.id = x.id then x else y) }
def State.dropXfer (s : State) (id : Nat) : State := { s with xfers := s.xfers.filter (·.id != id) }

/-- A transfer waits for `n` more answers. -/
def State.xferAdd (s : State) (id n : Nat) : State :=
  match s.xfer id with | some x => s.setXfer { x with left := x.left + n } | none => s

def State.setWave (s : State) (u : Nat) (w : Wave) : State :=
  let x := s.spring u
  s.setSpring u { x with waves := x.waves.map (fun y => if y.xfer = w.xfer then w else y) }

/-- A wave leaves the Spring and its transfer ends. -/
def State.dropWave (s : State) (u : Nat) (w : Wave) : State :=
  let x := s.spring u
  (s.setSpring u { x with waves := x.waves.filter (·.xfer != w.xfer) }).dropXfer w.xfer

/-- An error ends a wave: its tag completes with an error and no flag follows (R312). -/
def State.failWave (s : State) (u : Nat) (w : Wave) : State := (s.dropWave u w).tagDone (sprKey + u) w.tag true

/-- Multicast parts of a wave at offsets from its buffer. -/
def State.waveSend (s : State) (u : Nat) (w : Wave) (ps : List (Nat × List Byte)) : State :=
  let node := nodeOfSpring u
  let s1 := ps.foldl (fun acc p => acc.sendMc (sprKey + u) node w.xfer w.group node (w.off + p.1) p.2) s
  let bytes := ps.foldl (fun acc p => acc + p.2.length) 0
  (s1.xferAdd w.xfer ps.length).countEmb u 1 bytes

/-- Stream tiles in walk order as far as every shard of a tile has passed (R307). `n` bounds the tiles. -/
def State.streamTiles (s : State) (u : Nat) (w : Wave) (passed : List Nat) : Nat → State
  | 0 => s.setWave u w
  | n + 1 =>
    if w.sent ≥ tileCount w.desc || !(tileShards s w.desc w.sent).all passed.contains then s.setWave u w
    else
      match s.readTile u w.desc w.sent w.step with
      | (s1, none) => s1.failWave u w
      | (s1, some (rows, st, hdr)) =>
        let s2 := (s1.waveSend u w rows).countEmb u 0 (rows.length * 2 * dE w.desc 0)
        let s3 := if st.nonfin then s2.nonfiniteHead u w.wave w.step w.sent w.desc else s2
        State.streamTiles s3 u { w with sent := w.sent + 1, hdrs := w.hdrs ++ hdr } passed n

/-- Has the Spring already an earlier wave of the same group whose flag is still to come (R311)? -/
def flagTurn (ws : List Wave) (w : Wave) : Bool :=
  match ws.find? (fun y => y.group == w.group && y.phase != .stopped) with
  | some y => y.xfer == w.xfer
  | none => false

/-- The wave flag (Table 9.2), with bytes 8 to 63 zero. -/
def flagWord (step wave : Nat) : Nat := step % 2 ^ 48 + wave % 2 ^ 15 * 2 ^ 48 + 2 ^ 63
def flagLine (step wave : Nat) : List Byte := leBytes 8 (flagWord step wave) ++ leBytes 56 0

/-- A wave is done: the tag, the log, the counters (R307, R313). -/
def State.endWave (s : State) (u : Nat) (w : Wave) : State :=
  let s1 := (s.dropWave u w).tagDone (sprKey + u) w.tag false
  let x := s1.spring u
  let log := x.log ++ [⟨w.wave, w.step, w.group, w.desc, w.off⟩]
  (s1.setSpring u { x with log := log.drop (log.length - 64), lastWave := w.wave }).countEmb u 2 1

/-- Move one wave on, as far as the acknowledgements that are in allow (R307). -/
def State.waveOn (s : State) (u : Nat) (w : Wave) : State :=
  match s.xfer w.xfer with
  | none => s
  | some x =>
    if x.err then s.failWave u w
    else if x.left ≠ 0 then s
    else match w.phase with
      | .tiles => (s.setWave u { w with phase := .hdrs }).waveSend u w [(hdrOff (tileCount w.desc), w.hdrs)]
      | .hdrs =>
        if flagTurn (s.spring u).waves w then
          (s.setWave u { w with phase := .flag }).waveSend u w [(flagOff (tileCount w.desc), flagLine w.step w.wave)]
        else s
      | .flag => s.endWave u w
      | _ => s

/-- Move every wave of a Spring on, oldest first, twice over: an end may let a later flag go (R311). -/
def State.wavesOn (s : State) (u : Nat) : State :=
  let once (t : State) : State :=
    ((t.spring u).waves.map (·.xfer)).foldl (fun acc id =>
      match (acc.spring u).waves.find? (·.xfer == id) with
      | some w => acc.waveOn u w
      | none => acc) t
  if s.safety.fence then s else once (once s)

/-! ## Gate words and seals -/

/-- Check a waiting wave's shards in order and stream what has passed (R28, R307, R308). `n` bounds the shards. -/
def State.sealWave (s : State) (u : Nat) (w : Wave) (shards : List Nat) : Nat → State
  | 0 => s
  | n + 1 =>
    match shards[w.shardsDone]? with
    | none => s.streamTiles u { w with phase := .tiles } shards (tileCount w.desc)
    | some sh =>
      match s.readSeal sh (polderOf (sprKey + u)) (uidUnit (sprKey + u)) with
      | (s1, none) => s1.failWave u w
      | (s1, some q) =>
        if q.hstep + 1 = w.step then State.sealWave s1 u { w with shardsDone := w.shardsDone + 1 } shards n
        else if q.hstep + 1 > w.step then (s1.setWave u { w with phase := .stopped }).sealRefused u w.wave w.step sh (some q)
        else s1.streamTiles u w (shards.take w.shardsDone) (tileCount w.desc)

def State.sealTry (s : State) (u : Nat) (w : Wave) : State :=
  let shards := waveShards s w.desc
  s.sealWave u w shards (shards.length + 1)

/-- Load a waiting wave's gate word (R307); a read that fails ends the wave with an error. -/
def State.gateTry (s : State) (u : Nat) (w : Wave) : State :=
  match (s.spring u).grp w.group with
  | none => s.failWave u w
  | some g =>
    if (s.accessFault (sprKey + u) g.gate 8 8 false).isSome then (s.refusedEvent (sprKey + u) g.gate).failWave u w
    else
      match s.eccRead g.gate 8 (uidUnit (sprKey + u)) with
      | (s1, some _) => s1.failWave u w
      | (s1, none) =>
        if s1.natAt g.gate.toNat 8 ≥ w.gatemin then s1.sealTry u { w with phase := .seal } else s1

/-- Poll every wave of a phase, oldest first, and move the waves on. -/
def State.pollWaves (s : State) (u : Nat) (ph : WavePhase) (f : State → Wave → State) : State :=
  if !s.sprRuns u then s
  else
    (((s.spring u).waves.map (·.xfer)).foldl (fun acc id =>
      match (acc.spring u).waves.find? (·.xfer == id) with
      | some w => if w.phase = ph then f acc w else acc
      | none => acc) s).wavesOn u

def execGateWordPoll (sp : Fin 16) (s : State) : Host.Outcome State Fault Refusal :=
  .next (s.pollWaves sp.val .gate (fun t w => t.gateTry sp.val w))

def execSealPoll (sp : Fin 16) (s : State) : Host.Outcome State Fault Refusal :=
  .next (s.pollWaves sp.val .seal (fun t w => t.sealTry sp.val w))

/-! ## `wave` (Table 9.3) -/

def waveTrap (x : Spring) (f : BitVec 57) (d : Desc) (ra rb rc : Word) : Option Trp :=
  firstTrap [descTrap (lD1 f) d [0], when' (dFmt d != 0) (fmtTrap (dFmt d)),
    when' (dMdv d || dE d 0 > 128 || dE d 1 > 128 || dE d 2 > 256 || dE d 3 != 1 ||
      (match place (dBase d) with | .lake _ => false | _ => true)) (dTrap (lD1 f)),
    alignTrap (lD1 f) d 2 false,
    when' (ra.toNat / 2 ^ 24 % 256 != 0 || (x.grp (ra.toNat % 256)).isNone) (opTrap ra),
    when' (rb.toNat ≥ 2 ^ 26 || rb.toNat % 4096 != 0) (opTrap rb), when' (rc.toNat ≥ 2 ^ 48) (opTrap rc)]

/-- The first row of a wave's source that the Spring may not read. -/
def State.waveRefused (s : State) (u : Nat) (d : Desc) : Option Word :=
  ((List.range (tileCount d)).flatMap (tileRows d)).findSome? (fun r =>
    match place r.1 with
    | .lake _ => if (s.refuses (.unit (sprKey + u)) r.1 (2 * dE d 0) false).isSome then some r.1 else none
    | _ => some r.1)

def execWave (u : UnitId) (f : BitVec 57) (s : State) : Host.Outcome State Fault Refusal :=
  .next (
    let k := unitKey u
    s.issue64 k 0x70 f (isSpring k && lOk f ['1', 't', 'a', 'b', 'c'] 1) [.d (lD1 f), .s (lRa f), .s (lRb f), .s (lRc f)]
      (fun s1 =>
        let p := s1.proc k
        let sp := k - sprKey
        let x := s1.spring sp
        let d := p.getD (lD1 f)
        let ra := p.getS (lRa f)
        if s1.storesOut k || x.waves.length ≥ 4 || p.tagCount (lTag f) ≥ 255 then s1
        else match waveTrap x f d ra (p.getS (lRb f)) (p.getS (lRc f)) with
          | some t => s1.trap1 k t
          | none =>
            match s1.waveRefused sp d with
            | some a => (s1.refusedEvent k a).dmaEnd k (lTag f) true
            | none =>
              let (id, s2) := s1.takeId
              let w : Wave := ⟨d, ra.toNat % 256, ra.toNat / 256 % 65536, ra.toNat / 2 ^ 32, (p.getS (lRb f)).toNat,
                (p.getS (lRc f)).toNat, lTag f, .gate, 0, 0, id, []⟩
              let xf : Xfer := ⟨id, k, .wave sp, 0, 0, false, false, []⟩
              let s3 := { s2 with xfers := s2.xfers ++ [xf] }.setSpring sp { x with waves := x.waves ++ [w] }
              ((s3.retire k (p.tagUp (lTag f)) 8 false 1).gateTry sp w).wavesOn sp))

/-! ## Re-streams -/

/-- A re-stream request reaches its Spring: merged into the one in service, or queued; a ninth waits (R320). -/
def State.rsRequest (s : State) (u : Nat) (r : RsReq) : Option State :=
  let x := s.spring u
  if x.rs.any (fun v => v.cluster == r.cluster && v.wave == r.wave && v.step == r.step) then
    some (s.setSpring u { x with rs := x.rs.map (fun v =>
      if v.cluster == r.cluster && v.wave == r.wave && v.step == r.step then { v with releases := v.releases + 1 } else v) })
  else if x.rsQ.length ≥ 8 then none
  else some (s.setSpring u { x with rsQ := x.rsQ ++ [r] })

/-- A release reaches its Spring: the slot of the cluster and group is free after one release per merged request (R320). -/
def State.rsRelease (s : State) (u wave step cluster : Nat) : State :=
  let x := s.spring u
  let hit (v : RsServ) : Bool := v.cluster == cluster && v.wave == wave && v.step == step
  let gone := x.rs.filter (fun v => hit v && v.releases ≤ 1)
  let rs := (x.rs.filter (fun v => !(hit v && v.releases ≤ 1))).map (fun v =>
    if hit v then { v with releases := v.releases - 1 } else v)
  gone.foldl (fun acc v => acc.dropXfer v.xfer) (s.setSpring u { x with rs := rs })

/-- A control packet at a Spring's node that the predicate takes. -/
def State.ctlAt (s : State) (u : Nat) (f : CtlMsg → Bool) : Option (Nat × CtlMsg) :=
  match s.mesh.findIdx? (fun p => p.kind == .ctl && p.loc == nodeOfSpring u && p.dst == nodeOfSpring u && f p.ctl) with
  | some i => some (i, (s.mesh.getD i (mkPacket .ctl 0 0 0 0)).ctl)
  | none => none

def State.dropPacket (s : State) (i : Nat) : State := { s with mesh := s.mesh.eraseIdx i }

/-- Deliver a control message of a Spring; a request that its queue cannot take stays where it is. -/
def State.ctlSpring (s : State) (i : Nat) (m : CtlMsg) : State :=
  match m with
  | .restream u wave step cluster core =>
    if !s.sprRuns u then s.dropPacket i
    else match s.rsRequest u ⟨wave, step, cluster, core⟩ with
      | some s1 => s1.dropPacket i
      | none => s
  | .release u wave step cluster => (if s.sprRuns u then s.rsRelease u wave step cluster else s).dropPacket i
  | _ => s.dropPacket i

def execReStreamRequest (sp : Fin 16) (s : State) : Host.Outcome State Fault Refusal :=
  .next (match s.ctlAt sp.val (fun m => match m with | .restream u _ _ _ _ => u == sp.val | _ => false) with
    | some (i, m) => s.ctlSpring i m
    | none => s)

def execReStreamRelease (sp : Fin 16) (s : State) : Host.Outcome State Fault Refusal :=
  .next (match s.ctlAt sp.val (fun m => match m with | .release u _ _ _ => u == sp.val | _ => false) with
    | some (i, m) => s.ctlSpring i m
    | none => s)

/-- The log's entry for a wave and step, the latest first. -/
def Spring.logged (x : Spring) (r : RsReq) : Option WaveLog :=
  x.log.reverse.find? (fun e => e.wave == r.wave && e.step == r.step)

/-- The first shard of a wave whose state step is not n − 1 (R319), with its seal. -/
def State.rsCheck (s : State) (u step : Nat) : List Nat → State × Option (Nat × Option Seal)
  | [] => (s, none)
  | sh :: r =>
    match s.readSeal sh (polderOf (sprKey + u)) (uidUnit (sprKey + u)) with
    | (s1, none) => (s1, some (sh, none))
    | (s1, some q) => if q.sstep + 1 = step then State.rsCheck s1 u step r else (s1, some (sh, some q))

/-- Class-1 writes of a re-stream into the requesting cluster's pond (R318). -/
def State.rsSend (s : State) (u id cluster off : Nat) (ps : List (Nat × List Byte)) : State :=
  ps.foldl (fun acc p =>
    let a := cluster / 10 * 2 ^ 30 + cluster % 10 * 2 ^ 26 + (off + p.1)
    acc.request (sprKey + u) (nodeOfSpring u) (.msgWr id) .wr (BitVec.ofNat 64 a) p.2.length p.2 0) s

/-- All the tiles of a logged wave and its headers; none when a line cannot be read. -/
def State.rsParts (s : State) (u : Nat) (e : WaveLog) :
    Nat → Nat → List Byte → List (Nat × List Byte) → State × Option (List (Nat × List Byte))
  | 0, _, hdrs, out => (s, some (out ++ [(hdrOff (tileCount e.desc), hdrs)]))
  | n + 1, i, hdrs, out =>
    match s.readTile u e.desc i e.step with
    | (s1, none) => (s1, none)
    | (s1, some (rows, _, hdr)) => State.rsParts s1 u e n (i + 1) (hdrs ++ hdr) (out ++ rows)

/-- A queued re-stream starts (R318 to R320): the first one whose cluster and group have none in service. -/
def execReStreamStart (sp : Fin 16) (s : State) : Host.Outcome State Fault Refusal :=
  .next (
    let u := sp.val
    let x := s.spring u
    let free (r : RsReq) : Bool := match x.logged r with
      | some e => !x.rs.any (fun v => v.cluster == r.cluster && v.group == e.group)
      | none => true
    match x.rsQ.findIdx? free with
    | none => s
    | some i =>
      if !s.sprRuns u then s
      else
        let r := x.rsQ.getD i ⟨0, 0, 0, 0⟩
        let same (v : RsReq) : Bool := v.cluster == r.cluster && v.wave == r.wave && v.step == r.step
        let rest := x.rsQ.eraseIdx i
        let drop1 := s.setSpring u { x with rsQ := rest }
        let s1 := if (x.logged r).isNone then drop1 else s.setSpring u { x with rsQ := rest.filter (fun v => !same v) }
        match x.logged r with
        | none => s1.sealRefused u r.wave r.step 0 none
        | some e =>
          match s1.rsCheck u r.step (waveShards s1 e.desc), x.grp e.group with
          | (s2, some (sh, q)), _ => s2.sealRefused u r.wave r.step sh q
          | (s2, none), none => s2.sealRefused u r.wave r.step 0 none
          | (s2, none), some g =>
            let (id, s3) := s2.takeId
            let serv : RsServ :=
              ⟨r.wave, r.step, r.cluster, e.group, e.desc, g.rploff, 1 + (rest.filter same).length, id, false, false⟩
            let s4 := s3.setSpring u { s3.spring u with rs := (s3.spring u).rs ++ [serv] }
            match s4.rsParts u e (tileCount e.desc) 0 [] [] with
            | (s5, none) => s5
            | (s5, some ps) =>
              let xf : Xfer := ⟨id, sprKey + u, .restream u, ps.length, 0, false, false, []⟩
              { s5 with xfers := s5.xfers ++ [xf] }.rsSend u id r.cluster g.rploff ps)

/-- Every write that a re-stream has out is acknowledged: the flag follows, and then the delivery is complete (R318). An error
ends it without a flag. -/
def State.restreamOn (s : State) (u id : Nat) (err : Bool) : State :=
  let x := s.spring u
  match x.rs.find? (·.xfer == id) with
  | none => s.dropXfer id
  | some v =>
    if err || s.safety.fence then s.dropXfer id
    else if v.flagOut then
      ((s.dropXfer id).setSpring u { x with
        rs := x.rs.map (fun y => if y.xfer == id then { y with done := true } else y),
        restreams := min (x.restreams + 1) 65535 }).countEmb u 3 1
    else
      let s1 := s.setSpring u { x with rs := x.rs.map (fun y => if y.xfer == id then { y with flagOut := true } else y) }
      (s1.xferAdd id 1).rsSend u id v.cluster v.off [(flagOff (tileCount v.desc), flagLine v.step v.wave)]

/-- The fence clears a Spring's queue and its re-streams in service (R320). -/
def State.fenceSpring (s : State) (u : Nat) : State :=
  let x := s.spring u
  if x.rsQ.isEmpty && x.rs.isEmpty then s
  else x.rs.foldl (fun acc v => acc.dropXfer v.xfer) (s.setSpring u { x with rsQ := [], rs := [] })

end Sys2Proof.Machine
end

