-- ==== Sys2Proof/Machine/Msg.lean ====
section
/-! DEFINITION. Messages between engines: coordinates and the way round the torus (R434 to R436), and sending a message from a
unit to the light port that takes it (R432). -/

namespace Sys2Proof.Machine

open Sys2Proof

/-- The coordinate of a 12-bit torus position in dimension `i`. -/
def coordOf (c : BitVec 12) (i : Nat) : Nat := c.toNat / 16 ^ i % 16

/-- Is a coordinate inside the extents? -/
def inTorus (extm1 c : BitVec 12) : Bool := (List.range 3).all (fun i => coordOf c i ≤ coordOf extm1 i)

/-- The direction of the next hop as a BIND code (Table 13.8): x first, then y, then z; the shorter way, + when equal. -/
def torusDir (extm1 own dst : BitVec 12) : Option Nat :=
  (List.range 3).findSome? (fun i =>
    let e := coordOf extm1 i + 1
    let a := coordOf own i
    let b := coordOf dst i
    if a = b then none
    else if 2 * ((b + e - a) % e) ≤ e then some (2 * i + 2) else some (2 * i + 1))

/-- Does a hop from `own` in a direction cross the wraparound link (R435)? -/
def wraps (extm1 own : BitVec 12) (dir : Nat) : Bool :=
  let i := (dir - 1) / 2
  if dir % 2 = 0 then coordOf own i == coordOf extm1 i else coordOf own i == 0

/-- The neighbour coordinate in a direction. -/
def neighbour (extm1 own : BitVec 12) (dir : Nat) : BitVec 12 :=
  let i := (dir - 1) / 2
  let e := coordOf extm1 i + 1
  let a := coordOf own i
  let b := if dir % 2 = 0 then (a + 1) % e else (a + e - 1) % e
  BitVec.ofNat 12 (own.toNat - a * 16 ^ i + b * 16 ^ i)

/-- Coordinates of the other engines of the group (R452). -/
def State.peers (s : State) : List (BitVec 12) :=
  let g := s.group
  let d (i : Nat) : Nat := g.boxm1.toNat / 4 ^ i % 4 + 1
  let e (i : Nat) : Nat := coordOf g.extm1 i + 1
  ((List.range (d 2)).flatMap (fun z => (List.range (d 1)).flatMap (fun y => (List.range (d 0)).map (fun x =>
    BitVec.ofNat 12 ((coordOf g.origin 0 + x) % e 0 + 16 * ((coordOf g.origin 1 + y) % e 1) +
      256 * ((coordOf g.origin 2 + z) % e 2)))))).filter (· != g.coord)

/-- Ports that are up and bound to a direction, ascending. -/
def State.upPorts (s : State) (dir : Nat) : List Nat :=
  (List.range 56).filter (fun p => (s.port p).state == 2 && (s.port p).bind == dir)

/-- The port that a new message takes (R436). -/
def State.pickPort (s : State) (dir : Nat) (m : Message) : Option Nat :=
  let ps := s.upPorts dir
  ps[(m.dst.toNat + m.src.toNat + m.msgid.toNat % 256) % ps.length]?

/-- Cells of a message: its header and its payload. -/
def msgCells (m : Message) : Nat := m.ncell + 1

end Sys2Proof.Machine

namespace Sys2Proof

open Sys2Proof.Machine

/-- Codes of KIND, and what a unit message says (Table 13.6, Table 10.6). -/
def MsgKind.code (k : MsgKind) : Nat := match k with | .blk => 1 | .run => 2 | .write => 3 | .ack => 4 | .unit => 5
def UnitMsg.body (u : UnitMsg) : List Nat :=
  match u with
  | .gatherOpen a b => [1, a, b]
  | .gatherClose a b => [2, a, b]
  | .gatherAck a b d => [3, a, b, d.toNat]
  | .gatherRequest a b => [4, a, b]
  | .other => []

/-- The payload cells of a message. -/
def Message.body (m : Message) : List Byte :=
  if m.kind = .unit then (List.range (64 * m.ncell)).map (Config.unitBody m.sunit m.dunit m.umsg.body) else m.payload

/-- The header cell of a message (Table 13.6), with MCRC. -/
def Message.header (m : Message) : List Byte :=
  let h := leBytes 1 m.kind.code ++ leBytes 1 m.ncell ++ leBytes 2 m.dst.toNat ++ leBytes 2 m.src.toNat ++ leBytes 2 (b2n m.vc) ++
    leBytes 2 m.dnode.toNat ++ leBytes 1 (Config.packetUnit m.dnode.toNat m.dunit) ++ leBytes 1 (Config.packetUnit 4096 m.sunit) ++
    leBytes 4 m.msgid.toNat ++ leBytes 8 m.addr.toNat ++ leBytes 2 m.cnt ++ leBytes 2 m.run ++
    leBytes 1 (m.slu.val + 16 * b2n m.ue) ++ leBytes 6 m.step ++ leBytes 25 0
  h ++ leBytes 4 (crc32 (h ++ m.body))

/-- The cells of a message as bytes. -/
def Message.cells (m : Message) : List Byte := m.header ++ m.body

end Sys2Proof

namespace Sys2Proof.Machine

open Sys2Proof

/-- A message that cannot be sent (R438): the record, and the step poisoned. -/
def State.undeliverable (s : State) (node : Nat) (m : Message) : State :=
  (s.emit 0x420A (polderOfNode node) (uidNode node) [(2, m.dst.toNat), (2, m.src.toNat)]).poison (polderOfNode node)

/-- Send a message from a unit at `node`: an `XT` packet to the node of the light port that takes it (R432, R434 to R436). -/
def State.sendMessage (s : State) (node : Nat) (m : Message) : State :=
  let g := s.group
  match (if inTorus g.extm1 m.dst then torusDir g.extm1 g.coord m.dst else none) with
  | none => s.undeliverable node m
  | some d =>
    match s.pickPort d m with
    | none => s.undeliverable node m
    | some p => s.send { mkPacket .xt 5 node (nodeOfPort p) 0 with ctl := .message { m with vc := wraps g.extm1 g.coord d } }

/-- A message of unit `k` to a unit at a node of another engine, with no payload. -/
def mkMessage (s : State) (k : Nat) (kind : MsgKind) (dst : BitVec 12) (dnode dunit id : Nat) : Message :=
  { kind := kind, ncell := 0, dst := dst, src := s.group.coord, vc := false, dnode := BitVec.ofNat 12 (nodeCode dnode),
    dunit := dunit, sunit := k, msgid := BitVec.ofNat 32 id, addr := 0, cnt := 0, run := 0, slu := 0, ue := false, step := 0,
    umsg := .other, payload := [] }

/-- Record that transfer `x` of unit `k` waits for the acknowledgement of a packet or message (R344, R362): its
identifier. -/
def State.await (s : State) (k x : Nat) : Nat × State :=
  let (id, s1) := s.takeId
  (id, { s1 with reqs := s1.reqs ++ [Req.mk id k (nodeOfUnit k) 0 (.ueWr x)] }.xferAdd x 1)

end Sys2Proof.Machine
end

