-- ==== Sys2Proof/Machine/Fence.lean ====
section
/-! DEFINITION. Control cells on their way between engines (R426 to R429, R457), and raising the fence (R465, R486 to R488,
Table 15.2). -/

namespace Sys2Proof.Machine

open Sys2Proof

/-! ## The group (R452 to R455) -/

/-- Engines of the group. -/
def State.groupSize (s : State) : Nat := s.peers.length + 1

/-- The manager above this engine: its group's manager, or the head manager above a group's manager (R454). -/
def State.superior (s : State) : Option (BitVec 12) :=
  let g := s.group
  if g.coord != g.mgr then some g.mgr
  else match g.head with
    | some h => if h = g.coord then none else some h
    | none => none

/-- Does this engine act as manager of its group? -/
def State.isMgr (s : State) : Bool := s.group.coord == s.group.mgr

/-- The worker index of a coordinate (R452). -/
def State.workerIdx (s : State) (c : BitVec 12) : Nat :=
  let g := s.group
  let d (i : Nat) : Nat := let e := coordOf g.extm1 i + 1; (coordOf c i + e - coordOf g.origin i % e) % e
  d 0 + 4 * d 1 + 16 * d 2

/-! ## Sending cells -/

/-- A port keeps a cell until the peer acknowledges it (R427). -/
def State.pushCell (s : State) (p : Nat) (c : CtlCell) : State :=
  let x := s.port p
  s.setPort p { x with ctlOut := x.ctlOut ++ [{ c with cseq := x.cseq }], cseq := x.cseq + 1, ctlUsed := x.ctlUsed + 1 }

/-- Send a cell toward a coordinate, on the lowest-numbered port of its direction (R429, R434). -/
def State.routeCell (s : State) (c : CtlCell) (goal : BitVec 12) : State :=
  match torusDir s.group.extm1 s.group.coord goal with
  | none => s
  | some d => match s.upPorts d with
    | [] => s
    | p :: _ => s.pushCell p c

def mkCell (s : State) (dst : Option (BitVec 12)) (body : CellBody) : CtlCell := ⟨0, dst, s.group.coord, body⟩

def State.sendCell (s : State) (dst : BitVec 12) (body : CellBody) : State := s.routeCell (mkCell s (some dst) body) dst

/-- The last engine before `n` on the route of R434 from `src`; `fuel` bounds the hops. -/
def lastBefore (extm1 src n : BitVec 12) : Nat → Option (BitVec 12)
  | 0 => none
  | fuel + 1 =>
    match torusDir extm1 src n with
    | none => none
    | some d => let m := neighbour extm1 src d; if m = n then some src else lastBefore extm1 m n fuel

/-- The neighbours to which this engine passes a broadcast cell (R457). -/
def State.treeNext (s : State) (src : BitVec 12) : List (BitVec 12) :=
  let g := s.group
  let ns := ((List.range 6).filter (fun d => coordOf g.extm1 (d / 2) > 0)).map (fun d => neighbour g.extm1 g.coord (d + 1))
  (ns.eraseDups).filter (fun n => n != src && n != g.coord && lastBefore g.extm1 src n 64 == some g.coord)

def State.passOn (s : State) (c : CtlCell) : State := (s.treeNext c.src).foldl (fun t n => t.routeCell c n) s

/-- A cell for every engine of the group. -/
def State.broadcast (s : State) (body : CellBody) : State := s.passOn (mkCell s none body)

/-- A port takes a control cell: in order and with a good CRC, or it asks for it again (R427). -/
def State.takeCell (s : State) (p : Nat) (c : CtlCell) (bad : Bool) : State × Bool :=
  let x := s.port p
  if x.state != 2 then (s, false)
  else if bad || c.cseq != x.rxCseq then (s.setPort p { x with cnak := true }, false)
  else (s.setPort p { x with rxCseq := x.rxCseq + 1, ctlFreed := x.ctlFreed + 1, cnak := false }, true)

/-- What a cell that is taken does: pass on what is not for this engine, act on what is. `act` is the engine's own part. -/
def State.onCell (s : State) (p : Nat) (c : CtlCell) (bad : Bool) (act : State → State) : State :=
  match s.takeCell p c bad with
  | (s1, false) => s1
  | (s1, true) =>
    match c.dst with
    | none => act (s1.passOn c)
    | some d => if d = s1.group.coord then act s1 else s1.routeCell c d

/-- A cell that only a manager sends, from another source: discarded and counted (R455). -/
def State.fromSuperior (s : State) (c : CtlCell) (act : State → State) : State :=
  if s.superior = some c.src then act s
  else
    let g := s.group
    { s with group := { g with badsrc := min (g.badsrc + 1) 15 } }.emit 0x4404 srcWarden uidWarden [(2, c.src.toNat)]

/-! ## Reports of the whole group -/

/-- Groups under this head manager beside its own. -/
def State.otherGroups (s : State) : Nat :=
  match s.group.head, s.job with
  | some h, some j => if h = s.group.coord then Config.groupCount j.desc.jobid - 1 else 0
  | _, _ => 0

/-- Have all of a list of coordinates reported: every engine of the group, and at a head manager the other groups' managers? -/
def State.allIn (s : State) (l : List Nat) : Bool :=
  (s.group.coord :: s.peers).all (fun c => l.contains c.toNat) &&
    decide ((l.filter (fun c => !(s.group.coord :: s.peers).any (fun d => d.toNat == c))).length ≥ s.otherGroups)

/-- Send a body to the managers of other groups that have reported. -/
def State.toGroups (s : State) (l : List Nat) (body : CellBody) : State :=
  (l.filter (fun c => !(s.group.coord :: s.peers).any (fun d => d.toNat == c))).foldl
    (fun t c => t.sendCell (BitVec.ofNat 12 c) body) s

/-! ## The fence -/

/-- A core stops at the next instruction boundary (R487): its trace line closes, its open execution's cancellations are
recorded (R649). -/
def State.fenceCore (s : State) (k : Nat) : State :=
  let p := s.proc k
  if !isCore k || !p.run then s
  else (if p.halted then s else s.traceAtom k p.pc 0xE).fenceExec k

/-- A light port drops its queued messages (R441). -/
def State.fencePort (s : State) (p : Nat) : State :=
  let x := s.port p
  if x.egress.isEmpty && x.transit0 = 0 && x.transit1 = 0 then s
  else s.setPort p { x with egress := [], sent := 0, drops := min (x.drops + x.egress.length) 65535, transit0 := 0, transit1 := 0 }

/-- Host transfers in progress end with status 0x05 (R569). -/
def State.fenceHost (s : State) (h : Nat) : State :=
  let x := s.hport h
  if x.running.isEmpty then s
  else
    let hit (r : RunCmd) : Bool := r.cmd.opc == 0x10 || r.cmd.opc == 0x12
    let prod (r : RunCmd) : Option Nat := if r.cmd.opc == 0x12 then some ((r.cmd.args.toNat + r.done) % 2 ^ 64) else none
    let ended := (x.running.filter hit).map (fun r => (⟨r.q, r.cmd.cid, 5, some r.done, prod r, none⟩ : Compl))
    s.setHport h { x with running := x.running.filter (fun r => !hit r), compl := x.compl ++ ended }

/-- The job under the fence: the step is poisoned, its schedule ends (R330), nothing is voted. -/
def State.fenceJob (s : State) : State :=
  match s.job with
  | none => s
  | some j => { s with job := some { j with poisoned := true, clearAt := none, sched := none, anchor := false,
                                             state := if j.state = 2 then 3 else j.state } }

/-- Does recovery run behind the raised fence (R468, R488)? -/
def State.recovering (s : State) : Bool := match s.job with | some j => j.state == 4 | none => false

/-- Does the fence stop units, ports and transfers now? Recovery runs before firmware lowers it. -/
def State.stopped (s : State) : Bool := s.safety.fence && !s.recovering

/-- FENCE reaches the barrier node of every polder that runs: down the tree, by a neighbour, or from the safety monitor (R296, R512). -/
def State.fenceBars (s : State) : State :=
  ((List.range 60).filter s.polderOn).foldl (fun t q => t.setBar q { t.bar q with fence := true }) s

/-- Raise the fence on the wafer (R486). A fence that is already raised stays as it is, but during recovery the restart begins
anew (R488). -/
def State.raiseFence (s : State) (code : Nat) : State :=
  if s.safety.fence && !s.recovering then s
  else if s.safety.fence then
    { s with job := s.job.map (fun (j : JobSt) => { j with state := 3 }),
             group := { s.group with recover := none } }.emit 0x2508 srcWarden uidWarden [(2, code), (6, s.jobStep)]
  else
    let f := s.safety
    let s1 := { s with safety := { f with fence := true, fences := min (f.fences + 1) 65535,
                                          pstep := BitVec.ofNat 48 s.jobStep } }
    let s2 := s1.emit 0x2508 srcWarden uidWarden [(2, code), (6, s1.jobStep)]
    let s3 := (s2.procs.map (·.1)).foldl (fun t k => t.fenceCore k) s2
    let s4 := (s3.springs.map (·.1)).foldl (fun t u => t.fenceSpring u) s3
    let s5 := (s4.ports.map (·.1)).foldl (fun t p => t.fencePort p) s4.fenceFlash.lapse
    let s6 := (((s5.fenceHost 0).fenceHost 1).fenceJob).fenceBars
    { s6 with group := { s6.group with arrived := [], verdictOut := none } }

/-- The Warden writes `UEVOTE` on every update engine (R361). -/
def State.tellUes (s : State) (g : UpEng → UpEng) : State := (List.range 44).foldl (fun t k => t.setUe k (g (t.ue k))) s

/-- `GRPSTAT` after a result. -/
def State.noteResult (s : State) (step verdict nrep : Nat) : State :=
  { s with group := { s.group with last := BitVec.ofNat 48 step, verdict := verdict, waiting := false, nrepair := nrep } }

/-- A result that is not commit (R464): COMMIT stays, POISON is 1. -/
def State.voidStep (s : State) (step verdict nrep : Nat) : State :=
  (s.noteResult step verdict nrep).tellUes (fun x => { x with vpoison := true })

/-- Coordinates whose votes for a step the manager holds. -/
def Group.voted (g : Group) (step : Nat) : List Nat := (g.votes.filter (·.step == step)).map (·.coord.toNat)

/-- A manager's fence cell for a step, sent once (R465); a step that every worker has voted ends with the result poison
(Table 14.5). -/
def State.mgrFence (s : State) (step reason : Nat) : State :=
  if s.group.fencedStep = some step then s
  else
    let s1 := { s with group := { s.group with fencedStep := some step, poisonStep := some step } }.broadcast (.fence step reason)
    if s1.allIn (s1.group.voted step) && s1.group.last.toNat != step then
      (s1.broadcast (.result step 1 0 0)).voidStep step 1 0
    else s1

/-- The whole reaction to a detection or to poison that reaches the Warden (R368, R465, R486): the fence, and word to the
manager, or to the group. -/
def State.faultReaction (s : State) (code src : Nat) : State :=
  if s.stopped then s
  else
    let s1 := s.raiseFence code
    if s1.job.isNone then s1
    else
      let s2 := match s1.superior with
        | some m => s1.sendCell m (.poison s1.jobStep (BitVec.ofNat 16 code) src)
        | none => s1
      if s2.isMgr && decide (s2.groupSize > 1) then s2.mgrFence s2.jobStep 0 else s2
/-! ## Cancelling a designated checkpoint (R473) -/

/-- The commands of an opcode that are being performed end with a status. -/
def State.endRunning (s : State) (opc : Nat) (status r0 : Nat) : State :=
  [0, 1].foldl (fun t h =>
    let x := t.hport h
    let hit (r : RunCmd) : Bool := r.cmd.opc.toNat == opc
    let ended := (x.running.filter hit).map (fun r => (⟨r.q, r.cmd.cid, status, some r0, none, none⟩ : Compl))
    if ended.isEmpty then t
    else t.setHport h { x with running := x.running.filter (fun r => !hit r), compl := x.compl ++ ended }) s

/-- The designation is cancelled on this engine. -/
def State.cancelTee (s : State) : State := { s with flash := { s.flash with teeStep := none, teeBegun := false } }

/-- The manager cancels a designation that a worker refused, or that was not answered in time. -/
def State.mgrCancel (s : State) : State :=
  match s.group.desig with
  | none => s
  | some n =>
    (({ s with group := { s.group with desig := none, accepts := [] } }.broadcast (.designation 0)).cancelTee).endRunning 0x30 9 n

end Sys2Proof.Machine
end

