-- ==== Sys2Proof/Machine/Sync.lean ====
section
/-! DEFINITION. Synchronisation and numeric-state instructions: `bar`, `tagwait`, `fence`, `nfmt`, `nround`, `nseed`
(07_buine_array_stream_sync, R247 to R254; R180, R185). -/

namespace Sys2Proof.Machine

open Sys2Proof

/-- The unit that a descriptor's name stands for: cores are named by program number (R155). -/
def State.progKey (s : State) (u : UnitId) : Nat :=
  match u with
  | .core c =>
    let cl := 10 * c.site.val + c.cl.val
    9 * cl + (s.cluster cl).coreMap.getD c.core.val 8
  | _ => unitKey u

/-- Is the unit a member of a barrier: every started unit of BID 0 (R295, R302), and else as the job descriptor says. -/
def State.member (s : State) (bid k : Nat) : Bool :=
  if bid = 0 then (s.proc k).run
  else match s.job with
    | none => false
    | some j => j.desc.barriers.any (fun b => b.1.val == bid && b.2.any (fun u => s.progKey u == k))

/-- A unit enters a barrier: its polder's node counts it (R294). -/
def State.enterBar (s : State) (k bid : Nat) (scope : Bool) : State :=
  let b := s.bar (polderOf k)
  let s1 := s.setBar (polderOf k) { b with count := Tbl.put b.count bid (Tbl.get b.count 0 bid + 1) }
  s1.setProc k { s1.proc k with inBar := some (bid, scope) }

def execBar (u : UnitId) (f : BitVec 25) (s : State) : Host.Outcome State Fault Refusal :=
  .next (
    let k := unitKey u
    s.issue k [] 4 0 (fun s1 =>
      let p := s1.proc k
      let imm := syImm f
      let bid := imm % 16
      let scope := imm / 16 % 2 == 1
      if rdOf f != 0 || raOf f != 0 || rbOf f != 0 || imm / 32 != 0 || (isUe k && scope) then
        s1.finish k 4 false false (illegal32 0x50 f)
      else if !s1.member bid k || p.span.isSome then s1.trap k causeOperand 0 (BitVec.ofNat 64 bid) false
      else if s1.storesOut k then s1
      else s1.enterBar k bid scope))

/-- `tagwait` clears the `TAGERR` bits that it traps on (R180). -/
def Proc.clearTagErr (p : Proc) (bad : BitVec 32) : Proc := { p with tagErr := p.tagErr &&& ~~~bad }

/-- The tags that `tagwait` names (Table 7.8). -/
def tagMask (p : Proc) (f : BitVec 25) : BitVec 32 :=
  if syImm f % 2 == 1 then 1#32 <<< rbOf f else (p.getS (raOf f)).truncate 32

/-- A `tagwait` word with a field set that its form leaves unused. -/
def tagwaitBad (f : BitVec 25) : Bool :=
  rdOf f != 0 || syImm f / 2 != 0 || (syImm f % 2 == 1 && raOf f != 0) || (syImm f % 2 == 0 && rbOf f != 0)

def execTagwait (u : UnitId) (f : BitVec 25) (s : State) : Host.Outcome State Fault Refusal :=
  .next (
    let k := unitKey u
    s.issue k [.s (raOf f)] 4 0 (fun s1 =>
      let p := s1.proc k
      let mask := tagMask p f
      let bad := mask &&& p.tagErr
      if tagwaitBad f then s1.finish k 4 false false (illegal32 0x51 f)
      else if (List.range 32).any (fun t => mask.getLsbD t && p.tagCount t > 0) then s1
      else if bad ≠ 0 then (s1.setProc k (p.clearTagErr bad)).trap k causeXfer 0 (bad.zeroExtend 64) false
      else s1.retire k p 4 false 1))

def execFence (u : UnitId) (f : BitVec 25) (s : State) : Host.Outcome State Fault Refusal :=
  .next (
    let k := unitKey u
    s.issue k [] 4 0 (fun s1 =>
      let imm := syImm f
      if rdOf f != 0 || raOf f != 0 || rbOf f != 0 || imm / 4 != 0 || imm == 0 then
        s1.finish k 4 false false (illegal32 0x52 f)
      else if (imm % 2 == 1 && s1.storesOut k) || (imm / 2 == 1 && s1.loadsOut k) then s1
      else s1.retire k (s1.proc k) 4 false 1))

def execNfmt (u : UnitId) (f : BitVec 25) (s : State) : Host.Outcome State Fault Refusal :=
  .next (s.runInstr (unitKey u) [.s (rdOf f), .s (raOf f)] false (fun p =>
    let x := p.getS (raOf f)
    if !isCore (unitKey u) || rbOf f != 0 || syImm f != 0 then illegal32 0x55 f
    else if x.toNat > 1 then .trap causeOperand 0 x
    else .ok ({ p with nf := x == 1 }.setS (rdOf f) (if p.nf then 1 else 0))))

def execNround (u : UnitId) (f : BitVec 25) (s : State) : Host.Outcome State Fault Refusal :=
  .next (s.runInstr (unitKey u) [.s (rdOf f)] false (fun p =>
    let k := unitKey u
    let m := syImm f
    if isSpring k || isSluice k || raOf f != 0 || rbOf f != 0 || m ≥ 8 || m == 5 || m == 6 then illegal32 0x56 f
    else if m = 7 then .trap causeOperand 0 7
    else .ok ({ p with nround := BitVec.ofNat 3 m }.setS (rdOf f) (p.nround.zeroExtend 64))))

/-- A write of the step number clears every element counter of the unit (R49). -/
def Proc.setStep (p : Proc) (x : BitVec 48) : Proc :=
  { p with seedStep := x, ctrS := 0, ctrV := 0, ctrA0 := 0, ctrA1 := 0 }

/-- A write of the job seed does too. -/
def Proc.setSeed (p : Proc) (x : Word) : Proc :=
  { p with seedJob := x, ctrS := 0, ctrV := 0, ctrA0 := 0, ctrA1 := 0 }

def execNseed (u : UnitId) (f : BitVec 25) (s : State) : Host.Outcome State Fault Refusal :=
  .next (s.runInstr (unitKey u) [.s (raOf f)] false (fun p =>
    let x := p.getS (raOf f)
    if rdOf f != 0 || rbOf f != 0 || syImm f != 0 then illegal32 0x57 f
    else if x.toNat ≥ 2 ^ 48 then .trap causeOperand 0 x
    else .ok (p.setStep (x.truncate 48))))

end Sys2Proof.Machine
end

