-- ==== Sys2Proof/Machine/Barrier.lean ====
section
/-! DEFINITION. The barrier net (R292 to R296), the group barrier over it (R458, R459), and the release of the step-start
barrier with its gates and schedule (R325 to R330). -/

namespace Sys2Proof.Machine

open Sys2Proof

/-! ## The tree -/

/-- The parent of a polder's barrier node (R292); none at the root. -/
def barParent (p : Nat) : Option Nat :=
  if p < 56 then some (if p % 8 = 0 then 56 else p - 1)
  else match p with
    | 57 => some 56
    | 58 => some 57
    | 59 => some 56
    | _ => none

/-- The parent in use: firmware's, where it has re-parented the node. -/
def State.barUp (s : State) (p : Nat) : Option Nat :=
  match s.barOver.find? (·.1 == p) with
  | some e => some e.2
  | none => barParent p

def State.barExpect (s : State) (p bid : Nat) : Nat := Tbl.get (s.bar p).expect 0 bid
def State.barCount (s : State) (p bid : Nat) : Nat := Tbl.get (s.bar p).count 0 bid

/-- Is a barrier complete at a node? -/
def State.barFull (s : State) (p bid : Nat) : Bool :=
  decide (0 < s.barExpect p bid) && decide (s.barExpect p bid ≤ s.barCount p bid)

/-- Is a barrier entered with SCOPE = 1 (R248)? -/
def State.barScope (s : State) (bid : Nat) : Bool :=
  s.procs.any (fun e => match e.2.inBar with | some (b, sc) => b == bid && sc | none => false)

/-! ## Release -/

/-- A released unit's `bar` retires (R248); once the fence is raised it does not (R249). -/
def State.freeUnit (s : State) (k bid : Nat) : State :=
  match (s.proc k).inBar with
  | some (b, _) => if b = bid ∧ ¬ s.safety.fence then s.retire k { s.proc k with inBar := none } 4 false 1 else s
  | none => s

/-- Release at a polder's node: its members go on. -/
def State.freePolder (s : State) (p bid : Nat) : State :=
  ((s.procs.map (·.1)).filter (fun k => polderOf k == p)).foldl (fun t k => t.freeUnit k bid) s

/-- The root sends a release down: it waits at the root's node. -/
def State.rootRelease (s : State) (bid : Nat) : State :=
  let b := s.bar 56
  s.setBar 56 { b with rel := b.rel ||| (1#16 <<< bid), sentUp := b.sentUp &&& ~~~(1#16 <<< bid),
                       count := Tbl.put b.count bid 0 }

/-- The three DATA frames of a step number, by DSEL (R293, R295). -/
def stepFrames (n : Nat) : List (Nat × BitVec 16) := (List.range 3).map (fun k => (k, BitVec.ofNat 16 (n / 2 ^ (16 * k))))

/-- A step number with one third replaced. -/
def withThird (n : BitVec 48) (k : Nat) (x : BitVec 16) : BitVec 48 :=
  (n &&& ~~~(0xFFFF#48 <<< (16 * k))) ||| ((x.zeroExtend 48) <<< (16 * k))

/-- The combining routers of a polder take the step number on the release of BID 0 (R295, R49). -/
def State.routersStep (s : State) (q : Nat) (step : BitVec 48) : State :=
  ((List.range 662).filter (fun n => polderOfNode n == q)).foldl (fun t n => t.setNode n { t.node n with step := step, ctr := 0 }) s

/-- What a node's down frame gives one of its children: releases, and the thirds of a step number. -/
def BarNode.down (y b : BarNode) : BarNode :=
  { y with rel := y.rel ||| b.rel, sentUp := y.sentUp &&& ~~~b.rel, data := y.data ++ b.data,
           stepNo := b.data.foldl (fun n e => withThird n e.1 e.2) y.stepNo }

/-- A polder's node sends its down frames: the thirds of a step number and then the releases, to its children's nodes and to its own
members and routers (R293 to R295). -/
def execBarrierReleaseFrame (p : Fin 60) (s : State) : Host.Outcome State Fault Refusal :=
  .next (
    let q := p.val
    let b := s.bar q
    if (b.rel = 0 && b.data.isEmpty) || !s.polderOn q then s
    else
      let kids := (List.range 60).filter (fun c => s.barUp c == some q && s.polderOn c)
      let s1 := kids.foldl (fun t c => t.setBar c ((t.bar c).down b)) s
      let s2 := s1.setBar q { s1.bar q with rel := 0, data := [] }
      let s3 := if b.rel.getLsbD 0 then s2.routersStep q b.stepNo else s2
      (List.range 16).foldl (fun t bid => if b.rel.getLsbD bid then t.freePolder q bid else t) s3)

/-- The root sends the step number ahead of a release of BID 0 (R295). -/
def State.rootStep (s : State) (n : Nat) : State :=
  let b := s.bar 56
  s.setBar 56 { b with data := stepFrames n, stepNo := BitVec.ofNat 48 n }

/-! ## The group barrier (R458) -/

def State.genOf (s : State) (bid : Nat) : Nat := Tbl.get s.group.gen 0 bid

/-- A group release reaches an engine: its generation advances, its barrier net releases. A group's manager under a head
manager passes it to its own group. A designated step that not every worker has accepted by its release is cancelled (R473). -/
def State.groupRelease (s : State) (bid gen : Nat) : State :=
  let next := match s.job with | some j => j.nextStep | none => 0
  let s0 := if bid = 0 && s.group.desig == some next then s.mgrCancel else s
  let g := s0.group
  let s1 := { s0 with group := { g with gen := Tbl.put g.gen bid (gen + 1), arrived := Tbl.drop g.arrived (· == bid) } }
  let s2 := if s1.isMgr then s1.broadcast (.release (Fin.ofNat 16 bid) gen) else s1
  if bid = 0 then s2.setBar 56 { s2.bar 56 with sentUp := (s2.bar 56).sentUp ||| 1 } else s2.rootRelease bid

/-- When every worker has arrived the manager releases, or reports to the head manager. A release of BID 0 waits for the
restart's reports of recovery (R468). -/
def State.mgrTry (s : State) (bid : Nat) : State :=
  let g := s.group
  let l := Tbl.get g.arrived [] bid
  if !s.allIn l || (bid = 0 && !g.reports.isEmpty) then s
  else match s.superior with
    | some h => s.sendCell h (.arrival (Fin.ofNat 16 bid) (s.genOf bid) s.groupSize)
    | none => (s.toGroups l (.release (Fin.ofNat 16 bid) (s.genOf bid))).groupRelease bid (s.genOf bid)

/-- An arrival reaches the manager (R458). -/
def State.mgrArrival (s : State) (bid gen : Nat) (src : BitVec 12) : State :=
  let g := s.group
  let l := Tbl.get g.arrived [] bid
  if gen != s.genOf bid || l.contains src.toNat then s.emit 0x4405 srcWarden uidWarden [(1, bid), (4, gen), (2, src.toNat)]
  else { s with group := { g with arrived := Tbl.put g.arrived bid (l ++ [src.toNat]) } }.mgrTry bid

/-- The root has counted every local member of a barrier. -/
def State.rootDone (s : State) (bid : Nat) : State :=
  let b := s.bar 56
  let s1 := s.setBar 56 { b with count := Tbl.put b.count bid 0 }
  if s1.barScope bid && decide (s1.groupSize > 1) then
    (if s1.isMgr then s1.mgrArrival bid (s1.genOf bid) s1.group.coord
     else s1.sendCell s1.group.mgr (.arrival (Fin.ofNat 16 bid) (s1.genOf bid) 1))
  else if bid = 0 then s1.setBar 56 { s1.bar 56 with sentUp := (s1.bar 56).sentUp ||| 1 }
  else s1.rootRelease bid

/-- The root looks at its own counts. -/
def State.rootLook (s : State) : State :=
  (List.range 16).foldl (fun t bid =>
    if t.barFull 56 bid && !(bid == 0 && (t.bar 56).sentUp.getLsbD 0) then t.rootDone bid else t) s

/-- Poison reaches the root: the Warden poisons the step, and the fault reaction follows (R296, R368). -/
def State.rootPoison (s : State) : State :=
  let b := s.bar 56
  if !b.poison then s
  else
    let s1 := s.setBar 56 { b with poison := false }
    match s1.job with
    | none => s1
    | some j => { s1 with job := some { j with poisoned := true } }.faultReaction 0 srcWarden

/-- A node sends what its up frame holds to its parent (R294): arrivals of complete barriers, and poison. -/
def State.upFrame (s : State) (q par : Nat) : State :=
  let full := (List.range 16).filter (s.barFull q)
  let b := s.bar q
  let cnt := full.foldl (fun t bid => Tbl.put t bid 0) b.count
  let up := full.foldl (fun (t : BitVec 16) bid => t ||| (1#16 <<< bid)) b.sentUp
  let s1 := s.setBar q { b with count := cnt, sentUp := up, poison := false }
  let y := s1.bar par
  s1.setBar par { y with count := full.foldl (fun t bid => Tbl.put t bid (Tbl.get t 0 bid + 1)) y.count,
                         poison := y.poison || b.poison }

def execBarrierUpFrame (p : Fin 60) (s : State) : Host.Outcome State Fault Refusal :=
  .next (
    if !s.polderOn p.val then s
    else match s.barUp p.val with
      | none => s.rootPoison.rootLook
      | some q =>
        if !s.polderOn q then s
        else
          let s1 := s.upFrame p.val q
          if q = 56 then s1.rootPoison.rootLook else s1)

/-! ## The step-start barrier -/

/-- PROD, CONS, SLOTS and FPS of an intake ring's control block (Table 9.9). -/
def State.ring (s : State) (a : Word) : Nat × Nat × Nat × Nat :=
  (s.natAt a.toNat 8, s.natAt (a.toNat + 64) 8, s.natAt (a.toNat + 132) 4, s.natAt (a.toNat + 136) 4)

/-- Microseconds of the reference. -/
def usOf (refs : Nat) : Nat := refs / 100

/-- A record of the step `n` that is about to start. -/
def State.emitStep (s : State) (n code : Nat) (pay : List (Nat × Nat)) : State :=
  { s with evrec := { s.evrec with queue := s.evrec.queue ++ [⟨code, srcWarden, uidWarden, pay, s.jobId, n, s.wall⟩] } }

/-- The control blocks of a job's intake rings: that of the gate, and those of its Lake map. -/
def jobRings (d : JobDesc) : List Word :=
  (d.intake.toList ++ (d.lakeMap.filter (·.kind == 5)).map (fun e => BitVec.ofNat 64 (lakeKey e.base))).eraseDups

/-- A ring whose frames were overwritten unread leaves a record and poisons the step (R326). -/
def State.ringCheck (s : State) (n : Nat) (a : Word) : State :=
  let (prod, cons, slots, _) := s.ring a
  if prod - cons > slots then (s.emitStep n 0x7303 [(8, prod), (8, cons), (8, slots)]).poison 56 else s

/-- The records of a release: late against its schedule (R329), or an overrun of a ring (R326). -/
def State.releaseEvents (s : State) (j : JobSt) (n : Nat) : State :=
  let s1 := match j.sched with
    | some t => if j.desc.period ≠ 0 ∧ s.ref > t then s.emitStep n 0x7302 [(6, n), (8, usOf (s.ref - t))] else s
    | none => s
  (jobRings j.desc).foldl (fun t a => t.ringCheck n a) s1

/-- The intake gate, which kept a complete barrier waiting since `t0`, is met: a record if the scheduled start is past (R325). -/
def State.gateRecord (s : State) (j : JobSt) (n t0 : Nat) : State :=
  match j.sched, j.desc.intake with
  | some t, some a =>
    let (prod, cons, _, _) := s.ring a
    if s.ref > t then s.emitStep n 0x7301 [(6, n), (8, prod - cons), (8, usOf (s.ref - max t0 t))] else s
  | _, _ => s

/-- The intake gate of R325 is met. -/
def State.gateMet (s : State) (j : JobSt) : Bool :=
  match j.desc.intake with
  | none => true
  | some a => let r := s.ring a; decide (r.2.2.2 ≤ r.1 - r.2.1)

/-- The schedule point after a release at `r` (R328). -/
def nextSched (period : Nat) (sched : Option Nat) (r : Nat) : Option Nat :=
  if period = 0 then none
  else match sched with
    | some t => some (if r - t < 100 * period then t + 100 * period else r + 100 * period)
    | none => some (r + 100 * period)

/-! ## Lending arrays to a self-test (R494) -/

/-- May the Warden lend at this boundary: a test has parts of the job left, the job allows it, and there is slack? -/
def State.mayLend (s : State) (j : JobSt) : Bool :=
  s.safety.tbusy && decide (0 < s.safety.tleft) && j.desc.testlend == 1 && s.safety.lent.isNone &&
    (match j.sched with | some t => decide (s.ref < t) | none => j.desc.period == 0 && decide (0 < j.desc.lendmax))

/-- Is an array still lent? The loan ends at the scheduled start, or `LENDMAX` µs after it began. -/
def State.stillLent (s : State) (j : JobSt) : Bool :=
  match s.safety.lent, j.sched with
  | some _, some t => decide (s.ref < t)
  | some t, none => decide (s.ref < t + 100 * j.desc.lendmax)
  | none, _ => false

/-- An array after a test: both latches cleared, A active. -/
def Arr.lend (a : Arr) : Arr :=
  if a.accLive then a
  else { a with latA := Latch.empty, latB := Latch.empty, act := false, infoAct := ⟨0, false, false, none⟩,
                infoIdle := ⟨0, false, false, none⟩ }

def State.lendArrays (s : State) : State :=
  { s with procs := s.procs.map (fun e => if isCore e.1 && e.2.run then (e.1, { e.2 with a0 := e.2.a0.lend, a1 := e.2.a1.lend }) else e),
           safety := { s.safety with lent := some s.ref } }

/-- The step's number is written and BID 0 released (R295): the step that ends is closed and its energy kept (R545). -/
def State.startStep (s : State) (j : JobSt) : State :=
  let n := j.nextStep
  let s1 := s.releaseEvents j n
  let p := s1.power
  let s2 := { s1 with
    job := some { j with step := n, nextStep := n + 1, sched := nextSched j.desc.period j.sched s1.ref, anchor := true,
                         gateFrom := none, voted := false, clearAt := none, poisoned := false },
    power := { p with stepe := p.jobe - p.stepBase, stepBase := p.jobe },
    bid0Step := some n, safety := { s1.safety with lent := none } }
  (s2.weirStep.rootStep n).rootRelease 0

/-- The release of BID 0, when every member waits, the intake gate is met and the schedule has come (R295, R325, R328). A lent test
holds it (R494). -/
def execBid0Release (s : State) : Host.Outcome State Fault Refusal :=
  .next (
    match s.job with
    | none => s
    | some j =>
      if s.safety.fence || !(s.bar 56).sentUp.getLsbD 0 || j.state != 2 then s
      else if !s.gateMet j then
        { s with job := some { j with gateFrom := some (j.gateFrom.getD s.ref) } }
      else
        let j1 := { j with gateFrom := none }
        let s1 := match j.gateFrom with
          | some t => { s.gateRecord j j.nextStep t with job := some j1 }
          | none => s
        if s1.mayLend j1 then s1.lendArrays
        else if s1.stillLent j1 || (match j.sched with | some t => decide (s.ref < t) | none => false) then s1
        else s1.startStep j1)

/-- A barrier has some but not all arrivals for longer than `GBARWAIT` (R459): the manager fences the group. -/
def execGroupBarrierTimeout (bid : Fin 16) (s : State) : Host.Outcome State Fault Refusal :=
  .next (
    let l := Tbl.get s.group.arrived [] bid.val
    if !s.isMgr || l.isEmpty || s.allIn l || s.safety.fence then s
    else
      let missing := s.peers.filter (fun c => !l.contains c.toNat)
      let s1 := s.emit 0x4402 srcWarden uidWarden ([(1, bid.val)] ++ missing.map (fun c => (2, c.toNat)))
      (s1.mgrFence s1.jobStep 1).raiseFence 0x4402)

def execBarrierArrivalCell (p : Fin 56) (c : CtlCell) (bad : Bool) (s : State) : Host.Outcome State Fault Refusal :=
  .next (match c.body with
    | .arrival bid gen _ => s.onCell p.val c bad (fun t => if t.isMgr && !t.safety.fence then t.mgrArrival bid.val gen c.src else t)
    | _ => s)

def execBarrierReleaseCell (p : Fin 56) (c : CtlCell) (bad : Bool) (s : State) : Host.Outcome State Fault Refusal :=
  .next (match c.body with
    | .release bid gen => s.onCell p.val c bad (fun t => t.fromSuperior c (fun u =>
        if u.safety.fence || gen != u.genOf bid.val then u else u.groupRelease bid.val gen))
    | _ => s)

end Sys2Proof.Machine
end

