-- ==== Sys2Proof/Machine/Sluice.lean ====
section
/-! DEFINITION. Sluices (10_gradients_and_update, R338 to R348): accumulator entries, `gopen`, `gsend`, `ghand`, arrivals, the
stall of a tag, and `SLUDONE`. -/

namespace Sys2Proof.Machine

open Sys2Proof

/-- A Sluice accepts and sends while its polder runs and no fence stops it (Table 15.2). -/
def State.sluRuns (s : State) (u : Nat) : Bool := s.polderOn (polderOf (sluKey + u)) && !s.safety.fence

/-! ## Accumulator entries (Table 10.1) -/

structure AccEntry where
  acc  : Accum
  done : Bool
  sent : Bool
  cnt  : Nat
  /-- the stored residue; the sum written back carries its own -/
  res  : Nat
  deriving DecidableEq, Repr

def accEntry (bs : List Byte) : AccEntry :=
  let el (i : Nat) : Int := (BitVec.ofNat 24 (leNat ((bs.drop (3 * i)).take 3))).toInt
  let fl := (bs.getD 97 0).toNat
  ⟨⟨(bs.getD 96 0).toNat, (List.range 32).map el, fl % 2 == 1, fl / 2 % 2 == 1⟩, fl / 4 % 2 == 1, fl / 8 % 2 == 1,
    leNat ((bs.drop 98).take 2), leNat ((bs.drop 100).take 2)⟩

def accBytes (e : AccEntry) : List Byte :=
  ((List.range 32).map (fun i => leBytes 3 ((e.acc.s.getD i 0) % 2 ^ 24).toNat)).flatten ++
    [BitVec.ofNat 8 e.acc.e, BitVec.ofNat 8 (b2n e.acc.flush + 2 * b2n e.acc.comb + 4 * b2n e.done + 8 * b2n e.sent)] ++
    leBytes 2 e.cnt ++ leBytes 2 (sumRes32 e.acc.s) ++ leBytes 26 0

def entryAddr (t : OpenTag) (b : Nat) : Word := t.base + BitVec.ofNat 64 (128 * b)

/-- A failed check of an addition or a shift (R73). -/
def State.sluCheck (s : State) (u gtag block : Nat) (bad : Bool) : State :=
  if bad then s.detect 0x2306 (polderOf (sluKey + u)) (uidUnit (sluKey + u)) [(4, gtag), (4, block)] else s

/-- Does the stored residue fail to match the accumulator? The check of the next addition or of the renormalisation finds it (R73). -/
def AccEntry.resBad (e : AccEntry) : Bool := e.acc.e != 0 && e.acc.e != 255 && sumRes32 e.acc.s != e.res

/-- Read entry `b`; none when a line of it is uncorrectable. -/
def State.readEntry (s : State) (u : Nat) (t : OpenTag) (b : Nat) : State × Option AccEntry :=
  match s.eccRead (entryAddr t b) 128 (uidUnit (sluKey + u)) with
  | (s1, some _) => (s1, none)
  | (s1, none) => (s1, some (accEntry (s1.bytesAt (entryAddr t b).toNat 128)))

def State.writeEntry (s : State) (u : Nat) (t : OpenTag) (b : Nat) (e : AccEntry) : State :=
  (s.eccWrite (entryAddr t b) (present (accBytes e)) (uidUnit (sluKey + u))).1

/-- The Sluice's generator: its seed, identity and step (R45, R46, R48). -/
def State.sluDraw (s : State) (u : Nat) : Word → Nat :=
  let p := s.proc (sluKey + u)
  srDraw p.seedJob (uidUnit (sluKey + u)) p.seedStep.toNat

def State.setSluCtr (s : State) (u : Nat) (c : Word) : State := s.setProc (sluKey + u) { s.proc (sluKey + u) with ctrV := c }

def State.setTag (s : State) (u : Nat) (t : OpenTag) : State :=
  let x := s.sluice u
  s.setSluice u { x with tags := x.tags.map (fun y => if y.gtag = t.gtag ∧ y.step = t.step then t else y) }

def State.openTag (s : State) (u gtag step : Nat) : Option OpenTag :=
  (s.sluice u).tags.find? (fun t => t.gtag == gtag && t.step == step)

/-- POISON in the up frame of a Sluice's polder, with a record. -/
def State.sluPoison (s : State) (u code : Nat) (pay : List (Nat × Nat)) : State :=
  (s.emit code (polderOf (sluKey + u)) (uidUnit (sluKey + u)) pay).poison (polderOf (sluKey + u))

/-! ## Sending (R344, R345) -/

/-- Count an output block in its layer's statistics (R75, R374, R375). -/
def State.layerCount (s : State) (u gtag : Nat) (hand : Bool) (b : Block) : State :=
  let x := s.sluice u
  let l := gtag / 2 ^ 22
  let c := Tbl.get x.layers LayerStat.fresh l
  let sat (n : Nat) : Nat := min (n + 1) (2 ^ 32 - 1)
  let c1 := if b.flush then { c with flush := sat c.flush } else c
  let c2 := if !hand then c1
    else { c1 with handed := sat c1.handed, zero := if b.e = 0 then sat c1.zero else c1.zero,
                   maxexp := if b.e = 255 then c1.maxexp else max c1.maxexp b.e }
  if c2 = c then s else s.setSluice u { x with layers := Tbl.put x.layers l c2 }

/-- Send one non-zero block of an armed tag. -/
def State.sendBlk (s : State) (u : Nat) (t : OpenTag) (b : Nat) (blk : Block) : State :=
  let k := sluKey + u
  match t.arm with
  | .none => s
  | .ghand st =>
    let (id, s1) := s.await k t.xfer
    s1.send { mkPacket .gblk 4 (nodeOfSluice u) (nodeOfStack st) id with
      gtag := t.gtag, block := t.pb + b, cnt := t.total, slu := u, ue := true, step := t.step % 65536, blk := blk }
  | .gsend peer slu =>
    let (id, s1) := s.await k t.xfer
    s1.sendMessage (nodeOfSluice u) { mkMessage s1 k .blk (BitVec.ofNat 12 peer) (nodeOfSluice slu) slu id with
      ncell := 1, addr := BitVec.ofNat 64 (t.gtag + b * 2 ^ 32), cnt := t.total, slu := Fin.ofNat 16 slu, step := t.step,
      payload := blockBytes blk }

/-- Send a run of zero blocks from block `b`. -/
def State.sendRun (s : State) (u : Nat) (t : OpenTag) (b n : Nat) : State :=
  let k := sluKey + u
  if n = 0 then s
  else match t.arm with
  | .none => s
  | .ghand st =>
    let (id, s1) := s.await k t.xfer
    s1.send { mkPacket .grun 4 (nodeOfSluice u) (nodeOfStack st) id with
      gtag := t.gtag, block := t.pb + b, cnt := t.total, slu := u, ue := true, step := t.step % 65536, nrun := n }
  | .gsend peer slu =>
    let (id, s1) := s.await k t.xfer
    s1.sendMessage (nodeOfSluice u) { mkMessage s1 k .run (BitVec.ofNat 12 peer) (nodeOfSluice slu) slu id with
      addr := BitVec.ofNat 64 (t.gtag + b * 2 ^ 32), cnt := t.total, run := n, slu := Fin.ofNat 16 slu, step := t.step }

/-- Normalise and send the DONE entries of a list in ascending order; `run` zero blocks from `first` wait to leave as one
run (R344). -/
def State.sendEntries (s : State) (u : Nat) (t : OpenTag) (first run : Nat) : List Nat → State
  | [] => s.sendRun u t first run
  | b :: r =>
    match s.readEntry u t b with
    | (s1, none) => State.sendEntries s1 u t first run r
    | (s1, some e) =>
      if !e.done || e.sent then State.sendEntries s1 u t first run r
      else
        let (blk, c) := normalise (s1.sluDraw u) (s1.proc (sluKey + u)).ctrV e.acc
        let s2 := ((s1.sluCheck u t.gtag b e.resBad).setSluCtr u c).writeEntry u t b { e with sent := true }
        let hand := match t.arm with | .ghand _ => true | _ => false
        let s3 := (s2.layerCount u t.gtag hand blk).countEmb (16 + u) (if hand then 2 else 1) 1
        let s4 := match s3.openTag u t.gtag t.step with
          | some t' => s3.setTag u { t' with unsent := t'.unsent - 1 }
          | none => s3
        if blk.e = 0 then
          if run > 0 && first + run = b && run < 65535 then State.sendEntries s4 u t first (run + 1) r
          else State.sendEntries (s4.sendRun u t first run) u t b 1 r
        else
          let s5 := if blk.e = 255 then s4.sluPoison u 0x1601 [(4, t.gtag), (4, b), (6, t.step)] else s4
          State.sendEntries ((s5.sendRun u t first run).sendBlk u t b blk) u t 0 0 r

/-- When every block is sent and acknowledged, the TAG completes and the tag closes (R344). -/
def State.tagOn (s : State) (u gtag step : Nat) : State :=
  match s.openTag u gtag step with
  | none => s
  | some t =>
    match s.xfer t.xfer with
    | some x =>
      if t.unsent = 0 && x.left = 0 && t.arm != .none then
        let y := s.sluice u
        let s1 := (s.setSluice u { y with tags := y.tags.filter (fun z => !(z.gtag == gtag && z.step == step)) }).dropXfer t.xfer
        s1.tagDone (sluKey + u) t.tag x.err
      else s
    | none => s

/-! ## `gopen`, `gsend`, `ghand` (Table 10.2) -/

/-- The Lake lines of a range lose their errors when they are written whole. -/
def State.clearLines (s : State) (off : Nat) : Nat → State
  | 0 => s
  | n + 1 => State.clearLines { s with lakeMark := Tbl.put s.lakeMark (lakeMarkKey s.slots off) none } (off + 64) n

/-- Write zeros over a Lake range of whole lines. -/
def State.zeroLake (s : State) (a : Word) (n : Nat) : State :=
  let s1 := if s.lakeMark.isEmpty then s else s.clearLines (a.toNat % 2 ^ 41) (n / 64)
  setMem s1 (memClear s1.mem a.toNat n)

def gopenTrap (x : Sluice) (step : Nat) (f : BitVec 57) (d : Desc) (ra rb rc : Word) : Option Trp :=
  let nb := rb.toNat % 2 ^ 26
  firstTrap [descTrap (lD1 f) d [0], when' (dFmt d != 8) (dTrap (lD1 f)),
    when' (dE d 0 % 2 != 0 || dE d 0 * dE d 1 < 2 * nb || dS d 1 != 64 * dE d 0 || dE d 2 != 1 || dE d 3 != 1 ||
      (dBase d).toNat % 128 != 0 || (match place (dBase d) with | .lake _ => false | _ => true)) (dTrap (lD1 f)),
    when' (ra.toNat ≥ 2 ^ 32) (opTrap ra), when' (nb == 0 || nb > 1048576) (opTrap rb),
    when' (rc.toNat == 0 || rc.toNat > 65535) (opTrap rc),
    when' (x.tags.any (fun t => t.gtag == ra.toNat && t.step == step) || x.tags.length ≥ 4096) (opTrap ra)]

def execGopen (u : UnitId) (f : BitVec 57) (s : State) : Host.Outcome State Fault Refusal :=
  .next (
    let k := unitKey u
    s.issue64 k 0x71 f (isSluice k && lOk f ['1', 'a', 'b', 'c'] 1) [.d (lD1 f), .s (lRa f), .s (lRb f), .s (lRc f)] (fun s1 =>
      let p := s1.proc k
      let sl := k - sluKey
      let x := s1.sluice sl
      let d := p.getD (lD1 f)
      let ra := p.getS (lRa f)
      let rb := p.getS (lRb f)
      let rc := p.getS (lRc f)
      let step := p.seedStep.toNat
      let nb := rb.toNat % 2 ^ 26
      if s1.storesOut k then s1
      else match gopenTrap x step f d ra rb rc with
        | some t => s1.trap1 k t
        | none =>
          match s1.refuses (.unit k) (dBase d) (128 * nb) true with
          | some sub => s1.addrTrap k sub (dBase d) true
          | none =>
            let (id, s2) := s1.takeId
            let t : OpenTag := ⟨ra.toNat, step, nb, rb.toNat / 2 ^ 26, rc.toNat, dBase d, .none, 0, nb, id, false⟩
            let xf : Xfer := ⟨id, k, .grad sl ra.toNat step, 0, 0, false, false, []⟩
            let s3 := { s2 with xfers := s2.xfers ++ [xf] }.setSluice sl { x with tags := x.tags ++ [t] }
            ((s3.zeroLake (dBase d) (128 * nb)).countEmb (16 + sl) 4 1).retire k p 8 false 1))

/-- The blocks of a tag that are DONE. -/
def State.doneBlocks (s : State) (t : OpenTag) : List Nat :=
  (List.range t.nb).filter (fun b => (accEntry (s.bytesAt (entryAddr t b).toNat 128)).done)

/-- Arm a tag: what was already DONE is sent in ascending order (R344). A wrong, closed or armed tag traps. `adder`: the duplicated
shifter differs as the first of them is renormalised. -/
def State.armTag (s : State) (k : Nat) (f : BitVec 57) (arm : Arm) (bad adder : Bool) : State :=
  let p := s.proc k
  let sl := k - sluKey
  let ra := p.getS (lRa f)
  if s.storesOut k || p.tagCount (lTag f) ≥ 255 then s
  else if bad then s.trap1 k (opTrap (p.getS (lRb f)))
  else match (if ra.toNat < 2 ^ 32 then s.openTag sl ra.toNat p.seedStep.toNat else none) with
    | none => s.trap1 k (opTrap ra)
    | some t =>
      if t.arm != .none then s.trap1 k (opTrap ra)
      else
        let t1 := { t with arm := arm, tag := lTag f }
        let s0 := match s.doneBlocks t with | b :: _ => s.sluCheck sl t.gtag b adder | [] => s
        let s1 := (s0.setTag sl t1).retire k (p.tagUp (lTag f)) 8 false 1
        (s1.sendEntries sl t1 0 0 (List.range t.nb)).tagOn sl t.gtag t.step

def execGsend (u : UnitId) (f : BitVec 57) (adder : Bool) (s : State) : Host.Outcome State Fault Refusal :=
  .next (
    let k := unitKey u
    s.issue64 k 0x72 f (isSluice k && lOk f ['t', 'a', 'b'] 1) [.s (lRa f), .s (lRb f)] (fun s1 =>
      let rb := (s1.proc k).getS (lRb f)
      s1.armTag k f (.gsend (rb.toNat % 4096) (rb.toNat / 4096 % 16)) (rb.toNat ≥ 65536) adder))

def execGhand (u : UnitId) (f : BitVec 57) (adder : Bool) (s : State) : Host.Outcome State Fault Refusal :=
  .next (
    let k := unitKey u
    s.issue64 k 0x73 f (isSluice k && lOk f ['t', 'a', 'b'] 1) [.s (lRa f), .s (lRb f)] (fun s1 =>
      let rb := (s1.proc k).getS (lRb f)
      s1.armTag k f (.ghand (rb.toNat % 64)) (rb.toNat ≥ 44) adder))

/-! ## Arrivals (R342, R343) -/

/-- The open tag that a packet is for. -/
def Sluice.tagFor (x : Sluice) (gtag step : Nat) : Option OpenTag :=
  x.tags.find? (fun t => t.gtag == gtag && t.step % 65536 == step)

/-- An arrival that the Sluice discards (R343). -/
def State.sluDiscard (s : State) (u : Nat) (p : Packet) : State :=
  (s.detect 0x2301 (polderOf (sluKey + u)) (uidUnit (sluKey + u)) [(4, p.gtag), (4, p.block), (2, p.step)])

/-- Can every block of an arrival be taken (R343)? -/
def State.sluTakes (s : State) (u : Nat) (t : OpenTag) (cnt : Nat) : List Nat → State × Bool
  | [] => (s, true)
  | b :: r =>
    if b ≥ t.nb then (s, false)
    else match s.readEntry u t b with
      | (s1, none) => (s1, false)
      | (s1, some e) => if e.done || e.cnt + cnt > t.total then (s1, false) else State.sluTakes s1 u t cnt r

/-- Add a block, or a zero block of a run, into entry `b` and count its contributions (R342). -/
def State.sluAdd (s : State) (u : Nat) (t : OpenTag) (b cnt : Nat) (blk : Block) : State :=
  match s.readEntry u t b with
  | (s1, none) => s1
  | (s1, some e) =>
    let (acc, c) := addBlock (s1.sluDraw u) (s1.proc (sluKey + u)).ctrV e.acc blk
    let done := e.cnt + cnt == t.total
    let s2 := ((s1.sluCheck u t.gtag b (blk.e != 0 && e.resBad)).setSluCtr u c).writeEntry u t b
      { e with acc := acc, cnt := e.cnt + cnt, done := done }
    let s3 := (s2.countEmb (16 + u) 0 1).countEmb (16 + u) 3 (if blk.e = 0 then 1 else 0)
    let x := s3.sluice u
    if done then s3.setSluice u { x with doneblk := min (x.doneblk + 1) (2 ^ 32 - 1) } else s3

/-- An arriving packet of a Sluice: checked, added, sent on where its tag is armed, and acknowledged to another engine. The
answer says whether it was taken. -/
def State.sluArrive (s : State) (u : Nat) (p : Packet) (adder : Bool) : State × Bool :=
  let unit := uidUnit (sluKey + u)
  let pol := polderOf (sluKey + u)
  let blocks := (List.range (if p.kind == .grun then p.nrun else 1)).map (· + p.block)
  let blk := if p.kind == .grun then zeroBlock else p.blk
  let s1 := if p.kind == .gblk && blockBad p.blk then s.detect 0x2305 pol unit [(4, p.gtag), (4, p.block)] else s
  match (if p.ue then none else (s1.sluice u).tagFor p.gtag p.step) with
  | none => (s1.sluDiscard u p, false)
  | some t =>
    match s1.sluTakes u t p.cnt blocks with
    | (s2, false) => (s2.sluDiscard u p, false)
    | (s2, true) =>
      let s3 := s2.sluCheck u p.gtag p.block adder
      let s4 := blocks.foldl (fun acc b => acc.sluAdd u t b p.cnt blk) (s3.setTag u { t with stalled := false })
      let s5 := if t.arm == .none then s4 else (s4.sendEntries u t 0 0 blocks).tagOn u t.gtag t.step
      (s5, true)

/-! ## A stalled tag, and `SLUDONE` -/

/-- Blocks of a tag that are not DONE, the first. -/
def State.firstOpen (s : State) (t : OpenTag) : Option Nat :=
  (List.range t.nb).find? (fun b => !(accEntry (s.bytesAt (entryAddr t b).toNat 128)).done)

/-- No arrival for `SLUCTL.STALL` µs (R346). -/
def execSluiceTagStall (sl : Fin 16) (tag : BitVec 32) (s : State) : Host.Outcome State Fault Refusal :=
  .next (
    match (s.sluice sl.val).tags.find? (fun t => t.gtag == tag.toNat) with
    | none => s
    | some t =>
      match s.firstOpen t with
      | none => s
      | some b =>
        if !s.sluRuns sl.val then s
        else (s.setTag sl.val { t with stalled := true }).sluPoison sl.val 0x2302 [(4, t.gtag), (4, b), (6, t.step)])

/-- The Warden reads the Sluices' statistics, adds them and clears them (R375). -/
def addStat (a b : LayerStat) : LayerStat :=
  let sat (n : Nat) : Nat := min n (2 ^ 32 - 1)
  ⟨sat (a.zero + b.zero), sat (a.handed + b.handed), max a.maxexp b.maxexp, sat (a.flush + b.flush)⟩

def State.takeLayers (s : State) : State :=
  (List.range 16).foldl (fun acc u =>
    let x := acc.sluice u
    if x.layers.isEmpty then acc
    else
      let sum := x.layers.foldl (fun t e => Tbl.put t e.1 (addStat (Tbl.get t LayerStat.fresh e.1) e.2)) acc.layerSum
      { acc.setSluice u { x with layers := [] } with layerSum := sum }) { s with layerSum := [] }

/-- Every Sluice of the job shows `SLUDONE` = n for the current step n. -/
def State.sludoneAll (s : State) (j : JobSt) : Bool :=
  !j.desc.sluices.isEmpty && j.desc.sluices.all (fun e => (s.sluice e.1.val).done.toNat == j.step)

/-- A write of `SLUDONE`; the last one of the step starts the clear window (R347, R375). -/
def State.writeSludone (s : State) (sl : Nat) (v : Word) : State :=
  let s1 := s.setSluice sl { s.sluice sl with done := v.truncate 48 }
  match s1.job with
  | none => s1
  | some j =>
    if j.state == 2 && j.clearAt.isNone && !j.voted && s1.sludoneAll j then
      { s1.takeLayers with job := some { j with clearAt := some (s1.ref + 100 * j.desc.clearwin) } }
    else s1

/-- A Sluice program's write of `SLUDONE`: bits [63:48] are reserved and ignored. -/
def execSludoneWrite (sl : Fin 16) (v : Word) (s : State) : Host.Outcome State Fault Refusal :=
  .next (if s.canRun (sluKey + sl.val) then s.writeSludone sl.val v else s)

end Sys2Proof.Machine
end

