-- ==== Sys2Proof/Machine/Update.lean ====
section
/-! DEFINITION. Update engines (10_gradients_and_update): the inbox (R349, R350), `ugrad`, `urld`, `urst`, `uhead`, `udig`,
`useal` and its wait (R351 to R360), and the all-gather (R362, Table 10.6). -/

namespace Sys2Proof.Machine

open Sys2Proof

/-! ## The master pair (R76 to R78) -/

/-- Exponent of a binary16 unit in the last place. -/
def ulpExp16 (h : Unp) : Int := if h.cls == .fin then h.exp else -24

/-- The unit's exponent for a magnitude `m × 2^e`. -/
def ulpOf (m : Nat) (e : Int) : Int := if m = 0 then -24 else max ((m.log2 : Int) + e - 10) (-24)

/-- A value `m × 2^e` in units of `2^u`, floor of the value plus one half: nearest, ties toward +infinity. -/
def tiesUp (m : Int) (e u : Int) : Int :=
  if u ≤ e then m * 2 ^ (e - u).toNat
  else
    let d := 2 ^ (u - e).toNat
    (2 * m + d) / (2 * d)

/-- Nearest integer to `m × 2^e`, ties to even. -/
def rneInt (m : Int) (e : Int) : Int :=
  let q := (roundAt mRNE (m < 0) m.natAbs e false 0 0).1
  if m < 0 then -(q : Int) else q

/-- The binary16 datum of `q × 2^u`, exact. -/
def enc16 (q : Int) (u : Int) : Nat := (roundTo (Fmt.of 0) mRNE (q < 0) q.natAbs u false 0).bits

/-- The next binary16 datum upward. -/
def nextUp16 (x : Nat) : Nat := if x = 0x8000 then 1 else if x < 0x8000 then x + 1 else x - 1

def infinite16 (x : Nat) : Bool := x % 0x8000 == 0x7C00

/-- `split` of R77 for the exact master `m × 2^e`; none when the head is infinite (R78). A negative master whose head is zero
takes −0, the sign that IEEE rounding keeps (DEDUCED, log entry 66). -/
def splitMaster (m : Int) (e : Int) : Option (Nat × Int) :=
  let u := ulpOf m.natAbs e
  let q := tiesUp m e u
  let h := if q = 0 ∧ m < 0 then 0x8000 else enc16 q u
  let hu := unpack (Fmt.of 0) h
  if infinite16 h || (u = 5 && q.natAbs ≥ 2048) then none
  else
    let lo := min e u
    let diff := m * 2 ^ (e - lo).toNat - q * 2 ^ (u - lo).toNat
    let t := rneInt diff (lo + 16 - ulpExp16 hu)
    if t = 32768 then
      let h1 := nextUp16 h
      if infinite16 h1 then none else some (h1, -32768)
    else some (h, t)

/-- One parameter of `urst`: head, tail, stored m, stored v, and whether m was saturated; none when a result is not finite
(R77, R78, R352, R353). -/
def storeOne (nms : Int) (head tail inc m v : Nat) (r1 r2 : Nat) : Option (Nat × Int × Nat × Nat × Bool) :=
  let F := Fmt.of 2
  let h := unpack (Fmt.of 0) (fpConv F (Fmt.of 0) mRNE head 0).bits
  let i := unpack F inc
  let um := unpack F m
  let uv := unpack F v
  if !(h.finite && i.finite && um.finite && uv.finite) then none
  else
    let u := ulpExp16 h - 16
    let t : Int := (BitVec.ofNat 16 tail).toInt
    let x := h.int * 65536 + t
    let lo := if i.mant = 0 then u else min u i.exp
    let mst := x * 2 ^ (u - lo).toNat + (if i.mant = 0 then 0 else i.int * 2 ^ (i.exp - lo).toNat)
    let rm := roundTo (Fmt.of 0) mSR um.sign um.mant (um.exp - nms) false r1
    let sat := (rm.fl &&& flOF) != 0
    let mb := if sat then (if um.sign then 0xFBFF else 0x7BFF) else rm.bits
    let rv := fpConv F (Fmt.of 1) mSR v r2
    if (rv.fl &&& flOF) != 0 then none
    else (splitMaster mst lo).map (fun ht => (ht.1, ht.2, mb, rv.bits, sat))

/-- The state record's bytes (Table 2.9). -/
def recordBytes (h : Nat) (t : Int) (m v : Nat) : List Byte :=
  leBytes 2 (t % 65536).toNat ++ leBytes 2 m ++ leBytes 2 v ++ leBytes 2 h

/-! ## Shards and phases -/

def UpEng.shardOf (x : UpEng) (sh : Nat) : Option UeShard := x.shards.find? (fun e => e.shard == sh)
def UpEng.owned (x : UpEng) : List UeShard := x.shards.filter (·.owned)
/-- The slot of an owned shard (R334). -/
def UpEng.slot (x : UpEng) (sh : Nat) : Nat := (x.owned.map (·.shard)).findIdx (· == sh)
/-- The device address of a shard's inbox block (R349). -/
def UpEng.inboxAddr (x : UpEng) (sh b : Nat) : Word := x.inboxBase + BitVec.ofNat 64 (2 ^ 22 * x.slot sh + 64 * b)

/-- The phases of Table 10.5. -/
inductive Phase where
  | sealedAt | passing | stated | headed | other
  deriving DecidableEq, Repr

/-- The phase of an owned shard's seal, and the step n it stands in; for a sealed shard, n − 1 is its step. -/
def phaseOf (q : Seal) : Phase × Nat :=
  let n := q.cstep + 1
  if q.pass then (if q.sstep = q.cstep ∧ q.hstep = q.cstep then (.passing, n) else (.other, n))
  else if q.sstep = q.cstep ∧ q.hstep = q.cstep then (.sealedAt, n)
  else if q.sstep = n ∧ q.hstep = q.cstep then (.stated, n)
  else if q.sstep = n ∧ q.hstep = n then (.headed, n)
  else (.other, n)

def ueUnit (k : Nat) : Nat := uidUnit (ueKey + k)
def uePol (k : Nat) : Nat := polderOf (ueKey + k)

/-- The duplicate datapaths disagree: nothing is written, the unit halts (R483). -/
def State.ueDup (s : State) (k : Nat) : State :=
  (s.detect 0x2504 (uePol k) (ueUnit k) [(1, k)]).halt (ueKey + k)

/-- Elements of a vector register of an update engine. -/
def el32 (v : VReg) : List Nat := elems 32 v

/-- The checks of a plane's descriptor D1: a format code that an update engine accepts (Table 2.1), the kind, the extents and the metadata
address (R32, R233). -/
def planeTrap (r : Nat) (d : Desc) : Option Trp :=
  firstTrap [descTrap r d [0], when' (!([0, 1, 2, 8, 9] : List Nat).contains (dFmt d)) (fmtTrap (dFmt d)), alignTrap r d 2 false]

/-- Run a parameter instruction: RA must be a multiple of 16 inside an owned shard, the plane that D1 names the shard's own, and
the seal in the phase (R351). `plane` is 0 for none, 1 for heads, 2 for state. -/
def State.onShard (s : State) (k op : Nat) (f : BitVec 57) (plane : Nat) (digs : Bool) (ph : Phase)
    (g : State → UeShard → Nat → Seal → State) : State :=
  let key := unitKey (.ue (Fin.ofNat 44 k))
  let use := if plane = 0 then ['a'] else ['1', 'a']
  s.issue64 key op f (lOk f use 1) [.d (lD1 f), .s (lRa f), .v 24, .v 25, .v 26, .v 27, .v 28, .v 29] (fun s1 =>
    let p := s1.proc key
    let ra := p.getS (lRa f)
    let sh := if digs then ra.toNat else ra.toNat / 2 ^ 21
    let off := if digs then 0 else ra.toNat % 2 ^ 21
    if s1.storesOut key then s1
    else match (if plane = 0 then none else planeTrap (lD1 f) (p.getD (lD1 f))), (s1.ue k).shardOf sh with
      | some t, _ => s1.trap1 key t
      | none, none => s1.trap1 key (opTrap ra)
      | none, some e =>
        if !e.owned || off % 16 != 0 || off ≥ 32 * e.nblk then s1.trap1 key (opTrap ra)
        else if plane != 0 && dBase (p.getD (lD1 f)) != (if plane = 1 then e.head else e.state) then
          s1.trap1 key (dTrap (lD1 f))
        else match s1.readSeal sh (uePol k) (ueUnit k) with
          | (s2, none) => s2.trap1 key (opTrap ra)
          | (s2, some q) => if (phaseOf q).1 = ph then g s2 e off q else s2.trap1 key (opTrap ra))

/-- A command of an update instruction names an update engine; on any other unit the word is illegal (R261). -/
def State.ueInstr (s : State) (u : UnitId) (op : Nat) (f : BitVec 57) (g : Nat → State) : State :=
  match u with
  | .ue k => g k.val
  | _ => s.issue64 (unitKey u) op f false [] (fun s1 => s1)

/-- Retire an update instruction. -/
def State.ueRetire (s : State) (k : Nat) (g : Proc → Proc) : State :=
  s.retire (ueKey + k) (g (s.proc (ueKey + k))) 8 false 1

/-! ## `ugrad`, `urld` -/

/-- The binary32 value of element `i` of a block (R81). -/
def blockElem (b : Block) (i : Nat) : Nat :=
  let x := b.sig.getD i 0
  if b.e = 0 then 0
  else if b.e = 255 then (Fmt.of 2).qnan
  else (roundTo (Fmt.of 2) mRNE (x < 0) x.natAbs ((b.e : Int) - 140) false 0).bits

/-- `ugrad` (R81, R352). A poisoned block poisons the step and leaves no record of its own (DESIGN CHOICE, log entry 91). -/
def execUgrad (u : UnitId) (f : BitVec 57) (s : State) : Host.Outcome State Fault Refusal :=
  .next (s.ueInstr u 0x74 f (fun k =>
    s.onShard k 0x74 f 0 false .passing (fun s1 e off _ =>
      let a := (s1.ue k).inboxAddr e.shard (off / 32)
      match s1.eccRead a 64 (ueUnit k) with
      | (s2, some _) => s2.ueRetire k id
      | (s2, none) =>
        let b := blockOf (s2.bytesAt a.toNat 64)
        let v := ofElems 32 ((List.range 16).map (fun i => blockElem b (off % 32 + i)))
        let s3 := if b.e = 255 then s2.poison (uePol k) else s2
        s3.ueRetire k (fun p => p.setV 28 v))))

/-- m × 2^MSCALE in binary32, exact (R352). -/
def scaleM (m : Nat) (ms : Int) : Nat :=
  let x := unpack (Fmt.of 0) m
  if x.finite then (roundTo (Fmt.of 2) mRNE x.sign x.mant (x.exp + ms) false 0).bits
  else (fpConv (Fmt.of 0) (Fmt.of 2) mRNE m 0).bits

def execUrld (u : UnitId) (f : BitVec 57) (s : State) : Host.Outcome State Fault Refusal :=
  .next (s.ueInstr u 0x75 f (fun k =>
    s.onShard k 0x75 f 2 false .passing (fun s1 e off q =>
      let ra := e.state + BitVec.ofNat 64 (8 * off)
      let ha := e.head + BitVec.ofNat 64 (2 * off)
      let (s2, b1) := s1.eccRead ra 128 (ueUnit k)
      let (s3, b2) := s2.eccRead ha 32 (ueUnit k)
      if b1.isSome || b2.isSome then s3.ueRetire k id
      else
        let rec16 (lo i : Nat) : Nat := s3.natAt (ra.toNat + 8 * i + lo) 2
        let xs (g : Nat → Nat) : VReg := ofElems 32 ((List.range 16).map g)
        s3.ueRetire k (fun p =>
          (((p.setV 24 (xs (fun i => (fpConv (Fmt.of 0) (Fmt.of 2) mRNE (s3.natAt (ha.toNat + 2 * i) 2) 0).bits))).setV 25
            (xs (fun i => ((BitVec.ofNat 16 (rec16 0 i)).signExtend 32).toNat))).setV 26
            (xs (fun i => scaleM (rec16 2 i) q.mscale))).setV 27
            (xs (fun i => (fpConv (Fmt.of 1) (Fmt.of 2) mRNE (rec16 4 i) 0).bits))))))

/-! ## `urst`, `uhead`, `udig` -/

/-- Slot offset of an owned shard in a checkpoint slot: 20 MiB each, records first (R408). -/
def State.teeOff (s : State) (sh : Nat) : Nat :=
  let owned := match s.job with
    | some j => (j.desc.shards.filter (fun e => e.owner == s.group.coord && decide (e.shard < sh))).length
    | none => 0
  20 * 2 ^ 20 * owned

/-- Write at a plane, and a second time into the checkpoint slot in a tee step (R408). -/
def State.planeWrite (s : State) (k : Nat) (a : Word) (bs : List Byte) (step slotOff : Nat) : State :=
  let s1 := (s.eccWrite a (present bs) (ueUnit k)).1
  if s1.teeing step then s1.tee slotOff bs else s1

/-- The largest magnitude of binary32 data. -/
def maxMag (xs : List Nat) : Nat := xs.foldl (fun a x => max a (x % 2 ^ 31)) 0

/-- `urst` (R77, R352 to R354). The 16 draws for m come before the 16 for v, and of several parameters with a non-finite result the
lowest is named (DESIGN CHOICE, log entries 88 and 90). -/
def execUrst (u : UnitId) (f : BitVec 57) (dup : Bool) (s : State) : Host.Outcome State Fault Refusal :=
  .next (s.ueInstr u 0x76 f (fun k =>
    s.onShard k 0x76 f 2 false .passing (fun s1 e off q =>
      let p := s1.proc (ueKey + k)
      let (r1, p1) := p.draws (ueKey + k) true mSR 16
      let (r2, p2) := p1.draws (ueKey + k) true mSR 16
      let at' (v i : Nat) : Nat := elemAt (el32 (p.getV v)) i
      let outs := (List.range 16).map (fun i =>
        storeOne q.nmscale (at' 24 i) (at' 25 i) (at' 29 i) (at' 26 i) (at' 27 i) (elemAt r1 i) (elemAt r2 i))
      if dup then s1.ueDup k
      else match outs.findIdx? (·.isNone) with
        | some i =>
          (s1.emit 0x1602 (uePol k) (ueUnit k) [(6, 2 ^ 21 * e.shard + off + i)]).haltRec (ueKey + k) 0x1602
        | none => if s1.teeStalls (q.sstep + 1) (s1.teeOff e.shard + 8 * off) then s1 else
          let os := outs.filterMap id
          let bs := (os.map (fun o => recordBytes o.1 o.2.1 o.2.2.1 o.2.2.2.1)).flatten
          let s2 := s1.planeWrite k (e.state + BitVec.ofNat 64 (8 * off)) bs (q.sstep + 1) (s1.teeOff e.shard + 8 * off)
          let x := s2.ue k
          let top := maxMag (el32 (p.getV 26))
          let sat := (os.filter (·.2.2.2.2)).length
          let s3 := s2.setUe k { x with msat := min (x.msat + sat) 65535, ummax := BitVec.ofNat 32 (max x.ummax.toNat top) }
          let v := ofElems 32 (os.map (fun o => (fpConv (Fmt.of 0) (Fmt.of 2) mRNE o.1 0).bits))
          (s3.countEmb (76 + k) 0 16).ueRetire k (fun _ => p2.setV 24 v))))

def execUhead (u : UnitId) (f : BitVec 57) (dup : Bool) (s : State) : Host.Outcome State Fault Refusal :=
  .next (s.ueInstr u 0x77 f (fun k =>
    s.onShard k 0x77 f 1 false .stated (fun s1 e off q =>
      if s1.teeStalls q.sstep (s1.teeOff e.shard + 2 ^ 24 + 2 * off) then s1 else
      let ra := e.state + BitVec.ofNat 64 (8 * off)
      match s1.eccRead ra 128 (ueUnit k) with
      | (s2, some _) => s2.ueRetire k id
      | (s2, none) =>
        if dup then s2.ueDup k
        else
          let bs := ((List.range 16).map (fun i => s2.bytesAt (ra.toNat + 8 * i + 6) 2)).flatten
          let s3 := s2.planeWrite k (e.head + BitVec.ofNat 64 (2 * off)) bs q.sstep (s2.teeOff e.shard + 2 ^ 24 + 2 * off)
          (s3.countEmb (76 + k) 1 16).ueRetire k id)))

/-- A seal write of an update engine, counted (R357). -/
def State.ueSeal (s : State) (k sh : Nat) (q : Seal) : State := (s.writeSeal sh q (ueUnit k)).countEmb (76 + k) 4 1

/-- An update engine reads a seal and rewrites it; one that does not read well stays (R358). -/
def State.ueReseal (s : State) (k sh : Nat) (f : Seal → Seal) : State :=
  match s.readSeal sh (uePol k) (ueUnit k) with
  | (s1, none) => s1
  | (s1, some q) => s1.ueSeal k sh (f q)

def execUdig (u : UnitId) (f : BitVec 57) (dup : Bool) (s : State) : Host.Outcome State Fault Refusal :=
  .next (s.ueInstr u 0x79 f (fun k =>
    s.onShard k 0x79 f 1 true .headed (fun s1 e _ q =>
      match s1.digestAt e.head e.nblk (ueUnit k) with
      | (s2, _, true) => s2.ueRetire k id
      | (s2, d, false) =>
        if dup then s2.ueDup k
        else
          let s3 := s2.ueSeal k e.shard { q with digest := d }
          let x := s3.ue k
          (s3.setUe k { x with digs := Tbl.put x.digs e.shard (q.hstep + 1) }).ueRetire k id)))

/-! ## The all-gather: owner's side (R362) -/

/-- A unit message of an update engine to the same stack's engine elsewhere. -/
def State.ueSend (s : State) (k : Nat) (dst : BitVec 12) (id : Nat) (m : UnitMsg) : State :=
  s.sendMessage (nodeOfStack k) { mkMessage s (ueKey + k) .unit dst (nodeOfStack k) 0 id with umsg := m }

/-- Begin the exchange of a shard with one replica: gather-open, whose acknowledgement is awaited. -/
def State.gatherBegin (s : State) (k sh step peer : Nat) : State :=
  let (x, s1) := s.takeId
  let xf : Xfer := ⟨x, ueKey + k, .gather k sh step peer, 0, 0, false, false, []⟩
  let (id, s2) := { s1 with xfers := s1.xfers ++ [xf] }.await (ueKey + k) x
  let e := s2.ue k
  let keep := e.gathers.filter (fun g => !(g.shard == sh && g.peer == peer))
  (s2.setUe k { e with gathers := keep ++ [⟨sh, step, peer, 0, 0⟩] }).ueSend k (BitVec.ofNat 12 peer) id (.gatherOpen sh step)

def State.gatherAll (s : State) (k sh step : Nat) : State :=
  s.peers.foldl (fun acc c => acc.gatherBegin k sh step c.toNat) s

/-- Send the heads of a shard as WRITE messages of up to 4 KiB. An uncorrectable access ends the sending: the step is poisoned (R390). -/
def State.gatherHeads (s : State) (k x peer : Nat) (a : Word) (n : Nat) : Nat → State
  | 0 => s
  | fuel + 1 =>
    if n = 0 then s
    else
      let len := min n 4096
      match s.eccRead a len (ueUnit k) with
      | (s0, some _) => s0
      | (s0, none) =>
        let (id, s1) := s0.await (ueKey + k) x
        let m := { mkMessage s1 (ueKey + k) .write (BitVec.ofNat 12 peer) (nodeOfStack k) 0 id with
          ncell := len / 64, addr := a, payload := s1.bytesAt a.toNat len }
        State.gatherHeads ((s1.sendMessage (nodeOfStack k) m).countEmb (76 + k) 3 len) k x peer (a + 4096) (n - len) fuel

/-- The acknowledgements that an exchange waited for are in: the heads, then gather-close (Table 10.6). -/
def State.gatherOn (s : State) (k sh step peer x : Nat) (err : Bool) : State :=
  let e := s.ue k
  match e.gathers.find? (fun g => g.shard == sh && g.peer == peer && g.step == step), e.shardOf sh with
  | some g, some y =>
    if err then s.dropXfer x
    else
      let stage (n : Nat) : State := s.setUe k { e with gathers := e.gathers.map (fun h => if h = g then { h with stage := n } else h) }
      if g.stage = 0 then (stage 1).gatherHeads k x peer y.head (64 * y.nblk) (y.nblk + 1)
      else if g.stage = 1 then ((stage 2).dropXfer x).ueSend k (BitVec.ofNat 12 peer) 0 (.gatherClose sh step)
      else s.dropXfer x
  | _, _ => s.dropXfer x

/-! ## `useal` (R359, Table 10.5) -/

/-- The step and the scale of a `useal`'s RC. -/
def sealStep (rc : Word) : Nat := rc.toNat % 2 ^ 48
def sealScale (rc : Word) : Int := (rc.extractLsb' 56 8).toInt

/-- Is the inbox of a shard complete for step n (R350)? -/
def inboxFull (x : UpEng) (sh n nblk : Nat) : Bool :=
  let i := Tbl.get x.inbox Inbox.fresh sh
  i.step == n && i.count == nblk && i.sum == nblk * (nblk - 1) / 2 % 2 ^ 32

/-- Does the seal stand in the phase from which the field may be written? -/
def sealPhaseOk (q : Seal) (field n : Nat) : Bool :=
  phaseOf q == (match field with | 0 => .sealedAt | 1 => .passing | 2 => .stated | _ => .headed, n)

/-- May the write be made now: the vote and the inbox for PASS, the digest and every replica for CSTEP. An export of heads
withholds PASS (R570). -/
def State.sealMay (s : State) (k : Nat) (e : UeShard) (field n : Nat) : Bool :=
  let x := s.ue k
  match field with
  | 0 => x.valid && decide (n ≤ x.commit.toNat) && inboxFull x e.shard n e.nblk &&
      !(match s.job with | some j => j.exporting | none => false)
  | 3 => Tbl.get x.digs 0 e.shard == n + 1 &&
      s.peers.all (fun c => x.gathers.any (fun g => g.shard == e.shard && g.step == n && g.peer == c.toNat && g.stage == 3))
  | _ => true

/-- The seal after the write. -/
def sealNext (q : Seal) (field n : Nat) (scale : Int) : Seal :=
  match field with
  | 0 => { q with pass := true, nmscale := scale }
  | 1 => { q with pass := false, sstep := n, mscale := q.nmscale }
  | 2 => { q with hstep := n }
  | _ => { q with cstep := n }

/-- The digests that the replicas of a shard acknowledged are compared with the owner's, which its seal now holds (R362, R462). -/
def State.compareDigests (s : State) (k sh digest : Nat) : State :=
  let x := s.ue k
  let bad := (x.gathers.filter (fun g => g.shard == sh && g.stage == 3 && g.digest != digest)).map (fun g => (sh, g.peer, false, g.digest))
  let mis := if bad.isEmpty then x.mis else x.mis ++ (sh, s.group.coord.toNat, true, digest) :: bad
  s.setUe k { x with compared := x.compared + 1, mis := mis, gathers := x.gathers.filter (fun g => g.shard != sh) }

/-- Perform the write of a `useal` and retire it. -/
def State.sealWrite (s : State) (k sh field : Nat) (rc : Word) (q : Seal) : State :=
  let n := sealStep rc
  let s1 := s.ueSeal k sh (sealNext q field n (sealScale rc))
  let x := s1.ue k
  let s2 := match field with
    | 0 => s1.setUe k { x with ummax := 0 }
    | 1 => s1.setUe k { x with inbox := Tbl.put x.inbox sh ⟨0, 0, n + 1⟩ }
    | 2 => s1.gatherAll k sh n
    | _ => s1.compareDigests k sh q.digest
  s2.ueRetire k id

/-- Operands of `useal` that trap: the shard, the field, reserved bits, and a scale outside −96 to +96. -/
def usealBad (e : Option UeShard) (ra rb rc : Word) : Option Trp :=
  firstTrap [when' (match e with | some y => !y.owned | none => true) (opTrap ra), when' (rb.toNat > 3) (opTrap rb),
    when' (if rb.toNat = 0 then rc.toNat / 2 ^ 48 % 256 != 0 || sealScale rc < -96 || sealScale rc > 96
           else rc.toNat / 2 ^ 48 != 0) (opTrap rc)]

def execUseal (u : UnitId) (f : BitVec 57) (dup : Bool) (s : State) : Host.Outcome State Fault Refusal :=
  .next (s.ueInstr u 0x78 f (fun k =>
    let key := ueKey + k
    s.issue64 key 0x78 f (lOk f ['a', 'b', 'c'] 1) [.s (lRa f), .s (lRb f), .s (lRc f)] (fun s1 =>
      let p := s1.proc key
      let sh := (p.getS (lRa f)).toNat
      let field := (p.getS (lRb f)).toNat
      let rc := p.getS (lRc f)
      if s1.storesOut key then s1
      else match usealBad ((s1.ue k).shardOf sh) (p.getS (lRa f)) (p.getS (lRb f)) rc, (s1.ue k).shardOf sh with
        | some t, _ => s1.trap1 key t
        | none, none => s1
        | none, some e =>
          match s1.readSeal sh (uePol k) (ueUnit k) with
          | (s2, none) => s2.trap1 key (opTrap (p.getS (lRa f)))
          | (s2, some q) =>
            if !sealPhaseOk q field (sealStep rc) then s2.trap1 key (opTrap rc)
            else if s2.sealMay k e field (sealStep rc) then (if dup then s2.ueDup k else s2.sealWrite k sh field rc q)
            else s2.setUe k { s2.ue k with waiting := some ⟨sh, field, rc⟩ })))

/-- The wait of a `useal` ends when what it waits for holds (R359); under the fence it writes nothing. -/
def execUsealWaitEnd (k : Fin 44) (dup : Bool) (s : State) : Host.Outcome State Fault Refusal :=
  .next (
    let x := s.ue k.val
    match x.waiting with
    | none => s
    | some w =>
      let s0 := s.setUe k.val { x with waiting := none }
      match x.shardOf w.shard with
      | none => s
      | some e =>
        if !s0.canRun (ueKey + k.val) || !s.sealMay k.val e w.field (sealStep w.rc) then s
        else match s0.readSeal w.shard (uePol k.val) (ueUnit k.val) with
          | (s1, none) => s1.trap1 (ueKey + k.val) (opTrap w.rc)
          | (s1, some q) => if dup then s1.ueDup k.val else s1.sealWrite k.val w.shard w.field w.rc q)

/-! ## The inbox (R349, R350) -/

/-- A block that an update engine discards (R350). -/
def State.ueDiscard (s : State) (k : Nat) (p : Packet) : State :=
  s.detect 0x2303 (uePol k) (ueUnit k) [(4, p.gtag), (5, p.block), (2, p.step)]

/-- Is the block one that the engine takes: of an owned shard, of the inbox's step, and not beyond the count (R350)? -/
def UpEng.takes (x : UpEng) (step blk : Nat) : Bool :=
  let sh := blk / 65536
  match x.shardOf sh with
  | none => false
  | some e =>
    let i := Tbl.get x.inbox Inbox.fresh sh
    e.owned && i.step % 65536 == step && i.count < e.nblk

/-- Write one block into its inbox slot and count it. -/
def State.inboxPut (s : State) (k blk : Nat) (bs : List Byte) : State :=
  let x := s.ue k
  let sh := blk / 65536
  let b := blk % 65536
  let s1 := (s.eccWrite (x.inboxAddr sh b) (present bs) (ueUnit k)).1
  let i := Tbl.get x.inbox Inbox.fresh sh
  (s1.setUe k { x with inbox := Tbl.put x.inbox sh { i with count := i.count + 1, sum := (i.sum + b) % 2 ^ 32 } }).countEmb
    (76 + k) 2 1

/-- Write the blocks of a packet that the engine takes and discard the others (R350); the answer says whether it took them all. -/
def State.takeBlocks (s : State) (k : Nat) (p : Packet) (bs : List Byte) : List Nat → State × Bool
  | [] => (s, true)
  | b :: r =>
    let ok := (s.ue k).takes p.step b
    let s1 := if ok then s.inboxPut k b bs else s.ueDiscard k { p with block := b }
    let (s2, all) := State.takeBlocks s1 k p bs r
    (s2, ok && all)

/-- A final block or run of zero blocks arrives at an update engine (R349, R350); the answer says whether all of it was taken.
`adder`: its check of R73 fails. -/
def State.ueArrive (s : State) (k : Nat) (p : Packet) (adder : Bool) : State × Bool :=
  let pay := [(4, p.gtag), (5, p.block)]
  let s1 := if p.kind == .gblk && blockBad p.blk then s.detect 0x2305 (uePol k) (ueUnit k) pay else s
  let s2 := if adder then s1.detect 0x2306 (uePol k) (ueUnit k) pay else s1
  if p.kind == .grun then s2.takeBlocks k p (blockBytes zeroBlock) ((List.range p.nrun).map (· + p.block))
  else s2.takeBlocks k p (blockBytes p.blk) [p.block]

/-! ## The all-gather: messages of Table 10.6 -/

/-- A unit message waiting at update engine `k`'s node. -/
def State.unitAt (s : State) (k : Nat) (f : UnitMsg → Bool) : Option (Nat × Message) :=
  s.mesh.zipIdx.findSome? (fun e =>
    match e.1.ctl with
    | .message m =>
      if e.1.kind == .ctl && e.1.loc == nodeOfStack k && e.1.dst == nodeOfStack k && m.kind == .unit && f m.umsg then
        some (e.2, m) else none
    | _ => none)

/-- Answer a message with an ACK (R430). -/
def State.ackMessage (s : State) (key node : Nat) (m : Message) (status : Nat) : State :=
  s.sendMessage node { mkMessage s key .ack m.src (nodeOfUnit m.sunit) m.sunit 0 with
    addr := BitVec.ofNat 64 (m.msgid.toNat + 2 ^ 32), run := status }

/-- What a unit message does at update engine `k` (Table 10.6, R462, R467). -/
def State.unitMsg (s : State) (k : Nat) (m : Message) : State :=
  let x := s.ue k
  match m.umsg with
  | .gatherOpen sh n =>
    match x.shardOf sh with
    | none => s
    | some _ =>
      match s.readSeal sh (uePol k) (ueUnit k) with
      | (s1, none) => s1
      | (s1, some q) =>
        (s1.ueSeal k sh { q with sstep := max q.sstep n }).ackMessage (ueKey + k) (nodeOfStack k) m 0
  | .gatherClose sh n =>
    match x.shardOf sh with
    | none => s
    | some e =>
      match s.readSeal sh (uePol k) (ueUnit k) with
      | (s1, none) => s1
      | (s1, some q) =>
        match s1.digestAt e.head e.nblk (ueUnit k) with
        | (s2, _, true) => s2
        | (s2, d, false) =>
          (s2.ueSeal k sh { q with hstep := n, cstep := n, digest := d }).ueSend k m.src 0 (.gatherAck sh n (BitVec.ofNat 64 d))
  | .gatherAck sh n d =>
    match x.gathers.find? (fun g => g.shard == sh && g.step == n && g.peer == m.src.toNat) with
    | none => s
    | some g => s.setUe k { x with gathers := x.gathers.map (fun h => if h = g then { h with stage := 3, digest := d.toNat } else h) }
  | .gatherRequest sh n => if (x.shardOf sh).isSome then s.gatherBegin k sh n m.src.toNat else s
  | .other => s

/-- An update engine takes messages while its polder runs and no fence holds. -/
def State.ueRuns (s : State) (k : Nat) : Bool :=
  s.polderOn (uePol k) && (!s.safety.fence || (match s.job with | some j => j.state == 4 | none => false))

end Sys2Proof.Machine
end

