-- ==== Sys2Proof/Machine/JobLoad.lean ====
section
/-! DEFINITION. What a job reset clears (Table 19.4) and what firmware writes at a job's start and at every restart (R47, R165,
R281, R292, R302, R314, R334, R366, R383, R395, R441, R574). -/

namespace Sys2Proof.Machine

open Sys2Proof

/-! ## Job reset -/

/-- The sites of a job: those of its stage map and of its cores. -/
def jobSites (d : JobDesc) : List Nat := (d.stages.map (·.1) ++ d.cores.map (fun c => c.1.site.val)).eraseDups

/-- Clear the ponds of a site, with valid check bits (R174). -/
def State.clearPonds (s : State) (site : Nat) : State :=
  let lo := site * 2 ^ 30
  { s with mem := memClear s.mem lo (2 ^ 30),
           pondMark := Tbl.drop s.pondMark (fun w => decide (lo ≤ 8 * w) && decide (8 * w < lo + 2 ^ 30)) }

/-- A unit's registers at a reset; its cycle counter starts again and its seed is zero. -/
def State.resetProc (s : State) (k : Nat) : State :=
  s.setProc k { Proc.reset with cyc0 := (s.polder (polderOf k)).acNow s.ref }

/-- The units of a polder: the cores of a site, or the Springs, Sluices and update engines of a segment. -/
def polderUnits (p : Nat) : List Nat :=
  if p < 56 then (List.range 90).map (90 * p + ·)
  else
    let g := p - 56
    (List.range 4).map (sprKey + 4 * g + ·) ++ (List.range 4).map (sluKey + 4 * g + ·) ++ (List.range 11).map (ueKey + 11 * g + ·)

/-- Every unit of a polder is reset. One that holds no state of its own is as after a reset, but for the seed of the job. -/
def State.resetUnits (s : State) (p : Nat) : State :=
  let ks := if s.seedRest = 0 then (s.procs.map (·.1)).filter (fun k => polderOf k == p) else polderUnits p
  ks.foldl (fun t k => t.resetProc k) s

/-- What a job reset clears of a cluster; its counters and its core map stay (R604). -/
def Cluster.jobReset (c : Cluster) : Cluster :=
  { c with spans := [], execs := [], reports := [], prune := [] }

/-- What a job reset clears of a router: every register (R284), not the record of failed links. -/
def Node.jobReset (n : Node) : Node := { Node.reset with dead := n.dead }

/-- A port's link layer starts again without retraining (R441). -/
def LPort.linkReset (x : LPort) : LPort :=
  { x with egress := [], sent := 0, gseq := 0, unacked := [], resends := 0, rxNext := 0, nak := false, cseq := 0, ctlOut := [],
           rxCseq := 0, cnak := false, used0 := 0, used1 := 0, cr0 := 0, cr1 := 0, freed0 := 0, freed1 := 0, ctlUsed := 0,
           ctlCr := 0, ctlFreed := 0, rxQ := [], transit0 := 0, transit1 := 0 }

/-- The scratch of every unit lies in keys 2^64 to 2^71. -/
def State.clearScratch (s : State) : State := { s with mem := memClear s.mem (2 ^ 64) (2 ^ 71 - 2 ^ 64) }

/-- The compute state of the job is cleared; the Lake, flash, keys and the loaded job stay (Table 19.4). -/
def State.clearCompute (s : State) : State :=
  let sites := match s.job with | some j => jobSites j.desc | none => []
  let s1 := sites.foldl (fun t i => t.clearPonds i) s
  let s2 := (s1.procs.map (·.1)).foldl (fun t k => t.resetProc k) s1
  { s2.clearScratch with
    clusters := s2.clusters.map (fun e => (e.1, e.2.jobReset)), nodes := s2.nodes.map (fun e => (e.1, e.2.jobReset)),
    seedRest := 0, mesh := [], reqs := [], xfers := [], mcnodes := [], mcasts := [], springs := [], sluices := [], ues := [], bars := [],
    barOver := [], bid0Step := none, ports := s2.ports.map (fun e => (e.1, if e.2.state = 2 then e.2.linkReset else e.2)),
    group := { Group.reset with sentV := s2.group.sentV, lastVerdict := s2.group.lastVerdict, mgr := s2.group.mgr,
                                coord := s2.group.coord, extm1 := s2.group.extm1, origin := s2.group.origin,
                                boxm1 := s2.group.boxm1, head := s2.group.head } }

/-- The fence is lowered (R488). `SFDET` keeps what it shows until the next detection (R500). -/
def State.lowerFence (s : State) : State :=
  { s with safety := { s.safety with fence := false, detSet := false },
           bars := s.bars.map (fun e => (e.1, { e.2 with fence := false })) }

/-! ## Job load -/

/-- The group's place in the torus is taken from the surroundings record (R452, R574). -/
def State.takeTopo (s : State) : State :=
  let t := s.surr.topo.toNat
  let g := s.group
  { s with group := { g with
      coord := BitVec.ofNat 12 t, extm1 := BitVec.ofNat 12 (t / 2 ^ 12), origin := BitVec.ofNat 12 (t / 2 ^ 24),
      boxm1 := BitVec.ofNat 6 (t / 2 ^ 36), mgr := BitVec.ofNat 12 (t / 2 ^ 42),
      head := if s.surr.topo.getLsbD 54 then some (BitVec.ofNat 12 s.surr.head.toNat) else none } }

/-- ROLE of `GRPSTAT`: 1 worker, 2 manager, 3 head manager (Table 14.7). -/
def State.roleOf (s : State) : Nat :=
  let g := s.group
  if g.head = some g.coord then 3 else if g.coord = g.mgr then 2 else 1

/-- A unit of the job that has a program: its entry point (R165) and seed (R47), whose write clears the counters (R49). -/
def State.startProc (s : State) (k : Nat) (pc seed : Word) : State :=
  s.setProc k { (s.proc k).setSeed seed with run := true, pc := pc }

/-- Measurements of Table 19.8 are taken: 0 ROM, 1 firmware image, 2 the rollback fuses, 3 repair map, 4 job descriptor, 5 program area, 6 the place in the torus. -/
def State.takeMeasures (s : State) (ms : List Nat) : State :=
  let contents (m : Nat) : List Nat :=
    match m with
    | 1 => (match s.sec.running with
      | some f => [f.keyslot.val, f.svn, f.version.toNat, f.bodylen, f.vpubDigest.toNat]
      | none => [])
    | 2 => [s.fuse.floor, s.fuse.rekey, s.fuse.revoke.toNat, match s.sec.running with | some f => f.keyslot.val | none => 0]
    | 3 => s.repairMap
    | 4 => [s.jobId]
    | 5 => (match s.job with
      | some j => (j.desc.lakeMap.filter (·.kind == 8)).flatMap (fun e => (s.bytesAt (lakeKey e.base) e.len).map (·.toNat))
      | none => [])
    | 6 => s.surr.topo.toNat :: (List.range 48).map (fun n => (Tbl.get s.surr.nbr 0 n).toNat)
    | _ => []
  { s with sec := { s.sec with meas := ms.foldl (fun t m => Tbl.put t m (Config.measure m (contents m))) s.sec.meas } }

/-- The device address of a Lake offset. -/
def lakeAddr (off : Nat) : Word := BitVec.ofNat 64 (lakeKey off)

/-- The shard table and inbox of one update engine (R334, R395). -/
def State.loadUe (s : State) (d : JobDesc) (first k : Nat) : State :=
  let mine := (d.shards.filter (fun e => e.stack == k)).mergeSort (fun a b => decide (a.shard ≤ b.shard))
  let own (e : ShardEnt) : Bool := e.owner == s.group.coord
  let ents := mine.map (fun e => (⟨e.shard, own e, lakeAddr ((planeBase s 1 e.shard).getD 0), lakeAddr ((planeBase s 2 e.shard).getD 0),
    sealAddr s e.shard, e.nblk⟩ : UeShard))
  let before := (d.shards.filter (fun e => own e && decide (e.stack < k))).length
  let base := match d.lakeMap.find? (·.kind == 3) with | some e => lakeAddr (e.base + 2 ^ 22 * before) | none => 0
  let inbox := (mine.filter own).foldl (fun t e => Tbl.put t e.shard (⟨0, 0, first⟩ : Inbox)) []
  if mine.isEmpty then s else s.setUe k { UpEng.reset with shards := ents, inbox := inbox, inboxBase := base }

/-- Group entries of one Spring (Tables 9.5, 9.6). -/
def sprGrps (d : JobDesc) (u : Nat) : Tbl SprGrp :=
  let gs := d.groups.filter (fun g => match g.spring with | some x => x.val == u | none => false)
  gs.zipIdx.map (fun e => (e.2, ⟨e.1.group.val, e.1.throttle, e.1.consumers, e.1.rploff, e.1.gate⟩))

/-- Neighbours of a site's barrier node in its row, the west one first (R292, R512). -/
def rowNbrs (p : Nat) : List Nat := (if p ≥ 8 then [p - 8] else []) ++ (if p + 8 < 56 then [p + 8] else [])

/-- Has a site's barrier node a live path to EN over its column's link or, within `fuel` places along its row, a neighbour's? -/
def State.rowPath (s : State) (from' : Nat) (p : Nat) : Nat → Bool
  | 0 => false
  | n + 1 => s.polderOn p && (p % 8 = 0 || s.polderOn (p - 1) || (rowNbrs p).any (fun q => q != from' && State.rowPath s p q n))

/-- Re-parenting of a barrier node whose parent is off (R292): a site's to a neighbour in its row that has a path of its own, the west
one first; ES to EW. -/
def State.barDetour (s : State) (p : Nat) : Option Nat :=
  if !s.polderOn p then none
  else if p = 58 then (if !s.polderOn 57 && s.polderOn 59 then some 59 else none)
  else if p ≥ 56 || p % 8 = 0 || s.polderOn (p - 1) then none
  else (rowNbrs p).find? (fun q => s.rowPath p q 7)

/-- The nodes of the tree below and at a node; `fuel` bounds the depth. -/
def State.barBelow (s : State) (p : Nat) : Nat → List Nat
  | 0 => [p]
  | n + 1 => p :: ((List.range 60).filter (fun c => s.barUp c == some p)).flatMap (fun c => State.barBelow s c n)

/-- Members of a barrier in a polder. -/
def State.barMembers (s : State) (d : JobDesc) (bid p : Nat) : Nat :=
  if bid = 0 then (s.procs.filter (fun e => e.2.run && polderOf e.1 == p)).length
  else match d.barriers.find? (fun b => b.1.val == bid) with
    | none => 0
    | some b => (b.2.filter (fun u => polderOf (s.progKey u) == p)).length

/-- Expected arrivals of every barrier at a node: its own members, and its children that have any below (R292, R294). -/
def State.barExpects (s : State) (d : JobDesc) (p : Nat) : Tbl Nat :=
  let kids := ((List.range 60).filter (fun c => s.barUp c == some p)).map (fun c => s.barBelow c 70)
  (List.range 16).foldl (fun t bid =>
    let n := s.barMembers d bid p + (kids.filter (fun l => l.any (fun q => s.barMembers d bid q > 0))).length
    if n = 0 then t else Tbl.put t bid n) []

/-- Firmware writes the seed into the rounding unit of every core and embankment unit (R47). -/
def State.seedAll (s : State) (seed : Word) : State :=
  { s with seedRest := seed, procs := s.procs.map (fun e => (e.1, e.2.setSeed seed)) }

/-- Firmware loads the job that `State.job` holds, to begin at step `first`. Only sites of the stage map run work of the job (R300). -/
def State.loadJob (s : State) (j : JobSt) (first : Nat) : State :=
  let d := j.desc
  let s0 := s.takeTopo
  let s1 := { s0 with group := { s0.group with role := s0.roleOf, widx := s0.workerIdx s0.group.coord } }
  let s2 := s1.writeRoutes d
  let s3 := s2.seedAll d.seed
  let mapped := d.cores.filter (fun c => d.stages.any (fun e => e.1 == c.1.site.val))
  let s4 := mapped.foldl (fun t c => t.startProc (9 * clKey c.1 + (t.cluster (clKey c.1)).coreMap.getD c.2.1 8) c.2.2 d.seed) s3
  let s5 := d.springs.foldl (fun t e => t.startProc (sprKey + e.1.val) e.2 d.seed) s4
  let s6 := d.sluices.foldl (fun t e => t.startProc (sluKey + e.1.val) e.2 d.seed) s5
  let s7 := d.ues.foldl (fun t e => t.startProc (ueKey + e.1.val) e.2 d.seed) s6
  let s8 := (List.range 16).foldl (fun t u =>
    (t.setSpring u { t.spring u with grps := sprGrps d u }).setSluice u { t.sluice u with stallUs := d.sluStall }) s7
  let s9 := (List.range 44).foldl (fun t k => t.loadUe d first k) s8
  let ovr := (List.range 60).filterMap (fun p => (s9.barDetour p).map (fun q => (p, q)))
  let sa := { s9 with barOver := ovr }
  let sb := (List.range 60).foldl (fun t p => t.setBar p { BarNode.reset with expect := sa.barExpects d p }) sa
  { sb with job := some { j with step := first - 1, first := first, nextStep := first, sched := none, gateFrom := none, anchor := false,
                                 clearAt := none, voted := false, poisoned := false } }

/-- The loaded job ends: its job-start command completes with a status, `PWJOBE` and the last committed step; a completion that
has no port left to go to is held for the job-status command (R559, R566). -/
def State.endJob (s : State) (status : Nat) : State :=
  match s.job with
  | none => s
  | some j =>
    let c (q : Nat) (cid : BitVec 32) : Compl := ⟨q, cid, status, some (s.power.jobe % 2 ^ 64), some (j.lastCommit.getD 0), none⟩
    let s1 := { s with group := { s.group with role := 0, recover := none, reports := [], dones := [] } }
    match j.start with
    | some (p, q, cid) => { s1 with job := none }.setHport p { s1.hport p with compl := (s1.hport p).compl ++ [c q cid] }
    | none => { s1 with job := none, held := some (c 0 0) }

/-- At a job's first start firmware writes the seal of every shard that this engine holds, in the sealed phase for the step
before the first (R357, R363). -/
def State.firstSeals (s : State) (d : JobDesc) (first : Nat) : State :=
  d.shards.foldl (fun t e =>
    match planeBase t 1 e.shard with
    | none => t
    | some base =>
      let (t1, dig, _) := t.digestAt (lakeAddr base) e.nblk uidWarden
      let n := first - 1
      t1.writeSeal e.shard ⟨n, n, n, 0, 0, false, e.owner == t1.group.coord, e.stack, e.nblk - 1, dig, d.jobid.toNat, e.shard⟩
        uidWarden) s

end Sys2Proof.Machine
end

