-- ==== Sys2Proof/Machine/Lake.lean ====
section
/-! DEFINITION. The patrol of the Lake (R391 to R393), the background retraining of a stack's interface (R496), and the scrub
of the ponds (R172, R173). -/

namespace Sys2Proof.Machine

open Sys2Proof

/-- The stack-local bytes of a stack, 48 GiB (Table 12.1). -/
def stackBytes : Nat := 48 * 2 ^ 30

/-- The Lake offset of a stack-local offset: the inverse of R385; none for a stack that no slot maps. -/
def lakeInv (slots : List Nat) (st loc : Nat) : Option Nat :=
  match slots.findIdx? (· == st) with
  | none => none
  | some l =>
    let n := slots.length
    let r := loc / 2048
    some (2048 * (n * r + (l + n * (3 * r) - 3 * r) % n) + loc % 2048)

/-- The patrol passes that every mapped stack has completed (Table 12.10). -/
def State.patrolPasses (s : State) : Nat :=
  match s.slots.map (fun st => (s.stack st).passes) with
  | [] => 0
  | x :: r => min (r.foldl min x) 65535

/-- The read that the patrol makes of an access: a parity error that a retry does not clear is an uncorrectable access (Table 12.1),
and a second such retry within 1,024 accesses fails the stack (R393). -/
def State.patrolAccess (s : State) (st acc : Nat) (retry : Option Nat) : State :=
  let off := lakeInv s.slots st (64 * acc)
  match retry with
  | none => (s.readAccess st acc off).1
  | some n =>
    let s1 := s.accessLost st acc off
    if n < 1024 then s1.stackFail st else s1

/-- The patrol reads the next access of a stack, in service or in reserve. -/
def execLakePatrolRead (k : Fin 44) (found : Option (Fin 805306368 × Mark)) (retry : Option Nat) (s : State) :
    Host.Outcome State Fault Refusal :=
  .next (
    let st := k.val
    if !s.polderOn (56 + st / 11) then s
    else
      let s0 := match found with
        | some (a, m) => { s with lakeMark := Tbl.put s.lakeMark (st * 2 ^ 30 + a.val) (some m) }
        | none => s
      let s1 := ((s0.countEmb (32 + st) 0 1).patrolAccess st ((s0.stack st).patrol / 64) retry).latent s0 11
      let x := s1.stack st
      let s2 := if x.patrol + 64 ≥ stackBytes then s1.setStack st { x with patrol := 0, passes := x.passes + 1, unc := 0 }
        else s1.setStack st { x with patrol := x.patrol + 64 }
      { s2 with lkPatrols := s2.patrolPasses })

/-- The Lake's content is lost (R399). -/
def State.loseLake (s : State) : State :=
  { s with mem := memClear s.mem (2 ^ 56) (2 ^ 41), lakeMark := [], lkSelf := false,
           job := s.job.map (fun (j : JobSt) => { j with needCkpt := true }) }

/-- One pseudo-channel of a stack is retrained, beneath the job or as the Lake leaves self-refresh. A stack that does not train
fails (R393); the Lake's content is then not held, and a restart needs the checkpoint (R398, R399, R469). -/
def execLakeInterfaceRetraining (k : Fin 44) (pass : Bool) (s : State) : Host.Outcome State Fault Refusal :=
  .next (if pass || !s.slots.contains k.val then s else (s.stackFail k.val).loseLake)

/-- The pond offset of a scrub position: lines of bank 0 first (R167, R172). -/
def scrubOff (n : Nat) : Nat := n % 16384 * 4096 + n / 16384 * 64

/-- Read the eight words of a line; `n` words remain. -/
def State.scrubWords (s : State) (a req : Nat) : Nat → State
  | 0 => s
  | n + 1 => State.scrubWords (s.readWord a req).1 (a + 8) req n

/-- The scrub reads the next line of a pond. -/
def execPondScrub (k : ClusterId) (found : Option (Fin 8388608 × Mark)) (s : State) : Host.Outcome State Fault Refusal :=
  .next (
    let cl := clKey k
    if !s.polderOn (cl / 10) then s
    else
      let x := s.cluster cl
      let a := k.site.val * 2 ^ 30 + k.cl.val * 2 ^ 26 + scrubOff x.scrub
      let s0 := match found with
        | some (w, m) => { s with pondMark := Tbl.put s.pondMark ((k.site.val * 2 ^ 30 + k.cl.val * 2 ^ 26) / 8 + w.val) (some m) }
        | none => s
      let s1 := s0.setCluster cl { x with scrub := if x.scrub + 1 ≥ 2 ^ 20 then 0 else x.scrub + 1 }
      (s1.scrubWords a (uidCluster cl 0) 8).latent s1 6)

end Sys2Proof.Machine
end

