-- ==== Sys2Proof/Machine/Reserve.lean ====
section
/-! DEFINITION. Bringing in reserves (Table 1.9): rows of arrays (R120 to R122), cores (R156), stacks (R387, R388), sites (R524),
and polders that return (R519, R520). -/

namespace Sys2Proof.Machine

open Sys2Proof

/-- Firmware changes the identity contents inside one pair of steps of `IDGEN` (R633). -/
def State.idChange (s : State) : State := { s with idgen := (s.idgen + 2) % 2 ^ 32 }

/-! ## Rows and cores -/

/-- A core has lost an array for good: the cluster's spare core takes its place if both of the spare's arrays work, else it runs with
one array (R120). -/
def State.spareFor (s : State) (core : Nat) : State :=
  let c := s.cluster (clOf core)
  match c.spare, c.coreMap.findIdx? (· == core % 9) with
  | some sp, some i =>
    let k := 9 * clOf core + sp
    if (s.arrMapOf k 0).insvc && (s.arrMapOf k 1).insvc then
      s.setCluster (clOf core) { c with coreMap := c.coreMap.set i sp, spare := none }
    else s
  | _, _ => s

/-- A failed row of an array is taken into the repair map (R121, R122). Row 128 is the spare row. -/
def State.takeRow (s : State) (key row : Nat) : State :=
  let m := Tbl.get s.arrMap ArrMap.good key
  let m1 : ArrMap :=
    if row = 128 then (if m.failrow.isSome then { m with insvc := false, sparebad := true } else { m with sparebad := true })
    else if m.failrow = some row then m
    else if m.failrow.isSome || m.sparebad then { m with insvc := false }
    else { m with failrow := some row }
  let s1 := { s with arrMap := Tbl.put s.arrMap key m1 }.failRec 0x2509 4 3 (key / 180) (uidCore (key / 2) (2 + key % 2))
  if m.insvc && !m1.insvc then s1.spareFor (key / 2) else s1

/-- Rows that tests have found, and rows that the row test finds in arrays marked suspect, enter the repair map. -/
def State.bringRows (s : State) : State :=
  let s1 := s.rowFails.foldl (fun t e => t.takeRow e.1 e.2) { s with rowFails := [] }
  s1.suspects.foldl (fun t key => match Config.suspectRow key t.ref with
    | some r => t.takeRow key (r % 129)
    | none => t) { s1 with suspects := [] }

/-- A failed physical core of a cluster leaves its map: the spare takes its number, or the core with the highest number does
(R156). -/
def Cluster.loseCore (c : Cluster) (phys : Nat) : Cluster :=
  match c.coreMap.findIdx? (· == phys) with
  | none => if c.spare = some phys then { c with spare := none } else c
  | some i =>
    match c.spare with
    | some sp => { c with coreMap := c.coreMap.set i sp, spare := none }
    | none =>
      let last := c.coreMap.getLast?.getD 0
      { c with coreMap := if last = phys then c.coreMap.dropLast else (c.coreMap.set i last).dropLast }

/-- Failed cores, by unit key, leave their clusters' maps. -/
def State.bringCores (s : State) : State :=
  (s.unitOut.filter isCore).foldl (fun t k =>
    let x := t.cluster (clOf k)
    if x.coreMap.contains (k % 9) || x.spare = some (k % 9) then
      (t.setCluster (clOf k) (x.loseCore (k % 9))).failRec 0x2509 4 3 (k / 90) (uidCore k 0)
    else t) s

/-! ## Stacks -/

/-- Is a stack gone: failed, or in a polder that is marked lost (R520)? -/
def State.stackGone (s : State) (k : Nat) : Bool := (s.stack k).failed || (s.polder (56 + k / 11)).lost

/-- What a stack holds stays where it lies: the Lake's bytes under a new slot table, those of stacks that it no longer names gone
(R387, R388). -/
def State.remapLake (s : State) (slots : List Nat) : State :=
  let inLake (c : Host.Cell) : Bool := decide (2 ^ 56 ≤ c.1) && decide (c.1 < 2 ^ 57)
  let place (c : Host.Cell) : Option (Nat × Byte) :=
    let x := lakeLoc s.slots (c.1 - 2 ^ 56)
    (lakeInv slots x.1 x.2).map (fun o => (lakeKey o, c.2))
  { s with slots := slots,
           mem := ((s.mem.filter inLake).filterMap place).foldl (fun m c => memPut m c.1 c.2) (s.mem.filter (fun c => !inLake c)) }

/-- A failed stack's slot goes to the reserve of its segment; with none left the slot table is rebuilt (R387, R388). The Lake is
suspect. -/
def State.replaceStack (s : State) (k : Nat) : State :=
  let seg := k / 11
  let s0 := { s with stackSvc := s.stackSvc &&& ~~~(1#44 <<< k), lkSuspect := true }
  match (List.range 11).find? (fun i => s.stackRes.getLsbD (11 * seg + i) && !s.stackGone (11 * seg + i)) with
  | some i =>
    let r := 11 * seg + i
    ({ s0.remapLake (s.slots.map (fun x => if x = k then r else x)) with
        stackRes := s.stackRes &&& ~~~(1#44 <<< r), stackSvc := s0.stackSvc ||| (1#44 <<< r) }.emit 0x5304 srcWarden (uidStack r) [(1, k), (1, r)]).failRec
      0x5304 4 3 srcWarden (uidStack r)
  | none =>
    let rest := (s.slots.filter (· != k)).mergeSort (fun a b => decide (a ≤ b))
    (s0.remapLake rest).emit 0x5304 srcWarden (uidStack k) [(1, k), (1, 0xFF)]

def State.bringStacks (s : State) : State :=
  (s.slots.filter s.stackGone).foldl (fun t k => t.replaceStack k) s

/-! ## Sites -/

/-- |Δcolumn| + |Δrow| of two sites. -/
def siteDist (a b : Nat) : Nat :=
  (((a / 8 : Nat) : Int) - (b / 8 : Nat)).natAbs + (((a % 8 : Nat) : Int) - (b % 8 : Nat)).natAbs

/-- The reserve site nearest to a lost one, the lower index on a tie (R524). -/
def State.nearestReserve (s : State) (lost : Nat) : Option Nat :=
  ((List.range 56).filter (fun i => s.resv.getLsbD i && s.polderOn i && !s.tileOut.getLsbD i)).foldl
    (fun (best : Option Nat) i => match best with
      | none => some i
      | some b => if siteDist lost i < siteDist lost b then some i else some b) none

/-- Is a site of the mask lost? -/
def State.siteGone (s : State) (i : Nat) : Bool := s.tileOut.getLsbD i || (s.polder i).lost

/-- A lost site leaves the mask and a reserve takes its place. -/
def State.replaceSite (s : State) (i : Nat) : State :=
  let s0 := { s with sites := s.sites &&& ~~~(1#56 <<< i) }
  match s.nearestReserve i with
  | none => s0
  | some r =>
    ({ s0 with sites := s0.sites ||| (1#56 <<< r), resv := s.resv &&& ~~~(1#56 <<< r) }.emit 0x3208 srcWarden uidWarden
      [(1, i), (1, r)]).failRec 0x3208 4 3 r (uidSupply r)

def State.bringSites (s : State) : State :=
  ((List.range 56).filter (fun i => s.sites.getLsbD i && s.siteGone i)).foldl (fun t i => t.replaceSite i) s

/-! ## Polders that return (Table 16.4) -/

/-- A polder's rails and clock as it starts: DIV 4, trips and causes kept (R526). -/
def Polder.powered (x : Polder) (ref : Nat) : Polder :=
  { x with state := 2, div := 4, vout := 750, vtarget := 750, stepUp := none, hot := 0, vhot := 0, cool := 0, held := 0,
           clamps := [], acBase := 0, acRef := ref }

/-- The clamps of every neighbour toward a polder open. -/
def State.openClamps (s : State) (p : Nat) : State :=
  { s with polders := s.polders.map (fun e => (e.1, { e.2 with clamps := e.2.clamps.filter (· != p) })) }

/-- A lost site polder with `RESTORE` set returns as a reserve site once its self-test rows pass; an overcurrent waits for the
next power-on, and so does a polder lost a second time (R520). -/
def State.restoreSite (s : State) (p : Nat) : State :=
  let x := s.polder p
  if !(x.lost && x.restReq) || x.cause = 1 || decide (x.emTrips ≥ 2) || !Config.restorePasses p s.ref then s
  else
    (({ s with resv := s.resv ||| (1#56 <<< p) }.openClamps p).setPolder p { x.powered s.ref with lost := false, restReq := false }).emit
      0x3207 srcWarden (uidSupply p) [(1, p)]

/-- An embankment polder that tripped once is powered again; the Lake is lost with it. -/
def State.repowerEmb (s : State) (p : Nat) : State :=
  let x := s.polder p
  if x.state != 4 || x.lost then s
  else (((s.openClamps p).setPolder p (x.powered s.ref)).loseLake).emit 0x3207 srcWarden (uidSupply p) [(1, p)]

/-- Lost sites that may return, at a job start or a restart. -/
def State.restoreSites (s : State) : State := (List.range 56).foldl (fun t p => t.restoreSite p) s

def State.bringPolders (s : State) : State := [56, 57, 58, 59].foldl (fun t p => t.repowerEmb p) s.restoreSites

/-- Everything that a restart brings in; the answer says whether the site mask changed (R525). -/
def State.bringReserves (s : State) : State × Bool :=
  let s1 := s.bringPolders.bringSites.bringStacks.bringCores.bringRows
  let changed := s1.sites != s.sites
  let same := s1.slots == s.slots && s1.resv == s.resv && s1.arrMap == s.arrMap && s1.clusters == s.clusters
  (if changed || !same then s1.idChange else s1, changed)

end Sys2Proof.Machine
end

