-- ==== Sys2Proof/Machine/Vote.lean ====
section
/-! DEFINITION. The commit vote (R460 to R464): the report, the manager's verdict, the result block, and what a result does: the
scale table (R377 to R379), the quiet alarm (R380, R381), and `UEVOTE` (R361). -/

namespace Sys2Proof.Machine

open Sys2Proof

/-! ## The vote report (Table 14.2) -/

/-- A layer's summary of this engine (R376): maximum exponent, ACTIVE, NONZERO, REPLAY. -/
def State.layerWord (s : State) (l : Nat) : Nat :=
  let x := Tbl.get s.layerSum LayerStat.fresh l
  let rep := s.clusters.any (fun e => (Tbl.get e.2.spans SpanEnt.fresh l).lastrep)
  x.maxexp % 256 + 256 * b2n (decide (0 < x.handed)) + 512 * b2n (decide (x.zero < x.handed)) + 1024 * b2n rep

/-- Two summaries combined: the OR of the bits, the maximum of the exponents. -/
def layerJoin (a b : Nat) : Nat := max (a % 256) (b % 256) + 256 * ((a / 256) ||| (b / 256))

/-- What a report says. -/
structure VoteRep where
  step  : Nat
  coord : Nat
  compared : Nat
  ovr  : Bool
  layers : List Nat
  mis   : List (Nat × Nat × Bool × Nat)
  deriving DecidableEq, Repr

def layerBytes (ls : List Nat) : List Byte := ls.flatMap (fun w => leBytes 2 w)

def misBytes (e : Nat × Nat × Bool × Nat) : List Byte :=
  leBytes 8 (e.1 + 2 ^ 32 * e.2.1 + 2 ^ 48 * b2n e.2.2.1) ++ leBytes 8 e.2.2.2

/-- The bytes of a report; more than 3,964 mismatch entries set OVERFLOW. -/
def VoteRep.bytes (r : VoteRep) : List Byte :=
  let mis := r.mis.take 3964
  leBytes 6 r.step ++ leBytes 2 r.coord ++ leBytes 4 r.compared ++ leBytes 2 mis.length ++
    leBytes 1 (b2n (r.ovr || decide (r.mis.length > 3964))) ++ leBytes 49 0 ++ layerBytes r.layers ++ mis.flatMap misBytes

def layersOf (bs : List Byte) : List Nat := (List.range 1024).map (fun l => leNat ((bs.drop (2 * l)).take 2))

def misOf (bs : List Byte) : Nat × Nat × Bool × Nat :=
  let n := leNat (bs.take 8)
  (n % 2 ^ 32, n / 2 ^ 32 % 65536, n / 2 ^ 48 % 2 == 1, leNat ((bs.drop 8).take 8))

def voteRepOf (bs : List Byte) : VoteRep :=
  let at' (lo n : Nat) : Nat := leNat ((bs.drop lo).take n)
  { step := at' 0 6, coord := at' 6 2, compared := at' 8 4, ovr := at' 14 1 % 2 == 1, layers := layersOf (bs.drop 64),
    mis := (List.range (at' 12 2)).map (fun i => misOf (bs.drop (2112 + 16 * i))) }

/-- This engine's report for a step. At the first step of a run no owner has compared digests of the step before, which every
seal then shows as committed: its owned shards count as compared (log entry 61). -/
def State.ownReport (s : State) (n first : Nat) : VoteRep :=
  { step := n, coord := s.group.coord.toNat,
    compared := if n = first then s.ownedShards.length else s.ues.foldl (fun a e => a + e.2.compared) 0,
    ovr := false, layers := (List.range 1024).map s.layerWord, mis := s.ues.flatMap (fun e => e.2.mis) }

def State.clearMis (s : State) : State := { s with ues := s.ues.map (fun e => (e.1, { e.2 with compared := 0, mis := [] })) }

/-! ## The Warden's messages -/

/-- Bytes to a device address at another engine, as WRITE messages of up to 64 cells, awaited by transfer `x`. -/
def State.wardenSend (s : State) (key x : Nat) (dst : BitVec 12) (dnode : Nat) (a : Word) (bs : List Byte) : Nat → State
  | 0 => s
  | n + 1 =>
    if bs.isEmpty then s
    else
      let part := bs.take 4096
      let cells := (part.length + 63) / 64
      let (id, s1) := s.await key x
      let m := { mkMessage s1 key .write dst dnode 0 id with
        ncell := cells, addr := a, payload := part ++ leBytes (64 * cells - part.length) 0 }
      State.wardenSend (s1.sendMessage nodeN16 m) key x dst dnode (a + 4096) (bs.drop 4096) n

/-- A transfer of the Warden for a step. -/
def State.wardenXfer (s : State) (key n : Nat) : Nat × State :=
  let (x, s1) := s.takeId
  (x, { s1 with xfers := s1.xfers ++ [⟨x, key, .report n, 0, 0, false, false, []⟩] })

/-- The manager cluster's slot `w` (R461). -/
def mgrSlot (j : JobDesc) (w : Nat) : Word :=
  let c := j.mgrcluster.getD (0, 0)
  BitVec.ofNat 64 (c.1 * 2 ^ 30 + c.2 * 2 ^ 26 + 65536 * w)

/-- The slot of this engine at its superior: its worker index, or under a head manager its group number (R454). -/
def State.ownSlot (s : State) (j : JobSt) : Nat := if s.isMgr then j.desc.groupNo else s.workerIdx s.group.coord

/-- A vote report goes to the manager above (R461). -/
def State.sendReport (s : State) (j : JobSt) (m : BitVec 12) (bs : List Byte) : State :=
  let (x, s0) := s.wardenXfer wardenKey j.step
  let s1 := { s0 with group := { s0.group with reportOut := some (bs.length, BitVec.ofNat 32 (crc32 bs)) } }
  let c := j.desc.mgrcluster.getD (0, 0)
  s1.wardenSend wardenKey x m (nodeOfCl (10 * c.1 + c.2)) (mgrSlot j.desc (s.ownSlot j)) bs 20

/-! ## Applying a result (R464) -/

def s8 (n : Nat) : Int := (BitVec.ofNat 8 n).toInt
def u8 (i : Int) : Nat := (i % 256).toNat

/-- The new G of a scale-table entry and whether the rule called for a change that ends at a bound (R378). -/
def scaleRule (g gmin gmax : Int) (tgt w : Nat) : Int × Bool :=
  let maxexp : Int := (w % 256 : Nat)
  let want :=
    if w / 1024 % 2 = 1 then g - 1
    else if w / 512 % 2 = 0 then g
    else if maxexp < (tgt : Int) - 1 then g + 1
    else if maxexp > (tgt : Int) + 1 then g - 1
    else g
  let g' := min gmax (max gmin want)
  (g', want != g && (g' == gmin || g' == gmax))

/-- The entry of layer `l` after the commit of step `n`: its bytes, and the event's G where one is written. -/
def scaleEntry (n w : Nat) (bs : List Byte) : List Byte × Option Int :=
  let at' (i : Nat) : Nat := (bs.getD i 0).toNat
  let fl := at' 11
  let r := scaleRule (s8 (at' 6)) (s8 (at' 8)) (s8 (at' 9)) (at' 10) w
  let en := fl % 2 = 1
  let q := at' 12 + 256 * at' 13
  let q' := if fl / 2 % 2 = 1 ∧ w / 256 % 2 = 1 then (if w / 512 % 2 = 0 then min (q + 1) 4095 else 0) else q
  (leBytes 6 (n + 1) ++ (if en then [BitVec.ofInt 8 r.1, BitVec.ofNat 8 (at' 6)] else [BitVec.ofNat 8 (at' 6), BitVec.ofNat 8 (at' 7)]) ++
    (bs.drop 8).take 4 ++ leBytes 2 q' ++ (bs.drop 14).take 2, if en ∧ r.2 then some r.1 else none)

/-- The Warden's quiet record of a layer, for an entry with QEN and ACTIVE (R381). -/
def State.quietStep (s : State) (l n w q : Nat) : State :=
  if w / 512 % 2 = 1 then { s with quiet := Tbl.drop s.quiet (· == l) }
  else
    let x := match s.quiet.find? (·.1 == l) with | some e => e.2 | none => (⟨n, 0⟩ : Quiet)
    let lim := if q = 0 then 64 else q
    if x.run + 1 ≥ lim then
      { s with quiet := Tbl.put s.quiet l { x with run := 0 } }.emit 0x1103 srcWarden uidWarden [(2, l), (2, lim), (6, x.first)]
    else { s with quiet := Tbl.put s.quiet l { x with run := x.run + 1 } }

/-- One entry of the scale table on a commit. -/
def State.scaleLayer (s : State) (off n l w : Nat) : State :=
  let a := BitVec.ofNat 64 (lakeKey (off + 16 * l))
  match s.wardenRead a 16 with
  | (s0, none) => s0
  | (s0, some bs) =>
    let (nb, ev) := scaleEntry n w bs
    let s1 := s0.wardenWrite a nb
    let s2 := match ev with
      | some g => s1.emit 0x1107 srcWarden uidWarden [(2, l), (1, u8 g)]
      | none => s1
    if (bs.getD 11 0).toNat / 2 % 2 = 1 ∧ w / 256 % 2 = 1 then
      s2.quietStep l n w ((bs.getD 14 0).toNat + 256 * (bs.getD 15 0).toNat)
    else s2

def State.scaleAll (s : State) (n : Nat) (ws : List Nat) : State :=
  match s.scaleOff with
  | none => s
  | some off => ws.zipIdx.foldl (fun t e => t.scaleLayer off n e.2 e.1) s

/-- Every entry's STEP is rewritten (R379). -/
def State.scaleStep (s : State) (step : Nat) : State :=
  match s.scaleOff with
  | none => s
  | some off => (List.range 1024).foldl (fun t l =>
      t.wardenWrite (BitVec.ofNat 64 (lakeKey (off + 16 * l))) (leBytes 6 step)) s

/-- A commit of step `n` with the combined layer summary: scale table, quiet layers, `UEVOTE`, in this order. -/
def State.commitStep (s : State) (n : Nat) (ws : List Nat) : State :=
  let s1 := (s.scaleAll n ws).noteResult n 0 0
  let s2 := s1.tellUes (fun x => { x with commit := BitVec.ofNat 48 n, valid := true, vpoison := false })
  { s2 with job := s2.job.map (fun j => { j with lastCommit := some n }) }

/-- The result window of the Warden area (R433, R464). -/
def resultOff (s : State) : Nat := wardenBase s + 0x0F000000

/-- The result block as the Warden reads it in this engine's window. -/
def State.resultBlock (s : State) (nrep : Nat) : State × Option (List Byte) :=
  s.wardenRead (lakeAddr (resultOff s)) (2048 + 16 * nrep)

/-- A result reaches an engine (R464). A block that does not agree with RESCRC is a detection (log entry 62). A step that does not
commit is fenced: the restart follows. -/
def State.applyResult (s : State) (n v nrep : Nat) (crc : BitVec 32) : State :=
  if v = 1 then (s.voidStep n 1 0).raiseFence 0
  else match s.resultBlock nrep with
    | (s1, none) => s1
    | (s1, some blk) =>
      if crc32 blk != crc.toNat then s1.detect 0x4208 srcWarden uidWarden []
      else if v = 0 then s1.commitStep n (layersOf blk)
      else (s1.voidStep n v nrep).raiseFence 0

/-! ## The manager's decision (R463) -/

/-- The digest held by more than half of a shard's replicas in one report. -/
def majority (es : List (Nat × Nat × Bool × Nat)) : Option Nat :=
  (es.map (·.2.2.2)).find? (fun d => decide (2 * (es.filter (·.2.2.2 == d)).length > es.length))

/-- Mismatched shards of a report, with their entries. -/
def misShards (r : VoteRep) : List (Nat × List (Nat × Nat × Bool × Nat)) :=
  ((r.mis.map (·.1)).eraseDups).map (fun sh => (sh, r.mis.filter (·.1 == sh)))

/-- Repairs of a mismatched shard: the shard, the minority replica and a majority replica. -/
def repairsOf (sh : Nat) (es : List (Nat × Nat × Bool × Nat)) : List (Nat × Nat × Nat) :=
  match majority es with
  | none => []
  | some d =>
    let good := (es.find? (·.2.2.2 == d)).map (·.2.1)
    (es.filter (·.2.2.2 != d)).map (fun e => (sh, e.2.1, good.getD 0))

/-- The verdict over all reports, the repair list, and the shards without a majority. -/
def verdictOf (total : Nat) (rs : List VoteRep) : Nat × List (Nat × Nat × Nat) × List Nat :=
  let shards := rs.flatMap misShards
  let none' := (shards.filter (fun e => (majority e.2).isNone)).map (·.1)
  let reps := shards.flatMap (fun e => repairsOf e.1 e.2)
  if rs.foldl (fun a r => a + r.compared) 0 != total || rs.any (·.ovr) || !none'.isEmpty || decide (reps.length > 3968) then (3, [], none')
  else if shards.isEmpty then (0, [], [])
  else (2, reps, [])

/-- An entry of the repair list in the MIS layout: the minority replica in [47:32], the majority replica in [79:64] (log entry
63). -/
def repairBytes (e : Nat × Nat × Nat) : List Byte := leBytes 8 (e.1 + 2 ^ 32 * e.2.1) ++ leBytes 8 e.2.2
def repairOf (bs : List Byte) : Nat × Nat × Nat :=
  (leNat (bs.take 4), leNat ((bs.drop 4).take 2), leNat ((bs.drop 8).take 2))

/-- A result goes out as a cell, to the group and to the groups below, and this engine acts on it. -/
def State.finishResult (s : State) (n v nrep : Nat) : State :=
  match s.resultBlock nrep with
  | (s0, none) => s0
  | (s0, some blk) =>
    let crc := BitVec.ofNat 32 (crc32 blk)
    let g := s0.group
    let s1 := { s0 with group := { g with verdictOut := none, lastVerdict := v, sentV := if v = 0 then some n else g.sentV } }
    let body : CellBody := .result n (Fin.ofNat 4 v) nrep crc
    ((s1.broadcast body).toGroups (g.voted n) body).applyResult n v nrep crc

/-- The result block is written into every engine's result window; the cell follows the last acknowledgement. -/
def State.sendResult (s : State) (n v nrep : Nat) (blk : List Byte) : State :=
  let a := lakeAddr (resultOff s)
  let s0 := s.wardenWrite a blk
  let others := s0.peers.map (·.toNat) ++ (s0.group.voted n).filter (fun c => !(s0.group.coord :: s0.peers).any (fun d => d.toNat == c))
  if others.isEmpty then s0.finishResult n v nrep
  else
    let (x, s1) := s0.wardenXfer resultKey n
    let dn := nodeOfStack (lakeLoc s.slots (resultOff s)).1
    others.foldl (fun t c => t.wardenSend resultKey x (BitVec.ofNat 12 c) dn a blk 20)
      { s1 with group := { s1.group with verdictOut := some (v, nrep) } }

/-- The report of a vote as it stands in the manager cluster's pond: in the slot that shows the voter's step and coordinate; none
when the Warden cannot read it or it does not agree with the vote. -/
def State.readReport (s : State) (j : JobDesc) (v : Vote) : State × Option VoteRep :=
  match (List.range 64).find? (fun w => s.natAt (mgrSlot j w).toNat 6 == v.step && s.natAt ((mgrSlot j w).toNat + 6) 2 == v.coord.toNat) with
  | none => (s, none)
  | some w =>
    match s.wardenRead (mgrSlot j w) v.repLen with
    | (s1, some bs) =>
      (s1, if decide (2112 ≤ v.repLen) && decide (v.repLen ≤ 65536) && crc32 bs == v.repCrc.toNat then some (voteRepOf bs) else none)
    | (s1, none) => (s1, none)

/-- The reports of votes that read well. -/
def State.readReports (s : State) (j : JobDesc) : List Vote → State × List VoteRep
  | [] => (s, [])
  | v :: r =>
    let (s1, x) := s.readReport j v
    let (s2, l) := State.readReports s1 j r
    (s2, x.toList ++ l)

/-- Every vote for the step is in (R463): the manager cluster's verdict, or under a head manager the group's report. -/
def State.mgrDecide (s : State) (j : JobSt) : State :=
  let n := j.step
  let votes := s.group.votes.filter (·.step == n)
  if !s.allIn (votes.map (·.coord.toNat)) || s.group.poisonStep = some n || s.group.verdictOut.isSome || s.group.last.toNat = n then s
  else
    let (s, rs) := s.readReports j.desc votes
    if rs.length ≠ votes.length then s.detect 0x4208 srcWarden uidWarden []
    else
      let layers := (List.range 1024).map (fun l => rs.foldl (fun a r => layerJoin a (r.layers.getD l 0)) 0)
      match s.superior with
      | some h =>
        s.sendReport j h ({ step := n, coord := s.group.coord.toNat, compared := rs.foldl (fun a r => a + r.compared) 0,
                            ovr := rs.any (·.ovr), layers := layers, mis := rs.flatMap (·.mis) } : VoteRep).bytes
      | none =>
        let total := j.desc.shards.length * (1 + s.otherGroups)
        let (v, reps, lost) := verdictOf total rs
        let s1 := if rs.foldl (fun a r => a + r.compared) 0 != total then s.emit 0x2403 srcWarden uidWarden [] else s
        let why := if v = 3 && lost.isEmpty then (rs.flatMap misShards).map (·.1) else lost
        let s2 := why.foldl (fun t sh => t.emit 0x2402 srcWarden uidWarden [(4, sh)]) s1
        s2.sendResult n v reps.length (layerBytes layers ++ reps.flatMap repairBytes)

/-- A vote reaches the manager. -/
def State.takeVote (s : State) (v : Vote) : State :=
  match s.job with
  | none => s
  | some j =>
    if v.step ≠ j.step || s.safety.fence then s
    else
      let keep := s.group.votes.filter (fun w => w.step == j.step && w.coord != v.coord)
      { s with group := { s.group with votes := keep ++ [v] } }.mgrDecide j

/-! ## Casting the vote (R460, R461, R361) -/

/-- The vote of this engine for its step. -/
def State.castVote (s : State) (j : JobSt) : State :=
  let n := j.step
  let rep := s.ownReport n j.first
  let s1 := { s.clearMis with job := some { j with voted := true, clearAt := none } }
  if s1.groupSize = 1 && s1.superior.isNone then s1.commitStep n rep.layers
  else
    let bs := rep.bytes
    if s1.isMgr then
      let s2 := s1.wardenWrite (mgrSlot j.desc (s1.workerIdx s1.group.coord)) bs
      { s2 with group := { s2.group with waiting := true } }.takeVote ⟨s2.group.coord, n, bs.length, BitVec.ofNat 32 (crc32 bs)⟩
    else s1.sendReport j s1.group.mgr bs

/-- Every message of the Warden for a step is acknowledged (R461, R464): the vote cell follows the report, the result cell follows the
result blocks. One that was refused is followed by nothing. -/
def State.reportOn (s : State) (step owner : Nat) (err : Bool) : State :=
  match s.job, s.superior with
  | some j, sup =>
    if err || s.safety.fence || j.poisoned || j.step ≠ step then s
    else if owner = wardenKey then
      match s.group.reportOut, sup with
      | some (len, crc), some m =>
        { s with group := { s.group with reportOut := none, waiting := true } }.sendCell m (.vote step len crc)
      | _, _ => s
    else match s.group.verdictOut with
      | some (v, k) => s.finishResult step v k
      | none => s
  | none, _ => s

/-- The last SLUDONE is CLEARWIN µs past, no detection has been reported, and every owned seal shows step n − 1. -/
def execClearWindowExpiry (s : State) : Host.Outcome State Fault Refusal :=
  .next (
    match s.job with
    | none => s
    | some j =>
      match j.clearAt with
      | none => s
      | some t =>
        if s.ref < t || s.safety.fence || j.poisoned || j.voted || j.state != 2 || !s.safety.queue.isEmpty then s
        else match s.sealedAll (j.step - 1) with
          | (s1, true) => s1.castVote j
          | (s1, false) => s1)

end Sys2Proof.Machine
end

