-- ==== Sys2Proof/Machine/Restart.lean ====
section
/-! DEFINITION. The restart after a fence: reading seals (Table 10.7), recovery from them (R363, R364, R467), the checkpoint
restore (R413, R484), filling a spare (R472), and the end of recovery (R488). -/

namespace Sys2Proof.Machine

open Sys2Proof

/-! ## Seals (Table 10.7) -/

/-- What a shard's seal asks for. -/
inductive SealNeed where
  | none | full | roll | digest | ask | wait | ckpt
  deriving DecidableEq, Repr

/-- PASS = 1 on an owner is looked at before CSTEP = V (log entry 65). -/
def sealNeed (q : Option Seal) (owned : Bool) (job sh v : Nat) : SealNeed :=
  match q with
  | none => .ckpt
  | some q =>
    let near (x : Nat) : Bool := x == v || x + 1 == v
    if q.job != job || q.shard != sh || !(near q.sstep && near q.hstep && near q.cstep) then .ckpt
    else if owned && q.pass then .ckpt
    else if q.cstep == v then .none
    else if q.hstep == v then (if owned then .digest else .ckpt)
    else if q.sstep == v then (if owned then .roll else .ask)
    else if owned then .full else .wait

/-- Every seal that this engine holds, read and classed for the step V. -/
def State.classify (s : State) (j : JobSt) (v : Nat) : State × List (ShardEnt × SealNeed) :=
  j.desc.shards.foldl (fun (acc : State × List (ShardEnt × SealNeed)) e =>
    let (t, q) := acc.1.readSeal e.shard srcWarden uidWarden
    (t, acc.2 ++ [(e, sealNeed q (e.owner == t.group.coord) j.desc.jobid.toNat e.shard v)])) (s, [])

/-- The record of the seal that forces the checkpoint (R364). -/
def State.forceEvent (s : State) (e : ShardEnt) : State :=
  let q := sealOf (s.bytesAt (sealAddr s e.shard).toNat 64)
  s.emit 0x5202 srcWarden uidWarden [(4, e.shard), (6, q.sstep), (6, q.hstep), (6, q.cstep), (1, b2n q.pass)]

/-! ## Recovery of one shard -/

/-- The full update of step V from the inbox: the job's update program on every record. -/
def State.fullUpdate (s : State) (j : JobSt) (v : Nat) (e : ShardEnt) : State :=
  let x := s.ue e.stack
  match x.shardOf e.shard with
  | none => s
  | some y =>
    let u := ueUnit e.stack
    let (sa, b1) := s.eccRead y.state (256 * e.nblk) u
    let (sb, b2) := sa.eccRead (x.inboxAddr e.shard 0) (64 * e.nblk) u
    if b1.isSome || b2.isSome then sb
    else
      let recs := (List.range (32 * e.nblk)).flatMap (fun i =>
        let g := blockElem (blockOf (sb.bytesAt (x.inboxAddr e.shard (i / 32)).toNat 64)) (i % 32)
        leBytes 8 (Config.updateRecord j.desc.jobid v e.shard i (sb.natAt (y.state.toNat + 8 * i) 8) g))
      let s1 := (sb.eccWrite y.state (present recs) u).1
      s1.ueReseal e.stack e.shard (fun q => { q with sstep := v, mscale := Config.updateScale j.desc.jobid v e.shard })

/-- Heads from the echoes, then HSTEP; the shard's record 0x5201. -/
def State.rollForward (s : State) (v : Nat) (e : ShardEnt) : State :=
  match (s.ue e.stack).shardOf e.shard with
  | none => s
  | some y =>
    let u := ueUnit e.stack
    match s.eccRead y.state (256 * e.nblk) u with
    | (s1, some _) => s1
    | (s0, none) =>
      let heads := (List.range (32 * e.nblk)).flatMap (fun i => s0.bytesAt (y.state.toNat + 8 * i + 6) 2)
      let s1 := (s0.eccWrite y.head (present heads) u).1
      (s1.ueReseal e.stack e.shard (fun q => { q with hstep := v })).emit 0x5201 srcWarden uidWarden [(4, e.shard)]

/-- `udig` and the all-gather. -/
def State.gatherShard (s : State) (v : Nat) (e : ShardEnt) : State :=
  match (s.ue e.stack).shardOf e.shard with
  | none => s
  | some y =>
    match s.digestAt y.head e.nblk (ueUnit e.stack) with
    | (s1, _, true) => s1
    | (s1, d, false) => (s1.ueReseal e.stack e.shard (fun q => { q with digest := d })).gatherAll e.stack e.shard v

def State.recoverShard (s : State) (j : JobSt) (v : Nat) (x : ShardEnt × SealNeed) : State :=
  let e := x.1
  match x.2 with
  | .full => ((s.fullUpdate j v e).rollForward v e).gatherShard v e
  | .roll => (s.rollForward v e).gatherShard v e
  | .digest => s.gatherShard v e
  | .ask => s.ueSend e.stack e.owner 0 (.gatherRequest e.shard v)
  | _ => s

/-! ## Beginning a restart -/

/-- Inboxes of owned shards are marked complete for V (R364). -/
def State.fillInboxes (s : State) (v : Nat) : State :=
  s.tellUes (fun x => { x with inbox := x.owned.foldl (fun t e =>
    Tbl.put t e.shard (⟨e.nblk, e.nblk * (e.nblk - 1) / 2 % 2 ^ 32, v⟩ : Inbox)) x.inbox })

/-- Every owned shard is sealed at V: its inbox waits for the blocks of step V + 1 (R350). -/
def State.freeInboxes (s : State) (v : Nat) : State :=
  s.tellUes (fun x => { x with inbox := x.owned.foldl (fun t e => Tbl.put t e.shard (⟨0, 0, v + 1⟩ : Inbox)) x.inbox })

/-- The restart clears the compute state, loads the job again, and sets V (R468). -/
def State.beginRestart (s : State) (j : JobSt) (v first : Nat) (ck : Bool) : State :=
  let g := s.group
  let com := decide (j.desc.firstStep ≤ v)
  let s1 := s.clearCompute
  let s2 := { s1 with lkSuspect := false, group := { s1.group with
    reports := g.reports, nrepair := g.nrepair, lastVerdict := 0, sentV := if com then some v else none } }
  let s3 := s2.loadJob { j with state := 4, needCkpt := false, lastCommit := if com then some v else none } first
  ({ s3 with group := { s3.group with recover := some (v, ck) } }.tellUes
    (fun x => { x with commit := BitVec.ofNat 48 v, valid := com, vpoison := false })).fillInboxes v

/-! ## The end of recovery -/

/-- A manager counts an engine that has recovered; when all have, the first step may be released (R468). -/
def State.mgrDone (s : State) (v : Nat) (c : BitVec 12) : State :=
  let g := s.group
  let l := if g.dones.contains c.toNat then g.dones else g.dones ++ [c.toNat]
  let s1 := { s with group := { g with dones := l } }
  if !s1.allIn l then s1
  else
    let s2 := match s1.superior with
      | some h => s1.sendCell h (.recoveryDone v)
      | none => s1
    { s2 with group := { s2.group with reports := [], dones := [] } }.mgrTry 0

/-- Owned shards whose exchange is over are sealed. -/
def State.sealRecovered (s : State) (v : Nat) : State :=
  s.ownedShards.foldl (fun t e =>
    match t.readSeal e.shard (uePol e.stack) (ueUnit e.stack) with
    | (t1, none) => t1
    | (t1, some q) =>
      let x := t1.ue e.stack
      if q.hstep = v ∧ q.cstep ≠ v ∧ (t1.peers.all (fun c => x.gathers.any (fun g => g.shard == e.shard && g.peer == c.toNat && g.stage == 3))) then
        (t1.ueSeal e.stack e.shard { q with cstep := v }).compareDigests e.stack e.shard q.digest
      else t1) s

/-- Does every seal of this engine stand at V? -/
def State.allSealed (s : State) (j : JobSt) (v : Nat) : State × Bool :=
  s.sealsAll (fun q => q.sstep == v && q.hstep == v && q.cstep == v && !q.pass) (j.desc.shards.map (·.shard))

/-- Recovery goes on: sealed shards, and when every seal stands at V and no repair is left, the fence is lowered and the manager is
told. -/
def State.recoverOn (s : State) : State :=
  match s.job, s.group.recover with
  | some j, some (v, _) =>
    if j.state ≠ 4 then s
    else
      let (s1, done) := (s.sealRecovered v).allSealed j v
      if !done || !s1.group.repairs.isEmpty then s1
      else
        let free := (s1.freeInboxes v).lowerFence
        let s2 := { free with
          job := some { j with state := 2, subst := false }
          group := { free.group with recover := none, nrepair := 0 } }
        if s2.isMgr then s2.mgrDone v s2.group.coord else s2.sendCell s2.group.mgr (.recoveryDone v)
  | _, _ => s

/-! ## Replica repair (R467) and filling a spare (R472) -/

/-- The repair list of the last result, as far as it names this engine. -/
def State.ownRepairs (s : State) : List (Nat × Nat) :=
  let base := lakeKey (resultOff s) + 2048
  ((List.range s.group.nrepair).map (fun i => repairOf (s.bytesAt (base + 16 * i) 16))).filterMap
    (fun e => if e.2.1 = s.group.coord.toNat then some (e.1, e.2.2) else none)

def State.stackOfShard (s : State) (sh : Nat) : Nat :=
  match s.job with
  | some j => match j.desc.shards.find? (·.shard == sh) with | some e => e.stack | none => 0
  | none => 0

/-- Ask other engines for the heads of shards, by shard and coordinate. -/
def State.askRepairs (s : State) (v : Nat) (l : List (Nat × Nat)) : State :=
  let s1 := { s with group := { s.group with repairs := l.map (·.1) } }
  l.foldl (fun t e => t.ueSend (t.stackOfShard e.1) (BitVec.ofNat 12 e.2) 0 (.gatherRequest e.1 v)) s1

/-- The heads of a shard that was asked for are in: a minority owner rewrites its echoes; a spare writes the records of an owned
shard and seals it with scale 0. -/
def State.repairDone (s : State) (sh : Nat) : State :=
  match s.job with
  | none => s
  | some j =>
    match j.desc.shards.find? (·.shard == sh) with
    | none => s
    | some e =>
      let s0 := { s with group := { s.group with repairs := s.group.repairs.filter (· != sh) } }
      match (s0.ue e.stack).shardOf sh with
      | none => s0
      | some y =>
        let u := ueUnit e.stack
        let (sr, bad) := s0.eccRead y.head (64 * e.nblk) u
        let echo (i : Nat) : List (Option Byte) :=
          List.replicate 6 (if j.subst then some 0 else none) ++ present (sr.bytesAt (y.head.toNat + 2 * i) 2)
        let s1 := if y.owned && bad.isNone then (sr.eccWrite y.state ((List.range (32 * e.nblk)).flatMap echo) u).1 else sr
        if j.subst then
          (s1.ueReseal e.stack sh (fun q => { q with mscale := 0, nmscale := 0, pass := false })).emit 0x7402 srcWarden uidWarden [(4, sh)]
        else s1.emit 0x2401 srcWarden uidWarden [(4, sh)]

/-- A seal of this engine for a shard, sealed at a step. -/
def freshSeal (j : JobSt) (own : BitVec 12) (e : ShardEnt) (n : Nat) : Seal :=
  ⟨n, n, n, 0, 0, false, e.owner == own, e.stack, e.nblk - 1, 0, j.desc.jobid.toNat, e.shard⟩

/-- A spare's Lake in a sealed restart: seals one step back, mirrors asked of the owners, owned shards of a majority replica;
with none, the job ends. -/
def State.fillSpare (s : State) (j : JobSt) (v : Nat) : State :=
  let own := s.group.coord
  let s1 := j.desc.shards.foldl (fun t e => t.ueSeal e.stack e.shard (freshSeal j own e (v - 1))) s
  let mine := j.desc.shards.filter (fun e => e.owner == own)
  let src := mine.map (fun e => (e.shard, Config.majorityPeer j.desc.jobid v e.shard))
  if src.any (fun e => e.2.isNone) then (s1.emit 0x7403 srcWarden uidWarden []).endJob 5
  else
    let s2 := (j.desc.shards.filter (fun e => e.owner != own)).foldl (fun t e =>
      t.ueSend e.stack e.owner 0 (.gatherRequest e.shard v)) s1
    s2.askRepairs v (src.map (fun e => (e.1, (e.2.getD 0).toNat)))

/-- A sealed restart at V + 1 (R363, R467, R472). -/
def State.sealedRestart (s : State) (j : JobSt) (v first : Nat) : State :=
  let reps := s.ownRepairs
  let s1 := s.beginRestart j v first false
  if j.subst then ((s1.fillSpare j v).scaleStep (v + 1)).recoverOn
  else
    let (s2, l) := s1.classify j v
    match l.find? (·.2 == .ckpt) with
    | some e => { s2.forceEvent e.1 with job := some { j with state := 3, needCkpt := true },
                                         group := { s2.group with recover := none } }
    | none =>
      let s3 := l.foldl (fun t x => t.recoverShard j v x) s2
      ((s3.scaleStep (v + 1)).askRepairs v reps).recoverOn

/-! ## The checkpoint restore -/

/-- Cold blocks written since the manifest go back to its generation (R413, R415). -/
def State.coldBack (s : State) : State :=
  let m := s.flash.savedBlks.foldl (fun m b => memClear m (flashKey 5 (4096 * b)) 4096) s.mem
  let m1 := s.flash.saved.foldl (fun m c => memPut m c.1 c.2) m
  { s with mem := m1, flash := { s.flash with saved := [], savedBlks := [] } }

/-- Restore one owned shard of ordinal `o` from a slot: records, heads, seal; the answer says whether the digest agrees (R484). -/
def State.restoreShard (s : State) (key : BitVec 512) (part tail o v : Nat) (e : ShardEnt) : State × Bool :=
  let base := 20 * 2 ^ 20 * o
  let recs := s.flRead key part base (256 * e.nblk)
  let heads := s.flRead key part (base + 2 ^ 24) (64 * e.nblk)
  let q := sealOf (s.flRead key part (tail + 64 * o) 64)
  match planeBase s 2 e.shard, planeBase s 1 e.shard with
  | some sb, some hb =>
    let s1 := s.wardenWrite (lakeAddr sb) recs
    let s2 := s1.wardenWrite (lakeAddr hb) heads
    (s2.writeSeal e.shard { q with sstep := v, hstep := v, cstep := v, pass := false, owned := true } uidWarden,
      crc64 heads == q.digest)
  | _, _ => (s, true)

/-- The restore of a slot whose manifest is `m`. -/
def State.restoreSlot (s : State) (key : BitVec 512) (slot : Bool) (m : Manifest) (j : JobSt) (v : Nat) : State × Bool :=
  let part := slotPart slot
  let own := s.ownedShards
  let (s1, ok) := own.zipIdx.foldl (fun (acc : State × Bool) e =>
    let (t, g) := acc.1.restoreShard key part m.tail e.2 v e.1
    (t, acc.2 && g)) (s.coldBack, true)
  let table := s1.flRead key part (m.tail + 64 * own.length) 16384
  let s2 := match s1.scaleOff with
    | some o => s1.wardenWrite (lakeAddr o) table
    | none => s1
  let mirrors := j.desc.shards.filter (fun e => e.owner != s.group.coord)
  (mirrors.foldl (fun t e => t.writeSeal e.shard (freshSeal j s.group.coord e (v - 1)) uidWarden) s2, ok)

/-- A restart from flash (R411, R413, R484, R591): a job whose key is not installed ends; a slot whose digests differ is unusable
and the restart begins anew. -/
def State.checkpointRestart (s : State) (j : JobSt) (v first : Nat) : State :=
  let hit (b : Bool) : Option (Bool × Manifest) := match s.manifest b with
    | some m => if m.step = v ∧ m.job = j.desc.jobid.toNat then some (b, m) else none
    | none => none
  match (hit true).orElse (fun _ => hit false) with
  | none => s.endJob 5
  | some (slot, m) =>
    match s.sec.keys.find? (fun e => e.1 == m.keyid) with
    | none => (s.emit 0x6303 srcWarden uidWarden [(4, m.keyid)]).endJob 5
    | some (_, key) =>
      let s1 := s.beginRestart j v first true
      match Config.slotLost slot s.ref with
      | some off =>
        (s1.emit 0x5401 (flPolder (flChanAt off)) (uidFlash (flChanAt off)) [(1, slotPart slot), (8, off)]).endJob 3
      | none =>
      let (s2, ok) := s1.restoreSlot key slot m j v
      if !ok then
        let s3 := s2.emit 0x250A srcWarden uidWarden [(1, b2n slot), (6, v)]
        { s3 with flash := { s3.flash with dead := m.seq :: s3.flash.dead }, group := { s3.group with recover := none },
                  job := some { j with state := 3, needCkpt := true } }.flashScan
      else
        let s3 := { s2.scaleStep (v + 1) with flash := { s2.flash with coldGen := v } }
        (s3.ownedShards.foldl (fun t e => t.gatherAll e.stack e.shard v) s3).recoverOn

/-- The decision on this engine: sealed, checkpoint (a job that names no key then ends, R591), or ended. -/
def State.applyDecision (s : State) (mode v first : Nat) : State :=
  match s.job with
  | none => s
  | some j =>
    match mode with
    | 0 => s.sealedRestart j v first
    | 1 => if j.desc.keyid = 0 then (s.emit 0x6303 srcWarden uidWarden [(4, 0)]).endJob 5 else s.checkpointRestart j v first
    | _ => s.endJob 5

/-! ## The manager's decision (R468, R411, R471) -/

def State.sendDecision (s : State) (mode v : Nat) : State :=
  let body : CellBody := .restartDecision (Fin.ofNat 3 mode) v (v + 1)
  ((s.broadcast body).toGroups (s.group.reports.map (·.coord.toNat)) body).applyDecision mode v (v + 1)

/-- The decision from every engine's report. -/
def State.decideRestart (s : State) (j : JobSt) (rs : List RestartRep) : State :=
  let need := rs.any (·.needCkpt) || s.group.lastVerdict == 3
  let v := s.group.sentV.getD (j.lastCommit.getD (j.desc.firstStep - 1))
  if need && rs.any (·.subst) then (s.emit 0x7403 srcWarden uidWarden []).sendDecision 2 v
  else if need then
    let m := rs.foldl (fun a r => min a r.manifest) (2 ^ 48)
    s.sendDecision 1 m
  else s.sendDecision 0 v

/-- Every engine has reported and is ready: the manager decides, or reports to the head manager. -/
def State.mgrRestart (s : State) : State :=
  match s.job with
  | none => s
  | some j =>
    let rs := s.group.reports
    if !s.allIn (rs.map (·.coord.toNat)) || rs.any (fun r => !r.ready) then s
    else match s.superior with
      | some h => s.sendCell h (.restartReport (rs.foldl (fun a r => max a r.v) 0) (rs.any (·.needCkpt) || s.group.lastVerdict == 3)
          (rs.any (·.subst)) true (rs.foldl (fun a r => min a r.manifest) (2 ^ 48 - 1)))
      | none => s.decideRestart j rs

/-- A restart report reaches the manager; one of a substituted engine ends a job whose `SPAREOK` is 0. -/
def State.takeRestart (s : State) (r : RestartRep) : State :=
  let g := s.group
  let s1 := { s with group := { g with reports := g.reports.filter (fun (x : RestartRep) => x.coord != r.coord) ++ [r], votes := [], verdictOut := none,
                                       dones := [] } }
  match s1.job with
  | none => s1
  | some j =>
    if r.subst && j.desc.spareok = 0 then (s1.emit 0x7403 srcWarden uidWarden []).sendDecision 2 0 else s1.mgrRestart

/-- The restart report of this engine. -/
def State.sendRestart (s : State) (j : JobSt) (need ready : Bool) : State :=
  let v := j.lastCommit.getD (j.desc.firstStep - 1)
  if s.isMgr then s.takeRestart ⟨s.group.coord, v, need, j.subst, ready, s.manifestStep⟩
  else s.sendCell s.group.mgr (.restartReport v need j.subst ready s.manifestStep)

/-- A worker brings in reserves, reads its seals and reports (R468, R469, R525). The seals are read over routes that firmware has written
for the nodes that are up (R281). -/
def State.restart (s : State) (j : JobSt) : State :=
  let (s0, changed) := s.bringReserves
  let s1 := s0.reroute.takeMeasures [3, 5, 6]
  let v := j.lastCommit.getD (j.desc.firstStep - 1)
  let (s2, l) := if j.subst then (s1, []) else s1.classify j v
  let bad := l.find? (·.2 == .ckpt)
  let s3 := match bad with | some e => s2.forceEvent e.1 | none => s2
  let need := !j.subst && (bad.isSome || s3.lkSuspect || j.needCkpt || s0.job.any (·.needCkpt))
  let j1 := { j with state := if changed then 5 else 4, needCkpt := need }
  { s3 with job := some j1 }.sendRestart j1 need (!changed)

end Sys2Proof.Machine
end

