-- ==== Sys2Proof/Machine/Group.lean ====
section
/-! DEFINITION. The control cells of a group (Table 14.1, Table 14.4) and the all-gather's messages at a replica and an owner
(Table 10.6), with the timeouts of R470 and the designation of checkpoints (R473). -/

namespace Sys2Proof.Machine

open Sys2Proof

/-! ## Votes, results, poison, fence -/

def execCommitVoteCell (p : Fin 56) (c : CtlCell) (bad : Bool) (s : State) : Host.Outcome State Fault Refusal :=
  .next (match c.body with
    | .vote step len crc => s.onCell p.val c bad (fun t => if t.isMgr then t.takeVote ⟨c.src, step, len, crc⟩ else t)
    | _ => s)

/-- A result from the manager: a group's manager passes it to its own group first (R454). -/
def State.takeResult (s : State) (n v nrep : Nat) (crc : BitVec 32) : State :=
  match s.job with
  | none => s
  | some j =>
    if j.step ≠ n then s.noteResult n v nrep
    else if s.isMgr && v != 1 && decide (s.groupSize > 1) then
      match s.resultBlock nrep with
      | (s1, some blk) => s1.sendResult n v nrep blk
      | (s1, none) => s1
    else if s.isMgr then (s.broadcast (.result n (Fin.ofNat 4 v) nrep crc)).applyResult n v nrep crc
    else s.applyResult n v nrep crc

def execCommitResultCell (p : Fin 56) (c : CtlCell) (bad : Bool) (s : State) : Host.Outcome State Fault Refusal :=
  .next (match c.body with
    | .result n v nrep crc => s.onCell p.val c bad (fun t => t.fromSuperior c (fun u => u.takeResult n v.val nrep crc))
    | _ => s)

/-- The manager takes a poison cell (R465, Table 14.5): a step that is committed counts as the current one. -/
def State.mgrPoison (s : State) (step : Nat) (code : BitVec 16) (src : Nat) : State :=
  match s.job with
  | none => s
  | some j =>
    let n := match j.lastCommit with | some l => if step ≤ l then j.step else step | none => step
    if s.group.fencedStep = some n then s
    else
      let s1 := s.mgrFence n 0
      let s2 := match s1.superior with
        | some h => s1.sendCell h (.poison n code src)
        | none => s1
      s2.raiseFence code.toNat

def execPoisonCell (p : Fin 56) (c : CtlCell) (bad : Bool) (s : State) : Host.Outcome State Fault Refusal :=
  .next (match c.body with
    | .poison step code src => s.onCell p.val c bad (fun t => if t.isMgr then t.mgrPoison step code src else t)
    | _ => s)

/-- The manager's fence cell raises the fence; a group's manager passes it on. REASON 2 is a host's job end. -/
def State.takeFence (s : State) (step reason : Nat) : State :=
  let s1 := if s.isMgr then s.mgrFence step reason else s
  let s2 := s1.raiseFence 0
  if reason = 2 then s2.endJob 5 else s2

def execFenceCell (p : Fin 56) (c : CtlCell) (bad : Bool) (s : State) : Host.Outcome State Fault Refusal :=
  .next (match c.body with
    | .fence step reason => s.onCell p.val c bad (fun t => t.fromSuperior c (fun u => u.takeFence step reason))
    | _ => s)

/-- The manager receives a fault report; nothing more follows from it. -/
def execFaultReport (p : Fin 56) (c : CtlCell) (bad : Bool) (s : State) : Host.Outcome State Fault Refusal :=
  .next (match c.body with
    | .faultReport _ _ _ => s.onCell p.val c bad id
    | _ => s)

/-! ## Timeouts (R470) -/

def execVoteTimeoutManager (s : State) : Host.Outcome State Fault Refusal :=
  .next (
    let n := s.jobStep
    let l := s.group.voted n
    if !s.isMgr || l.isEmpty || s.allIn l || s.safety.fence || s.job.isNone then s
    else
      let missing := s.peers.filter (fun c => !l.contains c.toNat)
      ((s.emit 0x4401 srcWarden uidWarden ([(6, n)] ++ missing.map (fun c => (2, c.toNat)))).mgrFence n 1).raiseFence 0x4401)

/-- No result came: the manager is lost, and the job ends on this worker. -/
def execResultTimeoutWorker (s : State) : Host.Outcome State Fault Refusal :=
  .next (
    if !s.group.waiting || s.safety.fence || s.job.isNone || s.superior.isNone then s
    else ((s.emit 0x4403 srcWarden uidWarden [(6, s.jobStep)]).raiseFence 0x4403).endJob 5)

/-! ## Restart -/

def execWorkerRestart (s : State) : Host.Outcome State Fault Refusal :=
  .next (
    match s.job with
    | none => s
    | some j => if j.parked || j.state != 3 || !s.devUp || s.orderly.isSome then s else s.restart j)

def execRestartReport (p : Fin 56) (c : CtlCell) (bad : Bool) (s : State) : Host.Outcome State Fault Refusal :=
  .next (match c.body with
    | .restartReport v need subst ready man =>
      s.onCell p.val c bad (fun t => if t.isMgr then t.takeRestart ⟨c.src, v, need, subst, ready, man⟩ else t)
    | _ => s)

/-- A decision from the manager; a group's manager passes it on. -/
def State.takeDecision (s : State) (mode v first : Nat) : State :=
  (if s.isMgr then s.broadcast (.restartDecision (Fin.ofNat 3 mode) v first) else s).applyDecision mode v first

def execRestartDecision (p : Fin 56) (c : CtlCell) (bad : Bool) (s : State) : Host.Outcome State Fault Refusal :=
  .next (match c.body with
    | .restartDecision mode v first => s.onCell p.val c bad (fun t => t.fromSuperior c (fun u => u.takeDecision mode.val v first))
    | _ => s)

def execRecoveryDone (p : Fin 56) (c : CtlCell) (bad : Bool) (s : State) : Host.Outcome State Fault Refusal :=
  .next (match c.body with
    | .recoveryDone v => s.onCell p.val c bad (fun t => if t.isMgr then t.mgrDone v c.src else t)
    | _ => s)

/-- The manager learns that a spare has taken a coordinate. -/
def execSubstitutionNotice (p : Fin 56) (c : CtlCell) (bad : Bool) (s : State) : Host.Outcome State Fault Refusal :=
  .next (match c.body with
    | .substitution serial coord => s.onCell p.val c bad (fun t =>
        if t.isMgr then t.emit 0x7401 srcWarden uidWarden [(6, serial), (2, coord.toNat)] else t)
    | _ => s)

/-! ## Checkpoint designation (R473, R411) -/

/-- May this engine begin step `n` as a tee step? -/
def State.mayTee (s : State) (n : Nat) : Bool :=
  s.flash.teeStep.isNone && s.jobKey.isSome && decide (s.jobStep < n) && !s.safety.fence

/-- Accept or refuse; a refusal is recorded. -/
def State.answerTee (s : State) (n : Nat) : State × Bool :=
  if s.mayTee n then ({ s with flash := { s.flash with teeStep := some n, teeBegun := false } }, true)
  else (s.emit 0x7304 srcWarden uidWarden [(6, n)], false)

/-- The manager takes an answer. -/
def State.mgrAnswer (s : State) (n : Nat) (src : BitVec 12) (ok : Bool) : State :=
  if s.group.desig ≠ some n then s
  else if !ok then s.mgrCancel
  else
    let l := s.group.accepts ++ [src.toNat]
    let s1 := { s with group := { s.group with accepts := l } }
    if s1.allIn l then { s1 with group := { s1.group with desig := none, accepts := [] } }.endRunning 0x30 0 n else s1

/-- The manager designates a step (R473). -/
def State.designate (s : State) : State :=
  let n := s.jobStep + 2
  let s1 := { s with group := { s.group with desig := some n, accepts := [] } }.broadcast (.designation n)
  let (s2, ok) := s1.answerTee n
  s2.mgrAnswer n s2.group.coord ok

def execCheckpointDesignation (p : Fin 56) (c : CtlCell) (bad : Bool) (s : State) : Host.Outcome State Fault Refusal :=
  .next (match c.body with
    | .designation n => s.onCell p.val c bad (fun t =>
        if t.isMgr || c.src != t.group.mgr then t
        else if n = 0 then t.cancelTee
        else
          let (u, ok) := t.answerTee n
          u.sendCell u.group.mgr (.designationReply n ok))
    | _ => s)

def execDesignationReply (p : Fin 56) (c : CtlCell) (bad : Bool) (s : State) : Host.Outcome State Fault Refusal :=
  .next (match c.body with
    | .designationReply n ok => s.onCell p.val c bad (fun t => if t.isMgr then t.mgrAnswer n c.src ok else t)
    | _ => s)

/-! ## The all-gather's messages (Table 10.6, R467) -/

/-- A unit message reaches update engine `k`; recovery looks at what it brought. -/
def State.deliverUnit (s : State) (k : Nat) (m : Message) : State :=
  let s1 := s.unitMsg k m
  let s2 := match m.umsg with
    | .gatherClose sh _ => if s1.group.repairs.contains sh then s1.repairDone sh else s1
    | _ => s1
  s2.recoverOn

/-- The engine takes the first waiting message of a kind. -/
def State.takeUnitMsg (s : State) (k : Nat) (f : UnitMsg → Bool) : State :=
  if !s.ueRuns k then s
  else match s.unitAt k f with
    | some (i, m) => (s.dropPacket i).deliverUnit k m
    | none => s

def execGatherOpen (k : Fin 44) (s : State) : Host.Outcome State Fault Refusal :=
  .next (s.takeUnitMsg k.val (fun m => match m with | .gatherOpen _ _ => true | _ => false))
def execGatherClose (k : Fin 44) (s : State) : Host.Outcome State Fault Refusal :=
  .next (s.takeUnitMsg k.val (fun m => match m with | .gatherClose _ _ => true | _ => false))
def execGatherAck (k : Fin 44) (s : State) : Host.Outcome State Fault Refusal :=
  .next (s.takeUnitMsg k.val (fun m => match m with | .gatherAck _ _ _ => true | _ => false))
def execGatherRequest (k : Fin 44) (s : State) : Host.Outcome State Fault Refusal :=
  .next (s.takeUnitMsg k.val (fun m => match m with | .gatherRequest _ _ => true | _ => false))

end Sys2Proof.Machine
end

