-- ==== Sys2Proof/Machine/Control.lean ====
section
/-! DEFINITION. The local control spaces (R164, Table 5.4; Tables 9.4 to 9.6, 10.9 to 10.12) and the instructions `cread`
and `cwrite` (R208). -/

namespace Sys2Proof.Machine

open Sys2Proof

/-! ## A core's registers -/

/-- `CORENUM` (Table 5.5). -/
def State.coreNum (s : State) (k : Nat) : Nat :=
  let c := s.cluster (clOf k)
  progOf c (k % 9) + 2 ^ 4 * (k % 9) + 2 ^ 8 * (k / 9 % 10) + 2 ^ 12 * (k / 90) + 2 ^ 18 * c.coreMap.length

/-- `ASTAT0`, `ASTAT1` (Table 3.9). -/
def astat (m : ArrMap) (x : Arr) : Nat :=
  let rep := m.failrow.isSome && m.insvc
  b2n m.insvc + 2 * b2n rep + 4 * (if rep then m.failrow.getD 0xFF else 0xFF) + 2 ^ 10 * (if rep then 257 else 256) +
    2 ^ 19 * b2n x.act + 2 ^ 20 * b2n (x.ops.any (·.kind == .swap)) + 2 ^ 21 * b2n (x.loads.any (·.ahead == 0)) +
    2 ^ 22 * b2n x.live + 2 ^ 23 * b2n x.suspect + 2 ^ 24 * b2n m.sparebad

/-- The latch in use, and the other. -/
def Arr.latUse (x : Arr) : Latch := if x.act then x.latB else x.latA
def Arr.latIdle (x : Arr) : Latch := if x.act then x.latA else x.latB

/-- `SPSTAT0`, `SPSTAT1` (Table 4.6). -/
def spstat (x : Arr) : Nat :=
  x.vgroups + 2 ^ 32 * x.lastv + 2 ^ 46 * b2n (x.latUse.vgroups > 0) + 2 ^ 47 * b2n (x.latIdle.vgroups > 0)

/-- A cluster's select; an unlisted one holds the reset value of Table 20.1. -/
def Cluster.csel (c : Cluster) (n : Nat) : Word := Tbl.get c.sel 0xF00 n

/-- `CYCLE` (Table 5.4). -/
def State.cycle (s : State) (k : Nat) : Nat := (s.polder (polderOf k)).acNow s.ref - (s.proc k).cyc0

/-- A core's control register, none for an unassigned number. -/
def State.coreReg (s : State) (k num : Nat) : Option Nat :=
  let p := s.proc k
  match num with
  | 0x000 => some (s.coreNum k)
  | 0x001 => some (s.cycle k)
  | 0x008 => some p.tvec.toNat
  | 0x009 => some p.tepc.toNat
  | 0x00A => some (p.cause + 2 ^ 8 * p.sub + 2 ^ 16 * b2n p.slot)
  | 0x00B => some p.tval.toNat
  | 0x00C => some (b2n p.intrap + 2 * b2n p.halted + 4 * b2n p.lateerr)
  | 0x010 => some (tagPend p 32)
  | 0x011 => some p.tagErr.toNat
  | 0x020 => some p.nround.toNat
  | 0x021 => some p.nflags.toNat
  | 0x022 => some p.seedJob.toNat
  | 0x023 => some p.seedStep.toNat
  | 0x040 => some (astat (s.arrMapOf k 0) p.a0)
  | 0x041 => some (astat (s.arrMapOf k 1) p.a1)
  | 0x044 => some (spstat p.a0)
  | 0x045 => some (spstat p.a1)
  | 0x046 => some (p.vthr.toNat + 2 ^ 14 * b2n p.vevent)
  | _ =>
    let c := s.cluster (clOf k)
    if 0x100 ≤ num ∧ num < 0x140 then some (Tbl.get c.cnt 0 (num - 0x100)).toNat
    else if 0x140 ≤ num ∧ num < 0x180 then some (c.csel (num - 0x140)).toNat
    else none

/-! ## Registers of the profile units -/

/-- A Spring's control register (Tables 9.4 to 9.6). -/
def State.sprReg (s : State) (u num : Nat) : Option Nat :=
  let x := s.spring u
  match num with
  | 0x000 => some (u + 2 ^ 4 * nodeCode (nodeOfSpring u))
  | 0x001 =>
    some (min x.waves.length 4 + 2 ^ 3 * b2n (match x.waves with | w :: _ => w.phase == .gate | [] => false) +
      2 ^ 4 * b2n (x.waves.any (·.phase == .seal)) + 2 ^ 5 * b2n (x.rs.any (fun v => !v.done)) +
      2 ^ 6 * min x.rsQ.length 8 + 2 ^ 10 * (x.lastWave % 65536) + 2 ^ 26 * min x.restreams 65535)
  | _ =>
    if 0x010 ≤ num ∧ num < 0x020 then
      match x.grps.find? (·.1 == num - 0x010) with
      | some (_, g) => some (g.group % 256 + 2 ^ 8 * (g.throttle % 16) + 2 ^ 12 * (g.consumers % 1024) +
          2 ^ 22 * (g.rploff % 2 ^ 26) + 2 ^ 48)
      | none => some 0
    else if 0x020 ≤ num ∧ num < 0x030 then
      match x.grps.find? (·.1 == num - 0x020) with
      | some (_, g) => some g.gate.toNat
      | none => some 0
    else none

/-- A Sluice's control register (Tables 10.9, 10.10). -/
def State.sluReg (s : State) (u num : Nat) : Option Nat :=
  let x := s.sluice u
  match num with
  | 0x000 => some (u + 2 ^ 4 * nodeCode (nodeOfSluice u))
  | 0x001 => some (min x.tags.length 4096 + 2 ^ 13 * b2n (x.tags.any (·.stalled)) + 2 ^ 14 * min x.doneblk (2 ^ 32 - 1))
  | 0x002 => some x.stallUs
  | 0x003 => some x.done.toNat
  | _ => none

/-- Is a shard of the engine in the passing phase? -/
def State.uePassing (s : State) (k : Nat) : Bool :=
  (s.ue k).shards.any (fun e => e.owned && (sealOf (s.bytesAt (sealAddr s e.shard).toNat 64)).pass)

/-- An update engine's control register (Tables 10.11, 10.12). -/
def State.ueReg (s : State) (k num : Nat) : Option Nat :=
  let x := s.ue k
  match num with
  | 0x000 => some (k + 2 ^ 6 * nodeCode (nodeOfStack k))
  | 0x001 =>
    some ((x.shards.filter (·.owned)).length % 2 ^ 15 + 2 ^ 15 * ((x.shards.filter (fun e => !e.owned)).length % 2 ^ 15) +
      2 ^ 30 * b2n (s.uePassing k) + 2 ^ 31 * b2n (x.gathers.any (fun g => g.stage < 3)) + 2 ^ 32 * min x.msat 65535)
  | 0x002 => some (x.commit.toNat + 2 ^ 48 * b2n x.valid + 2 ^ 49 * b2n x.vpoison)
  | 0x003 => some x.ummax.toNat
  | 0x004 => some x.inboxBase.toNat
  | _ => none

/-- The control register of any unit. -/
def State.ctlReg (s : State) (k num : Nat) : Option Nat :=
  if isCore k then s.coreReg k num
  else if isSpring k then s.sprReg (k - sprKey) num
  else if isSluice k then s.sluReg (k - sluKey) num
  else s.ueReg (k - ueKey) num

/-- A read clears the read-to-clear fields it covers: `SPRSTAT.RESTREAMS`, `SLUSTAT.DONEBLK`, `UESTAT.MSAT`. -/
def State.ctlReadClear (s : State) (k num : Nat) : State :=
  if num ≠ 1 || isCore k then s
  else if isSpring k then s.setSpring (k - sprKey) { s.spring (k - sprKey) with restreams := 0 }
  else if isSluice k then s.setSluice (k - sluKey) { s.sluice (k - sluKey) with doneblk := 0 }
  else s.setUe (k - ueKey) { s.ue (k - ueKey) with msat := 0 }

/-! ## Writes -/

/-- A select value with a reserved encoding (Tables 20.1, 20.2). -/
def cselBad (v : Word) : Bool :=
  let f := v.toNat / 256 % 16
  v.toNat % 256 ≥ 0x20 || (8 ≤ f && f ≤ 14) || v.toNat / 4096 % 4 == 3

/-- A select is written and its counter cleared (R603). -/
def State.writeSel (s : State) (cl n : Nat) (v : Word) : State :=
  let c := s.cluster cl
  s.setCluster cl { c with sel := Tbl.put c.sel n (v &&& 0x3FFF), cnt := Tbl.put c.cnt n 0 }

/-- A write of a core's control register; none where it traps. Reserved bits are ignored (R7). -/
def State.coreWrite (s : State) (k num : Nat) (v : Word) : Option State :=
  let p := s.proc k
  match num with
  | 0x008 => some (s.setProc k { p with tvec := v })
  | 0x009 => some (s.setProc k { p with tepc := v })
  | 0x011 => some (s.setProc k { p with tagErr := p.tagErr &&& ~~~(v.truncate 32) })
  | 0x020 => if v.toNat % 8 > 4 then none else some (s.setProc k { p with nround := v.truncate 3 })
  | 0x021 => some (s.setProc k { p with nflags := p.nflags &&& ~~~(v.truncate 5) })
  | 0x022 => some (s.setProc k (p.setSeed v))
  | 0x023 => some (s.setProc k (p.setStep (v.truncate 48)))
  | 0x046 => some (s.setProc k { p with vthr := v.truncate 14, vevent := v.getLsbD 14 })
  | _ =>
    if 0x140 ≤ num ∧ num < 0x180 then (if cselBad v then none else some (s.writeSel (clOf k) (num - 0x140) v))
    else none

/-- A write of any unit's control register; none where it traps. -/
def State.ctlWrite (s : State) (k num : Nat) (v : Word) : Option State :=
  if isCore k then s.coreWrite k num v
  else if isSluice k && num == 0x003 then some (s.writeSludone (k - sluKey) v)
  else none

/-! ## The instructions -/

def execCread (u : UnitId) (f : BitVec 25) (s : State) : Host.Outcome State Fault Refusal :=
  .next (
    let k := unitKey u
    let num := fld f 20 12
    s.issue k [.s (rdOf f)] 4 0 (fun s1 =>
      if fld f 17 3 != 0 || raOf f != 0 then s1.finish k 4 true false (illegal32 0x0B f)
      else match s1.ctlReg k num with
        | none => s1.trap k causeOperand 0 (BitVec.ofNat 64 num) false
        | some x =>
          let s2 := s1.ctlReadClear k num
          s2.retire k ((s2.proc k).setS (rdOf f) (BitVec.ofNat 64 x)) 4 true 1))

def execCwrite (u : UnitId) (f : BitVec 25) (s : State) : Host.Outcome State Fault Refusal :=
  .next (
    let k := unitKey u
    let num := fld f 20 12
    s.issue k [.s (raOf f)] 4 0 (fun s1 =>
      if fld f 17 3 != 0 || rdOf f != 0 then s1.finish k 4 false false (illegal32 0x0C f)
      else match s1.ctlWrite k num ((s1.proc k).getS (raOf f)) with
        | none => s1.trap k causeOperand 0 (BitVec.ofNat 64 num) false
        | some s2 => s2.retire k (s2.proc k) 4 false 1))

end Sys2Proof.Machine
end

