-- ==== Sys2Proof/Machine/Mesh.lean ====
section
/-! DEFINITION. The wafer mesh (08_wafer_network): routes, hops, combining, the arrival of every packet kind at its
destination, multicast, responses, and what a failed lane or a timeout does. -/

namespace Sys2Proof.Machine

open Sys2Proof

/-! ## Packets (R270, R271, Tables 8.3, 8.4) -/

/-- Opcodes (Table 8.4). -/
def PKind.opc (k : PKind) : Nat :=
  match k with
  | .rd => 1 | .wr => 2 | .amo => 3 | .ctl => 4 | .mc => 0x10 | .gblk => 0x20 | .grun => 0x21 | .xt => 0x30
  | .rdr => 0x81 | .wack => 0x82 | .amor => 0x83 | .mack => 0x84 | .other o => o

/-- Is the opcode listed, and given for the class (R271)? -/
def Packet.listed (p : Packet) : Bool :=
  match p.kind with
  | .rd => p.cls == 1 | .wr => p.cls == 1 | .amo => p.cls == 1 | .ctl => p.cls == 0
  | .mc => p.cls == 1 || p.cls == 3 | .gblk => p.cls == 4 | .grun => p.cls == 4 | .xt => p.cls == 5
  | .rdr => p.cls == 2 | .wack => p.cls == 2 | .amor => p.cls == 2 | .mack => p.cls == 2
  | .other _ => false

/-- Bytes of payload, and flits (a head flit carries up to 64 bytes of it). -/
def Packet.bytes (p : Packet) : Nat :=
  match p.kind with
  | .gblk => 64
  | .rd => 0
  | .xt => match p.ctl with | .message m => 64 * msgCells m | _ => 0
  | _ => p.data.length
def Packet.flits (p : Packet) : Nat := if p.bytes ≤ 64 then 1 else 1 + (p.bytes + 127) / 128

/-! ## Discards, counts and samples -/

def State.setPacket (s : State) (i : Nat) (p : Packet) : State := { s with mesh := s.mesh.set i p }

def State.countDrop (s : State) (n : Nat) : State :=
  s.setNode n { s.node n with drops := min ((s.node n).drops + 1) 65535 }

/-- A router discards packet `i`, with a record. -/
def State.meshDrop (s : State) (i : Nat) (p : Packet) (code port : Nat) : State :=
  ((s.dropPacket i).countDrop p.loc).emit code (polderOfNode p.loc) (uidNode p.loc)
    [(2, p.loc), (1, port), (1, p.cls), (1, p.kind.opc)]

/-- The response to a class-1 request that ends here with a status (Table 8.3). -/
def respond (p : Packet) (status : Nat) (data : List Byte) : Packet :=
  let k : PKind := match p.kind with | .rd => .rdr | .wr => .wack | .amo => .amor | _ => .mack
  { mkPacket k 2 p.loc p.src p.tid with status := status, data := data, size := data.length }

def State.reqOf (s : State) (tid : Nat) : Option Req := s.reqs.find? (·.tid == tid)

/-- Is this the request of a core's or unit's own load, store or atomic operation (R648)? -/
def State.isAccess (s : State) (p : Packet) : Bool :=
  match s.reqOf p.tid with
  | some r => (match r.kind with | .load .. => true | .vload .. => true | .dload _ => true | .store => true | .amo _ => true | _ => false)
  | none => false

/-- A packet meets an output that has gone down (R282): a class-1 request is answered, any other packet recorded. The error of a load,
store or atomic operation is also recorded and reported by the router that found it (R648). -/
def State.meshDown (s : State) (i : Nat) (p : Packet) (port status : Nat) : State :=
  if p.cls = 1 then
    let s1 := (s.dropPacket i).countDrop p.loc
    let s2 := if s.isAccess p then
        s1.detect 0x4104 (polderOfNode p.loc) (uidNode p.loc) [(2, p.loc), (1, port), (1, p.cls), (1, p.kind.opc)] else s1
    s2.send (respond p status [])
  else s.meshDrop i p 0x4104 port

/-- The payload of a packet as bytes. -/
def Packet.payload (p : Packet) : List Byte :=
  match p.kind, p.ctl with
  | .gblk, _ => blockBytes p.blk
  | .ctl, _ => Config.ctlPayload p.src p.dst p.tid
  | .xt, .message m => m.cells
  | .amo, _ => (List.range 16).map (Config.amoByte p.op p.data)
  | _, _ => p.data

/-- The 32 bytes of a packet header (Table 8.3). -/
def Packet.header (p : Packet) : List Byte :=
  let dst := if p.cls = 3 then 0x800 + p.group else nodeCode p.dst
  let addr := if p.cls = 4 then p.gtag + 2 ^ 32 * p.block else p.addr.toNat
  let size := if p.cls = 4 then p.cnt else p.size
  let h := leBytes 1 p.kind.opc ++ leBytes 1 p.flits ++ leBytes 2 (dst + 2 ^ 12 * (p.status % 16)) ++
    leBytes 2 (nodeCode p.src + 2 ^ 12 * (Config.packetUnit p.src p.tid % 16)) ++ leBytes 2 p.tid ++ leBytes 8 addr ++
    leBytes 2 size ++ leBytes 2 (if p.cls = 4 then p.slu + 16 * b2n p.ue else 0) ++ leBytes 2 (if p.cls = 4 then p.step else 0) ++
    leBytes 2 p.nrun ++ leBytes 4 0
  h ++ leBytes 4 (crc32 (h ++ p.payload))

/-- Byte `k` of flit `idx` of a packet: the header and up to 64 bytes in the head flit, 128 bytes in each body flit. -/
def Packet.flitByte (p : Packet) (idx k : Nat) : Byte :=
  if idx = 0 then
    if k < 32 then p.header.getD k 0 else if 64 ≤ k && p.flits = 1 then p.payload.getD (k - 64) 0 else 0
  else p.payload.getD (128 * (idx - 1) + k) 0

/-- The CRC-16 of a flit, over its bytes and then sideband bits 6 down to 0 (R269). -/
def flitCrc (bytes : List Byte) (side : Nat) : Nat :=
  (List.range 7).foldl (fun r i => crcBit 16 0x1021 r (side / 2 ^ (6 - i) % 2)) (crc16 bytes)

/-- The sideband of flit `idx` (Table 8.2): V, class, channel, HEAD and TAIL, and the CRC-16. -/
def Packet.sideband (p : Packet) (idx : Nat) : BitVec 24 :=
  let low := 1 + 2 * p.cls + 16 * b2n p.esc + 32 * b2n (idx == 0) + 64 * b2n (idx + 1 == p.flits)
  BitVec.ofNat 24 (low + 128 * flitCrc ((List.range 128).map (p.flitByte idx)) low)

/-- A flit and, above it, its sideband, as the lane carries them. -/
def Packet.laneBits (p : Packet) (idx : Nat) : BitVec 1048 :=
  BitVec.ofNat 1048 (leNat ((List.range 128).map (p.flitByte idx)) + 2 ^ 1024 * (p.sideband idx).toNat)

/-- Does the CRC-16 that a receiver computes over what arrived match the one that arrived (R269, R272)? -/
def flitGood (x : BitVec 1048) : Bool :=
  let side := x.toNat / 2 ^ 1024
  flitCrc (leBytes 128 (x.toNat % 2 ^ 1024)) (side % 128) == side / 128 % 2 ^ 16

/-- A mesh sample: one packet in 2^MSHIFT that leaves a traced output (R608, Table 20.5). -/
def State.meshSample (s : State) (p : Packet) (port lane : Nat) : State :=
  let t := s.trace
  let hit (e : Nat × BitVec 14) : Bool := e.2.getLsbD 13 && e.2.toNat % 2 ^ 13 == p.loc + 1024 * port
  if !(t.openT && t.ctl.getLsbD 2 && t.node.any hit) then s
  else
    let key := p.loc + 1024 * port
    let n := Tbl.get t.seen 0 key
    let s1 := { s with trace := { t with seen := Tbl.put t.seen key (n + 1) } }
    if n % 2 ^ (t.ctl.toNat / 32) != 0 then s1
    else
      let line := [2, 0] ++ leBytes 2 key ++ leBytes 4 0 ++ leBytes 8 s.ref ++ p.header ++
        leBytes 1 (lane + 4 * b2n p.esc) ++ leBytes 1 p.cls ++ leBytes 14 0
      s1.traceLine 1 line

/-- The flits of a packet that leaves a router, in its cluster's counters (Table 20.2). -/
def State.countHop (s : State) (p : Packet) : State :=
  if !isClNode p.loc then s
  else
    let c := clOfNode p.loc
    let s1 := s.countCl c (0x11 + p.cls) 15 2 p.flits
    if p.esc then s1.countCl c 0x17 15 2 p.flits else s1

/-! ## Buffers, credits and grants (R275 to R277) -/

/-- Does a packet stand in the buffer of an input's channel? A gradient block that has joined an output's queue does not. -/
def Packet.inBuffer (p : Packet) (n inp cls : Nat) (esc : Bool) : Bool :=
  p.loc == n && p.inp == inp && p.cls == cls && p.bufEsc == esc && !(p.kind == .gblk && p.out.isSome)

/-- The flits of a packet that a buffer of 8 holds at once. -/
def Packet.space (p : Packet) : Nat := min p.flits 8

/-- Credits that the sender holds for an input's channel: what is free of its 8 flits (R275). -/
def State.credits (s : State) (n inp cls : Nat) (esc : Bool) : Nat :=
  8 - (s.mesh.filter (fun p => p.inBuffer n inp cls esc)).foldl (fun a p => a + p.space) 0

/-- Has the far side of an output room for a packet in the channel by which it leaves? -/
def State.hasCredit (s : State) (p : Packet) (o : Nat) : Bool :=
  match meshNext p.loc o with
  | none => false
  | some m => decide (p.space ≤ s.credits m (portBack p.loc m) p.cls p.esc)

/-- The link outputs at which a packet waits: those of its tree's branches that it has still to take, the output whose queue a
gradient block has joined (once it is offered), or the output of its route. -/
def State.outs (s : State) (p : Packet) : List Nat :=
  if p.cls = 3 then p.branches.getD []
  else if p.kind = .gblk then
    match p.out with
    | some o => if o = 0 || p.held then [] else [o]
    | none => []
  else match s.routeOf p with
    | some o => if o = 0 then [] else [o]
    | none => []

/-- The packets ready at an output, with their places in the list of packets. -/
def State.ready (s : State) (n o : Nat) : List (Packet × Nat) :=
  s.mesh.zipIdx.filter (fun e => e.1.loc == n && e.1.listed && (s.outs e.1).contains o && s.hasCredit e.1 o)

/-- The repeating grant sequence (R276). -/
def grantSeq : List Nat := [3, 1, 4, 2, 3, 4, 5]

/-- The class that the next free lane takes, that lane, and the grants after it (R276): lane 0 takes class 0 before any other; else the
sequence, from where it stands, gives the first class that is ready. Class 0 goes by lane 0 only. -/
def OutArb.pick (x : OutArb) (has : Nat → Bool) : Option (Nat × Nat × OutArb) :=
  if x.lane = 0 && has 0 then some (0, 0, { x with lane := 1 })
  else match ((List.range 7).map (fun j => (x.pos + j) % 7)).find? (fun j => has (grantSeq.getD j 0)) with
    | some j => some (grantSeq.getD j 0, x.lane, { x with lane := (x.lane + 1) % 4, pos := (j + 1) % 7 })
    | none => if has 0 then some (0, 0, { x with lane := 1 }) else none

/-- Does `a` go before `b` when input `t` has the turn: inputs in rotation, within an input the earlier arrival. -/
def Packet.before (t : Nat) (a b : Packet) : Bool :=
  let k (p : Packet) : Nat := (p.inp + 8 - t) % 8
  decide (k a < k b) || (k a == k b && decide (a.arr < b.arr))

/-- The packet, its place, the lane and the next grants with which an output grants (R276, R277): the class's escape channel before
its primary one, the inputs in rotating order. -/
def State.grant (s : State) (n o : Nat) : Option (Packet × Nat × Nat × OutArb) :=
  let ready := s.ready n o
  match (Tbl.get (s.node n).arb OutArb.reset o).pick (fun c => ready.any (fun e => e.1.cls == c)) with
  | none => none
  | some (c, lane, y) =>
    let cl := ready.filter (fun e => e.1.cls == c)
    let ch := if cl.any (fun e => e.1.esc) then cl.filter (fun e => e.1.esc) else cl
    match ch with
    | [] => none
    | x :: r =>
      let w := r.foldl (fun b e => if Packet.before (Tbl.get y.turn 0 c) e.1 b.1 then e else b) x
      some (w.1, w.2, lane, { y with turn := Tbl.put y.turn c ((w.1.inp + 1) % 8) })

/-- Key of a lane at its node. -/
def laneKey (port lane : Nat) : Nat := 4 * port + lane

/-- The sender keeps the last 16 flits of a lane, the newest first (R272). -/
def State.keepFlits (s : State) (p : Packet) (o lane : Nat) : State :=
  let nd := s.node p.loc
  let old := Tbl.get nd.sent [] (laneKey o lane)
  let no := match old with | f :: _ => f.no + 1 | [] => 0
  let new := ((List.range p.flits).map (fun k => SentFlit.mk p k (no + k))).reverse
  s.setNode p.loc { nd with sent := Tbl.put nd.sent (laneKey o lane) ((new ++ old).take 16) }

/-- Packet `i` leaves its node by an output that is up, on a lane. A multicast packet leaves a copy on the branch, and goes when no
branch is left (R285). -/
def State.hop (s : State) (i : Nat) (p : Packet) (o lane : Nat) : State :=
  match meshNext p.loc o with
  | none => s
  | some m =>
    let s1 := ((s.meshSample p o lane).countHop p).keepFlits p o lane
    let nd := s1.node m
    let s2 := s1.setNode m { nd with arrived := nd.arrived + 1 }
    let q := { p with loc := m, inp := portBack p.loc m, bufEsc := p.esc, arr := nd.arrived + 1, out := none, held := false, branches := none }
    if p.cls = 3 then
      match (p.branches.getD []).filter (· != o) with
      | [] => s2.setPacket i { q with dst := m }
      | l => (s2.setPacket i { p with branches := some l }).send { q with dst := m }
    else s2.setPacket i q

/-- An output of a node grants once (R276, R277). -/
def State.forward (s : State) (n o : Nat) : State :=
  match s.grant n o with
  | none => s
  | some (p, i, lane, y) => (s.setNode n { s.node n with arb := Tbl.put (s.node n).arb o y }).hop i p o lane

/-- Packet `i` of the mesh at a node whose polder runs. -/
def State.atNode (s : State) (i : Nat) (f : Packet → State) : State :=
  match s.mesh[i]? with
  | none => s
  | some p => if s.polderOn (polderOfNode p.loc) then f p else s

/-! ## Acknowledgements of multicasts (R286) -/

/-- A tree node that every branch has acknowledged: a `MACK` toward the root, or from the root to the sender. -/
def State.mcAck (s : State) (x : McNode) : State :=
  let s1 := { s with mcnodes := s.mcnodes.filter (fun y => !(y.mc == x.mc && y.node == x.node)) }
  let st := if x.bad then 1 else 0
  match x.up with
  | some u => s1.send { mkPacket .mack 2 x.node u x.mc with status := st }
  | none =>
    match s1.mcasts.find? (·.mc == x.mc) with
    | none => s1
    | some m => { s1 with mcasts := s1.mcasts.filter (·.mc != x.mc) }.send { mkPacket .mack 2 x.node m.sender m.tid with status := st }

/-- One branch of a tree node is acknowledged, or will never be (R282): `bad` says that a write below it was not done. -/
def State.mcBranch (s : State) (x : McNode) (bad : Bool) : State :=
  let y := { x with left := x.left - 1, bad := x.bad || bad }
  let s1 := { s with mcnodes := s.mcnodes.map (fun z => if z.mc == x.mc && z.node == x.node then y else z) }
  if y.left = 0 then s1.mcAck y else s1

/-- The tree node at which a multicast packet stands. -/
def State.mcNodeOf (s : State) (p : Packet) : Option McNode := s.mcnodes.find? (fun x => x.mc == p.tid && x.node == p.loc)

/-- A branch whose output has gone down is pruned (R282). -/
def State.prune (s : State) (i : Nat) (p : Packet) (o : Nat) : State :=
  let s1 := match (p.branches.getD []).filter (· != o) with
    | [] => s.dropPacket i
    | l => s.setPacket i { p with branches := some l }
  match s1.mcNodeOf p with
  | some x => s1.mcBranch x true
  | none => s1

/-- The router at which packet `i` waits makes one grant of the output that the packet waits for, on the next free lane (R276 to R279):
the packet that the grant gives leaves. An unlisted opcode or class is discarded (R271), as is a packet without a route or whose
output is down (R282). -/
def execRouterPacketForward (i : Nat) (s : State) : Host.Outcome State Fault Refusal :=
  .next (s.atNode i (fun p =>
    if !p.listed then s.meshDrop i p 0x4107 p.inp
    else if p.cls != 3 && p.kind != .gblk && (s.routeOf p).isNone then s.meshDown i p 0 4
    else match (s.outs p).find? (fun o => (s.outDown p.loc o).isSome) with
      | some o => if p.cls = 3 then s.prune i p o else s.meshDown i p o ((s.outDown p.loc o).getD 4)
      | none => match (s.outs p).find? (fun o => (s.grant p.loc o).isSome) with
        | some o => s.forward p.loc o
        | none => s))

/-- A primary packet without a grant moves to its class's escape channel and stays in escape (R279). -/
def execEscapeWaitExpiry (i : Nat) (s : State) : Host.Outcome State Fault Refusal :=
  .next (s.atNode i (fun p =>
    if (s.node p.loc).mode && !p.esc && p.loc != p.dst && [0, 1, 2, 5].contains p.cls then s.setPacket i { p with esc := true }
    else s))

/-! ## Combining (R287, R288, R290) -/

/-- Two blocks that may combine. -/
def Packet.matches (q p : Packet) : Bool :=
  q.gtag == p.gtag && q.slu == p.slu && q.block == p.block && q.step == p.step && !q.ue && !p.ue &&
    decide (q.cnt + p.cnt ≤ 65535)

/-- Gradient blocks waiting at an output: their places in the list of packets. -/
def State.gblkQueue (s : State) (n o : Nat) : List Nat :=
  (s.mesh.zipIdx.filter (fun e => e.1.kind == .gblk && e.1.loc == n && e.1.out == some o)).map (·.2)

/-- The sum of a queued and an arriving block at a router (R69, R287), and the router's next counter. -/
def routerSum (n : Node) (id : Nat) (a b : Block) : Block × Word :=
  let draw := srDraw n.seed id n.step.toNat
  let (x, c1) := addBlock draw n.ctr Accum.empty a
  let (y, c2) := addBlock draw c1 x b
  normalise draw c2 y

/-- The arriving block `i` is added into the queued one `j`. -/
def State.combine (s : State) (i j : Nat) (p q : Packet) (adder : Bool) : State :=
  let n := p.loc
  let nd := s.node n
  let (z, c) := routerSum nd (uidNode n) q.blk p.blk
  let s1 := s.setPacket j { q with blk := z, cnt := q.cnt + p.cnt, acks := q.acks ++ p.acks }
  let s2 := (s1.setNode n { nd with ctr := c, combines := min (nd.combines + 1) 65535 }).dropPacket i
  let s3 := if isClNode n then s2.countCl (clOfNode n) 0x18 15 2 1 else s2
  if adder then s3.detect 0x2306 (polderOfNode n) (uidNode n) [(2, n), (4, p.gtag), (4, p.block)] else s3

/-- A full queue offers the block that joined it first (R288). -/
def State.offerOldest (s : State) (n o : Nat) : State :=
  let qs := s.mesh.zipIdx.filter (fun e => e.1.kind == .gblk && e.1.loc == n && e.1.out == some o)
  if qs.length < 32 then s
  else match qs with
    | [] => s
    | x :: r =>
      let w := r.foldl (fun b e => if e.1.arr < b.1.arr then e else b) x
      s.setPacket w.2 { w.1 with held := false }

/-- Block `i` joins the queue of an output. -/
def State.joinQueue (s : State) (i : Nat) (p : Packet) (o : Nat) : State :=
  let nd := s.node p.loc
  let s1 := s.setNode p.loc { nd with arrived := nd.arrived + 1 }
  (s1.setPacket i { p with out := some o, held := nd.hold != 0 && !p.ue, arr := nd.arrived + 1 }).offerOldest p.loc o

/-- The residue of an arriving block is checked (R67, R290). -/
def State.checkBlock (s : State) (p : Packet) : State :=
  if blockBad p.blk then s.detect 0x2305 (polderOfNode p.loc) (uidNode p.loc) [(2, p.loc), (4, p.gtag), (4, p.block)] else s

/-- An arriving gradient block: its residue is checked, its output found, and it combines or queues; at a full queue it waits. -/
def execGblkCombine (i : Nat) (adder : Bool) (s : State) : Host.Outcome State Fault Refusal :=
  .next (s.atNode i (fun p =>
    if p.kind != .gblk || p.out.isSome then s
    else if !p.listed then s.meshDrop i p 0x4107 p.inp
    else
      let s1 := s.checkBlock p
      match s.routeOf p with
      | none => s1.meshDown i p 0 4
      | some o =>
        match (if o = 0 then none else s.outDown p.loc o) with
        | some st => s1.meshDown i p o st
        | none =>
          let qs := s.gblkQueue p.loc o
          let partner := qs.findSome? (fun j => match s.mesh[j]? with
            | some q => if q.matches p then some (j, q) else none
            | none => none)
          match partner with
          | some (j, q) => s1.combine i j p q adder
          | none => if qs.length ≥ 32 then s.offerOldest p.loc o else s1.joinQueue i p o))

/-- A block without a partner becomes eligible for a grant (R288). -/
def execCombineHoldExpiry (i : Nat) (s : State) : Host.Outcome State Fault Refusal :=
  .next (s.atNode i (fun p => if p.kind = .gblk && p.held then s.setPacket i { p with held := false } else s))

/-! ## Lanes (R272) -/

/-- The flits that the receiver has discarded and that the failed lane will not bring again: a packet of which one is still at the
receiver's input stands at the sender again. -/
def State.unhop (s : State) (m inp : Nat) (fs : List SentFlit) : State :=
  { s with mesh := s.mesh.map (fun q =>
      match fs.find? (fun f => q.loc == m && q.inp == inp && q.kind == f.pkt.kind && q.src == f.pkt.src && q.tid == f.pkt.tid &&
          q.block == f.pkt.block && q.gtag == f.pkt.gtag && q.out.isNone && q.branches.isNone) with
      | some f => if f.pkt.cls = 3 then { f.pkt with branches := some [portBack m f.pkt.loc] } else f.pkt
      | none => q) }

/-- A lane fails: both sides record it and the link is failed. -/
def State.laneFail (s : State) (n port lane count : Nat) : State :=
  match meshNext n port with
  | none => s
  | some m =>
    let back := portBack n m
    let side (t : State) (x px : Nat) : State :=
      (t.setNode x { t.node x with linkFail := (t.node x).linkFail ||| (1#8 <<< px), dead := (t.node x).dead ||| (1#8 <<< px) }).detect 0x4102 (polderOfNode x) (uidNode x)
        [(2, x), (1, px), (1, lane), (4, count)]
    side (side s n port) m back

/-- Times of a lane's replays in the last 65,536 ac, one at `now` among them. -/
def Node.replayTimes (nd : Node) (key now : Nat) : List Nat :=
  now :: (Tbl.get nd.replays [] key).filter (fun t => t + 65536 > now)

/-- Replays of flit `no` of a lane that have failed: one more than before when the last flit that failed was the same. -/
def Node.failedReplays (nd : Node) (key no : Nat) : Nat :=
  match nd.failed.find? (fun e => e.1 == key) with
  | some e => if e.2.1 = no then e.2.2 + 1 else 0
  | none => 0

/-- A lane's receiver checks the CRC-16 of a flit that the sender still holds (R272). On a mismatch it discards that flit and every
later one and asks for a replay; the sender replays them, so they stand where they stood. After more than 16 replays in 65,536 ac or
four failed replays of one flit the lane fails instead, and what it did not bring stands at the sender. -/
def execFlitReplayRequest (node : Fin 662) (port : Fin 8) (lane : Fin 4) (back : Fin 16) (err : BitVec 1048) (s : State) :
    Host.Outcome State Fault Refusal :=
  .next (
    let n := node.val
    let pol := polderOfNode n
    let nd := s.node n
    let key := laneKey port.val lane.val
    let sent := Tbl.get nd.sent [] key
    if !s.polderOn pol || (s.outDown n port.val).isSome then s
    else match sent[back.val]? with
      | none => s
      | some f =>
        if flitGood (f.pkt.laneBits f.idx ^^^ err) then s
        else
          let times := nd.replayTimes key ((s.polder pol).acNow s.ref)
          let fails := nd.failedReplays key f.no
          let s1 := s.setNode n { nd with replays := Tbl.put nd.replays key times, failed := Tbl.put nd.failed key (f.no, fails) }
          let s2 := s1.emit 0x4101 pol (uidNode n) [(2, n), (1, port.val), (1, lane.val)]
          if times.length > 16 || fails ≥ 4 then
            let s3 := match meshNext n port.val with
              | some m => s2.unhop m (portBack n m) (sent.take (back.val + 1))
              | none => s2
            s3.laneFail n port.val lane.val times.length
          else s2)

/-! ## Requests at their target (R24, R175, R271, R282, R647) -/

/-- Who stands behind a request's owner key: a unit, a light port, or the Warden. -/
def whoOf (owner : Nat) : Who :=
  if owner < 5116 then .unit owner else if portKey 0 ≤ owner then .port (owner - portKey 0) else .warden
def uidOwner (owner : Nat) : Nat := if portKey 0 ≤ owner then uidPort (owner - portKey 0) else uidUnit owner

/-- The requestor that a target names in its records. -/
def State.requestor (s : State) (p : Packet) : Nat :=
  match s.reqOf p.tid with | some r => uidOwner r.owner | none => uidNode p.src

/-- The status with which the target refuses a request, none when it is served: rights of Table 1.7 and what is in service.
A light port's rights were checked before it sent (R433). -/
def State.refusal (s : State) (p : Packet) (n : Nat) (write : Bool) : Option Nat :=
  let w := match s.reqOf p.tid with | some r => whoOf r.owner | none => Who.warden
  let w := match w with | .port _ => Who.warden | x => x
  match s.refuses w p.addr n write with
  | none => none
  | some 3 => some 2
  | some _ => some 1

/-- A refused request, already taken off the mesh, is answered with its status. The target records the refusal (R24), and detects the
error of a load, store or atomic operation (R648). -/
def State.turnAway (s : State) (p : Packet) (status : Nat) : State :=
  let pol := polderOfNode p.loc
  let pay := [(8, p.addr.toNat)]
  (if s.isAccess p then s.detect 0x7101 pol (s.requestor p) pay else s.emit 0x7101 pol (s.requestor p) pay).send (respond p status [])

/-- A packet at its destination. One whose CRC-32 fails is discarded and detected, and nothing answers it (R273). -/
def State.arrive (s : State) (i : Nat) (bad : Bool) (ok : Packet → Bool) (f : Packet → State) : State :=
  s.atNode i (fun p =>
    if !(ok p && p.loc == p.dst && p.listed) then s
    else if bad then
      (s.dropPacket i).detect 0x4103 (polderOfNode p.loc) (uidNode p.loc)
        [(2, p.loc), (2, nodeCode p.src), (1, p.kind.opc), (2, p.tid)]
    else f p)

/-- The runs of consecutive bytes, as (offset, length), that are not among the gaps of an access of `n` bytes (R221). -/
def activeRuns (gaps : List Nat) (n : Nat) : List (Nat × Nat) :=
  (((List.range n).filter (fun i => !gaps.contains i)).foldl (fun acc i => match acc with
    | (a, m) :: r => if a + m = i then (a, m + 1) :: r else (i, 1) :: acc
    | [] => [(i, 1)]) []).reverse

/-- Check the active bytes of a read; the answer says whether one is uncorrectable. -/
def State.checkRuns (s : State) (a : Word) (requestor : Nat) : List (Nat × Nat) → State × Bool
  | [] => (s, false)
  | (o, n) :: r =>
    let (s1, b) := s.eccRead (a + BitVec.ofNat 64 o) n requestor
    let (s2, c) := State.checkRuns s1 a requestor r
    (s2, b.isSome || c)

def execRdRequest (i : Nat) (bad : Bool) (s : State) : Host.Outcome State Fault Refusal :=
  .next (s.arrive i bad (·.kind == .rd) (fun p =>
    let s0 := s.dropPacket i
    match s.refusal p p.size false with
    | some st => s0.turnAway p st
    | none =>
      match place p.addr with
      | .window off => s0.send (respond p 0 (s.windowRead off p.size))
      | _ =>
        match s0.checkRuns p.addr (s.requestor p) (activeRuns p.gaps p.size) with
        | (s1, true) => s1.send (respond p 3 [])
        | (s1, false) => s1.send (respond p 0 (s1.bytesAt p.addr.toNat p.size))))

def execWrRequest (i : Nat) (bad : Bool) (s : State) : Host.Outcome State Fault Refusal :=
  .next (s.arrive i bad (·.kind == .wr) (fun p =>
    let s0 := s.dropPacket i
    match s.refusal p p.data.length true with
    | some st => s0.turnAway p st
    | none =>
      match place p.addr with
      | .window off => (s0.windowWrite off p.data).send (respond p 0 [])
      | _ =>
        match s0.eccWrite p.addr (withGaps p.data p.gaps) (s.requestor p) with
        | (s1, true) => s1.send (respond p 3 [])
        | (s1, false) => s1.send (respond p 0 [])))

def execAmoRequest (i : Nat) (bad : Bool) (s : State) : Host.Outcome State Fault Refusal :=
  .next (s.arrive i bad (·.kind == .amo) (fun p =>
    let s0 := s.dropPacket i
    match s.refusal p 8 true with
    | some st => s0.turnAway p st
    | none =>
      let word (k : Nat) : Word := BitVec.ofNat 64 (leNat ((p.data.drop k).take 8))
      match s0.amoAt p.op p.addr (word 0) (word 8) (s.requestor p) with
      | (s1, _, true) => s1.send (respond p 3 [])
      | (s1, old, false) => s1.send (respond p 0 (leBytes 8 old.toNat))))

/-! ## Answers at their initiator (R178, R648) -/

def State.dropReq (s : State) (tid : Nat) : State := { s with reqs := s.reqs.filter (·.tid != tid) }

/-- Act on what a transfer's end brings (R178, R307, R318, R344, R362, R433, R461, R464). -/
def State.xferOn (s : State) (x : Xfer) : State :=
  match x.fin with
  | .tag t =>
    if x.left ≠ 0 then s
    else
      let s1 := s.dropXfer x.id
      let n := x.buf.foldl (fun a b => a + b.2.length) 0
      let s2 := if x.err || x.buf.isEmpty then s1 else (s1.writeBuf x.owner x.buf).countEv x.owner 0x1D 2 n
      s2.tagDone x.owner t x.err
  | .wave sp => s.wavesOn sp
  | .restream sp => if x.left = 0 || x.err then s.restreamOn sp x.id x.err else s
  | .message port src dunit sunit msgid status =>
    if x.left ≠ 0 then s
    else
      let node := nodeOfPort port
      (s.dropXfer x.id).sendMessage node { mkMessage s (portKey port) .ack (BitVec.ofNat 12 src) dunit sunit 0 with
        addr := BitVec.ofNat 64 (msgid + 2 ^ 32), run := status }
  | .grad sl gtag step => if x.left = 0 then s.tagOn sl gtag step else s
  | .gather k sh step peer => if x.left = 0 || x.err then s.gatherOn k sh step peer x.id x.err else s
  | .report step => if x.left = 0 then (s.dropXfer x.id).reportOn step x.owner x.err else s

/-- The end of a message keeps the first status that is not done. -/
def XferEnd.note (e : XferEnd) (status : Nat) : XferEnd :=
  match e with
  | .message p a b c d st => .message p a b c d (if st = 0 then status else st)
  | x => x

/-- One part of a transfer is answered. -/
def State.partDone (s : State) (id status : Nat) (read : Option (Word × List Byte)) : State :=
  match s.xfer id with
  | none => s
  | some x =>
    let y := { x with left := x.left - 1, err := x.err || status != 0, fin := x.fin.note status,
                      srcLeft := if read.isSome then x.srcLeft - 1 else x.srcLeft,
                      buf := match read with | some b => x.buf ++ [b] | none => x.buf }
    (s.setXfer y).xferOn y

/-- A late error of a core's access (R648): the destination is written with zero bits, LATEERR set, the step poisoned. -/
def State.lateError (s : State) (k : Nat) (g : Proc → Proc) : State :=
  (s.setProc k { g (s.proc k) with lateerr := true }).poison (polderOf k)

/-- The other requests of a vector load that has failed write nothing more to its register (R648). -/
def State.muteVload (s : State) (k vd : Nat) : State :=
  { s with reqs := s.reqs.map (fun r => match r.kind with
      | .vload v esz _ bc => if r.owner = k ∧ v = vd then { r with kind := .vload v esz 0 bc } else r
      | _ => r) }

/-- An answer reaches its initiator and the request ends. -/
def State.answer (s : State) (r : Req) (status : Nat) (data : List Byte) : State :=
  let k := r.owner
  let s1 := s.dropReq r.tid
  let p := s1.proc k
  let done (g : Proc → Proc) (z : Proc → Proc) : State := if status = 0 then s1.setProc k (g p) else s1.lateError k z
  match r.kind with
  | .load rd fn3 => done (fun q => q.loaded rd fn3 data) (fun q => q.setS rd 0)
  | .vload vd esz mask bc =>
    if status = 0 then s1.setProc k (p.setV vd (vloadMerge (p.getV vd) esz mask bc data))
    else (s1.lateError k (fun q => q.setV vd 0)).muteVload k vd
  | .dload d => done (fun q => q.setD d (BitVec.ofNat 256 (leNat data))) (fun q => q.setD d 0)
  | .store => done id id
  | .amo rd => done (fun q => q.setS rd (BitVec.ofNat 64 (leNat data))) (fun q => q.setS rd 0)
  | .xferRd x d => s1.partDone x status (some (d, data))
  | .xferWr x => s1.partDone x status none
  | .mcast x => s1.partDone x status none
  | .msgWr x => s1.partDone x status none
  | .ueWr x => s1.partDone x status none

/-- A response: it answers the request that it names, if that is still open. -/
def State.response (s : State) (i : Nat) (bad : Bool) (kind : PKind) : State :=
  s.arrive i bad (·.kind == kind) (fun p =>
    let s0 := s.dropPacket i
    match s0.reqOf p.tid with
    | none => s0
    | some r => s0.answer r p.status p.data)

def execRdrResponse (i : Nat) (bad : Bool) (s : State) : Host.Outcome State Fault Refusal := .next (s.response i bad .rdr)
def execWackResponse (i : Nat) (bad : Bool) (s : State) : Host.Outcome State Fault Refusal := .next (s.response i bad .wack)
def execAmorResponse (i : Nat) (bad : Bool) (s : State) : Host.Outcome State Fault Refusal := .next (s.response i bad .amor)

/-- No response within 15.6 µs (R283): a record, a detection, and the request ends with an error. A load, store or atomic operation
whose request has not reached its target is not performed (R648). A gradient block or a message that waits for an acknowledgement is no
class-1 request. -/
def execRequestTimeout (tid : Nat) (s : State) : Host.Outcome State Fault Refusal :=
  .next (
    match s.reqOf tid with
    | none => s
    | some r =>
      let one := match r.kind with | .ueWr _ => false | _ => true
      if !one || !s.polderOn (polderOfNode r.node) then s
      else
        let s1 := { s with mesh := s.mesh.filter (fun p => !(p.cls == 1 && p.tid == tid && s.isAccess p)) }
        (s1.detect 0x4105 (polderOfNode r.node) (uidOwner r.owner) [(2, r.node), (4, uidOwner r.owner), (2, r.tid), (8, r.addr.toNat)]).answer r 1 [])

/-! ## Multicast (R285, R286) -/

/-- The member at a node writes the payload into its own pond; the answer says whether it did. -/
def State.mcWrite (s : State) (n : Nat) (p : Packet) : State × Bool :=
  let c := clOfNode n
  let off := p.addr.toNat % 2 ^ 26
  if !isClNode n || !s.siteIn (c / 10) || off + p.data.length > 2 ^ 26 then (s, false)
  else
    let a := c / 10 * 2 ^ 30 + c % 10 * 2 ^ 26 + off
    let (s1, bad) := s.eccWrite (BitVec.ofNat 64 a) (present p.data) (s.requestor p)
    (s1, !bad)

/-- A multicast packet, at place `i`, at a router of its tree: the write into the node's own pond, the branches that are up and that it
has then to take (R285), and the wait for the acknowledgements. `bad`: the copy for this node's own pond fails its CRC-32; its
acknowledgement then never comes. -/
def State.mcSpread (s : State) (i : Nat) (p : Packet) (e : Word) (up : Option Nat) (bad : Bool) : State :=
  let n := p.loc
  let own := e.getLsbD 0
  let ports := (List.range 8).filter (fun k => k ≥ 1 && e.getLsbD k)
  let live := ports.filter (fun k => (s.outDown n k).isNone)
  let (s1, done) := if own && !bad then s.mcWrite n p else (s, true)
  let s2 := if own && bad then
      s1.detect 0x4103 (polderOfNode n) (uidNode n) [(2, n), (2, nodeCode p.src), (1, 0x10), (2, p.tid)] else s1
  let s3 := if live.isEmpty then s2.dropPacket i else s2.setPacket i { p with branches := some live }
  let x : McNode := ⟨p.tid, n, up, live.length + (if own && bad then 1 else 0), !done || live.length != ports.length⟩
  if x.left = 0 then s3.mcAck x else { s3 with mcnodes := s3.mcnodes ++ [x] }

/-- A multicast packet: at the root it is admitted, at most 8 of a group at a time, and enters its tree; on the tree it takes its
branches. -/
def execMcPacket (i : Nat) (bad : Bool) (s : State) : Host.Outcome State Fault Refusal :=
  .next (s.atNode i (fun p =>
    let n := p.loc
    let e := Tbl.get (s.node n).multi 0 p.group
    if p.kind != .mc || !p.listed || p.branches.isSome then s
    else if p.cls = 1 then
      if n != p.dst then s
      else if bad then (s.dropPacket i).detect 0x4103 (polderOfNode n) (uidNode n) [(2, n), (2, nodeCode p.src), (1, 0x10), (2, p.tid)]
      else if !mcValid e then
        ((s.dropPacket i).countDrop n).emit 0x4106 (polderOfNode n) (uidNode n) [(2, n), (1, p.group), (1, p.inp)]
      else if (s.mcasts.filter (·.group == p.group)).length ≥ 8 then s
      else
        let (mc, s1) := s.takeId
        let q := { p with cls := 3, tid := mc, inp := 0, bufEsc := false, esc := false }
        { s1 with mcasts := s1.mcasts ++ [Mcast.mk mc p.group n p.src p.tid] }.mcSpread i q e none false
    else if !mcValid e || mcIn e != p.inp then
      ((s.dropPacket i).countDrop n).emit 0x4106 (polderOfNode n) (uidNode n) [(2, n), (1, p.group), (1, p.inp)]
    else s.mcSpread i p e (meshNext n p.inp) bad))

/-- An acknowledgement of a multicast reaches a tree node, or the sender (R286). -/
def execMack (i : Nat) (bad : Bool) (s : State) : Host.Outcome State Fault Refusal :=
  .next (s.arrive i bad (·.kind == .mack) (fun p =>
    let s0 := s.dropPacket i
    match s0.mcNodeOf p with
    | some x => s0.mcBranch x (p.status != 0)
    | none =>
      match s0.reqOf p.tid with
      | some r => s0.answer r p.status []
      | none => s0))

/-! ## Control packets, gradient blocks and transit -/

/-- An ACK message ends the waits whose messages it names (Table 13.6). -/
def State.ackTids (s : State) (first status : Nat) : Nat → State
  | 0 => s
  | n + 1 =>
    let s1 := match s.reqs.find? (fun r => r.tid % 2 ^ 32 == first && (match r.kind with | .ueWr _ => true | _ => false)) with
      | some r => s.answer r status []
      | none => s
    State.ackTids s1 ((first + 1) % 2 ^ 32) status n

/-- A control packet is delivered to its unit: a Spring's request or release, an acknowledgement, a unit message. A unit that
cannot take it yet leaves it where it is. -/
def execCtlPacket (i : Nat) (bad : Bool) (s : State) : Host.Outcome State Fault Refusal :=
  .next (s.arrive i bad (·.kind == .ctl) (fun p =>
    match p.ctl with
    | .message m =>
      match m.kind with
      | .ack => (s.dropPacket i).ackTids (m.addr.toNat % 2 ^ 32) m.run (m.addr.toNat / 2 ^ 32 % 65536)
      | .unit =>
        match (List.range 44).find? (fun k => nodeOfStack k == p.loc) with
        | some k => if s.ueRuns k then (s.dropPacket i).deliverUnit k m else s
        | none => s.dropPacket i
      | _ => s.dropPacket i
    | c => s.ctlSpring i c))

/-- A block or run is taken: the sender that waits, or the other engine's message, is acknowledged. -/
def State.gradTaken (s : State) (p : Packet) : State :=
  let s1 := if p.ue && p.tid != 0 then s.send { mkPacket .wack 2 p.loc p.src p.tid with status := 0 } else s
  p.acks.foldl (fun t a => t.partDone a 0 none) s1

/-- The Sluice at a node. -/
def sluAt (n : Nat) : Option Nat := (List.range 16).find? (fun u => nodeOfSluice u == n)
def ueAt (n : Nat) : Option Nat := (List.range 44).find? (fun k => nodeOfStack k == n)

def execGblkSluiceArrival (i : Nat) (bad : Bool) (adder : Bool) (s : State) : Host.Outcome State Fault Refusal :=
  .next (s.arrive i bad (fun p => p.kind == .gblk && p.out == some 0 && !p.held && !(p.ue && (ueAt p.loc).isSome)) (fun p =>
    match sluAt p.loc with
    | none => s.dropPacket i
    | some u =>
      if !s.sluRuns u then s
      else match (s.dropPacket i).sluArrive u p adder with
        | (s1, true) => s1.gradTaken p
        | (s1, false) => s1))

def execGrunSluiceArrival (i : Nat) (bad adder : Bool) (s : State) : Host.Outcome State Fault Refusal :=
  .next (s.arrive i bad (fun p => p.kind == .grun && !(p.ue && (ueAt p.loc).isSome)) (fun p =>
    match sluAt p.loc with
    | none => s.dropPacket i
    | some u =>
      if !s.sluRuns u then s
      else match (s.dropPacket i).sluArrive u p adder with
        | (s1, true) => s1.gradTaken p
        | (s1, false) => s1))

def execUeInboxBlock (i : Nat) (bad adder : Bool) (s : State) : Host.Outcome State Fault Refusal :=
  .next (s.arrive i bad (fun p => (p.kind == .grun || (p.kind == .gblk && p.out == some 0 && !p.held)) && p.ue) (fun p =>
    match ueAt p.loc with
    | none => s
    | some k =>
      if !s.ueRuns k then s
      else match (s.dropPacket i).ueArrive k p adder with
        | (s1, true) => s1.gradTaken p
        | (s1, false) => s1))

/-- A transit packet arrives at the node of a light port and waits in the port's egress buffer to leave as a message (R432,
R437). A port that is not up cannot send it (R438); under the fence the port drops it (R441). -/
def execXtPacket (i : Nat) (bad : Bool) (s : State) : Host.Outcome State Fault Refusal :=
  .next (s.arrive i bad (·.kind == .xt) (fun p =>
    match (List.range 56).find? (fun q => nodeOfPort q == p.loc), p.ctl with
    | some q, .message m =>
      let x := s.port q
      let own := (x.egress.filter (fun y => y.src == s.group.coord)).foldl (fun a y => a + msgCells y) 0
      let drop : LPort := { x with drops := min (x.drops + 1) 65535 }
      if s.stopped then (s.dropPacket i).setPort q drop
      else if x.state != 2 then ((s.dropPacket i).setPort q drop).undeliverable p.loc m
      else if m.src == s.group.coord && own + msgCells m > 256 then s
      else (s.dropPacket i).setPort q { x with egress := x.egress ++ [m] }
    | _, _ => s.dropPacket i))

end Sys2Proof.Machine
end

