-- ==== Sys2Proof/Machine/Links.lean ====
section
/-! DEFINITION. Ngahorn light ports (13_ngahorn_links): groups, credits and retry (R420 to R424, R427), the conversion of messages
(R431, R433), transit (R434 to R438), failures (R439, R440), training (R442 to R445), and laser bays (R446 to R448). -/

namespace Sys2Proof.Machine

open Sys2Proof

def State.portUp (s : State) (p : Nat) : Bool := (s.port p).state == 2

/-- A port runs in its site's polder (R11). -/
def State.portOn (s : State) (p : Nat) : Bool := s.polderOn p

/-! ## The port map (Table 1.4, Table 21.5) -/

/-- The port bound at power-up to direction `d` in row `r`. -/
def portOf (d r : Nat) : Nat :=
  (match d with | 0 => 0 | 1 => 48 | 2 => 8 | 3 => 40 | 4 => 16 | _ => 32) + r

/-- The port map's entry: direction and row. -/
def State.pmapAt (s : State) (d r : Nat) : Nat := Tbl.get s.pmap (portOf d r) (8 * d + r)

/-- The place of a port in the map: `8 d + row`. -/
def State.placeOf (s : State) (p : Nat) : Option Nat := (List.range 48).find? (fun i => s.pmapAt (i / 8) (i % 8) == p)

/-! ## Failure of a port (R439, R441) -/

/-- A port that is up fails: what it held is discarded and counted, and the step is poisoned. -/
def State.failPort (s : State) (p : Nat) : State :=
  let x := s.port p
  if x.state != 2 then s
  else
    let held := x.egress.length + (x.unacked.map (fun g => g.2.length)).foldl (· + ·) 0 + x.ctlOut.length
    ((s.setPort p { x with state := 3, egress := [], sent := 0, unacked := [], ctlOut := [], transit0 := 0, transit1 := 0,
                           drops := min (x.drops + held) 65535 }).detect 0x4202 p (uidPort p) [(1, p)]).poison p

def execPortFail (p : Fin 56) (why : PortFault) (s : State) : Host.Outcome State Fault Refusal :=
  .next (let _ := why; if s.portOn p.val then s.failPort p.val else s)

/-! ## Groups (R420 to R424) -/

/-- Drop from the replay buffer what the peer's `ACKSEQ` covers; the answer says whether it advanced. -/
def ackGroups (un : List (Nat × List Message)) (seq : Nat) : List (Nat × List Message) × Bool :=
  match un.findIdx? (fun g => g.1 == seq) with
  | some i => (un.drop (i + 1), true)
  | none => (un, false)

def ackCells (l : List CtlCell) (seq : BitVec 8) : List CtlCell :=
  match l.findIdx? (fun c => c.cseq == seq) with
  | some i => l.drop (i + 1)
  | none => l

/-- Groups are sent again; one group sent again 4 times fails the port. -/
def State.resend (s : State) (p : Nat) : State :=
  let x := s.port p
  if x.unacked.isEmpty then s
  else
    let s1 := (s.setPort p { x with retries := min (x.retries + x.unacked.length) (2 ^ 32 - 1), resends := x.resends + 1 }).emit
      0x4201 p (uidPort p) [(1, p)]
    if x.resends + 1 ≥ 4 then s1.failPort p else s1

/-- The reverse direction's acknowledgements and credits in a good trailer. -/
def State.takeAcks (s : State) (p : Nat) (t : Trailer) : State :=
  let x := s.port p
  let (un, adv) := ackGroups x.unacked t.ackseq.toNat
  let s1 := s.setPort p { x with unacked := un, resends := if adv then 0 else x.resends, ctlOut := ackCells x.ctlOut t.cack,
                                 cr0 := t.cr0, cr1 := t.cr1, ctlCr := t.crc }
  let s2 := if t.cnak then s1.setPort p { s1.port p with ctlResends := (s1.port p).ctlResends + 1 } else s1
  if t.nak then s2.resend p else s2

/-- A trailer arrives with its group, which is delivered when its CRC is good and it is the next in order. `msgs` are the messages
whose last cell it holds, `lost` the codewords that FEC could not correct. -/
def execGroupTrailerReceive (p : Fin 56) (t : Trailer) (msgs : List Message) (lost : Nat) (good : Bool) (s : State) :
    Host.Outcome State Fault Refusal :=
  .next (
    if !s.portUp p.val || !s.portOn p.val then s
    else
      let x := s.port p.val
      if lost > 0 || !good then s.setPort p.val { x with nak := true, uncorr := min (x.uncorr + lost) 65535 }
      else if t.gseq != x.rxNext then (s.setPort p.val { x with nak := true }).takeAcks p.val t
      else (s.setPort p.val { x with rxQ := x.rxQ ++ msgs, rxNext := x.rxNext + 1, nak := false }).takeAcks p.val t)

/-- What the next group takes of the egress buffer. -/
structure GroupFill where
  /-- messages whose last cell leaves in it -/
  done : List Message
  /-- what stays, and the cells of its first message that have left -/
  rest : List Message
  sent : Nat
  /-- cells of channel 0 and of channel 1 -/
  n0 : Nat
  n1 : Nat
  deriving DecidableEq, Repr

/-- Fill a group with at most `room` cells, in order and against the credits of their channels (R421, R424); a message goes on in the
next group where this one ends. -/
def takeGroup (u0 u1 room sent : Nat) : List Message → GroupFill
  | [] => ⟨[], [], 0, 0, 0⟩
  | m :: r =>
    let n := msgCells m - sent
    let k := min n (min room (if m.vc then u1 else u0))
    let k0 := if m.vc then 0 else k
    let k1 := if m.vc then k else 0
    if k < n then ⟨[], m :: r, sent + k, k0, k1⟩
    else
      let g := takeGroup (u0 - k0) (u1 - k1) (room - k) 0 r
      ⟨m :: g.done, g.rest, g.sent, g.n0 + k0, g.n1 + k1⟩

def cellSum (l : List Message) : Nat := l.foldl (fun a m => a + msgCells m) 0

/-- A port closes a group and sends its trailer (R421). Transit space is freed as its messages leave (R437). -/
def execGroupTrailerSend (p : Fin 56) (s : State) : Host.Outcome State Fault Refusal :=
  .next (
    let x := s.port p.val
    if x.state != 2 || !s.portOn p.val || x.unacked.length ≥ 256 then s
    else
      let room (used cr : BitVec 16) : Nat := 1024 - (used - cr).toNat
      let g := takeGroup (room x.used0 x.cr0) (room x.used1 x.cr1) 31 x.sent x.egress
      let tr := g.done.filter (fun m => m.src != s.group.coord)
      s.setPort p.val { x with
        egress := g.rest, sent := g.sent, unacked := x.unacked ++ [(x.gseq.toNat, g.done)], gseq := x.gseq + 1,
        nak := false, cnak := false, used0 := x.used0 + BitVec.ofNat 16 g.n0, used1 := x.used1 + BitVec.ofNat 16 g.n1,
        transit0 := x.transit0 - cellSum (tr.filter (fun m => !m.vc)),
        transit1 := x.transit1 - cellSum (tr.filter (fun m => m.vc)) })

def execGroupRetryTimeout (p : Fin 56) (s : State) : Host.Outcome State Fault Refusal :=
  .next (if s.portUp p.val && s.portOn p.val then s.resend p.val else s)

def execControlRetryTimeout (p : Fin 56) (s : State) : Host.Outcome State Fault Refusal :=
  .next (
    let x := s.port p.val
    if x.state != 2 || !s.portOn p.val || x.ctlOut.isEmpty then s
    else s.setPort p.val { x with ctlResends := x.ctlResends + 1 })

/-! ## Messages at the receiving port -/

/-- The cells of a message leave the receive buffer. -/
def LPort.freed (x : LPort) (m : Message) (q : List Message) : LPort :=
  let n := BitVec.ofNat 16 (msgCells m)
  { x with rxQ := q, freed0 := if m.vc then x.freed0 else x.freed0 + n, freed1 := if m.vc then x.freed1 + n else x.freed1 }

/-- The first received message that `f` accepts leaves the receive buffer. -/
def State.takeMsg (s : State) (p : Nat) (f : Message → Bool) (g : State → Message → State) : State :=
  let x := s.port p
  if !s.portOn p then s
  else match x.rxQ.find? f with
    | none => s
    | some m => g (s.setPort p (x.freed m (x.rxQ.erase m))) m

/-- A message for this engine of a kind: one whose MCRC fails is discarded and detected (R431). -/
def State.convert (s : State) (p : Nat) (kind : MsgKind) (bad : Bool) (g : State → Message → State) : State :=
  s.takeMsg p (fun m => m.kind == kind && m.dst == s.group.coord) (fun t m =>
    if bad then t.detect 0x4208 p (uidPort p) [(2, m.src.toNat), (4, m.msgid.toNat)] else g t m)

/-- The transfer that answers a message with an ACK when `n` parts are done. -/
def State.msgXfer (s : State) (p n : Nat) (m : Message) : Nat × State :=
  let (x, s1) := s.takeId
  (x, { s1 with xfers := s1.xfers ++
    [⟨x, portKey p, .message p m.src.toNat (nodeOfUnit m.sunit) m.sunit m.msgid.toNat 0, n, 0, false, false, []⟩] })

/-- The packet that a gradient message becomes. -/
def gradPacket (p : Nat) (kind : PKind) (m : Message) (x i : Nat) : Packet :=
  { mkPacket kind 4 (nodeOfPort p) (nodeOfCode m.dnode.toNat) 0 with
    gtag := m.addr.toNat % 2 ^ 32, block := m.addr.toNat / 2 ^ 32 + i, cnt := m.cnt, slu := m.slu.val, ue := m.ue,
    step := m.step % 65536, nrun := m.run, blk := if kind == .gblk then blockOf ((m.payload.drop (64 * i)).take 64) else emptyBlock,
    acks := [x] }

def execBlkMessage (p : Fin 56) (bad : Bool) (s : State) : Host.Outcome State Fault Refusal :=
  .next (s.convert p.val .blk bad (fun t m =>
    let (x, t1) := t.msgXfer p.val m.ncell m
    (List.range m.ncell).foldl (fun u i => u.send (gradPacket p.val .gblk m x i)) t1))

def execRunMessage (p : Fin 56) (bad : Bool) (s : State) : Host.Outcome State Fault Refusal :=
  .next (s.convert p.val .run bad (fun t m =>
    let (x, t1) := t.msgXfer p.val 1 m
    t1.send (gradPacket p.val .grun m x 0)))

/-- May a WRITE message write here (R433)? -/
def State.writeOk (s : State) (a : Word) (n : Nat) (src : BitVec 12) : Bool :=
  match place a with
  | .pond site cl off => decide (site < 56) && decide (cl < 10) && decide (off + n ≤ 2 ^ 26)
  | .lake off =>
    let win := decide (resultOff s ≤ off) && decide (off + n ≤ resultOff s + 65536)
    (decide (off + n ≤ lakeCap s) && s.lakeRight (.port 0) off n true) ||
      (win && (src == s.group.mgr || (s.isMgr && s.superior == some src)))
  | _ => false

/-- Split `n` bytes at an address where the Lake's interleave changes stacks. -/
def splitWrite (a : Word) (bs : List Byte) : Nat → List (Word × List Byte)
  | 0 => []
  | n + 1 =>
    if bs.isEmpty then []
    else
      let room := 2048 - a.toNat % 2048
      (a, bs.take room) :: splitWrite (a + BitVec.ofNat 64 room) (bs.drop room) n

def execWriteMessage (p : Fin 56) (bad : Bool) (s : State) : Host.Outcome State Fault Refusal :=
  .next (s.convert p.val .write bad (fun t m =>
    let bs := m.payload.take (64 * m.ncell)
    if !t.writeOk m.addr bs.length m.src then
      ((t.detect 0x420B p.val (uidPort p.val) [(8, m.addr.toNat), (2, m.src.toNat)]).poison p.val).ackMessage (portKey p.val)
        (nodeOfPort p.val) m 1
    else
      let ps := splitWrite m.addr bs 4
      let (x, t1) := t.msgXfer p.val ps.length m
      ps.foldl (fun u e => u.request (portKey p.val) (nodeOfPort p.val) (.msgWr x) .wr e.1 e.2.length e.2 0) t1))

/-- A message that a unit takes goes on as a class-0 control packet. -/
def State.toUnit (s : State) (p : Nat) (m : Message) : State :=
  s.send { mkPacket .ctl 0 (nodeOfPort p) (nodeOfCode m.dnode.toNat) 0 with ctl := .message m }

def execAckMessage (p : Fin 56) (bad : Bool) (s : State) : Host.Outcome State Fault Refusal :=
  .next (s.convert p.val .ack bad (fun t m => t.toUnit p.val m))

def execUnitMessage (p : Fin 56) (bad : Bool) (s : State) : Host.Outcome State Fault Refusal :=
  .next (s.convert p.val .unit bad (fun t m => t.toUnit p.val m))

/-! ## Transit (R434 to R438) -/

/-- A message in transit that cannot go on. -/
def State.dropTransit (s : State) (p : Nat) (m : Message) : State :=
  let x := s.port p
  (s.setPort p { x with drops := min (x.drops + 1) 65535 }).undeliverable (nodeOfPort p) m

/-- The port that a transit message takes: in its own dimension the paired port, else by the sum (R436). -/
def State.transitPort (s : State) (p d : Nat) (m : Message) : Option Nat :=
  let q := s.pmapAt (d - 1) (p % 8)
  let same := ((s.port p).bind - 1) / 2 == (d - 1) / 2
  if same && (s.port q).state == 2 && (s.port q).bind == d then some q else s.pickPort d m

def execTransitMessage (p : Fin 56) (s : State) : Host.Outcome State Fault Refusal :=
  .next (
    let g := s.group
    let x := s.port p.val
    if !s.portOn p.val then s
    else match x.rxQ.find? (fun m => m.dst != g.coord) with
      | none => s
      | some m =>
        let taken := s.setPort p.val (x.freed m (x.rxQ.erase m))
        match (if inTorus g.extm1 m.dst then torusDir g.extm1 g.coord m.dst else none) with
        | none => taken.dropTransit p.val m
        | some d =>
          match s.transitPort p.val d m with
          | none => taken.dropTransit p.val m
          | some q =>
            let same := (x.bind - 1) / 2 == (d - 1) / 2
            let vc := (same && m.vc) || wraps g.extm1 g.coord d
            let y := taken.port q
            let n := msgCells m
            if (if vc then y.transit1 else y.transit0) + n > 1024 then s
            else
              (taken.setPort q (if vc then { y with transit1 := y.transit1 + n } else { y with transit0 := y.transit0 + n })).send
                { mkPacket .xt 5 (nodeOfPort p.val) (nodeOfPort q) 0 with ctl := .message { m with vc := vc } })

/-! ## Lanes, training (R440, R442 to R445) -/

def execLaneDegraded (p : Fin 56) (lane : Fin 9) (s : State) : Host.Outcome State Fault Refusal :=
  .next (
    let x := s.port p.val
    if x.state != 2 || !s.portOn p.val || x.degraded.getLsbD lane.val then s
    else (s.setPort p.val { x with degraded := x.degraded ||| (1#9 <<< lane.val) }).emit 0x4203 p.val (uidPort p.val)
      [(1, p.val), (1, lane.val)])

/-- The loops beneath the job: the lanes' error ratios are logged (R449). -/
def execOpticalCalibration (p : Fin 56) (ser : List Nat) (s : State) : Host.Outcome State Fault Refusal :=
  .next (if s.portUp p.val && s.portOn p.val then s.setPort p.val { s.port p.val with ser := ser } else s)

/-- The spare bay that covers a primary bay (R446). -/
def coverBay (b : Nat) : Nat := if b ≤ 6 then 14 else 15

/-- Is a bay's module usable: seated, on, not failed? -/
def Bay.usable (y : Bay) : Bool := y.present && !y.off && y.state != 3

/-- The bay that lights a port as it trains: its primary, or the spare that stands in. -/
def State.lightOf (s : State) (p : Nat) : Option Nat :=
  let b := p / 4
  if (s.bay b).usable then some b
  else if (s.bay (coverBay b)).serves == b && (s.bay (coverBay b)).usable then some (coverBay b)
  else none

/-- A port that is lit by its primary again frees the spare once none of the bay's ports needs it (R448). -/
def State.freeSpare (s : State) (b : Nat) : State :=
  let c := coverBay b
  let y := s.bay c
  if y.serves == b && (List.range 4).all (fun i => !(s.port (4 * b + i)).laser) then
    s.setBay c { y with serves := 15, state := if y.usable then 2 else y.state }
  else s

/-- Light a port from a bay. -/
def State.lightPort (s : State) (p b : Nat) : State :=
  let s1 := (s.setPort p { s.port p with laser := b != p / 4 }).setBay b { s.bay b with state := 1, power := Config.laserPower b s.ref }
  if b = p / 4 then s1.freeSpare b else s1

/-- Requests wait while a step runs (R442). -/
def State.mayTrain (s : State) (p : Nat) : Bool :=
  s.portOn p && (match s.job with | some j => j.state != 2 | none => true) &&
    ((s.port p).state != 2 || (s.port p).retrain)

/-- Training fails: the port stays failed (R443). -/
def State.trainFail (s : State) (p : Nat) : State :=
  (s.setPort p { s.port p with state := 3, retrain := false }).emit 0x4209 p (uidPort p) [(1, p)]

/-- The receive lane that the spare replaces (R444): the lowest that did not lock, else the most degraded; 15 for none. -/
def rxSpareOf (x : LPort) (lock : BitVec 9) : Nat :=
  match (List.range 8).find? (fun l => !lock.getLsbD l) with
  | some l => l
  | none =>
    if !lock.getLsbD 8 then 15
    else (List.range 8).foldl (fun best l =>
      if x.degraded.getLsbD l && (best = 15 || x.ser.getD l 0 > x.ser.getD best 0) then l else best) 15

/-- The place in the map that the port serves: its own, or for a reserve port the place of a failed port whose neighbour it now
faces (R18). -/
def State.trainPlace (s : State) (p : Nat) (peer : Word) : Option Nat :=
  match s.placeOf p with
  | some i => some i
  | none => (List.range 48).find? (fun i =>
      let r := Tbl.get s.surr.nbr 0 i
      (s.port (s.pmapAt (i / 8) (i % 8))).state == 3 && r.getLsbD 54 && r.toNat % 2 ^ 54 == peer.toNat % 2 ^ 54)

/-- The port comes up, bound or unbound. -/
def State.trainUp (s : State) (p : Nat) (lock : BitVec 9) (tx : BitVec 4) (peer : Word) (rx bind : Nat) : State :=
  let x := s.port p
  let y := { x.linkReset with state := 2, bind := bind, lock := lock, txSpare := tx, rxSpare := BitVec.ofNat 4 rx, retrain := false,
                              degraded := x.degraded &&& ~~~(1#9 <<< rx), peer := BitVec.ofNat 55 (peer.toNat % 2 ^ 54 + 2 ^ 54) }
  let s1 := s.setPort p y
  if rx = 15 then s1 else s1.emit 0x4204 p (uidPort p) [(1, p), (1, rx)]

/-- Firmware records a reserve port in the map. -/
def State.bindPlace (s : State) (p i : Nat) : State :=
  if s.pmapAt (i / 8) (i % 8) = p then s
  else { s with pmap := Tbl.put s.pmap i p, idgen := (s.idgen + 2) % 2 ^ 32 }

def execPortTraining (p : Fin 56) (lock : BitVec 9) (txSpare : BitVec 4) (peer : Word) (s : State) :
    Host.Outcome State Fault Refusal :=
  .next (
    let q := p.val
    if !s.mayTrain q then s
    else match s.lightOf q with
      | none => s.trainFail q
      | some b =>
        let s1 := s.lightPort q b
        let x := s1.port q
        let lost := ((List.range 9).filter (fun l => !lock.getLsbD l)).length
        if lost ≥ 2 then s1.trainFail q
        else
          let rx := rxSpareOf x lock
          let place := s1.trainPlace q peer
          let rec' : BitVec 55 := match place with | some i => Tbl.get s1.surr.nbr 0 i | none => 0
          if !rec'.getLsbD 54 then s1.trainUp q lock txSpare peer rx 0
          else if rec'.toNat % 2 ^ 54 ≠ peer.toNat % 2 ^ 54 then
            (s1.setPort q { x with state := 0, retrain := false, peer := BitVec.ofNat 55 (peer.toNat % 2 ^ 54 + 2 ^ 54) }).emit
              0x4205 q (uidPort q) [(1, q), (8, rec'.toNat % 2 ^ 54), (8, peer.toNat % 2 ^ 54)]
          else match place with
            | some i => (s1.trainUp q lock txSpare peer rx (i / 8 + 1)).bindPlace q i
            | none => s1)

def execPortTrainingFail (p : Fin 56) (s : State) : Host.Outcome State Fault Refusal :=
  .next (if s.mayTrain p.val then s.trainFail p.val else s)

/-- A host's request for retraining: it reads 1 until training starts. -/
def State.askRetrain (s : State) (p : Nat) : State := s.setPort p { s.port p with retrain := true }

/-- A write of `LPCTL`; a port whose polder is off discards it (R630). -/
def State.writeLpctl (s : State) (p : Nat) (v : Word) : State := if v.getLsbD 0 && s.portOn p then s.askRetrain p else s

def execLpctlRetrain (p : Fin 56) (v : Word) (s : State) : Host.Outcome State Fault Refusal :=
  .next (if s.devUp then s.writeLpctl p.val v else s)

/-! ## Laser bays (R446 to R448) -/

/-- Ports that a bay lights. -/
def State.litBy (s : State) (b : Nat) : List Nat :=
  (List.range 56).filter (fun p =>
    if (s.port p).laser then (s.bay b).serves == p / 4 && coverBay (p / 4) == b else p / 4 == b)

/-- A bay goes dark: the ports it lights fail. -/
def State.darkBay (s : State) (b : Nat) : State := (s.litBy b).foldl (fun t p => t.failPort p) s

def execLaserModuleFail (b : Fin 16) (s : State) : Host.Outcome State Fault Refusal :=
  .next (
    let y := s.bay b.val
    if !s.powered || !y.usable || y.state = 0 then s
    else
      let s1 := ((s.darkBay b.val).setBay b.val { s.bay b.val with state := 3, power := 0 }).emit 0x4206 srcWarden (uidBay b.val) [(1, b.val)]
      let c := coverBay b.val
      let z := s1.bay c
      if b.val ≥ 14 || y.state != 1 || z.state != 2 || !z.usable then s1
      else
        let s2 := (s1.setBay c { z with state := 1, serves := b.val }).emit 0x4207 srcWarden (uidBay c) [(1, b.val), (1, c)]
        (List.range 4).foldl (fun t i => t.askRetrain (4 * b.val + i)) s2)

def execBayLatchOpen (b : Fin 16) (s : State) : Host.Outcome State Fault Refusal :=
  .next (
    let s1 := s.darkBay b.val
    s1.setBay b.val { s1.bay b.val with present := false, opened := true, state := 0, power := 0 })

/-- A module that is seated and latched is found present; an unpowered bay stays off. -/
def execBayLatchClose (b : Fin 16) (s : State) : Host.Outcome State Fault Refusal :=
  .next (
    let y := s.bay b.val
    s.setBay b.val { y with opened := false, present := s.powered, state := if s.powered && !y.off then 2 else 0 })

/-- A write of `LMCTL`: `BAYOFF` = 1 is ignored while the bay's module lights a port (R448). -/
def State.writeLmctl (s : State) (b : Nat) (v : Word) : State :=
  let y := s.bay b
  if v.getLsbD 0 then (if y.state = 1 then s else s.setBay b { y with off := true, state := 0, power := 0 })
  else s.setBay b { y with off := false, state := if y.present && y.state = 0 then 2 else y.state }

def execLmctlBayoff (b : Fin 16) (v : Word) (s : State) : Host.Outcome State Fault Refusal :=
  .next (if s.devUp then s.writeLmctl b.val v else s)

end Sys2Proof.Machine
end

