-- ==== Sys2Proof/Machine/Integrity.lean ====
section
/-! DEFINITION. Result integrity (15_result_integrity): latching a detection (R480, R486, R488), the sequencer's checks (R482), the
Warden's lockstep (R489), and self-tests (R492 to R495). -/

namespace Sys2Proof.Machine

open Sys2Proof

/-! ## Latching a detection -/

/-- The safety monitor's registers after a detection. -/
def Safety.latch (f : Safety) (d : Det) : Safety :=
  let g := { f with dets := min (f.dets + 1) (2 ^ 32 - 1) }
  if f.detSet then g
  else { g with detSet := true, detCode := d.code, detMech := d.mech, detSrc := if d.src < 60 then d.src else 63 }

/-- A detection is latched and recorded; the first one raises the fence, a later one does nothing more (R488). -/
def State.latchDet (s : State) (d : Det) : State :=
  let s1 := setSafety s (s.safety.latch d)
  (s1.failRecAt d.code d.mech (if s1.stopped then 0 else 2) 0 d.src d.unit d.addr).faultReaction d.code d.src

/-- A core that runs, not halted, in a polder that runs. -/
def State.coreLive (s : State) (k : Nat) : Bool := (s.proc k).run && !(s.proc k).halted && s.polderOn (polderOf k)

/-- A check of a core fails: a detection, and the core halts (R189, R482). -/
def State.coreFail (s : State) (code k : Nat) : State :=
  if s.coreLive k then (s.detect code (polderOf k) (uidUnit k) [(1, k % 9), (8, (s.proc k).pc.toNat)]).halt k else s

/-- The monitor latches the oldest detection. `parity` names a core whose residue or register-file parity check detects an error first
(R189). -/
def execDetectionLatch (parity : Option CoreId) (s : State) : Host.Outcome State Fault Refusal :=
  .next (
    let s1 := match parity with | some c => s.coreFail 0x2502 (coreKey c) | none => s
    match s1.safety.queue with
    | [] => s1
    | d :: r => (setSafety s1 { s1.safety with queue := r }).latchDet d)

/-! ## Sequencers -/

/-- No instruction retired for 20 µs outside the sanctioned waits (of these a barrier and the fence stand in the state; the others are
instructions that are given again, log entry 9). -/
def execSequencerWatchdog (c : CoreId) (s : State) : Host.Outcome State Fault Refusal :=
  .next (
    let k := coreKey c
    if !s.safety.fence && (s.proc k).inBar.isNone then s.coreFail 0x2503 k else s)

def execSpanSignatureCompare (c : CoreId) (diff : Bool) (s : State) : Host.Outcome State Fault Refusal :=
  .next (if diff then s.coreFail 0x2503 (coreKey c) else s)

/-- The Warden is lost by a detection of a mechanism: the fence, `WARDENFAIL`; no cell goes to the manager (R489). -/
def State.holdWarden (s : State) (code mech : Nat) : State :=
  if !s.powered || s.safety.wfail then s
  else
    let f := s.safety.latch ⟨code, srcWarden, uidWarden, none, mech⟩
    ((setSafety s { f with wfail := true }).emit code srcWarden uidWarden []).failRec code 6 1 srcWarden uidWarden |>.raiseFence code

/-- The Warden's two cores diverge. -/
def execWardenLockstepFail (s : State) : Host.Outcome State Fault Refusal := .next (s.holdWarden 0x2505 13)

/-! ## Self-tests -/

/-- The identity of a part (Tables 2.3, 15.7). -/
def partUid (p : Part) : Nat :=
  match p with
  | .arrayRow c a _ => uidCore (coreKey c) (2 + a.val)
  | .core c => uidCore (coreKey c) 0
  | .site s => uidSupply s.val
  | .stack k => uidStack k.val
  | .link n _ => uidNode n.val
  | .unit u => uidUnit (unitKey u)
  | .flashChannel c => uidFlash c.val
  | .polder p => uidSupply p.val
  | .bay b => uidBay b.val
  | .warden => uidWarden

/-- Mark both ends of a link failed. -/
def State.markLink (s : State) (n p : Nat) : State :=
  let one (t : State) (x q : Nat) : State :=
    t.setNode x { t.node x with linkFail := (t.node x).linkFail ||| (1#8 <<< q), dead := (t.node x).dead ||| (1#8 <<< q) }
  match meshNext n p with
  | none => s
  | some m => one (one s n p) m (portBack n m)

/-- A part that a test finds failed is marked for replacement (Table 15.4, R495). -/
def State.markPart (s : State) (p : Part) : State :=
  match p with
  | .arrayRow c a row => { s with rowFails := s.rowFails ++ [(2 * coreKey c + a.val, row.val)] }
  | .core c => { s with unitOut := s.unitOut ++ [coreKey c] }
  | .site i => { s with tileOut := s.tileOut ||| (1#56 <<< i.val) }
  | .stack k => s.setStack k.val { s.stack k.val with failed := true }
  | .link n q => s.markLink n.val q.val
  | .unit u => { s with unitOut := s.unitOut ++ [unitKey u] }
  | .flashChannel c => { s with flash := { s.flash with chup := s.flash.chup &&& ~~~(1#16 <<< c.val) } }
  | .polder q => s.setPolder q.val { s.polder q.val with state := 0, lost := true, emTrips := (s.polder q.val).emTrips + 1 }
  | .bay b => s.setBay b.val { s.bay b.val with state := 3, power := 0 }
  | .warden => setSafety s { s.safety with wfail := true }

/-- A failed test of a part that no job uses (R492, R497). -/
def State.testFail (s : State) (p : Part) : State :=
  ((s.markPart p).emit 0x2509 srcWarden (partUid p) [(4, (partUid p))]).failRec 0x2509 0 3 srcWarden (partUid p)

/-- Does the loaded job use a part (R493)? -/
def State.partUsed (s : State) (p : Part) : Bool :=
  match s.job with
  | none => false
  | some j =>
    let coreUsed (c : CoreId) : Bool := (s.proc (coreKey c)).run
    match p with
    | .arrayRow c a _ => coreUsed c && (s.arrMapOf (coreKey c) a.val).insvc
    | .core c => coreUsed c
    | .site i => (jobSites j.desc).contains i.val
    | .stack k => s.slots.contains k.val
    | .unit u => (s.proc (unitKey u)).run
    | .bay b => (s.bay b.val).state == 1
    | _ => true

/-- Arrays of the job's cores: the parts that wait for a lending slot or for the job's end. -/
def State.waitingParts (s : State) : Nat :=
  match s.job with
  | none => 0
  | some j => 2 * j.desc.cores.length

/-- A self-test is requested and starts on the parts that no job uses. -/
def State.startTest (s : State) : State :=
  setSafety s { s.safety with treq := false, tbusy := true, stesting := true, tfailed := false, tleft := s.waitingParts }

/-- `SFTEST` is written: REQ requests a test, DONE is cleared by a one. -/
def State.writeSftest (s : State) (v : Word) : State :=
  let s1 := if v.getLsbD 2 then setSafety s { s.safety with tdone := false } else s
  if !v.getLsbD 0 then s1
  else if s1.safety.tbusy || !s1.devUp then setSafety s1 { s1.safety with treq := true }
  else s1.startTest

def execSftestReq (v : Word) (s : State) : Host.Outcome State Fault Refusal :=
  .next (if s.powered then s.writeSftest v else s)

/-- `SFTEST` as it reads (Table 15.9). -/
def sftestReg (f : Safety) : Nat :=
  b2n f.treq + 2 * b2n f.tbusy + 4 * b2n f.tdone + 8 * b2n f.tfailed + 2 ^ 16 * (f.tleft % 65536)

/-- May a part be lent: an array whose `ACCLIVE` is 0 (R494)? -/
def State.lendable (s : State) (p : Part) : Bool :=
  match p with
  | .arrayRow c a _ => !(if a = 0 then (s.proc (coreKey c)).a0 else (s.proc (coreKey c)).a1).accLive
  | _ => false

/-- A lent array fails its test: a detection (R495). -/
def State.lentFail (s : State) (p : Part) : State :=
  match p with
  | .arrayRow c _ _ => ((s.markPart p).detect 0x2509 c.site.val (partUid p) [(4, (partUid p))])
  | _ => s

/-- The test of the parts at hand ends. Parts of the job that are not lent wait until the job ends. -/
def execSelfTestComplete (failed : List Part) (s : State) : Host.Outcome State Fault Refusal :=
  .next (
    if !s.safety.tbusy then s
    else
      let free := failed.filter (fun p => !s.partUsed p)
      let lent := if s.safety.lent.isSome then failed.filter (fun p => s.partUsed p && s.lendable p) else []
      let s1 : State := lent.foldl (fun t p => t.lentFail p) (free.foldl (fun t p => t.testFail p) s)
      let f : Safety := { s1.safety with tfailed := s1.safety.tfailed || !free.isEmpty || !lent.isEmpty }
      if decide (0 < f.tleft) && f.lent.isNone && s.job.isSome then setSafety s1 f
      else
        let g := { f with tbusy := false, stesting := false, tdone := true, tleft := 0, lent := none }
        let s2 := (setSafety s1 g).endRunning 0x41 0 (sftestReg g)
        if g.treq then s2.startTest else s2)

end Sys2Proof.Machine
end

