-- ==== Sys2Proof/Machine/Recorder.lean ====
section
/-! DEFINITION. The event recorder (R610 to R617): severities, records, merging and eviction; interrupts on a record (R555); the flash
mirror (R620 to R622). -/

namespace Sys2Proof.Machine

open Sys2Proof

/-! ## Records (Tables 20.8, 20.9, R612) -/

/-- The severity of a code, where its table states one or R612 gives it. -/
def sevOf (s : State) (code : Nat) : Nat :=
  match code with
  | 0x1106 => (match s.job with | some j => if j.desc.cancelpol = 1 then 3 else 1 | none => 1)
  | 0x1103 => 2 | 0x4104 => 2 | 0x4106 => 2 | 0x4107 => 2 | 0x3203 => 2 | 0x5501 => 2
  | 0x1101 => 1 | 0x1102 => 1 | 0x1107 => 1 | 0x1401 => 1 | 0x4101 => 1 | 0x5101 => 1 | 0x5301 => 1 | 0x7301 => 1
  | 0x7302 => 1 | 0x4201 => 1 | 0x4204 => 1 | 0x4207 => 1 | 0x5304 => 1 | 0x3208 => 1 | 0x2401 => 1 | 0x3101 => 1
  | 0x3102 => 1 | 0x5201 => 1 | 0x7401 => 1 | 0x7402 => 1
  | 0x5402 => 0 | 0x3205 => 0 | 0x3207 => 0 | 0x6101 => 0 | 0x6104 => 0 | 0x6105 => 0 | 0x6203 => 0 | 0x6301 => 0
  | 0x6302 => 0 | 0x6401 => 0 | 0x6402 => 0
  | 0x1104 => 3 | 0x1105 => 3 | 0x1402 => 3 | 0x1501 => 3 | 0x1502 => 3 | 0x1601 => 3 | 0x1602 => 3 | 0x2101 => 3
  | 0x2301 => 3 | 0x2302 => 3 | 0x2303 => 3 | 0x2304 => 3 | 0x2305 => 3 | 0x2306 => 3 | 0x2402 => 3 | 0x2403 => 3
  | 0x2501 => 3 | 0x2502 => 3 | 0x2503 => 3 | 0x2504 => 3 | 0x2505 => 3 | 0x2506 => 3 | 0x2507 => 3 | 0x2508 => 3
  | 0x2509 => 3 | 0x250A => 3 | 0x3201 => 3 | 0x3202 => 3 | 0x3204 => 3 | 0x4102 => 3 | 0x4103 => 3 | 0x4105 => 3
  | 0x4108 => 3 | 0x4202 => 3 | 0x4208 => 3 | 0x420A => 3 | 0x420B => 3 | 0x4401 => 3 | 0x4402 => 3 | 0x4403 => 3
  | 0x5102 => 3 | 0x5302 => 3 | 0x5303 => 3 | 0x6303 => 3 | 0x7201 => 3 | 0x7202 => 3 | 0x7303 => 3 | 0x7403 => 3
  | _ => 2

/-- Payload items, each in its own width, padded to 8 bytes; a record holds at most 1,024 bytes. -/
def itemBytes (l : List (Nat × Nat)) : List Byte :=
  let b := (l.flatMap (fun e => leBytes e.1 e.2)).take 976
  b ++ leBytes ((8 - b.length % 8) % 8) 0

/-- The payload of an event: prefix and items. -/
def Event.payload (e : Event) : List Byte :=
  leBytes 4 e.job ++ leBytes 6 e.step ++ leBytes 2 0 ++ leBytes 4 e.unit ++ itemBytes e.pay

def Rec.len (r : Rec) : Nat := 32 + r.pay.length
/-- Granules of 64 bytes that a record occupies (R615). -/
def Rec.granules (r : Rec) : Nat := (r.len + 63) / 64

/-- The 32 bytes of a record header; `note` marks a merge note. -/
def Rec.header (r : Rec) (note : Bool) : List Byte :=
  leBytes 1 (r.len / 8) ++ leBytes 1 (r.sev + 4 * b2n note) ++ leBytes 2 r.code ++ leBytes 2 r.src ++ leBytes 2 r.rep ++
    leBytes 8 r.seq ++ leBytes 8 r.first ++ leBytes 8 r.last

def Rec.bytes (r : Rec) : List Byte := r.header false ++ r.pay

/-- Equal in every byte except STEP (R614). -/
def samePay (a b : List Byte) : Bool := a.length == b.length && a.take 4 == b.take 4 && a.drop 10 == b.drop 10

/-! ## The recorder (R613 to R617) -/

/-- Granules of the buffer. -/
def bufGranules : Nat := 131072
def usedGranules (l : List Rec) : Nat := l.foldl (fun a r => a + r.granules) 0

/-- Evict records of severity at most `sev`, oldest first, until `need` granules are free; what remains. -/
def evict (sev need free : Nat) : List Rec → List Rec
  | [] => []
  | r :: t =>
    if free ≥ need then r :: t
    else if r.sev ≤ sev then evict sev need (free + r.granules) t
    else r :: evict sev need free t

/-- The failure record that waits for this event's SEQ takes it. -/
def nameSeq (code unit seq : Nat) : List FailRec → List FailRec
  | [] => []
  | f :: r => if f.code = code && f.unit = unit && f.seq.isNone then { f with seq := some seq } :: r else f :: nameSeq code unit seq r

/-- An MSI-X message, or its pending bit while the vector is masked. Entries are masked until the host clears the mask bit. -/
def State.irq (s : State) (port vector : Nat) : State :=
  if !s.hostOk port then s
  else
    let h := s.hport port
    if (Tbl.get h.msix (BitVec.ofNat 64 (2 ^ 32)) (2 * vector + 1)).getLsbD 32 then
      s.setHport port { h with pba := Tbl.put h.pba (vector / 64) (Tbl.get h.pba 0 (vector / 64) ||| (1#64 <<< (vector % 64))) }
    else { s with hostTx := s.hostTx ++ [.irq port vector] }

/-- `HEVIRQf` of a port; SEVMIN is 3 at reset (Table 18.3). -/
def HPort.evirq (h : HPort) (f : Nat) : BitVec 13 := Tbl.get h.hevirq 0xC00 f

/-- QIRQ of the layer that a quiet-layer record names. -/
def State.qirq (s : State) (r : Rec) : Bool :=
  match s.scaleOff with
  | none => false
  | some off => (memByte s.mem (lakeKey (off + 16 * leNat ((r.pay.drop 16).take 2) + 11))).getLsbD 2

/-- A stored record raises its family's vector (R555). -/
def State.announce (s : State) (r : Rec) : State :=
  [0, 1].foldl (fun t p =>
    let v := (t.hport p).evirq (r.code / 4096)
    let due := if r.code = 0x1103 then t.qirq r else decide (v.toNat / 1024 % 4 ≤ r.sev)
    if v.getLsbD 12 && due then t.irq p (v.toNat % 1024) else t) s

/-- A record is stored under the next SEQ. -/
def State.store (s : State) (r : Rec) (kept : List Rec) : State :=
  let v := s.evrec
  let r1 := { r with seq := v.next }
  ({ s with evrec := { v with recs := kept ++ [r1], newest := v.next, next := v.next + 1, toMir := v.toMir ++ [r1] } }).announce r1

/-- The failure record of an event takes the SEQ that the event's record has. -/
def State.named (s : State) (e : Event) (n : Nat) : State := setSafety s { s.safety with recs := nameSeq e.code e.unit n s.safety.recs }

/-- Store a record that does not merge, or drop it. -/
def State.storeNew (s : State) (e : Event) (r : Rec) : State :=
  let v := s.evrec
  let kept := evict r.sev r.granules (bufGranules - usedGranules v.recs) v.recs
  if usedGranules kept + r.granules ≤ bufGranules then (s.store r kept).named e v.next
  else { s with evrec := { v with lost := Tbl.put v.lost r.sev (min (Tbl.get v.lost 0 r.sev + 1) 65535) } }.named e 0

/-- May an event merge into a stored record: the newest of its CODE and SOURCE (R614). The Weir's per-layer records merge for
one layer whatever other layers have written between (R378, R381). -/
def mergesInto (r x : Rec) : Bool :=
  x.code == r.code && x.src == r.src && (!(r.code == 0x1103 || r.code == 0x1107) || samePay x.pay r.pay)

/-- The recorder takes one event: it merges, stores or drops it (R614 to R616). -/
def State.takeEvent (s : State) (e : Event) : State :=
  let v := s.evrec
  let r : Rec := ⟨0, e.code, sevOf s e.code, e.src, 1, e.time, e.time, e.payload⟩
  match v.recs.reverse.find? (mergesInto r) with
  | some x =>
    if samePay x.pay r.pay then
      let y := { x with last := e.time, rep := min (x.rep + 1) 65535 }
      { s with evrec := { v with recs := v.recs.map (fun (z : Rec) => if z.seq = x.seq then y else z),
                                 toNote := v.toNote ++ [(y.seq, y.rep, y.last)] } }.named e x.seq
    else s.storeNew e r
  | none => s.storeNew e r

/-- Every event that waits is recorded, in turn (R613). -/
def State.takeAll (s : State) : State :=
  s.evrec.queue.foldl (fun t e => t.takeEvent e) { s with evrec := { s.evrec with queue := [] } }

def execEventRecordArrival (s : State) : Host.Outcome State Fault Refusal :=
  .next (match s.evrec.queue with
    | [] => s
    | e :: q => if s.safety.wfail then s else { s with evrec := { s.evrec with queue := q } }.takeEvent e)

/-! ## The mirror (R620, R622) -/

/-- Blocks of P1. -/
def mirBlocks : Nat := 262144

/-- Whole records that fit in what a block has left. -/
def fitRecs (room : Nat) : List Rec → List Rec
  | [] => []
  | r :: t => if r.len ≤ room then r :: fitRecs (room - r.len) t else []

/-- A merge note: a header copy with MERGE = 1. -/
def noteBytes (n : Nat × Nat × Nat) : List Byte :=
  leBytes 1 4 ++ leBytes 1 4 ++ leBytes 4 0 ++ leBytes 2 n.2.1 ++ leBytes 8 n.1 ++ leBytes 8 0 ++ leBytes 8 n.2.2

/-- The 4,096 bytes of a block. -/
def mirBytes (num first : Nat) (body : List Byte) : List Byte :=
  let rest := body ++ leBytes (4032 - body.length) 0
  let head := leBytes 4 0x4B574552 ++ leBytes 4 0 ++ leBytes 8 num ++ leBytes 8 first ++ leBytes 32 0
  head ++ leBytes 8 (crc64 (rest ++ head)) ++ rest

/-- The header copy of a record after a merge. -/
def Recorder.noteOf (v : Recorder) (n : Nat × Nat × Nat) : List Byte :=
  match v.recs.find? (·.seq == n.1) with
  | some r => Rec.header { r with rep := n.2.1, last := n.2.2 } true
  | none => noteBytes n

/-- The records and merge notes that the next block holds, and the first SEQ in it. -/
def Recorder.nextBlock (v : Recorder) : List Rec × List (Nat × Nat × Nat) × Nat :=
  let rs := fitRecs 4032 v.toMir
  let room := 4032 - rs.foldl (fun a r => a + r.len) 0
  let ns := if rs.length = v.toMir.length then v.toNote.take (room / 32) else []
  (rs, ns, match rs with | r :: _ => r.seq | [] => (ns.headD (0, 0, 0)).1)

/-- One block of the ring is written whole; the oldest gives way (R620). -/
def State.mirrorBlock (s : State) : State :=
  let v := s.evrec
  let (rs, ns, first) := v.nextBlock
  let body := rs.flatMap Rec.bytes ++ ns.flatMap v.noteOf
  let ring := v.mirror ++ [(⟨v.blkNum, first, rs, ns⟩ : MirBlock)]
  { s with mem := memWrite s.mem (flashKey 1 (v.blkNum % mirBlocks * 4096)) (mirBytes v.blkNum first body),
           evrec := { v with toMir := v.toMir.drop rs.length, toNote := v.toNote.drop ns.length, blkNum := v.blkNum + 1,
                             mirror := ring.drop (ring.length - mirBlocks),
                             evmir := rs.foldl (fun a r => max a r.seq) v.evmir } }

/-- Is there something to make durable? -/
def Recorder.dirty (v : Recorder) : Bool := !(v.toMir.isEmpty && v.toNote.isEmpty)

def execMirrorBlockWrite (status : Nat) (s : State) : Host.Outcome State Fault Refusal :=
  .next (
    let v := s.evrec
    if s.safety.wfail || !v.dirty then s
    else if status ≠ 0 then
      { s with evrec := { v with blkNum := v.blkNum + 1 } }.emit 0x5501 srcWarden uidWarden
        [(8, v.blkNum), (8, v.nextBlock.2.2), (1, status)]
    else s.mirrorBlock)

/-- Blocks are written until nothing is left; the number bounds them. -/
def State.mirrorAll (s : State) : Nat → State
  | 0 => s
  | n + 1 => if s.evrec.dirty then s.mirrorBlock.mirrorAll n else s

/-- Every event that waits is recorded and every record reaches the ring, as before an orderly stop's shutdown (R516, R620). -/
def State.allDurable (s : State) : State :=
  if s.safety.wfail then s
  else
    let t := s.takeAll
    t.mirrorAll (t.evrec.toMir.length + t.evrec.toNote.length)

/-- The mirror's copy of a record with its latest merge note. -/
def Recorder.mirrored (v : Recorder) (seq : Nat) : Option Rec :=
  match (v.mirror.flatMap (·.recs)).find? (·.seq == seq) with
  | none => none
  | some r =>
    match (v.mirror.flatMap (·.notes)).reverse.find? (·.1 == seq) with
    | some n => some { r with rep := n.2.1, last := n.2.2 }
    | none => some r

end Sys2Proof.Machine
end

