-- ==== Sys2Proof/Machine/Polders.lean ====
section
/-! DEFINITION. Polders (16_polders_clocks_supply): clock steps (R505 to R507), monitors (R504, R514), trips (R517 to R520), dikes
(R509 to R512), feeds and the orderly stop (R515, R516), planned shutdown and wake (R521 to R523). -/

namespace Sys2Proof.Machine

open Sys2Proof

/-! ## Neighbours -/

/-- The neighbours of a polder across its dikes. Embankment polders are neighbours along the ring. -/
def polNbrs (p : Nat) : List Nat :=
  if p < 56 then
    [if p % 8 = 0 then 56 else p - 1, if p % 8 = 7 then 58 else p + 1, if p / 8 = 0 then 59 else p - 8, if p / 8 = 6 then 57 else p + 8]
  else
    let ring := [56 + (p - 55) % 4, 56 + (p - 53) % 4]
    ring ++ (List.range 56).filter (fun q => match p with
      | 56 => q % 8 == 0 | 57 => q / 8 == 6 | 58 => q % 8 == 7 | _ => q / 8 == 0)

/-- The links of polder `q` that lead into polder `p`, as nodes and ports. -/
def dikeLinks (q p : Nat) : List (Nat × Nat) :=
  ((List.range 662).filter (fun n => polderOfNode n == q)).flatMap (fun n =>
    ((List.range 7).filter (fun k => match meshNext n k with | some m => polderOfNode m == p | none => false)).map (fun k => (n, k)))

/-- The node that takes over as parent for poison and the fence when the parent link closes (R512): the west neighbour, or the
east one; on the embankment a neighbour on the ring. -/
def State.sideParent (s : State) (q lost : Nat) : Option Nat :=
  let cand : List Nat := if q < 56 then (if q ≥ 8 then [q - 8] else [59]) ++ (if q + 8 < 56 then [q + 8] else [57])
    else [56 + (q - 53) % 4, 56 + (q - 55) % 4]
  cand.find? (fun c => c != lost && s.polderOn c && s.barUp c != some q)

/-- A dike side closes its clamps toward a far polder outside a planned shutdown (R511, R512). -/
def State.closeClamp (s : State) (q p : Nat) : State :=
  let x := s.polder q
  if x.clamps.contains p || x.state != 2 then s
  else
    let s1 := s.setPolder q { x with clamps := x.clamps ++ [p] }
    let s2 := (dikeLinks q p).foldl (fun t e => t.detect 0x4108 q (uidDike q p) [(2, e.1), (1, e.2), (1, p)]) s1
    let s3 := s2.poison q
    if s3.barUp q = some p then
      match s3.sideParent q p with
      | some r => { s3 with barOver := Tbl.put s3.barOver q r }
      | none => s3
    else s3

def execDikeClampClose (p : Fin 60) (far : Fin 60) (s : State) : Host.Outcome State Fault Refusal :=
  .next (if (polNbrs p.val).contains far.val then s.closeClamp p.val far.val else s)

/-- A pointer slip is a lane failure (R509, R272). -/
def execDikePointerSlip (node : Fin 662) (port : Fin 8) (lane : Fin 4) (s : State) : Host.Outcome State Fault Refusal :=
  .next (
    match meshNext node.val port.val with
    | none => s
    | some m =>
      if polderOfNode m = polderOfNode node.val || !s.polderOn (polderOfNode node.val) || (s.outDown node.val port.val).isSome then s
      else s.laneFail node.val port.val lane.val 0)

/-! ## Trips -/

/-- What a polder that goes off takes with it: packets at its nodes, and the light port of a site. -/
def State.darkPolder (s : State) (p : Nat) : State :=
  let s1 := { s with mesh := s.mesh.filter (fun k => polderOfNode k.loc != p), reqs := s.reqs.filter (fun r => polderOf r.owner != p || r.owner ≥ 5116) }
  if p < 56 then
    let x := s1.port p
    let held := x.egress.length + (x.unacked.map (fun g => g.2.length)).foldl (· + ·) 0 + x.ctlOut.length
    s1.setPort p { x.linkReset with state := if x.state = 2 then 3 else x.state, drops := min (x.drops + held) 65535 }
  else s1

/-- A polder trips: its rails and clocks go off, a site is marked lost, an embankment polder at its second trip (R517, R519, R520);
the neighbours' clamps close. Causes: 1 overcurrent, 2 thermal, 3 an excursion. -/
def State.trip (s : State) (p cause : Nat) : State :=
  let x := s.polder p
  if x.state != 2 then s
  else
    let em := x.emTrips + 1
    let y := { x with state := 4, cause := cause, trips := min (x.trips + 1) 65535, vout := 0, iout := 0, vtarget := 0, stepUp := none,
                      acBase := x.acNow s.ref, acRef := s.ref, emTrips := em, lost := decide (p < 56) || decide (em ≥ 2), clamps := [] }
    let s1 := { (s.setPolder p y).darkPolder p with power := { s.power with free := true } }
    let s2 := if p < 56 then s1 else s1.loseLake
    let s3 := match cause with
      | 1 => s2.detect 0x3201 p (uidSupply p) [(1, p)]
      | 2 => s2.detect 0x3202 p (uidSupply p) [(1, p)]
      | _ => s2
    (polNbrs p).foldl (fun t q => t.closeClamp q p) s3

def execRailOvercurrent (p : Fin 60) (s : State) : Host.Outcome State Fault Refusal := .next (s.trip p.val 1)

/-- An excursion: a detection, then the trip. -/
def State.excursion (s : State) (p code : Nat) : State :=
  if (s.polder p).state != 2 then s else (s.detect code p (uidSupply p) [(1, p)]).trip p 3

/-- Number 60 is the Warden domain's own rail, which holds the module fenced (Table 16.4). -/
def execSupplyExcursion (p : Fin 61) (s : State) : Host.Outcome State Fault Refusal :=
  .next (if p.val = 60 then s.holdWarden 0x2506 14 else s.excursion p.val 0x2506)
def execPllLockLoss (p : Fin 60) (s : State) : Host.Outcome State Fault Refusal := .next (s.excursion p.val 0x2507)

/-- Cycles of a window of 128 reference cycles within 1 % of 1,344 × 4 / DIV (R504). -/
def clockOk (count div : Nat) : Bool := decide (100 * (((count * div : Nat) : Int) - 5376).natAbs ≤ 5376)

def execClockMonitorWindow (p : Fin 60) (count : Nat) (s : State) : Host.Outcome State Fault Refusal :=
  .next (if clockOk count (s.polder p.val).div then s else s.excursion p.val 0x2507)

/-! ## Clock steps (Table 16.2, R506, R507) -/

def stepDown (div : Nat) : Nat := match div with | 4 => 5 | 5 => 6 | _ => 8
def stepUpOf (div : Nat) : Nat := match div with | 8 => 6 | 6 => 5 | _ => 4
def vcoreOf (div : Nat) : Nat := match div with | 4 => 750 | 5 => 700 | 6 => 665 | _ => 620

/-- DIV changes: the cycles so far are kept. -/
def Polder.setDiv (x : Polder) (d ref : Nat) : Polder :=
  { x with acBase := x.acNow ref, acRef := ref, div := d, steps := min (x.steps + 1) 65535, held := 0 }

/-- The counts of a sample, in units of 0.125 °C: 92 °C, 105 °C, 88 °C. -/
def Polder.sample (x : Polder) (t : Int) : Polder :=
  { x with tmax := t, tpeak := max x.tpeak t, slow := if x.div > 4 then x.slow + 1 else x.slow,
           hot := if t ≥ 736 then x.hot + 1 else 0, vhot := if t ≥ 840 then x.vhot + 1 else 0,
           cool := if t ≤ 704 then x.cool + 1 else 0, held := x.held + 1 }

def execThermalSample (p : Fin 60) (tmax : Int) (s : State) : Host.Outcome State Fault Refusal :=
  .next (
    let q := p.val
    let x := (s.polder q).sample tmax
    if (s.polder q).state != 2 then s
    else if x.vhot ≥ 2 then (s.setPolder q x).trip q 2
    else if x.hot ≥ 2 && (x.hot - 2) % 10 == 0 && decide (x.div < 8) then
      let d := stepDown x.div
      (s.setPolder q { x.setDiv d s.ref with vtarget := vcoreOf d, stepUp := none }).emit 0x3101 q (uidSupply q) [(1, q), (1, d)]
    else if x.cool ≥ 1000 && x.held ≥ 1000 && decide (x.div > 4) && x.stepUp.isNone then
      let d := stepUpOf x.div
      s.setPolder q { x with stepUp := some d, vtarget := vcoreOf d }
    else s.setPolder q x)

/-- VCORE has reached its target: a step up changes DIV now. -/
def execVcoreSlewComplete (p : Fin 60) (s : State) : Host.Outcome State Fault Refusal :=
  .next (
    let q := p.val
    let x := s.polder q
    if x.state != 2 then s
    else match x.stepUp with
      | none => s.setPolder q { x with vout := x.vtarget }
      | some d => (s.setPolder q { x.setDiv d s.ref with vout := x.vtarget, stepUp := none }).emit 0x3102 q (uidSupply q) [(1, q), (1, d)])

/-! ## Feeds and the orderly stop (R515, R516) -/

/-- The ceiling falls to 6.0 kW for each feed that remains. -/
def execFeedLoss (n : Fin 4) (s : State) : Host.Outcome State Fault Refusal :=
  .next (
    let p := s.power
    if !s.powered || !p.feeds.contains n.val then s
    else
      let fs := p.feeds.filter (· != n.val)
      { s with power := { p with feeds := fs, limit := min p.limit (6000 * fs.length), free := true } }.emit 0x3203 srcWarden uidWarden [(1, n.val), (1, 0)])

def execFeedRestore (n : Fin 4) (s : State) : Host.Outcome State Fault Refusal :=
  .next (
    let p := s.power
    if !s.powered || p.feeds.contains n.val then s
    else { s with power := { p with feeds := p.feeds ++ [n.val] } }.emit 0x3203 srcWarden uidWarden [(1, n.val), (1, 1)])

def stopCode (w : StopCause) : Nat := match w with | .feeds => 0 | .bus => 1 | .converter => 2

/-- A polder's stage is shut down in order: no trip, no clamp report. -/
def State.offPolder (s : State) (p : Nat) : State :=
  let x := s.polder p
  if x.state = 2 then
    (s.setPolder p { x with state := 0, vout := 0, iout := 0, vtarget := 0, stepUp := none, acBase := x.acNow s.ref, acRef := s.ref }).darkPolder p
  else s

/-- The orderly stop: the fence, the record in the flash ring, and the stages in order. After one for temperature the Warden domain
stays up and the stacks hold their content; after the others the module is without power and the Lake is lost. -/
def execOrderlyStop (why : StopCause) (s : State) : Host.Outcome State Fault Refusal :=
  .next (
    if !s.powered || s.orderly.isSome then s
    else
      let s1 := ((s.raiseFence 0x3204).emit 0x3204 srcWarden uidWarden [(1, stopCode why)]).allDurable
      let s2 := (List.range 60).foldl (fun t p => t.offPolder p) { s1 with power := { s1.power with free := true } }
      match why with
      | .converter => { s2 with orderly := some why }
      | _ => { s2.loseLake with orderly := some why, powered := false })

/-! ## Planned shutdown and wake (R521 to R523) -/

/-- A write of `PDCTL`: each 1 requests (R521, R523, R519). -/
def State.writePdctl (s : State) (p : Nat) (v : Word) : State :=
  let x := s.polder p
  s.setPolder p { x with shutReq := x.shutReq || v.getLsbD 0, wakeReq := x.wakeReq || v.getLsbD 1, restReq := x.restReq || v.getLsbD 2 }

def execPdctlShut (p : Fin 60) (v : Word) (s : State) : Host.Outcome State Fault Refusal :=
  .next (if s.powered then s.writePdctl p.val (v &&& 1) else s)
def execPdctlWake (p : Fin 60) (v : Word) (s : State) : Host.Outcome State Fault Refusal :=
  .next (if s.powered then s.writePdctl p.val (v &&& 2) else s)
def execPdctlRestore (p : Fin 60) (v : Word) (s : State) : Host.Outcome State Fault Refusal :=
  .next (if s.powered then s.writePdctl p.val (v &&& 4) else s)

/-- The device acts on a request only between jobs or while the fence is raised. -/
def State.mayPower (s : State) : Bool :=
  s.safety.fence || (match s.job with | none => true | some j => j.state != 2)

/-- The state with a polder off, as the checks of a shutdown look at it. -/
def State.without (s : State) (p : Nat) : State := s.setPolder p { s.polder p with state := 0 }

/-- Are all nodes that are up reachable from one of them? -/
def State.connected (s : State) : Bool :=
  let g := s.graph
  match g with
  | [] => true
  | (n, _) :: _ => (bfs g (fun _ _ => true) [(n, 0)] [n] 0 700).length == g.length

/-- Has every barrier node that is up a live path to EN, by its parent or its detour? -/
def State.barrierOk (s : State) : Bool :=
  (List.range 60).all (fun q => q == 56 || !s.polderOn q || (match barParent q with
    | some r => s.polderOn r || (s.barDetour q).isSome
    | none => true))

/-- Why a shutdown is refused (R521): embankment, port bound, manager cluster, reachability, barrier net. -/
def State.shutRefused (s : State) (p : Nat) : Option Nat :=
  if p ≥ 56 then some 1
  else if (s.placeOf p).isSome then some 2
  else if (match s.job with | some j => (match j.desc.mgrcluster with | some c => c.1 == p | none => false) | none => false) then some 3
  else if !(s.without p).connected then some 4
  else if !(s.without p).barrierOk then some 5
  else none

/-- Clamps of a dike close or open on both sides without a report. -/
def State.setClamps (s : State) (p : Nat) (closed : Bool) : State :=
  (polNbrs p).foldl (fun t q =>
    let x := t.polder q
    let cs := x.clamps.filter (· != p)
    t.setPolder q { x with clamps := if closed then cs ++ [p] else cs }) s

/-- The barrier tree is set again for the polders that are up (R292). -/
def State.rebar (s : State) : State :=
  let s1 := { s with barOver := (List.range 60).filterMap (fun p => (s.barDetour p).map (fun q => (p, q))) }
  match s1.job with
  | none => s1
  | some j => (List.range 60).foldl (fun t p => t.setBar p { t.bar p with expect := s1.barExpects j.desc p }) s1

def execPlannedShutdown (p : Fin 60) (s : State) : Host.Outcome State Fault Refusal :=
  .next (
    let q := p.val
    let x := s.polder q
    if !x.shutReq || !s.mayPower || !s.devUp then s
    else
      let s0 := s.setPolder q { x with shutReq := false }
      match s0.shutRefused q with
      | some why => s0.emit 0x3206 srcWarden (uidSupply q) [(1, q), (1, why)]
      | none =>
        if x.state != 2 then s0
        else (((s0.offPolder q).setClamps q true).reroute.rebar).emit 0x3205 srcWarden (uidSupply q) [(1, q)])

/-- A polder that was switched off comes back, with its pond cleared and its units reset; one that fails its test is marked lost. -/
def execPolderWake (p : Fin 60) (pass : Bool) (s : State) : Host.Outcome State Fault Refusal :=
  .next (
    let q := p.val
    let x := s.polder q
    if !x.wakeReq || !s.mayPower || x.state != 0 || x.lost || !s.devUp || s.orderly.isSome then s
    else if !pass then s.setPolder q { x with wakeReq := false, lost := true, emTrips := x.emTrips + 1 }
    else
      let s1 := (s.setPolder q { x.powered s.ref with wakeReq := false }).setClamps q false
      let s2 := if q < 56 then s1.clearPonds q else s1
      let s3 := (s2.resetUnits q).reroute.rebar
      (if q < 56 then s3.setPort q { s3.port q with state := 0 } else s3).emit 0x3207 srcWarden (uidSupply q) [(1, q)])

end Sys2Proof.Machine
end

