-- ==== Sys2Proof/Machine/Power.lean ====
section
/-! DEFINITION. The power controller (17_power_and_heat): estimation and the cut of grants (R528, R530, R532), phases (R536, R537),
the allocation (R538, R539), energy (R545), and the heat fields of the surroundings record (R542 to R544). -/

namespace Sys2Proof.Machine

open Sys2Proof

/-! ## Phases (R536, R537) -/

/-- A cluster's phase tag. -/
def State.phaseTag (s : State) (c : Nat) : Nat :=
  match s.job with
  | some j => if j.desc.phaseen = 1 then s.natAt (c / 10 * 2 ^ 30 + c % 10 * 2 ^ 26 + j.desc.phaseoff % 2 ^ 26 / 8 * 8) 8 % 16 else 0
  | none => 0

/-- The tag that most of a list report, the lower on a tie. -/
def mostTag (ts : List Nat) : Nat :=
  (List.range 16).foldl (fun best t => if (ts.filter (· == t)).length > (ts.filter (· == best)).length then t else best) 0

/-- In-service clusters of a site. -/
def State.siteClusters (s : State) (i : Nat) : List Nat :=
  if s.siteIn i && s.polderOn i then (List.range 10).map (fun c => 10 * i + c) else []

def State.phaseOf (s : State) (p : Nat) : Nat :=
  if p < 56 then mostTag ((s.siteClusters p).map s.phaseTag)
  else mostTag (((List.range 56).flatMap s.siteClusters).map s.phaseTag)

/-- `KFLOOR` of a phase. -/
def State.kfloor (s : State) (t : Nat) : Nat :=
  match s.job with
  | some j => max 1 (min 64 (j.desc.kfloor.getD t 1))
  | none => 1

/-! ## Estimation (R528, R532) -/

/-- Site polders that run. -/
def State.runSites (s : State) : List Nat := (List.range 56).filter s.polderOn

/-- One polder's estimate and phase. -/
def State.estimatePolder (s : State) (p : Nat) : State :=
  let x := s.polder p
  if x.state != 2 then s
  else
    let t := s.phaseOf p
    s.setPolder p { x with est := Config.polderEst p s.ref, phase := t, moved := x.moved || t != x.phase }

/-- The grant after a cut. -/
def cutK (k floor : Nat) : Nat := max floor (k - (k + 3) / 4)

/-- Every site polder that runs stands at its floor. -/
def State.allFloor (s : State) : Bool := s.runSites.all (fun p => decide ((s.polder p).k ≤ s.kfloor (s.polder p).phase))

def State.estTotal (s : State) : Nat := ((List.range 60).filter s.polderOn).foldl (fun a p => a + (s.polder p).est) 0

def execPowerEstimateInterval (s : State) : Host.Outcome State Fault Refusal :=
  .next (
    if !s.powered then s
    else
      let s1 := (List.range 60).foldl (fun t p => t.estimatePolder p) s
      let loads := Config.carrierLoads s.ref
      let e := (s1.estTotal + loads) * s1.power.trim / 0x8000
      let s2 := { s1 with power := { s1.power with est := e, sumEst := s1.power.sumEst + e, nEst := s1.power.nEst + 1, loads := loads } }
      let s3 := if 100 * e > 102 * s2.power.limit then
          s2.runSites.foldl (fun t p => let x := t.polder p; t.setPolder p { x with k := cutK x.k (t.kfloor x.phase) }) s2
        else s2
      { s3 with power := { s3.power with atFloor := s3.allFloor } })

/-! ## The allocation (R538), in mW -/

/-- HCAP × F × ΔT: 0.1 W/(K·L/min) × 0.1 L/min × 0.1 K is 1 mW. -/
def outletPower (p : Power) (t : Nat) : Nat := p.hcap * p.flow * (t - p.tin)

/-- The target of R543. -/
def steadyTarget (p : Power) : Nat := min (outletPower p p.tout) (outletPower p 700)

/-- The heat fields of the surroundings record are taken (R542). -/
def Power.takeHeat (p : Power) (s : Surr) : Power :=
  let f (w : Word) (lo n : Nat) : Nat := w.toNat / 2 ^ lo % 2 ^ n
  let q := { p with tin := f s.heat1 0 16, flow := f s.heat1 16 16, capf := f s.heat1 32 16, ramp := f s.heat1 48 16,
                    tout := f s.heat2 0 16, hcap := f s.heat2 16 16, ballastOn := s.heat2.getLsbD 32, steadyOn := s.heat2.getLsbD 33 }
  if q.stale then q else { q with steady := steadyTarget q }

/-- The largest level at which no demand is passed and the shares fit the budget; `bits` counts the bits left to try. -/
def waterLevel (budget : Nat) (ws : List (Nat × Nat)) (level : Nat) : Nat → Nat
  | 0 => level
  | n + 1 =>
    let l := level + 2 ^ n
    let sum := ws.foldl (fun a e => a + max e.2 (min e.1 l)) 0
    waterLevel budget ws (if sum ≤ budget then l else level) n

/-- The grants for (want, least) pairs: each at least its least, none above its demand while another is held below its own. -/
def waterfill (budget : Nat) (ws : List (Nat × Nat)) : List Nat :=
  let l := waterLevel budget ws 0 24
  ws.map (fun e => max e.2 (min e.1 l))

/-- Which term set the limit (Table 17.5). -/
def bindOf (p : Power) (up lr target : Nat) (steady : Bool) : Nat :=
  if up ≥ 24000000 then 0
  else if steady && up == target then 5
  else if up == lr then 4
  else if up == 1000 * p.cap then 1
  else if up == 1000 * p.capf then 2
  else if up == 6000000 * p.feeds.length then 3
  else 5

/-- The limits of an interval: the envelope, limit and floor in mW, and what bound it. -/
def Power.limits (p : Power) (mean : Nat) : Nat × Nat × Nat × Nat :=
  let r := p.ramp
  let l := if p.free then mean else max (p.env - r) (min mean (p.env + r))
  let cap0 := min (min (1000 * p.cap) (1000 * p.capf)) (min (6000000 * p.feeds.length) 24000000)
  let cap := if p.stale || p.steadyOn then cap0 else min cap0 (outletPower p 700)
  let up0 := min cap (l + r)
  let dn0 := l - r
  let up := if p.steadyOn then min up0 (max p.steady dn0) else up0
  let dn := if p.steadyOn then min (max dn0 p.steady) up else dn0
  (l, up, if p.ballastOn then min dn up else 0, bindOf p up (l + r) p.steady p.steadyOn)

/-- The learned demand of a polder in a phase. -/
def demandOf (x : Polder) (q t : Nat) : Nat := Tbl.get x.hist (Config.fullRate q) t

/-- The history takes the interval's demand (R539). -/
def State.learn (s : State) (q : Nat) : State :=
  let x := s.polder q
  let d : Int := (x.est + Config.heldPower q s.ref : Nat)
  let h : Int := (demandOf x q x.phase : Nat)
  let n := (h + (d - h) / 16).toNat
  s.setPolder q (if x.moved then { x with moved := false } else { x with hist := Tbl.put x.hist x.phase n })

/-- Grant, k and ballast of one site polder. -/
def State.grantPolder (s : State) (q grant floor mean : Nat) : State :=
  let x := s.polder q
  let arrays := s.siteIn q
  let b := if floor = 0 || mean ≥ 1000 * floor || !arrays then 0 else min 64 (Config.ballastToFloor floor (mean / 1000) q)
  s.setPolder q { x with grant := grant, k := max 1 (min 64 (Config.grantToK q grant)), bal := b }

/-- Energy of 1 ms at the metered input, in mJ (R545). -/
def State.integrate (s : State) (meter : Nat) : State :=
  let run := match s.job with | some j => decide (j.state ≥ 2) || j.start.isSome | none => false
  let p := s.power
  { s with power := { p with meter := meter % 65536, jobe := if run then p.jobe + meter else p.jobe, life := p.life + meter } }

def execPowerAllocation (meter : Nat) (s : State) : Host.Outcome State Fault Refusal :=
  .next (
    if !s.powered then s
    else
      let s1 := s.integrate meter
      let p := s1.power.takeHeat s1.surr
      let mean := 1000 * (if p.nEst = 0 then p.est else p.sumEst / p.nEst)
      let (l, up, floor, bind) := p.limits mean
      let sites := s1.runSites
      let fixed := p.loads + ((List.range 4).filter (fun i => s1.polderOn (56 + i))).foldl (fun a i => a + (s1.polder (56 + i)).est) 0
      let s2 := sites.foldl (fun t q => t.learn q) s1
      let ws := sites.map (fun q => let x := s2.polder q; (demandOf x q x.phase, Config.wattsAt q (s2.kfloor x.phase)))
      let grants := waterfill (up / 1000 - fixed) ws
      let s3 := (sites.zip grants).foldl (fun t e => t.grantPolder e.1 e.2 (floor / 1000) mean) s2
      let bals := (sites.filter s3.siteIn).map (fun q => (s3.polder q).bal)
      let s4 := { s3 with power := { p with env := l, limit := up / 1000, floor := floor / 1000, bind := bind, free := false,
                                            sumEst := 0, nEst := 0, ballast := bals.any (· > 0), atFloor := s3.allFloor } }
      if floor > mean && !bals.isEmpty && bals.all (· == 64) then s4.emit 0x3305 srcWarden uidWarden [(2, floor / 1000), (2, mean / 1000)]
      else s4)

/-! ## Trim, caps, coolant -/

/-- Once per second (R530): 0.95 and 1.05 of 0x8000 bound the trim. -/
def execTrimUpdate (est meter : Nat) (s : State) : Host.Outcome State Fault Refusal :=
  .next (
    if !s.powered || est = 0 then s
    else
      let t := max 31130 (min 34406 (meter * 0x8000 / est))
      let s1 := { s with power := { s.power with trim := t } }
      if 100 * (((meter : Nat) : Int) - est).natAbs > 5 * est then s1.emit 0x3302 srcWarden uidWarden [(2, est), (2, meter)] else s1)

def execCapNotMet (s : State) : Host.Outcome State Fault Refusal :=
  .next (
    let p := s.power
    if s.powered && p.atFloor && decide (p.est > p.limit) then s.emit 0x3301 srcWarden uidWarden [(2, p.est), (2, p.limit)] else s)

def execCoolantStale (s : State) : Host.Outcome State Fault Refusal :=
  .next (
    if !s.powered || s.power.stale then s
    else { s with power := { s.power with stale := true } }.emit 0x3303 srcWarden uidWarden [])

/-- A cap that falls below the present power (R540). -/
def State.capLowered (s : State) (old new : Nat) : State :=
  if new < old && new < s.power.est then s.emit 0x3304 srcWarden uidWarden [(2, new), (2, s.power.est)] else s

/-- A write of `PWCTL`. -/
def State.writePwctl (s : State) (v : Word) : State :=
  let c := max 8000 (min 24000 (v.toNat % 65536))
  { s with power := { s.power with cap := c } }.capLowered s.power.cap c

def execPwctlWrite (port : Fin 2) (v : Word) (s : State) : Host.Outcome State Fault Refusal :=
  .next (if s.regServed port.val 0x300000 then s.writePwctl v else s)

/-! ## The surroundings record's heat fields and time -/

/-- A field of a register: lowest bit, width, least and greatest value. -/
abbrev FieldRange := Nat × Nat × Nat × Nat

/-- Ranges of Table 17.3 by register. -/
def heatFields (reg : Nat) : List FieldRange :=
  if reg = 0 then [(0, 16, 200, 550), (16, 16, 250, 600), (32, 16, 8000, 24000), (48, 16, 100, 10000)]
  else [(0, 16, 250, 700), (16, 16, 500, 800), (32, 1, 0, 1), (33, 1, 0, 1)]

def fieldOf (w : Word) (f : FieldRange) : Nat := w.toNat / 2 ^ f.1 % 2 ^ f.2.1

/-- The word with a field replaced. -/
def setField (w : Word) (f : FieldRange) (x : Nat) : Word :=
  BitVec.ofNat 64 (w.toNat - fieldOf w f * 2 ^ f.1 + x % 2 ^ f.2.1 * 2 ^ f.1)

def inRange (w : Word) (f : FieldRange) : Bool := decide (f.2.2.1 ≤ fieldOf w f) && decide (fieldOf w f ≤ f.2.2.2)

/-- Fields in their range are taken; the others keep their value, each with a record (R574). -/
def State.takeFields (s : State) (off : Nat) (old v : Word) (fs : List FieldRange) : State × Word :=
  fs.foldl (fun (acc : State × Word) f =>
    if inRange v f then (acc.1, setField acc.2 f (fieldOf v f))
    else (acc.1.emit 0x7103 srcWarden uidWarden [(4, off), (1, f.1)], acc.2)) (s, old)

/-- A write of `SRHEAT1` or `SRHEAT2`; a write of TIN and FLOW ends staleness (R544). -/
def State.writeHeat (s : State) (reg : Nat) (v : Word) : State :=
  if reg = 0 then
    let (s1, w) := s.takeFields 0x00200010 s.surr.heat1 v (heatFields 0)
    let s2 := { s1 with surr := { s1.surr with heat1 := w }, power := { s1.power with stale := false } }
    s2.capLowered s.power.capf (fieldOf w (32, 16, 0, 0))
  else
    let (s1, w) := s.takeFields 0x00200018 s.surr.heat2 v (heatFields 1)
    { s1 with surr := { s1.surr with heat2 := w } }

def execSurroundingsHeatWrite (port : Fin 2) (reg : Fin 2) (v : Word) (s : State) : Host.Outcome State Fault Refusal :=
  .next (if s.regServed port.val 0x200010 then s.writeHeat reg.val v else s)

/-- The wall clock is set; it counts on from there (R574). -/
def State.writeTime (s : State) (v : Word) : State := { s with surr := { s.surr with timeBase := v, timeRef := s.ref } }

def execSrtimeWrite (port : Fin 2) (v : Word) (s : State) : Host.Outcome State Fault Refusal :=
  .next (if s.regServed port.val 0x200020 then s.writeTime v else s)

end Sys2Proof.Machine
end

