-- ==== Sys2Proof/Machine/Observe.lean ====
section
/-! DEFINITION. Observation (20_observation_and_events): counters' controls, trace controls and the power stream, and the event
window (R618). -/

namespace Sys2Proof.Machine

open Sys2Proof

/-! ## The event window (R618) -/

/-- A write of `EVSEL`. -/
def State.writeEvsel (s : State) (port : Nat) (v : Word) : State :=
  let h := s.hport port
  let h0 := { h with evsel := v, evValid := false, evMirror := false, evBusy := false, evData := [] }
  if s.evrec.recs.any (·.seq == v.toNat) then s.setHport port { h0 with evValid := true }
  else if (s.evrec.mirrored v.toNat).isSome then s.setHport port { h0 with evBusy := true }
  else s.setHport port h0

def execEvselWrite (port : Fin 2) (v : Word) (s : State) : Host.Outcome State Fault Refusal :=
  .next (if s.regServed port.val 0x400010 then s.writeEvsel port.val v else s)

def execMirrorFetchComplete (port : Fin 2) (s : State) : Host.Outcome State Fault Refusal :=
  .next (
    let h := s.hport port.val
    if !h.evBusy || s.safety.wfail || !s.powered then s
    else match s.evrec.mirrored h.evsel.toNat with
      | none => s.setHport port.val { h with evBusy := false }
      | some r => s.setHport port.val { h with evBusy := false, evValid := true, evMirror := true, evData := r.bytes })

/-- Does the aperture hold the record now? A live view ends when the record is evicted. -/
def State.evValid (s : State) (port : Nat) : Bool :=
  let h := s.hport port
  h.evValid && (h.evMirror || s.evrec.recs.any (·.seq == h.evsel.toNat))

/-- The aperture's bytes. -/
def State.aperture (s : State) (port : Nat) : List Byte :=
  let h := s.hport port
  if !h.evValid then []
  else if h.evMirror then h.evData
  else match s.evrec.recs.find? (·.seq == h.evsel.toNat) with
    | some r => r.bytes
    | none => []

/-! ## Counters (R602, R603, R606) -/

/-- Offset of a select in the counter block. -/
def cselOff (cl n : Nat) : Nat := 0x500000 + 0x400 * cl + 0x200 + 8 * n

/-- The host writes a select: a reserved encoding leaves it unchanged (R603). -/
def State.hostSel (s : State) (cl n : Nat) (v : Word) : State :=
  if !s.polderOn (cl / 10) || cselBad v then s else s.writeSel cl n v

def execCselWrite (port : Fin 2) (k : ClusterId) (n : Fin 64) (v : Word) (s : State) : Host.Outcome State Fault Refusal :=
  .next (if s.regServed port.val (cselOff (clKey k) n.val) then s.hostSel (clKey k) n.val v else s)

def execCntctlWrite (port : Fin 2) (v : Word) (s : State) : Host.Outcome State Fault Refusal :=
  .next (if s.regServed port.val 0x5E0000 then { s with freeze := v.getLsbD 0 } else s)

/-! ## Trace (R607, R608, Table 20.7) -/

/-- Does a ring lie inside the trace area? -/
def State.ringPlaced (s : State) (r : Nat) : Bool :=
  s.ringSize r != 0 && decide (s.ringBase r + s.ringSize r ≤ 2 ^ 30)

def State.ringsMeet (s : State) (a b : Nat) : Bool := overlaps (s.ringBase a) (s.ringSize a) (s.ringBase b) (s.ringSize b)

/-- The rings that a write of `TRCTL` leaves enabled: those that stay on, then each new one that passes its checks. -/
def State.ringsOn (s : State) (v : Word) : List Nat :=
  let want (r : Nat) : Bool := v.getLsbD (r + 1)
  let kept := [0, 1, 2].filter (fun r => want r && s.trace.ctl.getLsbD (r + 1))
  [0, 1, 2].foldl (fun on r =>
    if want r && !on.contains r && s.ringPlaced r && on.all (fun q => !s.ringsMeet q r) then on ++ [r] else on) kept

/-- A write of `TRCTL`, while trace is open; a reserved MSHIFT leaves that field. -/
def State.writeTrctl (s : State) (v : Word) : State :=
  if !s.trace.openT then s
  else
    let on := s.ringsOn v
    let sh := v.toNat / 32 % 32
    let m := if sh > 20 then s.trace.ctl.toNat / 32 else sh
    { s with trace := { s.trace with ctl := BitVec.ofNat 10 (1 + 2 * b2n (on.contains 0) + 4 * b2n (on.contains 1) + 8 * b2n (on.contains 2) +
                                              16 * b2n (v.getLsbD 4) + 32 * m) } }

def execTrctlWrite (port : Fin 2) (v : Word) (s : State) : Host.Outcome State Fault Refusal :=
  .next (if s.regServed port.val 0x5F0000 then s.writeTrctl v else s)

/-- The head of a power line. -/
def powerHead (s : State) (n : Nat) : List Byte := [3, BitVec.ofNat 8 n, 0xFF, 0xFF] ++ leBytes 4 0 ++ leBytes 8 s.ref

/-- Estimates of `n` polders from `p` on. -/
def State.estBytes (s : State) (p n : Nat) : List Byte := (List.range n).flatMap (fun i => leBytes 2 (s.polder (p + i)).est)

def execTracePowerLines (s : State) : Host.Outcome State Fault Refusal :=
  .next (
    if !s.trace.openT || !s.trace.ctl.getLsbD 3 || !s.powered || s.safety.wfail then s
    else
      let p := s.power
      let l0 := powerHead s 0 ++ s.estBytes 0 24
      let l1 := powerHead s 1 ++ s.estBytes 24 24
      let l2 := powerHead s 2 ++ s.estBytes 48 12 ++ leBytes 2 p.est ++ leBytes 2 p.limit ++ leBytes 2 p.floor ++ leBytes 2 p.meter ++
        leBytes 16 0
      ((s.traceLine 2 l0).traceLine 2 l1).traceLine 2 l2)

end Sys2Proof.Machine
end

