-- ==== Sys2Proof/Machine/Regs.lean ====
section
/-! DEFINITION. The control space as the host sees it in BAR0 (R549, R550, R574, R624 to R635): the value of every register, the
fields that a read clears, and writes. -/

namespace Sys2Proof.Machine

open Sys2Proof

/-! ## Values -/

/-- Firmware has written the identity fields (R632). -/
def State.mapped (s : State) : Bool := s.sec.stage == 9

def idState (s : State) : Nat := match s.job with | some j => j.state | none => 0

/-- The identity block (Tables 21.3 to 21.5). -/
def State.idReg (s : State) (off : Nat) : Nat :=
  let m (n : Nat) : Nat := if s.mapped then n else 0
  match off with
  | 0x00 => 0x0B56 + m (2 ^ 16 * s.fuse.grade.toNat + 2 ^ 20 * s.fuse.stepping.toNat)
  | 0x08 => m s.fuse.serial.toNat
  | 0x10 => m (match s.sec.running with | some f => f.version.toNat | none => 0)
  | 0x18 => 1 + 2 ^ 4 * 2 + 2 ^ 8 * 16 + 2 ^ 13 * 8 + 2 ^ 17 * 41 + 2 ^ 23 * 16 + 2 ^ 28 * 64
  | 0x20 =>
    let n := s.sitesIn.length
    m (n + 2 ^ 6 * (10 * n) + 2 ^ 16 * s.coresIn + 2 ^ 29 * s.arraysIn + 2 ^ 43 * s.slots.length +
      2 ^ 49 * ([14, 15].filter (fun b => (s.bay b).state == 2)).length)
  | 0x28 => m s.siteMask.toNat
  | 0x30 => m s.resv.toNat
  | 0x38 =>
    let seg (i : Nat) : Nat := b2n ((List.range 11).any (fun k => s.stackRes.getLsbD (11 * i + k) && !s.stackGone (11 * i + k)))
    m (s.stackSvc.toNat + 2 ^ 44 * (seg 0 + 2 * seg 1 + 4 * seg 2 + 8 * seg 3))
  | 0x40 => s.idgen
  | 0x48 => m s.repairDigest.toNat
  | 0x50 => s.jobId % 2 ^ 32 + 2 ^ 32 * idState s
  | _ =>
    if 0x80 ≤ off ∧ off < 0xB0 then
      m ((List.range 8).foldl (fun a r => a + 2 ^ (8 * r) * (s.pmapAt ((off - 0x80) / 8) r % 256)) 0)
    else 0

/-- Entries of a queue's rings (R561). -/
def HQueue.sqsize (x : HQueue) : Nat := 2 ^ (x.cfg.toNat % 16 + 4)
def HQueue.cqsize (x : HQueue) : Nat := 2 ^ (x.cfg.toNat / 16 % 16 + 4)
def HQueue.enabled (x : HQueue) : Bool := x.cfg.getLsbD 19
def HQueue.ien (x : HQueue) : Bool := x.cfg.getLsbD 18
def HQueue.vector (x : HQueue) : Nat := x.cfg.toNat / 256 % 1024

/-- Does the Warden serve queue `q` of a port: ready, or in recovery queue pair 0 of port A (R562, R580)? -/
def State.qServed (s : State) (port q : Nat) : Bool :=
  let x := (s.hport port).queue q
  s.hostOk port && !s.safety.wfail && x.enabled && !x.error && (s.sec.stage == 9 || (s.sec.stage == 14 && port == 0 && q == 0))

/-- A port's own blocks: queues, MSI-X, windows and event vectors. -/
def State.portReg (s : State) (port off : Nat) : Nat :=
  let h := s.hport port
  if off < 0x100000 then 0
  else if off < 0x101000 then
    let q := (off - 0x100000) / 0x100
    let x := h.queue q
    match off % 0x100 with
    | 0x00 => x.sqbase.toNat
    | 0x08 => x.cqbase.toNat
    | 0x10 => x.cfg.toNat
    | 0x18 => b2n (s.qServed port q) + 2 * b2n x.error + 4 * x.sqhead
    | _ => 0
  else if 0x108000 ≤ off ∧ off < 0x10C000 then
    let i := (off - 0x108000) / 8
    (Tbl.get h.msix (if i % 2 = 1 then BitVec.ofNat 64 (2 ^ 32) else 0) i).toNat
  else if 0x10C000 ≤ off ∧ off < 0x10C080 then (Tbl.get h.pba 0 ((off - 0x10C000) / 8)).toNat
  else if 0x10E000 ≤ off ∧ off < 0x10E080 then (Tbl.get h.hwin 0 ((off - 0x10E000) / 8)).toNat
  else if 0x10F008 ≤ off ∧ off < 0x10F040 then (h.evirq ((off - 0x10F000) / 8)).toNat
  else 0

/-- The surroundings record and `GRPSTAT` (Tables 18.10, 14.7). -/
def State.surrReg (s : State) (off : Nat) : Nat :=
  match off with
  | 0x200000 => s.surr.topo.toNat
  | 0x200008 => s.surr.head.toNat
  | 0x200010 => s.surr.heat1.toNat
  | 0x200018 => s.surr.heat2.toNat
  | 0x200020 => s.wall
  | 0x200800 =>
    let g := s.group
    g.role % 4 + 4 * (g.widx % 64) + 2 ^ 8 * g.last.toNat + 2 ^ 56 * (g.verdict % 4) + 2 ^ 58 * b2n g.waiting + 2 ^ 59 * (g.badsrc % 16)
  | _ => if 0x200100 ≤ off ∧ off < 0x200280 then (Tbl.get s.surr.nbr 0 ((off - 0x200100) / 8)).toNat else 0

/-- The power registers (Tables 17.5 to 17.7). -/
def State.pwReg (s : State) (off : Nat) : Nat :=
  let p := s.power
  match off with
  | 0x300000 => p.cap
  | 0x300008 => p.limit % 65536 + 2 ^ 16 * (p.floor % 65536) + 2 ^ 32 * (p.bind % 8) + 2 ^ 35 * b2n p.stale + 2 ^ 36 * b2n p.atFloor +
      2 ^ 37 * b2n p.ballast
  | 0x300010 => p.est % 65536 + 2 ^ 16 * (p.meter % 65536) + 2 ^ 32 * (p.trim % 65536)
  | 0x300018 => p.jobe % 2 ^ 64
  | 0x300020 => p.stepe % 2 ^ 48
  | 0x300028 => p.life % 2 ^ 64
  | _ =>
    if 0x301000 ≤ off ∧ off < 0x3011C0 then
      let x := s.polder ((off - 0x301000) / 8)
      x.k % 128 + 2 ^ 7 * (x.bal % 128) + 2 ^ 14 * (x.phase % 16) + 2 ^ 18 * (Tbl.get x.hist 0 x.phase % 65536) + 2 ^ 34 * (x.grant % 65536)
    else 0

/-- The event window of a port (Table 20.10). -/
def State.evReg (s : State) (port off : Nat) : Nat :=
  let h := s.hport port
  let v := s.evrec
  match off with
  | 0x400000 => match v.recs with | r :: _ => r.seq | [] => v.newest + 1
  | 0x400008 => v.newest
  | 0x400010 => h.evsel.toNat
  | 0x400018 => b2n (s.evValid port) + 2 * b2n h.evMirror + 4 * b2n h.evBusy
  | 0x400020 => Tbl.get v.lost 0 0 + 2 ^ 16 * Tbl.get v.lost 0 1 + 2 ^ 32 * Tbl.get v.lost 0 2 + 2 ^ 48 * Tbl.get v.lost 0 3
  | 0x400028 => v.evmir
  | _ => if 0x400400 ≤ off ∧ off < 0x400800 then leNat (((s.aperture port).drop (off - 0x400400)).take 8) else 0

/-- The polder of an embankment counter's unit (Table 20.3). -/
def embPolder (u : Nat) : Nat :=
  if u < 16 then 56 + u / 4 else if u < 32 then 56 + (u - 16) / 4 else if u < 76 then 56 + (u - 32) / 11
  else if u < 120 then 56 + (u - 76) / 11 else 56 + (u - 120) / 4

/-- Counters and trace registers (Tables 20.1, 20.3, 20.7). -/
def State.obsReg (s : State) (off : Nat) : Nat :=
  let t := s.trace
  if off < 0x58C000 then
    let c := (off - 0x500000) / 0x400
    let i := off % 0x400 / 8
    let x := s.cluster c
    if !s.polderOn (c / 10) then 0
    else if i < 64 then (Tbl.get x.cnt 0 i).toNat else (if i < 128 then (x.csel (i - 64)).toNat else 0)
  else if 0x590000 ≤ off ∧ off < 0x594400 then
    let u := (off - 0x590000) / 0x80
    if s.polderOn (embPolder u) then (Tbl.get s.ecnt 0 ((off - 0x590000) / 8)).toNat else 0
  else if off = 0x5E0000 then b2n s.freeze
  else if !t.openT then 0
  else match off with
    | 0x5F0000 => t.ctl.toNat
    | _ =>
      if 0x5F0010 ≤ off ∧ off < 0x5F0028 then (Tbl.get t.rings 0 ((off - 0x5F0010) / 8)).toNat
      else if 0x5F0030 ≤ off ∧ off < 0x5F0048 then
        let r := (off - 0x5F0030) / 8
        Tbl.get t.wpOff 0 r % 2 ^ 30 + 2 ^ 30 * (Tbl.get t.wraps 0 r % 2 ^ 32)
      else if 0x5F0048 ≤ off ∧ off < 0x5F0060 then Tbl.get t.drops 0 ((off - 0x5F0048) / 8)
      else if 0x5F0100 ≤ off ∧ off < 0x5F0300 then (Tbl.get t.core 0 ((off - 0x5F0100) / 8)).toNat
      else if 0x5F0300 ≤ off ∧ off < 0x5F0380 then (Tbl.get t.node 0 ((off - 0x5F0300) / 8)).toNat
      else 0

/-- Does the slot that is not running hold a verified image? -/
def Sec.staged (x : Sec) : Bool := Tbl.get x.okSlot false (1 - x.slot)

/-- The safety and security registers (Tables 15.8, 15.9, 19.10). -/
def State.safeReg (s : State) (off : Nat) : Nat :=
  let f := s.safety
  let x := s.sec
  match off with
  | 0x600000 => b2n f.fence + 2 * b2n f.wfail + 4 * b2n f.stesting + 8 * f.pstep.toNat
  | 0x600008 => f.detCode % 65536 + 2 ^ 16 * (f.detMech % 16) + 2 ^ 20 * (f.detSrc % 64)
  | 0x600010 => f.dets + 2 ^ 32 * f.fences
  | 0x600018 => sftestReg f
  | 0x700000 => x.stage % 16 + 2 ^ 4 * (x.fail % 8) + 2 ^ 7 * (x.kind % 4) + 2 ^ 16 * (x.time % 65536)
  | 0x700008 =>
    let (svn, key) := match x.running with | some f => (f.svn, f.keyslot.val) | none => (0, 0)
    x.slot % 2 + 2 * (svn % 128) + 2 ^ 8 * (s.fuse.floor % 128) + 2 ^ 15 * key + 2 ^ 17 * s.fuse.revoke.toNat + 2 ^ 21 * b2n x.staged +
      2 ^ 22 * (x.active % 2)
  | 0x700010 =>
    s.fuse.rekey % 128 + 2 ^ 7 * b2n x.observed + 2 ^ 8 * b2n x.busy + 2 ^ 9 * b2n x.exhausted + 2 ^ 10 * (x.nextIdx % 2 ^ 21) +
      2 ^ 31 * x.keys.length
  | _ => 0

/-- The polder status array (Tables 16.5, 16.6). -/
def State.pdReg (s : State) (p off : Nat) : Nat :=
  let x := s.polder p
  match off with
  | 0x00 =>
    b2n (decide (p ≥ 56)) + 2 * (x.state % 8) + 2 ^ 4 * b2n x.lost + 2 ^ 5 * (x.cause % 4) + 2 ^ 7 * (x.div % 16) +
      2 ^ 11 * b2n (decide (p < 56) && s.tileOut.getLsbD p && s.polderOn p) + 2 ^ 12 * b2n (decide (p < 56) && s.resv.getLsbD p) +
      2 ^ 13 * b2n (x.shutReq || x.wakeReq) + 2 ^ 16 * (x.trips % 65536) + 2 ^ 32 * (x.steps % 65536)
  | 0x08 =>
    (if s.polderOn p then (BitVec.ofInt 16 x.tmax).toNat else 0x8000) + 2 ^ 16 * (BitVec.ofInt 16 x.tpeak).toNat +
      2 ^ 32 * min (x.slow / 100) 65535
  | 0x10 => x.vout % 65536 + 2 ^ 16 * (x.iout % 65536) + 2 ^ 32 * (x.vtarget % 65536)
  | 0x18 => b2n x.shutReq + 2 * b2n x.wakeReq + 4 * b2n x.restReq
  | _ => 0

/-- A light port's registers (Tables 13.8 to 13.10). A port that is not up shows the direction the map gives it. -/
def State.lpReg (s : State) (p off : Nat) : Nat :=
  let x := s.port p
  if !s.polderOn p then 0
  else match off with
    | 0x00 =>
      let bind := if x.state = 2 then x.bind else (match s.placeOf p with | some i => i / 8 + 1 | none => 0)
      x.state % 4 + 4 * (bind % 8) + 2 ^ 5 * x.txSpare.toNat + 2 ^ 9 * x.rxSpare.toNat + 2 ^ 13 * b2n x.laser
    | 0x08 => x.lock.toNat + 2 ^ 9 * x.degraded.toNat
    | 0x10 => x.retries % 2 ^ 32 + 2 ^ 32 * (x.uncorr % 65536) + 2 ^ 48 * (x.drops % 65536)
    | 0x18 => x.peer.toNat
    | 0x20 => b2n x.retrain
    | _ => 0

/-- A laser bay's registers (Table 13.11). -/
def State.lmReg (s : State) (b off : Nat) : Nat :=
  let y := s.bay b
  match off with
  | 0x00 => b2n y.present + 2 * (y.state % 4) + 2 ^ 3 * (y.serves % 16) + 2 ^ 7 * (y.power % 65536)
  | 0x08 => b2n y.off
  | _ => 0

/-- Lake and flash registers (Tables 12.10 to 12.12). -/
def State.memReg (s : State) (off : Nat) : Nat :=
  let f := s.flash
  match off with
  | 0x1000000 => s.slots.length + 2 ^ 6 * b2n s.lkSelf + 2 ^ 7 * b2n s.lkSuspect + 2 ^ 8 * (s.lkPatrols % 65536)
  | 0x1000040 => s.lkCorr % 2 ^ 32 + 2 ^ 32 * (s.lkUnc % 65536) + 2 ^ 48 * (s.lkLast % 64)
  | 0x1001000 => s.chansUp.toNat + 2 ^ 16 * b2n s.teeOn + 2 ^ 17 * b2n f.curSlot + 2 ^ 18 * b2n f.curValid
  | 0x1001008 => f.curStep % 2 ^ 48
  | 0x1001010 => f.life % 256 + 2 ^ 8 * (f.freeBlk % 2 ^ 32)
  | _ =>
    if 0x1000008 ≤ off ∧ off < 0x1000030 then
      let m := (off - 0x1000008) / 8
      (List.range 8).foldl (fun a k => a + 2 ^ (8 * k) * (s.slots.getD (8 * m + k) 0xFF % 256)) 0
    else 0

/-- Registers of Springs, Sluices and update engines (R629, R630). -/
def State.unitReg (s : State) (off : Nat) : Nat :=
  let num := off % 0x10000 / 8
  let go (k : Nat) : Nat := if s.polderOn (polderOf k) then (s.ctlReg k num).getD 0 else 0
  if off % 0x10000 ≥ 0x8000 then 0
  else if 0x2000000 ≤ off ∧ off < 0x2100000 then go (sprKey + (off - 0x2000000) / 0x10000)
  else if 0x2100000 ≤ off ∧ off < 0x2200000 then go (sluKey + (off - 0x2100000) / 0x10000)
  else if 0x2200000 ≤ off ∧ off < 0x24C0000 then go (ueKey + (off - 0x2200000) / 0x10000)
  else 0

/-- The 8-byte register at an aligned offset; a reserved one reads zero (R625). -/
def State.reg (s : State) (port off : Nat) : Nat :=
  if off < 0x100 then s.idReg off
  else if off < 0x110000 then s.portReg port off
  else if off < 0x300000 then s.surrReg off
  else if off < 0x400000 then s.pwReg off
  else if off < 0x500000 then s.evReg port off
  else if off < 0x600000 then s.obsReg off
  else if off < 0x800000 then s.safeReg off
  else if off < 0x83C000 then
    (if off % 0x1000 < 0x800 then s.pdReg ((off - 0x800000) / 0x1000) (off % 0x1000)
     else if off < 0x838000 then s.lpReg ((off - 0x800000) / 0x1000) (off % 0x800) else 0)
  else if 0x840000 ≤ off ∧ off < 0x841000 then s.lmReg ((off - 0x840000) / 0x100) (off % 0x100)
  else if 0x1000000 ≤ off ∧ off < 0x1002000 then s.memReg off
  else s.unitReg off

/-! ## Fields that a read clears (R627) -/

/-- A read clears the fields of which it covers every byte: `lo` and `hi` say which halves of the register it covers. -/
def State.readClear (s : State) (off : Nat) (lo hi : Bool) : State :=
  if off = 0x200800 then (if hi then { s with group := { s.group with badsrc := 0 } } else s)
  else if off = 0x600010 then
    setSafety s { s.safety with dets := if lo then 0 else s.safety.dets, fences := if hi then 0 else s.safety.fences }
  else if off = 0x1000040 then { s with lkCorr := if lo then 0 else s.lkCorr, lkUnc := if hi then 0 else s.lkUnc }
  else if 0x800000 ≤ off ∧ off < 0x83C000 then
    let p := (off - 0x800000) / 0x1000
    let x := s.polder p
    match off % 0x1000 with
    | 0x000 => if hi then s.setPolder p { x with steps := 0 } else s
    | 0x008 => s.setPolder p { x with tpeak := if lo then 0 else x.tpeak, slow := if hi then 0 else x.slow }
    | 0x810 =>
      if p < 56 && s.polderOn p then
        s.setPort p { s.port p with retries := if lo then 0 else (s.port p).retries, uncorr := if hi then 0 else (s.port p).uncorr,
                                    drops := if hi then 0 else (s.port p).drops }
      else s
    | _ => s
  else s

/-- A host request's answer. -/
def State.tell (s : State) (x : HostTx) : State := { s with hostTx := s.hostTx ++ [x] }

/-- The sizes and alignment that BAR0 accepts (R549). -/
def bar0Ok (off size : Nat) : Bool := (size == 4 || size == 8) && off % size == 0 && decide (off + size ≤ 2 ^ 26)

/-- A port's AER Completer Abort status is set. -/
def State.aerAbort (s : State) (port : Nat) : State := s.setHport port { s.hport port with aborts := (s.hport port).aborts + 1 }

/-- A host read through BAR0. -/
def State.bar0Read (s : State) (port off size : Nat) : State :=
  if !s.hostOk port || !bar0Ok off size then s.tell (.unsupported port)
  else if !s.regServed port off then
    let s1 := s.tell (.rdata port (leBytes size 0))
    if s.safety.wfail then s1.aerAbort port else s1
  else
    let a := off / 8 * 8
    let v := s.reg port a
    let s1 := s.readClear a (size == 8 || off % 8 == 0) (size == 8 || off % 8 == 4)
    s1.tell (.rdata port (leBytes size (v / 2 ^ (8 * (off % 8)))))

def execRcRead (port : Fin 2) (off size : Nat) (s : State) : Host.Outcome State Fault Refusal := .next (s.bar0Read port.val off size)

/-! ## Writes -/

/-- A queue is enabled: its rings start at entry 0 and PHASE at 1; it is disabled: the stop of R562 ends, and what was fetched and
not started is dropped. A change of a size while enabled, and a reserved size, is ignored (R561). -/
def HQueue.writeCfg (x : HQueue) (v : Word) : HQueue :=
  let en := v.getLsbD 19
  let size (old new : Nat) : Nat := if x.enabled || new > 8 then old else new
  let sq := size (x.cfg.toNat % 16) (v.toNat % 16)
  let cq := size (x.cfg.toNat / 16 % 16) (v.toNat / 16 % 16)
  let c := BitVec.ofNat 20 (sq + 16 * cq + v.toNat / 256 % 2 ^ 12 * 256)
  if en && !x.enabled then { HQueue.reset with sqbase := x.sqbase, cqbase := x.cqbase, cfg := c }
  else if en then { x with cfg := c }
  else { x with cfg := c, error := false, ring := [], cmds := [] }

/-- A window register: BASE must name pond or Lake space and be aligned to a segment (R551). -/
def HPort.winOk (h : HPort) (v : Word) : Bool :=
  let base := v.toNat / 2 ^ 26 * 2 ^ 26
  decide (base / 2 ^ 56 ≤ 1) && base % (h.bar2 / 16) == 0

def State.writeHwin (s : State) (port seg : Nat) (v : Word) : State :=
  let h := s.hport port
  if h.winOk v then
    s.setHport port { h with hwin := Tbl.put h.hwin seg (BitVec.ofNat 64 (v.toNat / 2 ^ 26 * 2 ^ 26 + v.toNat % 2)) }
  else s

def execHwinWrite (port : Fin 2) (seg : Fin 16) (v : Word) (s : State) : Host.Outcome State Fault Refusal :=
  .next (if s.regServed port.val (0x10E000 + 8 * seg.val) then s.writeHwin port.val seg.val v else s)

def State.setQueue (s : State) (port q : Nat) (x : HQueue) : State := s.setHport port ((s.hport port).setQueue q x)

/-- An entry of the MSI-X table; a vector that is unmasked sends the message that waits. -/
def State.writeMsix (s : State) (port i : Nat) (v : Word) : State :=
  let h := s.hport port
  let vec := i / 2
  let waits := (Tbl.get h.pba 0 (vec / 64)).getLsbD (vec % 64)
  let s1 := s.setHport port { h with msix := Tbl.put h.msix i (if i % 2 = 1 then v &&& 0x1FFFFFFFF else v) }
  if i % 2 = 1 && !v.getLsbD 32 && waits then
    let h1 := s1.hport port
    (s1.setHport port { h1 with pba := Tbl.put h1.pba (vec / 64) (Tbl.get h1.pba 0 (vec / 64) &&& ~~~(1#64 <<< (vec % 64))) }).irq port vec
  else s1

/-- A neighbour's record: a port number above 55 is out of range (R574). -/
def State.writeNbr (s : State) (n : Nat) (v : Word) : State :=
  let old : Word := (Tbl.get s.surr.nbr 0 n).zeroExtend 64
  let (s1, w) := s.takeFields (0x200100 + 8 * n) old (v &&& (BitVec.ofNat 64 (2 ^ 55 - 1)))
    [(0, 48, 0, 2 ^ 48 - 1), (48, 6, 0, 55), (54, 1, 0, 1)]
  { s1 with surr := { s1.surr with nbr := Tbl.put s1.surr.nbr n (w.truncate 55) } }

/-- Registers of a port's own blocks. -/
def State.writePortReg (s : State) (port off : Nat) (v : Word) : State :=
  let h := s.hport port
  if off < 0x100000 then s
  else if off < 0x101000 then
    let q := (off - 0x100000) / 0x100
    let x := h.queue q
    let base : Word := BitVec.ofNat 64 (v.toNat / 4096 * 4096)
    match off % 0x100 with
    | 0x00 => if x.enabled then s else s.setQueue port q { x with sqbase := base }
    | 0x08 => if x.enabled then s else s.setQueue port q { x with cqbase := base }
    | _ => s
  else if 0x108000 ≤ off ∧ off < 0x10C000 then s.writeMsix port ((off - 0x108000) / 8) v
  else if 0x10E000 ≤ off ∧ off < 0x10E080 then s.writeHwin port ((off - 0x10E000) / 8) v
  else if 0x10F008 ≤ off ∧ off < 0x10F040 then
    s.setHport port { h with hevirq := Tbl.put h.hevirq ((off - 0x10F000) / 8) (v.truncate 13) }
  else s

/-- Registers of the surroundings record. -/
def State.writeSurr (s : State) (off : Nat) (v : Word) : State :=
  match off with
  | 0x200000 => { s with surr := { s.surr with topo := BitVec.ofNat 64 (v.toNat % 2 ^ 55) } }
  | 0x200008 => { s with surr := { s.surr with head := BitVec.ofNat 64 (v.toNat % 2 ^ 12) } }
  | 0x200010 => s.writeHeat 0 v
  | 0x200018 => s.writeHeat 1 v
  | 0x200020 => s.writeTime v
  | _ => if 0x200100 ≤ off ∧ off < 0x200280 then s.writeNbr ((off - 0x200100) / 8) v else s

/-- Counter controls and trace registers; trace registers take writes only while trace is open. -/
def State.writeObs (s : State) (off : Nat) (v : Word) : State :=
  let t := s.trace
  if off < 0x58C000 then
    let i := off % 0x400 / 8
    if 64 ≤ i ∧ i < 128 then s.hostSel ((off - 0x500000) / 0x400) (i - 64) v else s
  else if off = 0x5E0000 then { s with freeze := v.getLsbD 0 }
  else if !t.openT then s
  else if off = 0x5F0000 then s.writeTrctl v
  else if 0x5F0010 ≤ off ∧ off < 0x5F0028 then
    { s with trace := { t with rings := Tbl.put t.rings ((off - 0x5F0010) / 8) (BitVec.ofNat 64 (v.toNat % 2 ^ 37)) } }
  else if 0x5F0100 ≤ off ∧ off < 0x5F0300 then { s with trace := { t with core := Tbl.put t.core ((off - 0x5F0100) / 8) (v.truncate 15) } }
  else if 0x5F0300 ≤ off ∧ off < 0x5F0380 then { s with trace := { t with node := Tbl.put t.node ((off - 0x5F0300) / 8) (v.truncate 14) } }
  else s

/-- A write of the 8-byte register at an aligned offset: `v` is the register with the written bytes in it, `w` the written bytes alone
(R626). Queue doorbells and `HQCFG` have commands of their own. Registers of units take no host write (R629). -/
def State.writeReg (s : State) (port off : Nat) (v w : Word) : State :=
  if off < 0x100 then s
  else if off < 0x110000 then s.writePortReg port off v
  else if off < 0x300000 then s.writeSurr off v
  else if off = 0x300000 then s.writePwctl v
  else if off = 0x400010 then s.writeEvsel port v
  else if 0x500000 ≤ off ∧ off < 0x600000 then s.writeObs off v
  else if off = 0x600018 then s.writeSftest w
  else if 0x800000 ≤ off ∧ off < 0x83C000 then
    let p := (off - 0x800000) / 0x1000
    match off % 0x1000 with
    | 0x018 => s.writePdctl p w
    | 0x820 => if p < 56 then s.writeLpctl p w else s
    | _ => s
  else if 0x840000 ≤ off ∧ off < 0x841000 then (if off % 0x100 = 8 then s.writeLmctl ((off - 0x840000) / 0x100) v else s)
  else s

/-- A register with `size` written bytes at `off` in it, and those bytes alone. -/
def splice (old off size : Nat) (v : Word) : Word × Word :=
  if size = 8 then (v, v)
  else
    let sh := 8 * (off % 8)
    let part := v.toNat % 2 ^ 32 * 2 ^ sh
    (BitVec.ofNat 64 (old - old / 2 ^ sh % 2 ^ 32 * 2 ^ sh + part), BitVec.ofNat 64 part)

def execRegisterWrite (port : Fin 2) (off : Nat) (size : Nat) (v : Word) (s : State) : Host.Outcome State Fault Refusal :=
  .next (
    if !s.hostOk port.val || !bar0Ok off size then s.tell (.unsupported port.val)
    else if !s.regServed port.val off then (if s.safety.wfail then s.aerAbort port.val else s)
    else
      let a := off / 8 * 8
      let (x, w) := splice (s.reg port.val a) off size v
      s.writeReg port.val a x w)

end Sys2Proof.Machine
end

