-- ==== Sys2Proof/Machine/HostIf.lean ====
section
/-! DEFINITION. The host's accesses to device memory through BAR2 (R551 to R553), command queues (R561 to R565), the DMA commands
(R566, R568 to R572), and completions (R554, R563, R564). -/

namespace Sys2Proof

/-- A field of ARGS (Table 18.6). -/
def HostCmd.arg (c : HostCmd) (lo n : Nat) : Nat := c.args.toNat / 2 ^ lo % 2 ^ n

/-- A form that no command has: a reserved opcode or field, or an operand outside its range (R565, Tables 18.7, 19.6). -/
def HostCmd.bad (c : HostCmd) (recovery : Bool) : Bool :=
  let opc := c.opc.toNat
  if c.rsvd != 0 then true
  else if recovery then opc != 0x60 && opc != 0x61
  else match opc with
    | 0x10 => c.len.toNat == 0 || decide (c.len.toNat > 2 ^ 32)
    | 0x11 => c.len.toNat == 0 || decide (c.len.toNat > 2 ^ 32)
    | 0x12 => c.arg 64 32 == 0 || decide (c.arg 64 32 > 65536) || decide (c.arg 96 32 > 60000)
    | 0x31 => decide (c.arg 32 32 > 1024)
    | 0x50 => !(c.arg 0 8 == 1 || c.arg 0 8 == 2 || (c.arg 0 8 == 3 && decide (c.arg 8 8 < 60)))
    | 0x60 => decide (c.len.toNat > 2 ^ 23 + 4096)
    | 0x63 => decide (c.len.toNat < 4096)
    | 0x64 => c.len.toNat != 64
    | _ => !([0x20, 0x21, 0x22, 0x23, 0x24, 0x30, 0x40, 0x41, 0x42, 0x61, 0x62, 0x65, 0x66].contains opc)

end Sys2Proof

namespace Sys2Proof.Machine

open Sys2Proof

/-! ## Device memory for the host -/

/-- A refused host access leaves the record of R24 and R552: port, BAR2 offset, device address. -/
def State.hostRefused (s : State) (port off : Nat) (a : Word) : State :=
  s.emit 0x7101 (if port = 0 then 56 else 58) uidWarden [(1, port), (8, off), (8, a.toNat)]

/-- Pond or Lake space, the only ones the host reaches (Table 1.7). -/
def State.hostRefuses (s : State) (port : Nat) (a : Word) (n : Nat) (write : Bool) : Bool :=
  match place a with
  | .pond _ _ _ => (s.refuses (.host port) a n write).isSome
  | .lake _ => (s.refuses (.host port) a n write).isSome
  | _ => true

/-- Read `n` bytes in mesh packets of at most 4 KiB: the bytes read before the end, and the status that ends it early. -/
def State.hostGet (s : State) (port : Nat) (a : Word) (n : Nat) : Nat → State × List Byte × Nat
  | 0 => (s, [], 0)
  | fuel + 1 =>
    if n = 0 then (s, [], 0)
    else
      let k := min n (4096 - a.toNat % 4096)
      if s.hostRefuses port a k false then (s.hostRefused port 0 a, [], 2)
      else
        let (s1, bad) := s.eccRead a k (uidWarden)
        match bad with
        | some w => (s1, s1.bytesAt a.toNat (w - a.toNat), 3)
        | none =>
          let (s2, bs, st) := State.hostGet s1 port (a + BitVec.ofNat 64 k) (n - k) fuel
          (s2, s1.bytesAt a.toNat k ++ bs, st)

/-- Write bytes in mesh packets of at most 4 KiB: how many were written, and the status that ends it early. -/
def State.hostPut (s : State) (port : Nat) (a : Word) (bs : List Byte) : Nat → State × Nat × Nat
  | 0 => (s, 0, 0)
  | fuel + 1 =>
    if bs.isEmpty then (s, 0, 0)
    else
      let k := min bs.length (4096 - a.toNat % 4096)
      if s.hostRefuses port a k true then (s.hostRefused port 0 a, 0, 2)
      else
        let (s1, bad) := s.eccWrite a (present (bs.take k)) uidWarden
        if bad then (s1, 0, 3)
        else
          let (s2, m, st) := State.hostPut s1 port (a + BitVec.ofNat 64 k) (bs.drop k) fuel
          (s2, k + m, st)

/-- Mesh packets that a transfer can need. -/
def pktFuel (n : Nat) : Nat := n / 4096 + 2

/-! ## BAR2 (R551, R552) -/

/-- The device address of a BAR2 offset, none for a disabled segment. -/
def HPort.bar2Addr (h : HPort) (off : Nat) : Option Word :=
  let w := Tbl.get h.hwin 0 (off / (h.bar2 / 16))
  if w.getLsbD 0 then some (BitVec.ofNat 64 (w.toNat / 2 ^ 26 * 2 ^ 26 + off % (h.bar2 / 16))) else none

/-- Does a port serve BAR2 now? -/
def State.bar2Ok (s : State) (port : Nat) : Bool := s.hostOk port && s.sec.stage == 9

def execBar2Read (port : Fin 2) (off len : Nat) (s : State) : Host.Outcome State Fault Refusal :=
  .next (
    let p := port.val
    let h := s.hport p
    if !s.bar2Ok p || decide (off + len > h.bar2) then s.tell (.unsupported p)
    else match h.bar2Addr off with
      | none => (s.hostRefused p off 0).tell (.abort p)
      | some a =>
        if s.hostRefuses p a len false then (s.hostRefused p off a).tell (.abort p)
        else
          let (s1, bad) := s.eccRead a len uidWarden
          if bad.isSome then s1.tell (.abort p) else s1.tell (.rdata p (s1.bytesAt a.toNat len)))

def execBar2Write (port : Fin 2) (off : Nat) (bytes : List Byte) (s : State) : Host.Outcome State Fault Refusal :=
  .next (
    let p := port.val
    let h := s.hport p
    if !s.bar2Ok p || decide (off + bytes.length > h.bar2) then s
    else match h.bar2Addr off with
      | none => s.hostRefused p off 0
      | some a =>
        if s.hostRefuses p a bytes.length true then s.hostRefused p off a
        else (s.eccWrite a (present bytes) uidWarden).1)

/-- A poisoned write is discarded (R557). -/
def State.pcieError (s : State) (port : Nat) : State := s.emit 0x7104 (if port = 0 then 56 else 58) uidWarden [(1, port)]

def execPoisonedWrite (port : Fin 2) (off : Nat) (s : State) : Host.Outcome State Fault Refusal :=
  .next (let _ := off; if s.hostOk port.val then s.pcieError port.val else s)

/-! ## Queues -/

/-- Is the completion ring full: no entry is left that the host has released (R564)? -/
def HQueue.cqFull (x : HQueue) : Bool := decide (x.cqused ≥ x.cqsize)

/-- A completion is formed. -/
def State.complete (s : State) (port : Nat) (c : Compl) : State :=
  let h := s.hport port
  s.setHport port { h with compl := h.compl ++ [c] }

/-- The Warden fetches the commands announced in a queue, in ring order; one with a form that no command has ends with status 0x01
(R563 to R565). -/
def State.fetchQ (s : State) (port q : Nat) : State :=
  let h := s.hport port
  let x := h.queue q
  if !s.qServed port q || x.cqFull || x.ring.isEmpty then s
  else
    let bad (c : HostCmd) : Bool := c.bad (s.sec.stage == 14)
    let good := x.ring.filter (fun c => !bad c)
    let y := { x with ring := [], cmds := x.cmds ++ good, sqhead := (x.sqhead + x.ring.length) % x.sqsize }
    let ended := (x.ring.filter bad).map (fun c => (⟨q, c.cid, 1, none, none, none⟩ : Compl))
    s.setHport port { h.setQueue q y with compl := h.compl ++ ended }

/-- A doorbell value at or beyond the ring size stops the queue (R562). -/
def State.badDoorbell (s : State) (port q v : Nat) : State :=
  let h := s.hport port
  (s.setHport port (h.setQueue q { h.queue q with error := true })).emit 0x7102 (if port = 0 then 56 else 58) uidWarden
    [(1, port), (1, q), (2, v)]

def execHqcfgWrite (port : Fin 2) (q : Fin 16) (v : Word) (s : State) : Host.Outcome State Fault Refusal :=
  .next (
    if !s.regServed port.val (0x100010 + 0x100 * q.val) then s
    else (s.setQueue port.val q.val (((s.hport port.val).queue q.val).writeCfg v)).fetchQ port.val q.val)

/-- A submission doorbell: the commands up to the new tail are announced, and fetched when the queue is served. -/
def execHqsqdbWrite (port : Fin 2) (q : Fin 16) (v : Word) (cmds : List HostCmd) (s : State) : Host.Outcome State Fault Refusal :=
  .next (
    let p := port.val
    let x := (s.hport p).queue q.val
    let t := v.toNat % 4096
    if !s.regServed p (0x100020 + 0x100 * q.val) || !x.enabled || x.error then s
    else if t ≥ x.sqsize then s.badDoorbell p q.val t
    else
      let n := (t + x.sqsize - x.sqhead) % x.sqsize
      (s.setQueue p q.val { x with sqtail := t, ring := cmds.take n }).fetchQ p q.val)

/-- A completion doorbell releases the entries before the one that the host will read next (R562, R564). -/
def execHqcqdbWrite (port : Fin 2) (q : Fin 16) (v : Word) (s : State) : Host.Outcome State Fault Refusal :=
  .next (
    let p := port.val
    let x := (s.hport p).queue q.val
    let t := v.toNat % 4096
    if !s.regServed p (0x100028 + 0x100 * q.val) || !x.enabled || x.error then s
    else if t ≥ x.cqsize then s.badDoorbell p q.val t
    else (s.setQueue p q.val { x with cqused := (x.cqtail + x.cqsize - t) % x.cqsize }).fetchQ p q.val)

/-- The 32 bytes of a completion entry (Table 18.6); a result or detail that no table names is open. -/
def entryBytes (port : Nat) (x : HQueue) (c : Compl) : List Byte :=
  let open' (v : Option Nat) (i : Nat) : Nat := v.getD (Config.openResult c.cid i)
  leBytes 4 c.cid.toNat ++ leBytes 2 x.sqhead ++ leBytes 1 (c.q + 16 * port) ++ leBytes 1 c.status ++ leBytes 8 (open' c.r0 0) ++
    leBytes 8 (open' c.r1 1) ++ leBytes 2 (open' c.detail 2) ++ leBytes 5 0 ++ leBytes 1 (b2n x.phase)

/-- The oldest completion of a queue is posted: the entry, then the interrupt (R554, R556, R563, R564). A queue that is not enabled
takes none. -/
def execCommandCompletion (port : Fin 2) (q : Fin 16) (s : State) : Host.Outcome State Fault Refusal :=
  .next (
    let p := port.val
    let h := s.hport p
    let x := h.queue q.val
    match h.compl.find? (·.q == q.val) with
    | none => s
    | some c =>
      let rest := { h with compl := h.compl.erase c }
      if !x.enabled then s.setHport p rest
      else if !s.hostOk p || s.safety.wfail || x.cqFull then s
      else
        let t := (x.cqtail + 1) % x.cqsize
        let y := { x with cqused := x.cqused + 1, cqtail := t, phase := if t = 0 then !x.phase else x.phase }
        let s1 := (s.setHport p (rest.setQueue q.val y)).tell
          (.write p (BitVec.ofNat 64 (x.cqbase.toNat + 32 * x.cqtail)) (entryBytes p x c))
        if x.ien then s1.irq p x.vector else s1)

/-! ## Starting commands -/

/-- Commands that run on a DMA engine (R568). -/
def dmaOpc (opc : Nat) : Bool := [0x10, 0x11, 0x12, 0x31, 0x42].contains opc

/-- The command at the front of a queue that has an opcode starts: it leaves the queue. A DMA command waits for a free engine. -/
def State.startCmd (s : State) (port q opc : Nat) : Option (HostCmd × State) :=
  let h := s.hport port
  let x := h.queue q
  match x.cmds with
  | [] => none
  | c :: r =>
    if !s.qServed port q || c.opc.toNat != opc then none
    else if dmaOpc opc && decide ((h.running.filter (fun e => dmaOpc e.cmd.opc.toNat)).length ≥ 8) then none
    else some (c, s.setHport port (h.setQueue q { x with cmds := r }))

/-- A port's commands in progress go on while the port is there, in D3hot too, where it takes no new one (R560). -/
def State.portRuns (s : State) (port : Nat) : Bool := s.powered && !s.safety.wfail && (port = 0 || s.polderOn 58)

/-- A command that runs on: the one of this opcode that the queue has in progress, or the one that starts now. -/
def State.runCmd (s : State) (port q opc : Nat) : Option (RunCmd × State) :=
  match (s.hport port).running.find? (fun r => r.q == q && r.cmd.opc.toNat == opc) with
  | some r => if s.portRuns port then some (r, s) else none
  | none => match s.startCmd port q opc with
    | none => none
    | some (c, s1) =>
      let r : RunCmd := ⟨q, c, 0⟩
      some (r, s1.setHport port { s1.hport port with running := (s1.hport port).running ++ [r] })

/-- A running command ends. -/
def State.endRun (s : State) (port : Nat) (r : RunCmd) (status : Nat) (r0 r1 : Option Nat) : State :=
  let h := s.hport port
  (s.setHport port { h with running := h.running.erase r }).complete port ⟨r.q, r.cmd.cid, status, r0, r1, none⟩

/-- A running command has come further. -/
def State.runTo (s : State) (port : Nat) (r : RunCmd) (done : Nat) : State :=
  let h := s.hport port
  s.setHport port { h with running := h.running.map (fun x => if x = r then { r with done := done } else x) }

/-! ## Copies -/

/-- `data` are the next bytes that host memory gives; the command ends with its last byte. -/
def execCopyIn (port : Fin 2) (q : Fin 16) (data : List Byte) (s : State) : Host.Outcome State Fault Refusal :=
  .next (
    let p := port.val
    match s.runCmd p q.val 0x10 with
    | none => s
    | some (r, s1) =>
      if s1.safety.fence then s1.endRun p r 5 (some r.done) none
      else
        let bs := data.take (r.cmd.len.toNat - r.done)
        let (s2, n, st) := s1.hostPut p (r.cmd.daddr + BitVec.ofNat 64 r.done) bs (pktFuel bs.length)
        let d := r.done + n
        if st ≠ 0 then s2.endRun p r st (some d) none
        else if d = r.cmd.len.toNat then s2.endRun p r 0 (some d) none
        else s2.runTo p r d)

/-- Bytes whose host line may be written when a faulty word follows them (Table 5.7). -/
def wholeLines (haddr : Word) (n : Nat) : Nat := (haddr.toNat + n) / 64 * 64 - haddr.toNat

def execCopyOut (port : Fin 2) (q : Fin 16) (s : State) : Host.Outcome State Fault Refusal :=
  .next (
    let p := port.val
    match s.runCmd p q.val 0x11 with
    | none => s
    | some (r, s1) =>
      let n := r.cmd.len.toNat
      let (s2, bs, st) := s1.hostGet p r.cmd.daddr n (pktFuel n)
      let out := if st = 3 then bs.take (wholeLines r.cmd.haddr bs.length) else bs
      (s2.tell (.write p r.cmd.haddr out)).endRun p r st (some out.length) none)

/-! ## Intake delivery (R571, R572) -/

/-- SLOTBYTES of a ring. -/
def State.slotBytes (s : State) (a : Word) : Nat := s.natAt (a.toNat + 128) 4

/-- PROD is written; the answer says whether the write was refused or failed. -/
def State.putProd (s : State) (port : Nat) (a : Word) (n : Nat) : State × Nat :=
  let (s1, _, st) := s.hostPut port a (leBytes 8 n) 3
  (s1, st)

/-- Deliver the records from the `i`-th on; `fuel` counts those left. The answer: how many frames are delivered in all, and the
status that ends the command, none while it waits for a slot. -/
def State.deliver (s : State) (port : Nat) (r : RunCmd) (records : List (List Byte)) (i : Nat) : Nat → State × Nat × Option Nat
  | 0 => (s, i, some 0)
  | fuel + 1 =>
    let f := r.cmd.arg 0 64 + i
    let a := r.cmd.daddr
    let (_, cons, slots, _) := s.ring a
    let sb := s.slotBytes a
    match records[i]? with
    | none => (s, i, none)
    | some rec' =>
      if leNat (rec'.take 8) ≠ f ∨ leNat ((rec'.drop 8).take 4) + 64 > sb then (s, i, some 1)
      else if ¬ (cons + slots > f) then (s, i, none)
      else
        let slot := a + BitVec.ofNat 64 (256 + f % slots * sb)
        let (s1, _, st) := s.hostPut port slot (rec'.take (64 + leNat ((rec'.drop 8).take 4))) (pktFuel rec'.length)
        if st ≠ 0 then (s1, i, some st) else State.deliver s1 port r records (i + 1) fuel

/-- Does an earlier delivery to the same ring still run? -/
def State.ringBusy (s : State) (port : Nat) (r : RunCmd) : Bool :=
  [0, 1].any (fun p => (s.hport p).running.any (fun x => x.cmd.opc == 0x12 && x.cmd.daddr == r.cmd.daddr && !(p == port && x == r)))

/-- The end of a delivery, or its wait: PROD covers what is delivered. -/
def State.afterDeliver (s : State) (port : Nat) (r : RunCmd) (n : Nat) (st : Option Nat) : State :=
  let prod := r.cmd.arg 0 64 + n
  let (s1, bad) := if n = r.done then (s, 0) else s.putProd port r.cmd.daddr prod
  match st with
  | some x => s1.endRun port r (if bad ≠ 0 then bad else x) (some n) (some (prod % 2 ^ 64))
  | none => if bad ≠ 0 then s1.endRun port r bad (some n) (some (prod % 2 ^ 64)) else s1.runTo port r n

/-- `records` are the command's records in host memory, from the first on. A delivery to a ring that another one fills waits. -/
def execIntakeDelivery (port : Fin 2) (q : Fin 16) (records : List (List Byte)) (s : State) : Host.Outcome State Fault Refusal :=
  .next (
    let p := port.val
    match s.runCmd p q.val 0x12 with
    | none => s
    | some (r, s1) =>
      if s1.safety.fence then s1.endRun p r 5 (some r.done) (some ((r.cmd.arg 0 64 + r.done) % 2 ^ 64))
      else if r.done = 0 && s1.ringBusy p r then s
      else if s1.hostRefuses p r.cmd.daddr 256 true then (s1.hostRefused p 0 r.cmd.daddr).endRun p r 2 (some r.done) none
      else if r.done = 0 && (s1.ring r.cmd.daddr).1 != r.cmd.arg 0 64 then s1.endRun p r 7 (some 0) (some (s1.ring r.cmd.daddr).1)
      else
        let (s2, n, st) := s1.deliver p r records r.done (r.cmd.arg 64 32 - r.done)
        s2.afterDeliver p r n st)

/-- A slot stayed occupied for WAIT ms. -/
def execIntakeWaitTimeout (port : Fin 2) (q : Fin 16) (s : State) : Host.Outcome State Fault Refusal :=
  .next (
    let p := port.val
    match (s.hport p).running.find? (fun r => r.q == q.val && r.cmd.opc == 0x12) with
    | none => s
    | some r =>
      let (_, cons, slots, _) := s.ring r.cmd.daddr
      if cons + slots > r.cmd.arg 0 64 + r.done || s.safety.wfail then s
      else s.endRun p r 8 (some r.done) (some ((r.cmd.arg 0 64 + r.done) % 2 ^ 64)))

/-! ## Errors on the host side (R557) -/

/-- A device read of host memory fails: the command that reads there ends with status 0x04. What was written before the failed line
stays. -/
def execHostReadError (port : Fin 2) (q : Fin 16) (s : State) : Host.Outcome State Fault Refusal :=
  .next (
    let p := port.val
    let s0 := s.pcieError p
    match (s.hport p).running.find? (fun r => r.q == q.val && (r.cmd.opc == 0x10 || r.cmd.opc == 0x12)) with
    | some r =>
      s0.endRun p r 4 (some r.done) (if r.cmd.opc == 0x12 then some ((r.cmd.arg 0 64 + r.done) % 2 ^ 64) else none)
    | none =>
      match [0x10, 0x12, 0x20, 0x22, 0x60, 0x64].findSome? (fun opc => s0.startCmd p q.val opc) with
      | none => s
      | some (c, s1) => s1.complete p ⟨q.val, c.cid, 4, if c.opc == 0x10 || c.opc == 0x12 then some 0 else none, none, none⟩)

/-! ## Exporting heads (R570) -/

def State.setExport (s : State) (b : Bool) : State := { s with job := s.job.map (fun (j : JobSt) => { j with exporting := b }) }

/-- The shards that an export names. -/
def exportShards (c : HostCmd) : List Nat := (List.range (c.arg 32 32)).map (fun i => c.arg 0 32 + i)

/-- The bytes of the named head planes, in order; none where this engine holds no head plane of a shard. -/
def State.exportPlan (s : State) (shards : List Nat) : Option (List (Nat × Nat)) :=
  match s.job with
  | none => none
  | some j => shards.foldr (fun sh acc =>
      match acc, planeBase s 1 sh, j.desc.shards.find? (·.shard == sh) with
      | some l, some b, some e => some ((b, 64 * e.nblk) :: l)
      | _, _, _ => none) (some [])

/-- Every owned shard is sealed and the named heads belong to one step: that step. -/
def State.oneStep (s : State) (shards : List Nat) : State × Option Nat :=
  let (s1, sealedOk) := s.sealsAll (fun q => !q.pass && q.hstep == q.cstep) (s.ownedShards.map (·.shard))
  match shards with
  | [] => (s1, if sealedOk then some 0 else none)
  | sh :: _ =>
    match s1.readSeal sh srcWarden uidWarden with
    | (s2, none) => (s2, none)
    | (s2, some q) =>
      let (s3, one) := s2.sealsAll (fun x => x.hstep == q.hstep) shards
      (s3, if sealedOk && one then some q.hstep else none)

/-- The heads are copied once no state pass is in progress; meanwhile the Warden withholds the PASS writes. -/
def execExportHeads (port : Fin 2) (q : Fin 16) (s : State) : Host.Outcome State Fault Refusal :=
  .next (
    let p := port.val
    match s.runCmd p q.val 0x31 with
    | none => s
    | some (r, s1) =>
      let shards := exportShards r.cmd
      match s1.exportPlan shards with
      | none => (s1.setExport false).endRun p r 2 none none
      | some plan =>
        match s1.oneStep shards with
        | (s0, none) => s0.setExport true
        | (s0, some n) =>
          let (s2, bs, st) := plan.foldl (fun (acc : State × List Byte × Nat) e =>
            if acc.2.2 ≠ 0 then acc
            else
              let (t, b, st) := acc.1.hostGet p (lakeAddr e.1) e.2 (pktFuel e.2)
              (t, acc.2.1 ++ b, st)) (s0, [], 0)
          let out := if st = 3 then bs.take (wholeLines r.cmd.haddr bs.length) else bs
          ((s2.tell (.write p r.cmd.haddr out)).setExport false).endRun p r st (some n) none)

end Sys2Proof.Machine
end

