-- ==== Sys2Proof/Machine/Records.lean ====
section
/-! DEFINITION. Failure records as bytes (R497 to R499, Table 15.7), in the layout of a UEFI Common Platform Error Record (PRESUMED,
log entry 40), and the command that copies them (Table 18.7). -/

namespace Sys2Proof.Machine

open Sys2Proof

/-- Two decimal digits as BCD. -/
def bcd (n : Nat) : Byte := BitVec.ofNat 8 (n / 10 % 10 * 16 + n % 10)

/-- Year, month and day of a day counted from 1970-01-01. -/
def civil (days : Nat) : Nat × Nat × Nat :=
  let z := days + 719468
  let era := z / 146097
  let doe := z % 146097
  let yoe := (doe - doe / 1460 + doe / 36524 - doe / 146096) / 365
  let doy := doe - (365 * yoe + yoe / 4 - yoe / 100)
  let mp := (5 * doy + 2) / 153
  let d := doy - (153 * mp + 2) / 5 + 1
  let m := if mp < 10 then mp + 3 else mp - 9
  (yoe + era * 400 + (if m ≤ 2 then 1 else 0), m, d)

/-- The time stamp of a record: seconds, minutes, hours, precise flag, day, month, year, century. -/
def stampBytes (ns : Nat) : List Byte :=
  let sec := ns / 1000000000
  let (y, m, d) := civil (sec / 86400)
  [bcd (sec % 60), bcd (sec / 60 % 60), bcd (sec / 3600 % 24), 1, bcd d, bcd m, bcd (y % 100), bcd (y / 100)]

/-- The decimal digits of a number, in characters; `n` bounds them. -/
def digits (x : Nat) : Nat → List Byte
  | 0 => []
  | n + 1 => (if x ≥ 10 then digits (x / 10) n else []) ++ [BitVec.ofNat 8 (48 + x % 10)]

/-- Order number, a space, and the serial in decimal, in 20 bytes (R498). -/
def fruText (grade : BitVec 4) (serial : BitVec 48) : List Byte :=
  let name : List Byte := [0x4B, 0x57, 0x35, 0x36, if grade = 1 then 0x42 else 0x41, 0x2D, 0x57, 0x20]
  let t := (name ++ digits serial.toNat 16).take 20
  t ++ leBytes (20 - t.length) 0

/-- 3f90b2c4-7d15-4e6a-8c21-54a9e07d13bb. -/
def creatorId : List Byte := [0xC4, 0xB2, 0x90, 0x3F, 0x15, 0x7D, 0x6A, 0x4E, 0x8C, 0x21, 0x54, 0xA9, 0xE0, 0x7D, 0x13, 0xBB]
/-- 91e2d6a7-04c3-4b58-b7f0-2c6e8a15d349. -/
def notifyType : List Byte := [0xA7, 0xD6, 0xE2, 0x91, 0xC3, 0x04, 0x58, 0x4B, 0xB7, 0xF0, 0x2C, 0x6E, 0x8A, 0x15, 0xD3, 0x49]
/-- 7c4e1a90-2b63-4f1d-9a5e-30d8c6b21f47. -/
def sectionType : List Byte := [0x90, 0x1A, 0x4E, 0x7C, 0x63, 0x2B, 0x1D, 0x4F, 0x9A, 0x5E, 0x30, 0xD8, 0xC6, 0xB2, 0x1F, 0x47]

/-- The record header, 128 bytes. -/
def FailRec.header (f : FailRec) (serial : BitVec 48) : List Byte :=
  [0x43, 0x50, 0x45, 0x52] ++ leBytes 2 0x0101 ++ leBytes 4 0xFFFFFFFF ++ leBytes 2 1 ++ leBytes 4 f.sev ++ leBytes 4 3 ++ leBytes 4 328 ++
    stampBytes f.time ++ leBytes 16 serial.toNat ++ leBytes 16 f.job ++ creatorId ++ notifyType ++ leBytes 8 (f.seq.getD 0) ++
    leBytes 24 0

/-- The section descriptor, 72 bytes. -/
def FailRec.descr (f : FailRec) (grade : BitVec 4) (serial : BitVec 48) : List Byte :=
  leBytes 4 200 ++ leBytes 4 128 ++ leBytes 2 0x0101 ++ leBytes 1 2 ++ leBytes 1 0 ++ leBytes 4 1 ++ sectionType ++ leBytes 16 0 ++
    leBytes 4 f.sev ++ fruText grade serial

/-- The device section, 128 bytes (Table 15.7). -/
def FailRec.section (f : FailRec) (serial : BitVec 48) (coord : BitVec 12) : List Byte :=
  leBytes 4 1 ++ leBytes 4 (b2n f.addr.isSome + 2 * b2n f.synd.isSome + 4 * b2n (decide (f.job ≠ 0))) ++ leBytes 2 f.code ++ leBytes 1 f.mech ++ leBytes 1 f.react ++
    leBytes 2 f.src ++ leBytes 4 f.unit ++ leBytes 6 f.step ++ leBytes 4 f.job ++ leBytes 8 (f.seq.getD 0) ++ leBytes 8 (f.addr.getD 0) ++
    leBytes 8 (f.synd.getD 0) ++ leBytes 6 serial.toNat ++ leBytes 2 coord.toNat ++ leBytes 8 f.fwver.toNat ++ leBytes 8 f.digest.toNat ++
    leBytes 2 f.insvc ++ leBytes 2 (BitVec.ofInt 16 f.tj).toNat ++ leBytes 2 f.tin ++ leBytes 2 f.vpol ++ leBytes 1 f.div ++ leBytes 43 0

def FailRec.bytes (f : FailRec) (s : State) : List Byte :=
  f.header s.fuse.serial ++ f.descr s.fuse.grade s.fuse.serial ++ f.section s.fuse.serial s.group.coord

/-- Whole failure records from the named one onward, as many as fit. -/
def execErrorRecords (port : Fin 2) (q : Fin 16) (s : State) : Host.Outcome State Fault Refusal :=
  .next (
    let p := port.val
    match s.runCmd p q.val 0x42 with
    | none => s
    | some (r, s1) =>
      let from' := r.cmd.arg 0 64
      let hit (f : FailRec) : Bool := match f.seq with | some n => decide (from' ≤ n) && n != 0 | none => false
      let bs := ((s1.safety.recs.filter hit).take (r.cmd.len.toNat / 328)).flatMap (fun f => f.bytes s1)
      (s1.tell (.write p r.cmd.haddr bs)).endRun p r 0 none none)

end Sys2Proof.Machine
end

