-- ==== Sys2Proof/Machine/Jobs.lean ====
section
/-! DEFINITION. The job commands of the host (R566, R567, Table 18.9), checkpoint, retrain and self-test (Table 18.7). -/

namespace Sys2Proof

/-- Alignment of an entry's BASE and LEN (Table 12.4). -/
def LakeEnt.aligned (e : LakeEnt) : Bool :=
  e.base % (if e.kind ≤ 3 then 2 ^ 22 else 4096) == 0 &&
    (match e.kind with
      | 1 => e.len % 2 ^ 22 == 0 | 3 => e.len % 2 ^ 22 == 0
      | 2 => e.len % 2 ^ 24 == 0
      | 6 => e.len == 16384
      | _ => e.len != 0 && e.len % 4096 == 0)

end Sys2Proof

namespace Sys2Proof.Machine

open Sys2Proof

/-! ## Refusals of a job, in the order of Table 18.9 -/

/-- R300: a site outside the mask, or named twice. -/
def State.stagesBad (s : State) (m : List (Nat × Nat)) : Bool :=
  m.any (fun e => !s.siteIn e.1) || (m.map (·.1)).eraseDups.length != m.length

/-- R333: a stack not in service at its owner, or too many entries for an update engine. -/
def State.shardsBad (s : State) (d : JobDesc) : Bool :=
  d.shards.any (fun e => decide (e.stack ≥ 44) || (e.owner == s.group.coord && !s.slots.contains e.stack)) ||
    (List.range 44).any (fun k => decide ((d.shards.filter (fun e => e.stack == k)).length > 16384))

/-- Planes of a kind that cover a shard (R396). -/
def covers (m : List LakeEnt) (kind sh : Nat) : Nat :=
  (m.filter (fun e => e.kind == kind && decide (e.first ≤ sh) && decide ((sh - e.first + 1) * planeStep kind ≤ e.len))).length

/-- The shards that a plane covers, as the first and the one after the last. -/
def planeSpan (e : LakeEnt) : Nat × Nat := (e.first, e.first + e.len / planeStep e.kind)

/-- Do two planes of one kind cover some shard? -/
def planesClash : List LakeEnt → Bool
  | [] => false
  | e :: r => (decide (e.kind = 1 ∨ e.kind = 2) && r.any (fun x => x.kind == e.kind &&
      decide (max (planeSpan e).1 (planeSpan x).1 < min (planeSpan e).2 (planeSpan x).2))) || planesClash r

/-- Do two entries of a list overlap? -/
def anyOverlap : List LakeEnt → Bool
  | [] => false
  | e :: r => r.any (fun x => overlaps e.base e.len x.base x.len) || anyOverlap r

/-- R397. -/
def State.lakeMapBad (s : State) (d : JobDesc) : Bool :=
  let m := d.lakeMap
  m.any (fun e => e.kind == 0 || decide (e.kind > 8) || !e.aligned || decide (e.base + e.len > sealBase s)) || anyOverlap m || planesClash m ||
    d.shards.any (fun e => covers m 1 e.shard == 0 || (e.owner == s.group.coord && covers m 2 e.shard == 0))

/-- R383: an entry of the scale table with EN = 1 and G or its bounds out of order. -/
def scaleBad (bs : List Byte) : Bool :=
  let at' (i : Nat) : Nat := (bs.getD i 0).toNat
  at' 11 % 2 == 1 && (decide (s8 (at' 8) > s8 (at' 9)) || decide (s8 (at' 6) < s8 (at' 8)) || decide (s8 (at' 6) > s8 (at' 9)))

/-- `WSCALEBASE` is a 4 KiB aligned Lake address, that of the map's scale table where it has one (R395, Table 11.6); without a scale
table it may be zero. -/
def scaleBaseBad (d : JobDesc) : Bool :=
  match d.lakeMap.find? (·.kind == 6) with
  | some e => d.wscalebase != lakeKey e.base
  | none => d.wscalebase != 0 && ((scaleAt d).isNone || d.wscalebase % 4096 != 0)

def State.weirBad (s : State) (d : JobDesc) : Bool :=
  decide (d.wlimit > 255) || decide (d.cancelpol > 1) || scaleBaseBad d ||
    (match scaleAt d with
      | some o => (List.range 1024).any (fun l => scaleBad (s.bytesAt (lakeKey (o + 16 * l)) 16))
      | none => false)

/-- Is this engine the manager of a group of two or more? -/
def State.mgrOfMany (s : State) : Bool := s.isMgr && decide (s.groupSize > 1)

/-- R474. -/
def State.groupBad (s : State) (d : JobDesc) : Bool :=
  let within (x lo hi : Nat) : Bool := decide (lo ≤ x) && decide (x ≤ hi)
  !within d.clearwin 60 10000 || !within d.votewait 10 600000 || !within d.gbarwait 10 600000 || decide (d.spareok > 1) ||
    (s.mgrOfMany && (match d.mgrcluster with | some c => decide (c.1 ≥ 56) || decide (c.2 ≥ 10) | none => true))

/-- R453. -/
def State.mgrInside (s : State) (d : JobDesc) : Bool :=
  s.mgrOfMany && (match d.mgrcluster with | some c => d.stages.any (fun e => e.1 == c.1) | none => false)

/-- Table 17.2. -/
def powerBad (d : JobDesc) : Bool :=
  decide (d.phaseen > 1) || d.phaseoff % 8 != 0 || decide (d.phaseoff ≥ 2 ^ 26) || d.kfloor.any (fun k => k == 0 || decide (k > 64))

/-- Is a unit out of service (Table 15.4)? A core is named by its program number. An update engine is in service with its
stack (the 40 update engines in service of 01_architecture; DEDUCED, log entry 67). -/
def State.unitGone (s : State) (k : Nat) : Bool :=
  s.unitOut.contains k || (isUe k && !s.slots.contains (k - ueKey)) || !s.polderOn (polderOf k) || (s.polder (polderOf k)).lost

def State.coreGone (s : State) (c : ClusterId) (n : Nat) : Bool :=
  !s.siteIn c.site.val || !s.polderOn c.site.val || decide (n ≥ (s.cluster (clKey c)).coreMap.length)

def State.namesGone (s : State) (d : JobDesc) : Bool :=
  d.cores.any (fun c => s.coreGone c.1 c.2.1) || d.springs.any (fun e => s.unitGone (sprKey + e.1.val)) ||
    d.sluices.any (fun e => s.unitGone (sluKey + e.1.val)) || d.ues.any (fun e => s.unitGone (ueKey + e.1.val))

/-- R591. -/
def State.keyMissing (s : State) (d : JobDesc) : Bool :=
  d.keyid != 0 && !s.sec.keys.any (fun e => e.1 == d.keyid.toNat)

/-- The first rule that a job breaks. -/
def State.jobRefusal (s : State) (d : JobDesc) : Option Nat :=
  ([(s.stagesBad d.stages, 1), (decide (d.sitesNeeded > s.sitesIn.length), 2), (s.shardsBad d, 3), (s.lakeMapBad d, 4),
    (!(d.period == 0 || (decide (1000 ≤ d.period) && decide (d.period ≤ 60000000))), 5), (s.weirBad d, 6), (s.groupBad d, 7),
    (s.mgrInside d, 8), (powerBad d, 9), (s.namesGone d, 10), (s.keyMissing d, 11)].find? (·.1)).map (·.2)

/-- A job that has just been loaded. -/
def newJob (d : JobDesc) : JobSt :=
  { desc := d, state := 1, start := none, step := 0, first := d.firstStep, nextStep := d.firstStep, sched := none, gateFrom := none,
    anchor := false, lastCommit := none, clearAt := none, voted := false, poisoned := false, needCkpt := false, subst := d.adopt,
    exporting := false, parked := false }

/-! ## Submit, start, amend, end, status -/

/-- A command that ends at once. -/
def State.finishCmd (s : State) (p q : Nat) (c : HostCmd) (status : Nat) (r0 : Option Nat) (detail : Option Nat) : State :=
  s.complete p ⟨q, c.cid, status, r0, none, detail⟩

/-- `job` is the descriptor at HADDR. -/
def execJobSubmit (port : Fin 2) (q : Fin 16) (job : JobDesc) (s : State) : Host.Outcome State Fault Refusal :=
  .next (
    let p := port.val
    match s.startCmd p q.val 0x20 with
    | none => s
    | some (c, s1) =>
      if s1.job.isSome then s1.finishCmd p q.val c 9 none none
      else
        let s2 := s1.takeTopo
        match s2.jobRefusal job with
        | some rule => s1.finishCmd p q.val c 6 (some (Config.descOffset job.jobid rule)) (some rule)
        | none => ({ s2 with job := some (newJob job), held := none, quiet := [] }.takeMeasures [4, 6]).finishCmd p q.val c 0 none none)

/-- The energy counter of a new job, and histories at the full rate (R539, R545). -/
def State.freshPower (s : State) : State :=
  let full (p : Nat) : Tbl Nat := (List.range 16).map (fun t => (t, Config.fullRate p))
  let s1 := (List.range 56).foldl (fun t p => t.setPolder p { t.polder p with hist := full p }) s
  { s1 with power := { s1.power with jobe := 0, stepe := 0, stepBase := 0 } }

/-- The group's protocol begins anew with a job. -/
def State.freshGroup (s : State) : State :=
  let g := s.group
  { s with group := { Group.reset with mgr := g.mgr, coord := g.coord, extm1 := g.extm1, origin := g.origin, boxm1 := g.boxm1,
                                       head := g.head } }

/-- The loaded job starts at its first step: seals, tables and programs. Under a raised fence it is taken up by a restart. -/
def State.startJob (s : State) (j : JobSt) : State :=
  let first := j.desc.firstStep
  let s0 := s.restoreSites
  let s1 := ((if s0.resv = s.resv then s0 else s0.idChange).freshPower.freshGroup.takeMeasures [5]).firstSeals j.desc first
  let s2 := s1.loadJob j first
  { s2 with job := s2.job.map (fun (x : JobSt) => { x with state := if s.safety.fence then 3 else 2 }) }

/-- A spare that takes a failed engine's place announces itself and reports (R471); a job whose `SPAREOK` is 0 ends. -/
def State.adoptJob (s : State) (j : JobSt) : State :=
  let s1 := s.freshPower.freshGroup.takeTopo
  let s2 := s1.emit 0x7401 srcWarden uidWarden [(6, Config.failedSerial j.desc.jobid), (2, s1.group.coord.toNat)]
  let s3 := s2.sendCell s2.group.mgr (.substitution (Config.failedSerial j.desc.jobid) s2.group.coord)
  if j.desc.spareok = 0 then
    ((s3.restart j).emit 0x7403 srcWarden uidWarden []).endJob 5
  else s3.restart j

/-- The job's final completion goes to the command that starts it. A job that awaits a restart after a module reset is resumed
(R584). -/
def execJobStart (port : Fin 2) (q : Fin 16) (s : State) : Host.Outcome State Fault Refusal :=
  .next (
    let p := port.val
    match s.startCmd p q.val 0x21 with
    | none => s
    | some (c, s1) =>
      match s1.job with
      | none => s1.finishCmd p q.val c 9 none none
      | some j =>
        let j1 := { j with start := some (p, q.val, c.cid) }
        let s2 := { s1 with job := some j1 }
        if j.desc.jobid.toNat ≠ c.arg 0 32 ∨ j.start.isSome then s1.finishCmd p q.val c 9 none none
        else if j.state = 1 then (if j.subst then s2.adoptJob j1 else s2.startJob j1)
        else if j.parked then
          let j2 := { j1 with parked := false }
          { s2 with job := some j2 }.restart j2
        else s1.finishCmd p q.val c 9 none none)

/-- Where a site of the old stage map went: to the site that the new map names for its stage in its place. -/
def movedTo (old new : List (Nat × Nat)) (site : Nat) : Nat :=
  match old.find? (fun e => e.1 == site) with
  | none => site
  | some (_, st) =>
    if new.any (fun e => e.1 == site) then site
    else
      let gone := (old.filter (fun e => e.2 == st && !new.any (fun x => x.1 == e.1))).map (·.1)
      let come := (new.filter (fun e => e.2 == st && !old.any (fun x => x.1 == e.1))).map (·.1)
      match gone.findIdx? (· == site) with
      | some i => come.getD i site
      | none => site

/-- The descriptor with another stage map: what stood on a site moves with its stage. -/
def amendDesc (d : JobDesc) (new : List (Nat × Nat)) : JobDesc :=
  let mv (c : ClusterId) : ClusterId := { c with site := Fin.ofNat 56 (movedTo d.stages new c.site.val) }
  let mu (u : UnitId) : UnitId := match u with
    | .core c => .core { c with site := Fin.ofNat 56 (movedTo d.stages new c.site.val) }
    | x => x
  let mn (n : Fin 662) : Fin 662 :=
    if isClNode n.val then Fin.ofNat 662 (nodeOfCl (10 * movedTo d.stages new (clOfNode n.val / 10) + clOfNode n.val % 10)) else n
  { d with stages := new, cores := d.cores.map (fun e => (mv e.1, e.2)), barriers := d.barriers.map (fun b => (b.1, b.2.map mu)),
           groups := d.groups.map (fun g => { g with members := g.members.map mv, root := mn g.root }) }

/-- `stages` is the stage map at HADDR. The worker is then ready (R525). -/
def execJobAmend (port : Fin 2) (q : Fin 16) (stages : List (Nat × Nat)) (s : State) : Host.Outcome State Fault Refusal :=
  .next (
    let p := port.val
    match s.startCmd p q.val 0x22 with
    | none => s
    | some (c, s1) =>
      match s1.job with
      | none => s1.finishCmd p q.val c 9 none none
      | some j =>
        if j.state ≠ 5 then s1.finishCmd p q.val c 9 none none
        else if s1.stagesBad stages then s1.finishCmd p q.val c 6 none (some 1)
        else
          let j1 := { j with state := 4, desc := amendDesc j.desc stages }
          ({ s1 with job := some j1 }.finishCmd p q.val c 0 none none).sendRestart j1 j1.needCkpt true)

/-- The host's end of a job: the fence with REASON 2 on the group, or word to the manager, and the job ends here. -/
def State.hostEnd (s : State) : State :=
  let n := s.jobStep
  let s1 := if s.isMgr then s.mgrFence n 2 else s.sendCell s.group.mgr (.poison n 0 srcWarden)
  s1.raiseFence 0

def execJobEnd (port : Fin 2) (q : Fin 16) (s : State) : Host.Outcome State Fault Refusal :=
  .next (
    let p := port.val
    match s.startCmd p q.val 0x23 with
    | none => s
    | some (c, s1) =>
      match s1.job with
      | none => s1.finishCmd p q.val c 9 none none
      | some j =>
        if j.desc.jobid.toNat ≠ c.arg 0 32 then s1.finishCmd p q.val c 9 none none
        else (s1.hostEnd.finishCmd p q.val c 0 none none).endJob 5)

/-- A held completion as the job-status buffer reports it. -/
def heldNats (h : Option Compl) : List Nat :=
  match h with
  | some c => [c.cid.toNat, c.status, c.r0.getD 0, c.r1.getD 0]
  | none => []

def execJobStatus (port : Fin 2) (q : Fin 16) (s : State) : Host.Outcome State Fault Refusal :=
  .next (
    let p := port.val
    match s.startCmd p q.val 0x24 with
    | none => s
    | some (c, s1) =>
      let v := match s1.job with | some j => j.lastCommit.getD 0 | none => 0
      let bs := (List.range 256).map (Config.statusByte s1.jobId (idState s1) v (heldNats s1.held))
      (s1.tell (.write p c.haddr bs)).finishCmd p q.val c 0 none none)

/-! ## Checkpoint, retrain, self-test -/

/-- The command goes to the manager's engine and ends when the group has answered (R473, R591). -/
def execCheckpoint (port : Fin 2) (q : Fin 16) (s : State) : Host.Outcome State Fault Refusal :=
  .next (
    let p := port.val
    match s.runCmd p q.val 0x30 with
    | none => s
    | some (r, s1) =>
      if r.done > 0 then s
      else if !s1.isMgr || s1.superior.isSome || s1.jobKey.isNone || s1.safety.fence || s1.group.desig.isSome ||
          (match s1.job with | some j => j.state != 2 | none => true) then s1.endRun p r 9 none none
      else (s1.runTo p r 1).designate)

def execRetrain (port : Fin 2) (q : Fin 16) (s : State) : Host.Outcome State Fault Refusal :=
  .next (
    let p := port.val
    match s.startCmd p q.val 0x40 with
    | none => s
    | some (c, s1) =>
      ((List.range 56).foldl (fun t i => if c.args.getLsbD i && t.portOn i then t.askRetrain i else t) s1).finishCmd p q.val c 0 none none)

/-- The command ends when its test does; it waits while another test runs. -/
def execSelfTest (port : Fin 2) (q : Fin 16) (s : State) : Host.Outcome State Fault Refusal :=
  .next (
    if s.safety.tbusy then s
    else match s.runCmd port.val q.val 0x41 with
      | none => s
      | some (_, s1) => s1.startTest)

end Sys2Proof.Machine
end

