-- ==== Sys2Proof/Machine/Sec.lean ====
section
/-! DEFINITION. The security commands (Table 19.6, R589, R595, R598), attestation (R592 to R594), and the checks of a firmware
image (R579). -/

namespace Sys2Proof

/-- The first condition of R579 that fails, as `SECBOOT.FAIL` codes it: 1 signature or key, 2 rollback, 3 format; none where the
image is accepted. The format of the first 4,096 bytes is looked at before the keys, the body digest before the security version. -/
def FwImage.refusal (f : FwImage) (vkey : Tbl (BitVec 256)) (revoke : BitVec 4) (floor : Nat) : Option Nat :=
  let key := match vkey.find? (fun e => e.1 == f.keyslot.val) with | some e => e.2 | none => 0
  if !f.magicOk || f.bodylen % 4096 != 0 || decide (f.bodylen > 2 ^ 23) then some 3
  else if f.vpubDigest != key || revoke.getLsbD f.keyslot.val || !f.sigOk then some 1
  else if !f.bodyOk then some 3
  else if f.svn < floor then some 2
  else none

/-- A slot that holds no image: its MAGIC is not correct. -/
def FwImage.empty : FwImage := ⟨false, 0, 0, 0, 0, false, 0, false⟩

end Sys2Proof

namespace Sys2Proof.Machine

open Sys2Proof

def setSec (s : State) (x : Sec) : State := { s with sec := x }

/-! ## Firmware -/

/-- The DETAIL of a refused image (Table 19.9). -/
def imageDetail (why : Nat) : Nat := 0x0100 + why

/-- `image` is the image at HADDR. The inactive slot takes it; one that is refused leaves the slot invalid (R587). -/
def execFirmwareStage (port : Fin 2) (q : Fin 16) (image : FwImage) (s : State) : Host.Outcome State Fault Refusal :=
  .next (
    let p := port.val
    match s.startCmd p q.val 0x60 with
    | none => s
    | some (c, s1) =>
      let x := s1.sec
      let t := 1 - x.active
      let why := image.refusal s1.fuse.vkey s1.fuse.revoke s1.fuse.floor
      let s2 := setSec s1 { x with slots := Tbl.put x.slots t image, okSlot := Tbl.put x.okSlot t why.isNone }
      match why with
      | some w => s2.finishCmd p q.val c 1 none (some (imageDetail w))
      | none => s2.finishCmd p q.val c 0 (some image.svn) none)

/-- The boot-selection record names the slot (R578). -/
def execFirmwareActivate (port : Fin 2) (q : Fin 16) (s : State) : Host.Outcome State Fault Refusal :=
  .next (
    let p := port.val
    match s.startCmd p q.val 0x61 with
    | none => s
    | some (c, s1) =>
      let t := c.arg 0 1
      if !Tbl.get s1.sec.okSlot false t then s1.finishCmd p q.val c 9 none (some 0x0104)
      else (((setSec s1 { s1.sec with active := t }).emit 0x6105 srcWarden uidWarden [(1, t)]).finishCmd p q.val c 0 none none))

def execRollbackCommit (port : Fin 2) (q : Fin 16) (s : State) : Host.Outcome State Fault Refusal :=
  .next (
    let p := port.val
    match s.startCmd p q.val 0x62 with
    | none => s
    | some (c, s1) =>
      if s1.sec.active ≠ s1.sec.slot then s1.finishCmd p q.val c 9 none (some 0x0104)
      else
        let svn := match s1.sec.running with | some f => f.svn | none => 0
        let fl := min 64 (max s1.fuse.floor svn)
        ({ s1 with fuse := { s1.fuse with floor := fl } }.emit 0x6104 srcWarden uidWarden [(1, fl)]).finishCmd p q.val c 0 (some fl) none)

/-- GEN of the key in use: 0xFF for the observed key (Table 19.7). -/
def Sec.keyGen (x : Sec) : Nat := if x.observed then 0xFF else x.gen

def execCertificateRead (port : Fin 2) (q : Fin 16) (s : State) : Host.Outcome State Fault Refusal :=
  .next (
    let p := port.val
    match s.startCmd p q.val 0x63 with
    | none => s
    | some (c, s1) =>
      (s1.tell (.write p c.haddr ((Config.certificate s1.sec.keyGen).take c.len.toNat))).finishCmd p q.val c 0 none none)

/-! ## Job keys -/

/-- `key` is the key at HADDR. -/
def execJobKeyInstall (port : Fin 2) (q : Fin 16) (key : BitVec 512) (s : State) : Host.Outcome State Fault Refusal :=
  .next (
    let p := port.val
    match s.startCmd p q.val 0x64 with
    | none => s
    | some (c, s1) =>
      let id := c.arg 0 32
      let x := s1.sec
      if id = 0 ∨ x.keys.length ≥ 8 ∨ x.keys.any (fun e => e.1 == id) then s1.finishCmd p q.val c 9 none (some 0x0105)
      else ((setSec s1 { x with keys := x.keys ++ [(id, key)] }).emit 0x6301 srcWarden uidWarden [(4, id)]).finishCmd p q.val c 0 none none)

def execJobKeyErase (port : Fin 2) (q : Fin 16) (s : State) : Host.Outcome State Fault Refusal :=
  .next (
    let p := port.val
    match s.startCmd p q.val 0x65 with
    | none => s
    | some (c, s1) =>
      let id := c.arg 0 32
      let whole := c.arg 32 1 == 1
      let x := s1.sec
      let hit (e : Nat × BitVec 512) : Bool := whole || e.1 == id
      let used := match s1.job with | some j => j.desc.keyid.toNat | none => 0
      if x.keys.any (fun e => hit e && e.1 == used) then s1.finishCmd p q.val c 9 none (some 0x0105)
      else
        ((setSec s1 { x with keys := x.keys.filter (fun e => !hit e) }).emit 0x6302 srcWarden uidWarden [(4, id), (1, b2n whole)]).finishCmd
          p q.val c 0 none none)

/-! ## Opening observation (R595) -/

/-- The trace area is written to zero, with valid check bits (R607). -/
def State.clearTrace (s : State) : State :=
  let hit (key : Nat) : Bool := match lakeInv s.slots (key / 2 ^ 30) (key % 2 ^ 30 * 64) with
    | some off => overlaps off 64 (traceBase s) (2 ^ 30)
    | none => false
  { s with mem := memClear s.mem (lakeKey (traceBase s)) (2 ^ 30), lakeMark := Tbl.drop s.lakeMark hit }

/-- Every secret is zeroised, the observed key takes over at its own reservation record, and trace opens. Where observation is open
already the observed key goes on. -/
def State.observe (s : State) : State :=
  let x := s.sec
  let y : Sec := if x.observed then x
    else { x with observed := true, busy := false, exhausted := decide (x.obsEnd ≥ 2 ^ 20), cache := false, seedLock := true,
                  nextIdx := x.obsEnd, resEnd := min (x.obsEnd + 256) (2 ^ 20), obsEnd := min (x.obsEnd + 256) (2 ^ 20),
                  resSeq := x.resSeq + 1 }
  let s1 := setSec s { y with keys := [] }
  let s2 := s1.clearTrace
  ({ s2 with trace := { Trace.reset with openT := true } }).emit 0x6401 srcWarden uidWarden []

def execOpenObservation (port : Fin 2) (q : Fin 16) (s : State) : Host.Outcome State Fault Refusal :=
  .next (
    let p := port.val
    match s.startCmd p q.val 0x66 with
    | none => s
    | some (c, s1) =>
      if s1.job.isSome then s1.finishCmd p q.val c 9 none (some 0x0106)
      else if s1.fuse.rekey ≥ 64 then (s1.emit 0x6403 srcWarden uidWarden []).finishCmd p q.val c 9 none (some 0x0106)
      else s1.observe.finishCmd p q.val c 0 none none)

/-! ## Attestation (R592 to R594) -/

/-- An index is taken; the next block is reserved when 32 of the current one remain. -/
def Sec.takeIndex (x : Sec) : Sec :=
  let n := x.nextIdx + 1
  let y := { x with nextIdx := n, exhausted := decide (n ≥ 2 ^ 20) }
  if y.resEnd - n = 32 ∧ y.resEnd < 2 ^ 20 then
    { y with resEnd := min (y.resEnd + 256) (2 ^ 20), resSeq := y.resSeq + 1,
             obsEnd := if y.observed then min (y.resEnd + 256) (2 ^ 20) else y.obsEnd }
  else y

/-- Bytes 0 to 55 of the body. -/
def State.attestHead (s : State) (flags : Nat) (nonce : BitVec 256) : List Byte :=
  let svn := match s.sec.running with | some f => f.svn | none => 0
  [1, BitVec.ofNat 8 flags, BitVec.ofNat 8 s.sec.keyGen, BitVec.ofNat 8 svn] ++ leBytes 32 nonce.toNat ++
    leBytes 6 s.fuse.serial.toNat ++ leBytes 14 0

/-- Bytes 56 to 287: the measurements, those of the job where they are asked for and a job is loaded. -/
def State.attestTail (s : State) (job : Bool) : List Byte :=
  (List.range 7).flatMap (fun m => leBytes 32 (if m < 4 || job then (Tbl.get s.sec.meas 0 m).toNat else 0)) ++ leBytes 8 0

/-- A signature over a body: its index, then what the scheme makes of it. -/
def signature (gen index : Nat) (body : List Byte) : List Byte :=
  (leBytes 4 index).reverse ++ (List.range 2816).map (fun i => Config.sigByte gen index body (4 + i))

/-- Requests are served while firmware runs. -/
def execDoeAttestationRequest (port : Fin 2) (flags : BitVec 8) (nonce : BitVec 256) (s : State) : Host.Outcome State Fault Refusal :=
  .next (
    let p := port.val
    if !s.hostOk p || !s.devUp then s
    else
      let x := s.sec
      let obs := b2n x.observed
      if x.busy || x.exhausted then
        s.tell (.doe p (s.attestHead (obs + 4 * b2n x.busy + 8 * b2n x.exhausted) nonce))
      else
        let job := flags.getLsbD 0 && s.job.isSome
        let body := s.attestHead (obs + 2 * b2n job) nonce ++ s.attestTail job
        (setSec s x.takeIndex).tell (.doe p (body ++ signature x.keyGen x.nextIdx body)))

def execKeyGenerationComplete (s : State) : Host.Outcome State Fault Refusal :=
  .next (if s.sec.busy && s.devUp then setSec s { s.sec with busy := false, cache := true } else s)

end Sys2Proof.Machine
end

