-- ==== Sys2Proof/Machine/Boot.lean ====
section
/-! DEFINITION. Power good and the boot (R580 to R582, R639), the resets (R583 to R587, Table 19.4), and the resets and D3hot of one
port (R558 to R560). -/

namespace Sys2Proof.Machine

open Sys2Proof

/-! ## The polders come up (Tables 16.4, 19.3, R526) -/

/-- A polder after a module or polder reset: the trip records stay, and one that is marked lost stays off. -/
def Polder.boot (x : Polder) (ref : Nat) : Polder :=
  let y := { Polder.reset with trips := x.trips, lost := x.lost, cause := x.cause, emTrips := x.emTrips }
  if x.lost then { y with state := x.state } else y.powered ref

/-- A polder after a power-on: only a site lost to overcurrent stays off, unless `RESTORE` was set. -/
def Polder.coldBoot (x : Polder) (site : Bool) (ref : Nat) : Polder :=
  if site && x.lost && x.cause == 1 && !x.restReq then { Polder.reset with state := 4, lost := true, cause := 1 }
  else Polder.reset.powered ref

/-- A polder that the ROM has not brought up. -/
def Polder.dark (x : Polder) : Polder :=
  { Polder.reset with state := if x.state = 4 then 4 else 0, trips := x.trips, lost := x.lost, cause := x.cause, emTrips := x.emTrips }

/-- The neighbours' clamps are closed toward every polder that stays off. -/
def State.clampLost (s : State) : State :=
  ((List.range 60).filter (fun p => (s.polder p).lost)).foldl (fun t p => t.setClamps p true) s

def State.bootPolders (s : State) : State :=
  ((List.range 60).foldl (fun t p => t.setPolder p ((t.polder p).boot s.ref)) s).clampLost

/-- A site that comes up and is neither in service nor a reserve becomes a reserve (Table 16.4). -/
def State.returnSite (s : State) (p : Nat) : State :=
  if s.polderOn p && !s.siteIn p && !s.resv.getLsbD p && !s.tileOut.getLsbD p then
    { s with resv := s.resv ||| (1#56 <<< p) }.emit 0x3207 srcWarden (uidSupply p) [(1, p)]
  else s

def State.coldPolders (s : State) : State :=
  let s1 := ((List.range 60).foldl (fun t p => t.setPolder p ((t.polder p).coldBoot (decide (p < 56)) s.ref)) s).clampLost
  (List.range 56).foldl (fun t p => t.returnSite p) s1

/-! ## The light ports and laser bays -/

/-- A port after a reset: it trains where the surroundings record names its neighbour (R443). -/
def State.bootPort (s : State) (p : Nat) : State :=
  let named := match s.placeOf p with | some i => (Tbl.get s.surr.nbr 0 i).getLsbD 54 | none => false
  s.setPort p { LPort.reset with state := if named && s.polderOn p then 1 else 0 }

/-- Every bay whose latch is closed is lit: the working modules and the spares on standby (R446). -/
def bootBay (y : Bay) (b ref : Nat) : Bay :=
  if y.opened then { Bay.reset with opened := true }
  else { Bay.reset with present := true, state := if b < 14 then 1 else 2, power := Config.laserPower b ref }

def State.bootLinks (s : State) : State :=
  let s1 := { s with pmap := [], bays := (List.range 16).map (fun b => (b, bootBay (s.bay b) b s.ref)) }
  (List.range 56).foldl (fun t p => t.bootPort p) s1

/-! ## Firmware images (R578 to R580) -/

/-- Why an image slot is refused, none where it is accepted. -/
def State.slotRefusal (s : State) (slot : Nat) : Option Nat :=
  (Tbl.get s.sec.slots FwImage.empty slot).refusal s.fuse.vkey s.fuse.revoke s.fuse.floor

/-- The ROM's attempt at one slot: the record it leaves, and whether the image starts. -/
def State.trySlot (s : State) (slot : Nat) : State × Bool :=
  match s.slotRefusal slot with
  | none =>
    let f := Tbl.get s.sec.slots FwImage.empty slot
    ((setSec s { s.sec with running := some f, slot := slot, okSlot := [(slot, true)] }).emit 0x6101 srcWarden uidWarden
      [(1, slot), (1, f.svn)], true)
  | some w => ((setSec s { s.sec with fail := w }).emit 0x6102 srcWarden uidWarden [(1, w)], false)

/-- The active slot, then the other one; with neither, recovery. -/
def State.startImage (s : State) : State × Bool :=
  match s.trySlot s.sec.active with
  | (s1, true) => (s1, true)
  | (s1, false) =>
    match s1.trySlot (1 - s.sec.active) with
    | (s2, true) => (s2, true)
    | (s2, false) => ((setSec s2 { s2.sec with fail := 4, stage := 14 }).emit 0x6103 srcWarden uidWarden [], false)

/-! ## Keys (R592, R594, R597) -/

/-- The key of the next generation, with a fresh reservation record. -/
def Sec.rekeyed (x : Sec) (gen : Nat) : Sec :=
  { x with gen := gen, observed := false, cache := false, exhausted := false, nextIdx := 0, resEnd := 256, resSeq := x.resSeq + 1 }

/-- A new block of the same key begins at its record's end. -/
def Sec.nextBlock (x : Sec) : Sec :=
  { x with nextIdx := x.resEnd, resEnd := min (x.resEnd + 256) (2 ^ 20), resSeq := x.resSeq + 1, exhausted := decide (x.resEnd ≥ 2 ^ 20) }

/-- Stage 0x8: a re-key after observation or exhaustion, else the indices reserved and not used are skipped. Generation of a key
whose cache is absent follows after ready. -/
def State.bootKeys (s : State) : State :=
  let x := s.sec
  let g := s.fuse.rekey
  let up (code : Nat) : State :=
    (setSec { s with fuse := { s.fuse with rekey := g + 1 } } (x.rekeyed (g + 1))).emit code srcWarden uidWarden [(1, g + 1)]
  let s1 :=
    if x.observed && decide (g < 64) then up 0x6402
    else if x.exhausted && decide (g < 64) then up 0x6203
    else
      let s2 := setSec s { x.nextBlock with gen := g }
      if x.resEnd > x.nextIdx then s2.emit 0x6202 srcWarden uidWarden [(4, x.resEnd - x.nextIdx)] else s2
  setSec s1 { s1.sec with busy := !s1.sec.cache, seedLock := false }

/-! ## What a power-on and a module reset clear -/

/-- Memory that a reset leaves: from key `lo` on. Flash lies from 2^72, the Lake from 2^56 to 2^57. -/
def keepMem (m : List Host.Cell) (lake : Bool) : List Host.Cell :=
  m.filter (fun e => decide (2 ^ 72 ≤ e.1) || (lake && decide (2 ^ 56 ≤ e.1) && decide (e.1 < 2 ^ 57)))

/-- The security block before the ROM starts: its fields are at their reset values, what P0 holds stays. -/
def Sec.cleared (x : Sec) (kind : Nat) : Sec :=
  { x with stage := 0, fail := 0, kind := kind, okSlot := [], running := none, slot := 0, busy := false, time := 0 }

/-- Routers after a reset; a link that has failed stays so until the next power-on tests it. -/
def State.bootNodes (s : State) : Tbl Node := s.nodes.map (fun e => (e.1, e.2.jobReset))

/-- Core maps come from the repair map. -/
def bootClusters (t : Tbl Cluster) : Tbl Cluster :=
  t.map (fun e => (e.1, { Cluster.reset with coreMap := e.2.coreMap, spare := e.2.spare }))

/-- A stack that has failed stays so. -/
def bootStacks (t : Tbl Stack) : Tbl Stack := t.map (fun e => (e.1, { Stack.reset with failed := e.2.failed }))

/-- The feed ceiling in W (R639, R538). -/
def feedCeiling (feeds : List Nat) : Nat := min 24000 (6000 * feeds.length)

/-- The flash store's tables after a reset; what its blocks hold stays. -/
def Flash.boot (f : Flash) : Flash := { f with queues := [], teeStep := none, teeBegun := false }

/-- Both resets: compute state, units, links, blocks of the ports, counters and trace are cleared; the maps, flash, fuses, the
recorder, what has been sent to the host, and the failure records stay. -/
def State.cleared (s : State) (kind : Nat) (lake : Bool) : State :=
  { State.reset with
    pending := s.pending, mem := keepMem s.mem lake, lakeMark := if lake then s.lakeMark else [], clusters := bootClusters s.clusters,
    nodes := s.bootNodes, nextId := s.nextId, stackCtl := bootStacks s.stackCtl, flash := s.flash.boot,
    polders := s.polders.map (fun e => (e.1, { e.2.dark with restReq := e.2.restReq && !lake })),
    sites := s.sites, resv := s.resv, tileOut := s.tileOut, stackSvc := s.stackSvc, stackRes := s.stackRes, slots := s.slots,
    unitOut := s.unitOut, arrMap := s.arrMap, rowFails := s.rowFails, suspects := s.suspects, bays := s.bays,
    safety := { Safety.reset with recs := s.safety.recs }, hostTx := s.hostTx, evrec := s.evrec, fuse := s.fuse,
    sec := s.sec.cleared kind, ref := s.ref, powered := true }

/-- The last stages: flash, keys, measurements, ready. -/
def State.bootEnd (s : State) : State :=
  let s1 := s.flashScan.bootKeys
  let s2 := s1.takeMeasures [0, 1, 2, 3]
  { s2 with idgen := 2, sec := { s2.sec with stage := 9, time := min 12000 (Config.bootTime s.ref) } }

/-! ## Power-on (R581, R583, R639) -/

/-- The newest records within 4 MiB, oldest first. -/
def newestRecs (room : Nat) : List Rec → List Rec
  | [] => []
  | r :: t => if 64 * r.granules ≤ room then newestRecs (room - 64 * r.granules) t ++ [r] else []

/-- The recorder at a power-on: the mirror's newest records with their merge notes, and SEQ numbers beyond any given out (R621). -/
def Recorder.powerOn (v : Recorder) : Recorder :=
  let rs := (v.mirror.flatMap (·.recs)).map (fun (r : Rec) => (v.mirrored r.seq).getD r)
  let top := rs.foldl (fun a r => max a r.seq) 0
  { Recorder.reset with recs := newestRecs (2 ^ 22) rs.reverse, newest := top, next := if v.next = 1 then 1 else top + 2 ^ 20,
                        mirror := v.mirror, evmir := top, blkNum := v.blkNum }

/-- The Lake is initialised; at the first power-on its slots take the stacks in service, in order (R387, R399). -/
def State.coldLake (s : State) : State :=
  { s with slots := if s.slots.isEmpty then (List.range 44).filter (fun k => s.stackSvc.getLsbD k) else s.slots,
           lkSelf := false, lkSuspect := false }

/-- What the power-up self-test finds: a stack whose interface does not train has failed (R393), any other part is marked for its
replacement. -/
def State.powerFail (s : State) (p : Part) : State :=
  match p with
  | .stack k => (s.stackFail k.val).failRec 0x5303 0 3 srcWarden (uidStack k.val)
  | _ => s.testFail p

/-- The boot after power good; `failed` are the parts that the power-up self-test finds failed. -/
def State.powerOn (s : State) (feeds : List Nat) (failed : List Part) : State :=
  let s0 := { s.cleared 0 false with
    nodes := [], power := { Power.reset with feeds := feeds, limit := feedCeiling feeds, life := s.power.life },
    evrec := s.evrec.powerOn,
    flash := { s.flash.boot with
      chup := 0xFFFF, curValid := false, curSlot := false, curStep := 0, life := 0, freeBlk := 0 } }
  if failed.contains .warden then { setSafety s0 { s0.safety with wfail := true } with sec := { s0.sec with stage := 15 } }
  else match s0.startImage with
    | (s1, false) => s1
    | (s1, true) =>
      let s2 := failed.foldl (fun t p => t.powerFail p) s1.coldPolders
      s2.coldLake.bringCores.bringRows.bootLinks.bootEnd

/-- Two feeds in range for 100 ms. -/
def execPowerGood (feeds : List (Fin 4)) (failed : List Part) (s : State) : Host.Outcome State Fault Refusal :=
  .next (
    let fs := (feeds.map (·.val)).eraseDups
    if s.powered || decide (fs.length < 2) then s else s.powerOn fs failed)

/-! ## Module reset (R582, R584) -/

/-- The loaded job awaits its restart: the host resumes it with a new job start. A job that has not been started stays loaded. -/
def parkJob (self suspect : Bool) (j : JobSt) : JobSt :=
  { j with state := if j.state = 1 then 1 else 3, start := none, sched := none, gateFrom := none, anchor := false, clearAt := none,
           voted := false, poisoned := false, needCkpt := j.needCkpt || !self || suspect, exporting := false,
           parked := decide (j.state ≠ 1) }

/-- Was the Lake held in self-refresh without a break, and does every stack return trained (R398)? -/
def State.lakeHeld (s : State) : Bool :=
  s.slots.all (fun k => !(s.stack k).failed && !(s.polder (56 + k / 11)).lost && (s.polder (56 + k / 11)).state != 4)

def State.moduleReset (s : State) (kind : Nat) : State :=
  let k := if s.safety.wfail || s.orderly.isSome then 3 else kind
  let s0 := s.lapse
  let self := s0.lakeHeld
  let g := s0.group
  let s1 := { s0.cleared k true with
    lkCorr := s0.lkCorr, lkUnc := s0.lkUnc, lkLast := s0.lkLast, surr := s0.surr,
    job := s0.job.map (parkJob self s0.lkSuspect), held := s0.held,
    group := { Group.reset with mgr := g.mgr, coord := g.coord, extm1 := g.extm1, origin := g.origin, boxm1 := g.boxm1, head := g.head },
    power := { Power.reset with cap := s0.power.cap, jobe := s0.power.jobe, stepBase := s0.power.jobe, life := s0.power.life,
                                feeds := s0.power.feeds, limit := feedCeiling s0.power.feeds } }
  match (if self then s1 else { s1 with mem := keepMem s1.mem false, lakeMark := [] }).startImage with
  | (s2, false) => s2
  | (s2, true) => { s2.bootPolders.bootLinks.bootEnd with lkSelf := self }

/-- A reset command of a kind at the front of a queue starts. -/
def State.startReset (s : State) (p q kind : Nat) : Option (HostCmd × State) :=
  match s.startCmd p q 0x50 with
  | some (c, s1) => if c.arg 0 8 = kind then some (c, s1) else none
  | none => none

/-- It posts no completion. -/
def execModuleReset (port : Fin 2) (q : Fin 16) (s : State) : Host.Outcome State Fault Refusal :=
  .next (match s.startReset port.val q.val 1 with
    | none => s
    | some (_, s1) => s1.moduleReset 2)

/-- During any stage (R582). -/
def execPerstPortA (s : State) : Host.Outcome State Fault Refusal := .next (if s.powered then s.moduleReset 1 else s)

/-! ## Job reset (R586) -/

/-- The compute state is cleared and the fence lowered; a job that has been started restarts. -/
def State.jobReset (s : State) : State :=
  let s1 := match s.job with
    | some j => if j.state = 2 && !s.safety.fence then s.faultReaction 0 srcWarden else s
    | none => s
  let s2 := s1.clearCompute.lowerFence
  { s2 with job := s2.job.map (fun (j : JobSt) => { j with state := if j.state = 1 then 1 else 3 }) }

def execJobReset (port : Fin 2) (q : Fin 16) (s : State) : Host.Outcome State Fault Refusal :=
  .next (match s.startReset port.val q.val 2 with
    | none => s
    | some (c, s1) => s1.jobReset.finishCmd port.val q.val c 0 none none)

/-! ## Polder reset (R585) -/

/-- The registers of the units, clusters and routers of a polder, and its counters. -/
def State.clearPolder (s : State) (p : Nat) : State :=
  let s1 := if p < 56 then s.clearPonds p else s
  let s2 := s1.resetUnits p
  let mine (e : Nat × Cluster) : Bool := e.1 / 10 == p
  { s2 with
    clusters := s2.clusters.map (fun e => if mine e then (e.1, { Cluster.reset with coreMap := e.2.coreMap, spare := e.2.spare }) else e),
    nodes := s2.nodes.map (fun e => if polderOfNode e.1 = p then (e.1, e.2.jobReset) else e),
    springs := Tbl.drop s2.springs (fun u => 56 + u / 4 == p), sluices := Tbl.drop s2.sluices (fun u => 56 + u / 4 == p),
    ues := Tbl.drop s2.ues (fun k => 56 + k / 11 == p), bars := Tbl.drop s2.bars (· == p),
    stackCtl := s2.stackCtl.map (fun e => if 56 + e.1 / 11 = p then (e.1, { Stack.reset with failed := e.2.failed }) else e),
    hports := if p = 58 then Tbl.drop s2.hports (· == 1) else s2.hports,
    ecnt := Tbl.drop s2.ecnt (fun k => embPolder (k / 16) == p) }

/-- One polder as in a module reset. -/
def State.polderReset (s : State) (p : Nat) : State :=
  let s1 := s.darkPolder p
  let s2 := (s1.setPolder p ((s1.polder p).boot s.ref)).clearPolder p
  let s3 := if (s2.polder p).lost then s2 else s2.setClamps p false
  (if p < 56 then s3.bootPort p else s3).reroute.rebar

/-- The reset waits while a step runs; `done` of the running command marks that it does. -/
def execPolderReset (port : Fin 2) (q : Fin 16) (s : State) : Host.Outcome State Fault Refusal :=
  .next (
    let h := s.hport port.val
    let start : Option (RunCmd × State) := match h.running.find? (fun r => r.q == q.val && r.cmd.opc == 0x50) with
      | some r => if s.portRuns port.val then some (r, s) else none
      | none => (s.startReset port.val q.val 3).map (fun e =>
          (⟨q.val, e.1, 0⟩, e.2.setHport port.val { e.2.hport port.val with running := (e.2.hport port.val).running ++ [⟨q.val, e.1, 0⟩] }))
    match start with
    | none => s
    | some (r, s1) =>
      let p := r.cmd.arg 8 8
      if p = 56 then s1.endRun port.val r 9 none none
      else if !s1.mayPower then s1.setPolder p { s1.polder p with resetReq := true }
      else (s1.endRun port.val r 0 none none).polderReset p)

/-! ## Resets of one port, D3hot (R558 to R560) -/

/-- Does the reset concern this port: PERST# here is that of port B, and a return from D3hot finds the port there? -/
def portResetHere (h : HPort) (port : Nat) (why : PortResetKind) : Bool :=
  match why with
  | .perstB => port == 1
  | .d3hotExit => h.d3
  | _ => true

def portResetCode (why : PortResetKind) : Nat :=
  match why with
  | .perstB => 0 | .hot => 1 | .linkDown => 2 | .flr => 3 | .d3hotExit => 4 | .fatal => 5

/-- The port's function state returns to its reset value; its commands end without a completion. -/
def State.portReset (s : State) (port : Nat) (why : PortResetKind) : State :=
  let h := s.hport port
  let s1 := if h.running.any (fun r => r.cmd.opc == 0x31) then s.setExport false else s
  let s2 := { s1 with job := s1.job.map (fun (j : JobSt) => match j.start with
    | some (p, _, _) => if p = port then { j with start := none } else j
    | none => j) }
  (s2.setHport port HPort.reset).emit 0x7105 (if port = 0 then 56 else 58) uidWarden [(1, port), (1, portResetCode why)]

def execPortReset (port : Fin 2) (why : PortResetKind) (s : State) : Host.Outcome State Fault Refusal :=
  .next (
    let p := port.val
    if !s.powered || !(p == 0 || s.polderOn 58) || !portResetHere (s.hport p) p why then s else s.portReset p why)

def execD3hotEntry (port : Fin 2) (s : State) : Host.Outcome State Fault Refusal :=
  .next (if s.hostOk port.val then s.setHport port.val { s.hport port.val with d3 := true } else s)

/-- The queues are served again, from where they stood. -/
def execD3hotExit (port : Fin 2) (s : State) : Host.Outcome State Fault Refusal :=
  .next (
    let h := s.hport port.val
    if !h.d3 || !s.powered then s
    else (List.range 16).foldl (fun t q => t.fetchQ port.val q) (s.setHport port.val { h with d3 := false }))

end Sys2Proof.Machine
end

