-- ==== Sys2Proof/Machine/Scalar.lean ====
section
/-! DEFINITION. Scalar instructions: integer arithmetic, branches and jumps, trap return, scalar floating point
(06_buine_scalar_vector, R199 to R203, R209 to R211, R226, R227). -/

namespace Sys2Proof.Machine

open Sys2Proof

def boolWord (b : Bool) : Word := if b then 1 else 0

def clz64 (x : Word) : Nat := if x = 0 then 64 else 63 - x.toNat.log2
def popc64 (x : Word) : Nat := ((List.range 64).filter (fun i => x.getLsbD i)).length
def ctz64 (x : Word) : Nat := match (List.range 64).find? (fun i => x.getLsbD i) with | some i => i | none => 64

/-- OP 0x01 by its function code; none for a code that is not assigned or a one-operand form with rb set (Table 6.3). -/
def aluRR (fn rb : Nat) (a b : Word) : Option Word :=
  let sh := b.toNat % 64
  match fn with
  | 0 => some (a + b)
  | 1 => some (a - b)
  | 2 => some (a &&& b)
  | 3 => some (a ||| b)
  | 4 => some (a ^^^ b)
  | 5 => some (a &&& ~~~b)
  | 6 => some (a <<< sh)
  | 7 => some (a >>> sh)
  | 8 => some (a.sshiftRight sh)
  | 9 => some (boolWord (a.slt b))
  | 10 => some (boolWord (a.ult b))
  | 11 => some (if a.slt b then a else b)
  | 12 => some (if a.slt b then b else a)
  | 13 => some (if a.ult b then a else b)
  | 14 => some (if a.ult b then b else a)
  | 16 => if rb = 0 then some (BitVec.ofNat 64 (clz64 a)) else none
  | 17 => if rb = 0 then some (BitVec.ofNat 64 (ctz64 a)) else none
  | 18 => if rb = 0 then some (BitVec.ofNat 64 (popc64 a)) else none
  | _ => none

/-- OP 0x02 (Table 6.3); IMM12 is raw. -/
def aluRI (fn3 imm : Nat) (a : Word) : Option Word :=
  let i := sxt 12 imm
  match fn3 with
  | 0 => some (a + i)
  | 1 => some (boolWord (a.slt i))
  | 2 => some (boolWord (a.ult i))
  | 3 => some (a &&& i)
  | 4 => some (a ||| i)
  | 5 => some (a ^^^ i)
  | 6 =>
    let sh := imm % 64
    if imm / 256 ≠ 0 then none
    else match imm / 64 % 4 with
      | 0 => some (a <<< sh)
      | 1 => some (a >>> sh)
      | 2 => some (a.sshiftRight sh)
      | _ => some (a.rotateRight sh)
  | _ => none

/-- Division as R199 defines it. -/
def divS (a b : Word) : Word := if b = 0 then BitVec.allOnes 64 else a.sdiv b
def remS (a b : Word) : Word := if b = 0 then a else a.srem b
def divU (a b : Word) : Word := if b = 0 then BitVec.allOnes 64 else a / b
def remU (a b : Word) : Word := if b = 0 then a else a % b

/-- OP 0x04 (Table 6.3). -/
def mulDiv (fn : Nat) (a b : Word) : Option Word :=
  match fn with
  | 0 => some (a * b)
  | 1 => some (BitVec.ofInt 64 (a.toInt * b.toInt / 2 ^ 64))
  | 2 => some (BitVec.ofNat 64 (a.toNat * b.toNat / 2 ^ 64))
  | 3 => some (divS a b)
  | 4 => some (divU a b)
  | 5 => some (remS a b)
  | 6 => some (remU a b)
  | _ => none

/-- Write rd with a value, or trap on a reserved code. -/
def writeOr (op : Nat) (f : BitVec 25) (p : Proc) (r : Option Word) : IRes :=
  match r with
  | some x => .ok (p.setS (rdOf f) x)
  | none => illegal32 op f

/-- A word whose OP the opcode map does not assign traps (R194 to R196); OP 0x60 to 0x7E introduces a 64-bit word. -/
def State.reservedOp (s : State) (k op : Nat) (f : BitVec 25) : State :=
  let len := if 0x60 ≤ op ∧ op ≤ 0x7E then 8 else 4
  s.issue k [] len ((word32 (BitVec.ofNat 7 op) f).zeroExtend 64) (fun s1 =>
    s1.finish k len false (len == 8 && slot1Of op) (illegal32 op f))

/-- The integer operations between registers (R199), and words with an unassigned OP. -/
def execIntegerRegisterRegister (u : UnitId) (op : BitVec 7) (f : BitVec 25) (s : State) : Host.Outcome State Fault Refusal :=
  .next (if op ≠ 0x01#7 then s.reservedOp (unitKey u) op.toNat f
    else s.runInstr (unitKey u) (regs3 f) true (fun p =>
      writeOr 0x01 f p (aluRR (fld f 22 10) (rbOf f) (p.getS (raOf f)) (p.getS (rbOf f)))))

def execIntegerImmediate (u : UnitId) (f : BitVec 25) (s : State) : Host.Outcome State Fault Refusal :=
  .next (s.runInstr (unitKey u) [.s (rdOf f), .s (raOf f)] true (fun p =>
    writeOr 0x02 f p (aluRI (fld f 17 3) (fld f 20 12) (p.getS (raOf f)))))

/-- `lic` (R200). -/
def licValue (f : BitVec 25) (old : Word) : Word :=
  let sh := 16 * fld f 12 2
  let part := BitVec.ofNat 64 (fld f 15 16) <<< sh
  if fld f 14 1 = 1 then (old &&& ~~~(0xFFFF#64 <<< sh)) ||| part else part

def execLic (u : UnitId) (f : BitVec 25) (s : State) : Host.Outcome State Fault Refusal :=
  .next (s.runInstr (unitKey u) [.s (rdOf f)] true (fun p =>
    writeOr 0x03 f p (if fld f 31 1 = 0 then some (licValue f (p.getS (rdOf f))) else none)))

def execMultiplyDivide (u : UnitId) (f : BitVec 25) (s : State) : Host.Outcome State Fault Refusal :=
  .next (s.runInstr (unitKey u) (regs3 f) true (fun p =>
    writeOr 0x04 f p (mulDiv (fld f 22 10) (p.getS (raOf f)) (p.getS (rbOf f)))))

/-! ## Branches and jumps (R201 to R203) -/

/-- The condition of a branch; none for the reserved codes. -/
def branchCond (c : Nat) (a b : Word) : Option Bool :=
  match c with
  | 0 => some (a == b)
  | 1 => some (a != b)
  | 2 => some (a.slt b)
  | 3 => some (!a.slt b)
  | 4 => some (a.ult b)
  | 5 => some (!a.ult b)
  | _ => none

def execConditionalBranch (u : UnitId) (f : BitVec 25) (s : State) : Host.Outcome State Fault Refusal :=
  .next (s.runInstr (unitKey u) [.s (rdOf f), .s (raOf f)] true (fun p =>
    match branchCond (fld f 17 3) (p.getS (raOf f)) (p.getS (rdOf f)) with
    | none => illegal32 0x08 f
    | some false => .branch p
    | some true => .jump p (p.pc + (sxt 12 (fld f 20 12) <<< 2)) 9))

def execJal (u : UnitId) (f : BitVec 25) (s : State) : Host.Outcome State Fault Refusal :=
  .next (s.runInstr (unitKey u) [.s (rdOf f)] true (fun p =>
    .jump (p.setS (rdOf f) (p.pc + 4)) (p.pc + (sxt 20 (fld f 12 20) <<< 2)) 9))

def execJalr (u : UnitId) (f : BitVec 25) (s : State) : Host.Outcome State Fault Refusal :=
  .next (s.runInstr (unitKey u) [.s (rdOf f), .s (raOf f)] true (fun p =>
    let t := p.getS (raOf f) + sxt 12 (fld f 20 12)
    if fld f 17 3 ≠ 0 then illegal32 0x0A f
    else if t.toNat % 4 ≠ 0 then .trap causeAddress 1 t
    else .jump (p.setS (rdOf f) (p.pc + 4)) t 10))

/-- `tret` (R209, R188); the profiles have none (Table 7.9). -/
def execTret (u : UnitId) (f : BitVec 25) (s : State) : Host.Outcome State Fault Refusal :=
  .next (s.runInstr (unitKey u) [] false (fun p =>
    if f ≠ 0 ∨ !isCore (unitKey u) ∨ !p.intrap then illegal32 0x0D f
    else .jump { p with intrap := false } p.tepc 0xC))

/-! ## Scalar floating point (Table 6.4) -/

/-- A scalar floating-point instruction's result: rd's new value, with the flags; none for a reserved encoding. `x`, `y`,
`z` are ra, rb and rd in the format, `r` is the draw. -/
def sfOp (fm fn rm rb : Nat) (mode : Option Nat) (a : Word) (x y z r : Nat) : Option (Nat × Flg) :=
  let F := Fmt.of (2 + fm)
  let rnd (g : Nat → FRes) : Option (Nat × Flg) := mode.map (fun m => ((g m).bits, (g m).fl))
  let plain (ok : Bool) (g : FRes) : Option (Nat × Flg) := if ok && rm == 0 then some (g.bits, g.fl) else none
  let cmp (g : Bool × Flg) : Option (Nat × Flg) := if rm = 0 then some (if g.1 then 1 else 0, g.2) else none
  let ty := rb % 8
  match fn with
  | 0 => rnd (fun m => fpAdd F m x y r)
  | 1 => rnd (fun m => fpSub F m x y r)
  | 2 => rnd (fun m => fpMul F m x y r)
  | 3 => rnd (fun m => fpDiv F m x y r)
  | 4 => if rb = 0 then rnd (fun m => fpSqrt F m x r) else none
  | 5 => plain true (fpMinMax F false false x y)
  | 6 => plain true (fpMinMax F true false x y)
  | 7 => plain true (fpMinMax F false true x y)
  | 8 => plain true (fpMinMax F true true x y)
  | 9 => rnd (fun m => fpFma F m false false x y z r)
  | 10 => rnd (fun m => fpFma F m false true x y z r)
  | 11 => rnd (fun m => fpFma F m true false x y z r)
  | 16 => cmp (fpCmp F .eq false x y)
  | 17 => cmp (fpCmp F .lt true x y)
  | 18 => cmp (fpCmp F .le true x y)
  | 19 => cmp (fpCmp F .un false x y)
  | 20 => plain (rb == 0) ⟨fpClass F x, 0⟩
  | 24 =>
    if rb / 8 ≠ 0 ∨ ty < 2 ∨ ty = 2 + fm then none
    else if ty < 4 then rnd (fun m => fpConv F (Fmt.of ty) m x r)
    else (mode.map (fun m => fpToInt F m ty x r)).map (fun g =>
      (if ty = 4 then ((BitVec.ofNat 32 g.bits).signExtend 64).toNat else g.bits, g.fl))
  | 25 => if rb / 8 ≠ 0 ∨ ty < 4 then none else rnd (fun m => intToFp F m ty a.toNat r)
  | _ => none

/-- Does the function code round (Table 6.4), and so draw under SR (R44)? -/
def sfRounds (fn : Nat) : Bool := fn ≤ 4 || (9 ≤ fn && fn ≤ 11) || fn == 24 || fn == 25

def execScalarFloatingPoint (u : UnitId) (f : BitVec 25) (s : State) : Host.Outcome State Fault Refusal :=
  .next (s.runInstr (unitKey u) (regs3 f) true (fun p =>
    let k := (unitKey u)
    let fm := fld f 22 1
    let fn := fld f 26 6
    let rm := fld f 23 3
    let W := fmtWidth (2 + fm)
    let v (r : Nat) : Nat := (p.getS r).toNat % 2 ^ W
    let mode := rmMode p rm
    let (ds, p1) := p.draws k false (if sfRounds fn then mode.getD 0 else 0) 1
    if isSpring k || isSluice k || (isUe k && fm == 1) then illegal32 0x10 f
    else match sfOp fm fn rm (rbOf f) mode (p.getS (raOf f)) (v (raOf f)) (v (rbOf f)) (v (rdOf f)) (elemAt ds 0) with
      | none => illegal32 0x10 f
      | some (x, fl) => .ok ((p1.raise fl).setS (rdOf f) (BitVec.ofNat 64 x))))

end Sys2Proof.Machine
end

