-- ==== Sys2Proof/Machine/Sparse.lean ====
section
/-! DEFINITION. The sparsity unit: `smask` in its three forms and the pruning unit that performs them (R145 to R148, R245),
and index merge, `smerge` (R149, R150, R152, R246). -/

namespace Sys2Proof.Machine

open Sys2Proof

/-! ## `smask` -/

/-- The format codes of Table 2.1 that are not reserved (R32). -/
def knownFmts : List Nat := [0, 1, 2, 3, 8, 9]

/-- The checks of `smask` that read no memory: prune and keep take a dense 128 × 128 tile, bitmap a tile up to that size with
both dimensions multiples of 4 (R145, Table 4.3). -/
def smaskTrap (form : Nat) (f : BitVec 57) (x y : Desc) : Option Trp :=
  let bad := dE x 2 != 1 || dE x 3 != 1 ||
    (if form = 2 then dE x 0 > 128 || dE x 1 > 128 || dE x 0 % 4 != 0 || dE x 1 % 4 != 0 else dE x 0 != 128 || dE x 1 != 128)
  firstTrap [descTrap (lD1 f) x [0], descTrap (lD3 f) y [0],
    when' (!([0, 1, 2, 3].contains (dFmt x))) (fmtTrap (dFmt x)),
    when' (!((if form = 2 then knownFmts else [0, 1, 2, 3]).contains (dFmt y))) (fmtTrap (dFmt y)), when' bad (dTrap (lD1 f)),
    alignTrap (lD1 f) x (esize (dFmt x)) false, alignTrap (lD3 f) y (if form = 2 then 16 else esize (dFmt x)) false,
    when' (form != 2 && !dMdv y) (dTrap (lD3 f))]

/-- The rows of the dense source. -/
def srcRows (d : Desc) : List (Word × Nat) :=
  (List.range (dE d 1)).map (fun i => (dBase d + BitVec.ofNat 64 (i * dS d 1), dE d 0 * esize (dFmt d)))

/-- Ranges that an `smask` reads and writes, but for the escape list. -/
def smaskRanges (form : Nat) (x y : Desc) : List (Word × Nat) :=
  srcRows x ++ (if dHdrv x then [(dHdr x 0, 16)] else []) ++
    (if form = 2 then [(dBase y, 16 * dE x 1)]
     else [(dBase y, 8192 * esize (dFmt x)), (dMd y, 1088)] ++ (if dHdrv y then [(dHdr y 0, 16)] else []))

/-- A source header whose dimensions are not multiples of 4 (R145). -/
def State.hdrDims (s : State) (x : Desc) : Bool :=
  dHdrv x && (let h := tileHdr (s.bytesAt (dHdr x 0).toNat 16); h.rows % 4 != 0 || h.cols % 4 != 0)

/-- A source tile whose header has POISON or NONFIN set poisons the step that uses it (R152, Table 11.1). -/
def State.hdrPoison (s : State) (x : Desc) : Bool :=
  dHdrv x && (let h := tileHdr (s.bytesAt (dHdr x 0).toNat 16); h.poison || h.nonfin)

/-- What validation reads at issue: the source's header, and for keep the existing metadata (R145, R151). -/
def smaskReads (form : Nat) (x y : Desc) : List (Word × Nat) :=
  (if dHdrv x then [(dHdr x 0, 16)] else []) ++ (if form = 1 then [(dMd y, 1088)] else [])

/-- Issue of an `smask`: the request waits in the cluster's pruning unit on its tag. A refused operand ends it with an
error on the tag (R24); the metadata that keep names is validated first (R151). -/
def State.smask (s : State) (u : UnitId) (f : BitVec 57) (form : Nat) : State :=
  let k := unitKey u
  s.issue64 k 0x6C f (isCore k && lOk f ['1', '3', 't'] 3 && lFlags f == form) [.d (lD1 f), .d (lD3 f)] (fun s1 =>
    let p := s1.proc k
    let x := p.getD (lD1 f)
    let y := p.getD (lD3 f)
    if s1.storesOut k || p.tagCount (lTag f) ≥ 255 then s1
    else match smaskTrap form f x y with
      | some t => s1.trap1 k t
      | none =>
        match refusedIn k (smaskRanges form x y) with
        | some w => (s1.refusedEvent k w).dmaEnd k (lTag f) true
        | none =>
          let (s2, bad) := s1.readMeta k (smaskReads form x y)
          if bad then s2.dmaEnd k (lTag f) true
          else if s2.hdrDims x then s1.trap1 k (dTrap (lD1 f))
          else if form = 1 && s2.t24Bad (dMd y) then s1.trap1 k (dTrap (lD3 f))
          else
            let s3 := if s2.hdrPoison x then s2.report k 2 p.span.isSome .nonfinite else s2
            let c := s3.cluster (clOf k)
            let req : PruneReq := ⟨k % 9, form, x, y, dFmt x, p.nf, lTag f, p.span.isSome⟩
            let s4 := s3.setCluster (clOf k) { c with prune := c.prune ++ [req] }
            s4.retire k ((s4.proc k).tagUp (lTag f)) 8 false 1)

def execSmaskPrune (u : UnitId) (f : BitVec 57) (s : State) : Host.Outcome State Fault Refusal := .next (s.smask u f 0)
def execSmaskKeep (u : UnitId) (f : BitVec 57) (s : State) : Host.Outcome State Fault Refusal := .next (s.smask u f 1)
def execSmaskBitmap (u : UnitId) (f : BitVec 57) (s : State) : Host.Outcome State Fault Refusal := .next (s.smask u f 2)

/-! ## The pruning unit -/

/-- A magnitude as the pruning unit compares it: how many infinities and NaNs, and the finite sum in units of the format's
smallest subnormal (R146, R148). -/
def pruneMag (F : Fmt) (x : Nat) : Nat × Nat :=
  let u := unpack F x
  if u.finite then (0, u.mant * 2 ^ (u.exp - (F.emin - F.fb)).toNat) else (1, 0)

/-- The sum of a block's magnitudes at the positions of a mask. -/
def maskSum (ms : List (Nat × Nat)) (bits : List Nat) : Nat × Nat :=
  bits.foldl (fun acc q => let m := ms.getD q (0, 0); (acc.1 + m.1, acc.2 + m.2)) (0, 0)

def magLt (a b : Nat × Nat) : Bool := a.1 < b.1 || (a.1 == b.1 && a.2 < b.2)

/-- The pattern with the largest sum, the lowest index among equals (R146). `pats` are the patterns' positions. -/
def bestPattern (F : Fmt) (pats : List (List Nat)) (blk : List Nat) : Nat :=
  let ms := blk.map (pruneMag F)
  ((List.range pats.length).foldl (fun (acc : Nat × (Nat × Nat)) i =>
    let m := maskSum ms (pats.getD i [])
    if i = 0 || magLt acc.2 m then (i, m) else acc) (0, (0, 0))).1

/-- Block `b` of a 128 × 128 tile, row-major. -/
def blockAt (rows : List (List Nat)) (b : Nat) : List Nat :=
  (List.range 16).map (fun q => (rows.getD (b / 32 * 4 + q / 4) []).getD (b % 32 * 4 + q % 4) 0)

/-- What becomes of a block under keep: its pattern, or an escape block (R147). -/
def keepPattern (F : Fmt) (pats : List (List Nat)) (old : Nat) (blk : List Nat) : Nat :=
  if old = 0x7F then 0x7F
  else if (List.range 16).any (fun q => !(pats.getD old []).contains q && blk.getD q 0 % F.signBit != 0) then 0x7F else old

/-- The value block of a pattern; an escape block's slot is ignored (R128) and keeps its bytes. -/
def valueBlock (es : Nat) (pats : List (List Nat)) (pat : Nat) (blk : List Nat) : List (Option Byte) :=
  if pat = 0x7F then List.replicate (8 * es) none
  else present (((pats.getD pat []).map (fun q => leBytes es (blk.getD q 0))).flatten)

/-- The statistic of the values that a T24 tile holds (R129, R148). -/
def statOf (F : Fmt) (xs : List Nat) : TileStat :=
  xs.foldl (fun t x => t.take F ⟨x, !(unpack F x).finite, false, false, false⟩) TileStat.fresh

/-- The dense source as rows of elements, and whether a word of it is uncorrectable. -/
def State.pruneRows (s : State) (k : Nat) (d : Desc) : State × List (List Nat) × Bool :=
  let es := esize (dFmt d)
  (List.range (dE d 1)).foldl (fun (acc : State × List (List Nat) × Bool) i =>
    let as := (List.range (dE d 0)).map (fun j => some (dBase d + BitVec.ofNat 64 (i * dS d 1 + j * es)))
    let (s1, xs) := acc.1.readElems k es as
    (s1, acc.2.1 ++ [xs.map (·.1)], acc.2.2 || xs.any (·.2))) (s, [], false)

/-- Writes of the pruning unit in the cluster's pond. -/
def State.pruneWrite (s : State) (k : Nat) (a : Word) (bs : List (Option Byte)) : State := (s.eccWrite a bs (uidUnit k)).1

/-- A bitmap word per row: bit i set when element i may be non-zero (R136, Table 4.3). -/
def bitmapWord (F : Fmt) (xs : List Nat) : Nat :=
  (List.range xs.length).foldl (fun acc i => if xs.getD i 0 % F.signBit != 0 then acc + 2 ^ i else acc) 0

/-- The tile that prune and keep write: patterns, then values, metadata, escape list and header. An escape list that does not
fit the core's pond ends the request with an error and writes nothing. -/
def State.pruneTile (s : State) (k : Nat) (r : PruneReq) (rows : List (List Nat)) : State × Bool :=
  let F := Fmt.of r.fmt
  let es := esize r.fmt
  let md := dMd r.dst
  let marks := (List.range 90).map (fun i => maskBits (patMask i))
  let olds := s.patBytes md
  let blks := (List.range 1024).map (blockAt rows)
  let pats := (List.range 1024).map (fun b =>
    let blk := blks.getD b []
    if r.form = 0 then bestPattern F marks blk else keepPattern F marks (olds.getD b 0) blk)
  let esc := (List.range 1024).filter (fun b => pats.getD b 0 == 0x7F)
  let ea := BitVec.ofNat 64 (s.natAt (md.toNat + 1024) 8)
  let escBytes := ((esc.map (fun b => ((blks.getD b []).map (leBytes es)).flatten))).flatten
  if !esc.isEmpty && (ea.toNat % 64 != 0 || !ownPond k ea escBytes.length) then (s.refusedEvent k ea, true)
  else
    let vals := ((List.range 1024).map (fun b => valueBlock es marks (pats.getD b 0) (blks.getD b []))).flatten
    let held := ((List.range 1024).map (fun b =>
      let blk := blks.getD b []
      if pats.getD b 0 = 0x7F then blk else ((marks.getD (pats.getD b 0) []).map (fun q => blk.getD q 0)))).flatten
    let st := statOf F held
    let s1 := s.pruneWrite k (dBase r.dst) vals
    let s2 := s1.pruneWrite k md (present (pats.map (BitVec.ofNat 8)))
    let s3 := s2.pruneWrite k (md + 1032) (present (leBytes 2 esc.length ++ leBytes 54 0))
    let s4 := if esc.isEmpty then s3 else s3.pruneWrite k ea (present escBytes)
    let s5 := if dHdrv r.dst then s4.pruneWrite k (dHdr r.dst 0) (present (tileHdrBytes r.fmt st false none 128 128 0)) else s4
    (if st.nonfin then s5.report k 2 (r.inSpan && (s5.proc k).span.isSome) .nonfinite else s5, false)

/-- The pruning unit finishes its oldest request, and the tag completes. An uncorrectable source word ends it with an error
and nothing written, as a transfer's does (Table 5.7). -/
def execPruningUnitComplete (c : ClusterId) (s : State) : Host.Outcome State Fault Refusal :=
  .next (
    let cl := clKey c
    match (s.cluster cl).prune with
    | [] => s
    | r :: rest =>
      let k := 9 * cl + r.core
      if !s.polderOn (cl / 10) || s.safety.fence then s
      else
        let s1 := s.setCluster cl { s.cluster cl with prune := rest }
        let (s2, rows, bad) := s1.pruneRows k r.src
        let (s2, unc) := if r.form = 1 then s2.readMeta k [(dMd r.dst, 1088)] else (s2, false)
        if bad || unc then s2.tagDone k r.tag true
        else if r.form = 2 then
          let ws := rows.map (fun xs => leBytes 16 (bitmapWord (Fmt.of r.fmt) xs))
          (s2.pruneWrite k (dBase r.dst) (present ws.flatten)).tagDone k r.tag false
        else
          let (s3, err) := s2.pruneTile k r rows
          s3.tagDone k r.tag err)

/-! ## `smerge` -/

/-- How a merge ends: outputs so far, in order; the second count or list; and the fault met, its sub-cause and index. -/
structure MergeRes where
  out   : List Nat
  uniq  : List Nat
  fault : Option (Nat × Nat)
  deriving DecidableEq, Repr

/-- Is the head of a stream faulty: at or above the extent (0), or out of order (1; `strict` forbids equals). -/
def headFault (x : Nat) (strict : Bool) (prev : Option Nat) (h : Nat) : Option (Nat × Nat) :=
  if h ≥ x then some (0, h)
  else match prev with
    | none => none
    | some q => if h < q || (strict && h == q) then some (1, h) else none

/-- The first fault of a strictly ascending stream from an entry on. -/
def restFault (x : Nat) : Option Nat → List Nat → Option (Nat × Nat)
  | _, [] => none
  | prev, b :: bs => match headFault x true prev b with | some t => some t | none => restFault x (some b) bs

/-- Match (Table 4.4): each entry of A gives the position of its index in B, or 0xFFFF_FFFF. `j` is the position of B's
head; what A leaves of B is checked too (R152). -/
def mergeMatch (x : Nat) : Nat → List Nat → List Nat → Nat → Option Nat → Option Nat → List Nat → MergeRes
  | 0, _, _, _, _, _, out => ⟨out.reverse, [], none⟩
  | _ + 1, [], bs, _, _, pb, out => ⟨out.reverse, [], restFault x pb bs⟩
  | n + 1, a :: as, bs, j, pa, pb, out =>
    match headFault x false pa a with
    | some t => ⟨out.reverse, [], some t⟩
    | none =>
      match bs with
      | [] => mergeMatch x n as [] j (some a) pb (0xFFFFFFFF :: out)
      | b :: bt =>
        match headFault x true pb b with
        | some t => ⟨out.reverse, [], some t⟩
        | none =>
          if a = b then mergeMatch x n as bs j (some a) pb (j :: out)
          else if a < b then mergeMatch x n as bs j (some a) pb (0xFFFFFFFF :: out)
          else mergeMatch x n (a :: as) bt (j + 1) pa (some b) out

/-- Coalesce: the unique indices, and each entry's position among them. -/
def mergeCoalesce (x : Nat) : List Nat → Option Nat → List Nat → List Nat → MergeRes
  | [], _, out, uniq => ⟨out.reverse, uniq.reverse, none⟩
  | a :: as, prev, out, uniq =>
    match headFault x false prev a with
    | some t => ⟨out.reverse, uniq.reverse, some t⟩
    | none =>
      if prev = some a then mergeCoalesce x as prev ((uniq.length - 1) :: out) uniq
      else mergeCoalesce x as (some a) (uniq.length :: out) (a :: uniq)

/-- Union: one entry per index present in either stream, with where it is present. -/
def mergeUnion (x : Nat) : Nat → List Nat → List Nat → Option Nat → Option Nat → List Nat → MergeRes
  | 0, _, _, _, _, out => ⟨out.reverse, [], none⟩
  | n + 1, as, bs, pa, pb, out =>
    let fa := match as with | [] => none | a :: _ => headFault x true pa a
    let fb := match bs with | [] => none | b :: _ => headFault x true pb b
    match fa, fb with
    | some t, _ => ⟨out.reverse, [], some t⟩
    | none, some t => ⟨out.reverse, [], some t⟩
    | none, none =>
      match as, bs with
      | [], [] => ⟨out.reverse, [], none⟩
      | a :: at', [] => mergeUnion x n at' [] (some a) pb ((a + 2 ^ 32) :: out)
      | [], b :: bt => mergeUnion x n [] bt pa (some b) ((b + 2 ^ 33) :: out)
      | a :: at', b :: bt =>
        if a = b then mergeUnion x n at' bt (some a) (some b) ((a + 3 * 2 ^ 32) :: out)
        else if a < b then mergeUnion x n at' bs (some a) pb ((a + 2 ^ 32) :: out)
        else mergeUnion x n as bt pa (some b) ((b + 2 ^ 33) :: out)

/-- The checks of `smerge` at issue: index-stream descriptors, an input's length, alignment, room for the outputs, the record's
alignment (R32, R149, R233, R246). -/
def smergeTrap (op : Nat) (f : BitVec 57) (a b o : Desc) (rec : Word) : Option Trp :=
  let need := dCount a + (if op = 2 then dCount b else 0)
  let kind (r : Nat) (d : Desc) (input : Bool) : Option Trp :=
    firstTrap [when' (dKind d != 2 || (input && dCount d > 2 ^ 24)) (dTrap r), when' (!knownFmts.contains (dFmt d)) (fmtTrap (dFmt d))]
  let al (r : Nat) (d : Desc) (n : Nat) : Option Trp := when' ((dBase d).toNat % n != 0) (dTrap r)
  firstTrap [kind (lD1 f) a true, kind (lD2 f) b (op != 1), kind (lD3 f) o false, al (lD1 f) a 4, al (lD2 f) b 4,
    al (lD3 f) o (if op = 2 then 8 else 4), when' (dCount o < need) (dTrap (lD3 f)),
    when' (op == 1 && dCount b < dCount a) (dTrap (lD2 f)), when' (rec.toNat % 16 != 0) (opTrap rec)]

/-- The 32-bit entries of an index stream. -/
def State.indices (s : State) (d : Desc) : List Nat :=
  (List.range (dCount d)).map (fun i => s.natAt ((dBase d) + BitVec.ofNat 64 (4 * i)).toNat 4)

/-- Write a merge's outputs as far as it came, and its result record (R149). -/
def State.mergeWrite (s : State) (k op : Nat) (f : BitVec 57) (r : MergeRes) (na : Nat) : State :=
  let p := s.proc k
  let w := if op = 2 then 8 else 4
  let s1 := s.pruneWrite k (dBase (p.getD (lD3 f))) (present (r.out.map (leBytes w)).flatten)
  let s2 := if op = 1 then s1.pruneWrite k (dBase (p.getD (lD2 f))) (present (r.uniq.map (leBytes 4)).flatten) else s1
  match r.fault with
  | some _ => s2.setPondBit k (p.getS (lRa f) + 8) 1
  | none =>
    let hits := (r.out.filter (· != 0xFFFFFFFF)).length
    let c := if op = 0 then (hits, na - hits) else if op = 1 then (r.uniq.length, na - r.uniq.length) else (r.out.length, 0)
    s2.pruneWrite k (p.getS (lRa f)) (present (leBytes 4 c.1 ++ leBytes 4 c.2 ++ leBytes 8 0))

/-- Index merge. It issues alone and completes before it retires, so its faults are precise (R150, R152). -/
def State.smerge (s : State) (u : UnitId) (f : BitVec 57) (op : Nat) : State :=
  let k := unitKey u
  s.issue64 k 0x6D f (isCore k && lOk f ['1', '2', '3', 'a'] 3 && lFlags f == op)
    [.d (lD1 f), .d (lD2 f), .d (lD3 f), .s (lRa f)] (fun s1 =>
    let p := s1.proc k
    let a := p.getD (lD1 f)
    let b := p.getD (lD2 f)
    let o := p.getD (lD3 f)
    let rec' := p.getS (lRa f)
    let w := if op = 2 then 8 else 4
    if s1.storesOut k then s1
    else match smergeTrap op f a b o rec' with
      | some t => s1.trap k t.1 t.2.1 t.2.2 false
      | none =>
        let outLen := w * (dCount a + (if op = 2 then dCount b else 0))
        let bLen := 4 * (if op = 1 then dCount a else dCount b)
        match refusedIn k [(dBase a, 4 * dCount a), (dBase b, bLen), (dBase o, outLen), (rec', 16)] with
        | some w => s1.addrTrap k 0 w false
        | none =>
          let (s2, e1) := s1.eccRead (dBase a) (4 * dCount a) (uidUnit k)
          let (s3, e2) := if op = 1 then (s2, none) else s2.eccRead (dBase b) (4 * dCount b) (uidUnit k)
          match e1.or e2 with
          | some w => s3.trap k causePond 0 (BitVec.ofNat 64 w) false
          | none =>
            let xs := s3.indices a
            let ys := if op = 1 then [] else s3.indices b
            let n := xs.length + ys.length + 1
            let r := if op = 0 then mergeMatch (dX a) n xs ys 0 none none []
              else if op = 1 then mergeCoalesce (dX a) xs none [] []
              else mergeUnion (dX a) n xs ys none none []
            let s4 := s3.mergeWrite k op f r xs.length
            match r.fault with
            | some (sub, x) => s4.sparseFault k 2 sub (BitVec.ofNat 64 x) none
            | none => s4.retire k (s4.proc k) 8 false 1)

def execSmergeMatch (u : UnitId) (f : BitVec 57) (s : State) : Host.Outcome State Fault Refusal := .next (s.smerge u f 0)
def execSmergeCoalesce (u : UnitId) (f : BitVec 57) (s : State) : Host.Outcome State Fault Refusal := .next (s.smerge u f 1)
def execSmergeUnion (u : UnitId) (f : BitVec 57) (s : State) : Host.Outcome State Fault Refusal := .next (s.smerge u f 2)

end Sys2Proof.Machine
end

