-- ==== Sys2Proof/Machine/Tick.lean ====
section
/-! DEFINITION. One cycle of the 100 MHz reference: the reference counts, and with it the counters of Tables 20.2 and 20.3 that count
work-clock cycles of a state which the model holds. -/

namespace Sys2Proof.Machine

/-- Work-clock cycles of a polder in the next reference cycle (R502). -/
def State.acTick (s : State) (p : Nat) : Nat := (s.polder p).acNow (s.ref + 1) - (s.polder p).acNow s.ref

/-- Cores of cluster `c` that wait in `bar` (R248), by program core number. -/
def State.barCores (s : State) (c : Nat) : List Nat :=
  ((List.range 9).filter (fun i => (s.proc (9 * c + i)).inBar.isSome)).map (progOf (s.cluster c))

/-- Events 0x01 and 0x1F of Table 20.2 in `n` cycles of cluster `c`. -/
def State.tickCluster (s : State) (c n : Nat) : State :=
  (s.barCores c).foldl (fun s i => s.countCl c 0x1F i 2 n) (s.countCl c 0x01 15 2 n)

/-- The waits of a Spring on gate words and on seals, in ac (Table 20.3). -/
def State.tickSpring (s : State) (k n : Nat) : State :=
  let w := (s.spring k).waves
  let s1 := if w.any (fun x => decide (x.phase = .gate)) then s.countEmb k 4 n else s
  if w.any (fun x => decide (x.phase = .seal)) then s1.countEmb k 5 n else s1

/-- The wait of an update engine in `useal`, in ac (Table 20.3). -/
def State.tickUe (s : State) (k n : Nat) : State :=
  if (s.ue k).waiting.isSome then s.countEmb (76 + k) 5 n else s

/-- The reference advances by one cycle. -/
def State.tick (s : State) : State :=
  let s1 := (s.clusters.map Prod.fst).foldl (fun t c => t.tickCluster c (s.acTick (c / 10))) s
  let s2 := (s.springs.map Prod.fst).foldl (fun t k => t.tickSpring k (s.acTick (polderOf (sprKey + k)))) s1
  let s3 := (s.ues.map Prod.fst).foldl (fun t k => t.tickUe k (s.acTick (polderOf (ueKey + k)))) s2
  { s3 with ref := s.ref + 1 }

end Sys2Proof.Machine
end

