-- ==== Sys2Proof/Machine/Vector.lean ====
section
/-! DEFINITION. Vector and predicate instructions (06_buine_scalar_vector, R212 to R219, R222 to R227), with the
restrictions of the update profile (Table 7.9). -/

namespace Sys2Proof.Machine

open Sys2Proof

/-- Fields of format VA (Table 6.2). -/
def vaVd (f : BitVec 25) : Nat := fld f 7 5
def vaVa (f : BitVec 25) : Nat := fld f 12 5
def vaVb (f : BitVec 25) : Nat := fld f 17 5
def vaPg (f : BitVec 25) : Nat := fld f 22 3
def vaFm (f : BitVec 25) : Nat := fld f 25 2
def vaRm (f : BitVec 25) : Nat := fld f 27 3
def vaMz (f : BitVec 25) : Bool := fld f 31 1 == 1

/-- A VA word that a unit accepts: bit 30 zero, no stream profile, FM = 2 in the update profile (Table 7.9). -/
def vaOk (k : Nat) (f : BitVec 25) : Bool :=
  fld f 30 1 == 0 && (isCore k || (isUe k && vaFm f == 2))

def vregs (f : BitVec 25) : List Reg := [.v (vaVd f), .v (vaVa f), .v (vaVb f)]

/-- Does OP 0x20 + op round (Table 6.5)? -/
def vfRounds (op : Nat) : Bool := op ≤ 4 || (7 ≤ op && op ≤ 9)

/-- One element of OP 0x20 + op; none for a reserved sub-operation. -/
def vfElem (op rm fm : Nat) (mode : Option Nat) (x y z r : Nat) : Option FRes :=
  let F := Fmt.of fm
  match op with
  | 0 => mode.map (fun m => fpAdd F m x y r)
  | 1 => mode.map (fun m => fpSub F m x y r)
  | 2 => mode.map (fun m => fpMul F m x y r)
  | 3 => mode.map (fun m => fpDiv F m x y r)
  | 4 => mode.map (fun m => fpSqrt F m x r)
  | 5 => if rm ≤ 1 then some (fpMinMax F false (rm == 1) x y) else none
  | 6 => if rm ≤ 1 then some (fpMinMax F true (rm == 1) x y) else none
  | 7 => mode.map (fun m => fpFma F m false false x y z r)
  | 8 => mode.map (fun m => fpFma F m false true x y z r)
  | 9 => mode.map (fun m => fpFma F m true false x y z r)
  | _ =>
    match rm with
    | 0 => some ⟨x % F.signBit, 0⟩
    | 1 => some ⟨fpNeg F x, 0⟩
    | 2 => some ⟨x % F.signBit + y / F.signBit % 2 * F.signBit, 0⟩
    | _ => none

/-- Element results over a register's element count; none if any is reserved (the code is the same for all). -/
def mapElems (n : Nat) (g : Nat → Option FRes) : Option (List FRes) := (List.range n).mapM g

def execVectorFloatingPoint (u : UnitId) (op : Fin 11) (f : BitVec 25) (s : State) :
    Host.Outcome State Fault Refusal :=
  .next (s.runInstr (unitKey u) (vregs f) true (fun p =>
    let k := (unitKey u)
    let w := fmtWidth (vaFm f)
    let n := 512 / w
    let mode := rmMode p (vaRm f)
    let a := elems w (p.getV (vaVa f))
    let b := elems w (p.getV (vaVb f))
    let d := elems w (p.getV (vaVd f))
    let (ds, p1) := p.draws k true (if vfRounds op.val then mode.getD 0 else 0) n
    let bad := illegal32 (0x20 + op.val) f
    if !vaOk k f || (op.val == 4 && vaVb f != 0) then bad
    else match mapElems n (fun i => vfElem op.val (vaRm f) (vaFm f) mode (elemAt a i) (elemAt b i) (elemAt d i) (elemAt ds i)) with
      | none => bad
      | some rs =>
        let pg := p.getP (vaPg f)
        .ok ((p1.raise (activeFlags pg rs)).setV (vaVd f) (ofElems w (mergeElems pg (vaMz f) d (rs.map (·.bits)))))))

/-- A condition of `vcmp` (R216). -/
def vcmpCond (rm : Nat) : Option (FCmp × Bool) :=
  match rm with
  | 0 => some (.eq, false)
  | 1 => some (.ne, false)
  | 2 => some (.lt, true)
  | 3 => some (.le, true)
  | 4 => some (.un, false)
  | 5 => some (.lt, false)
  | 6 => some (.le, false)
  | _ => none

/-- The value of bits given lowest first. -/
def bitsVal (bs : List Bool) : Nat := bs.foldr (fun b acc => (if b then 1 else 0) + 2 * acc) 0

def execVcmp (u : UnitId) (f : BitVec 25) (s : State) : Host.Outcome State Fault Refusal :=
  .next (s.runInstr (unitKey u) [.v (vaVa f), .v (vaVb f)] true (fun p =>
    let w := fmtWidth (vaFm f)
    let n := 512 / w
    let a := elems w (p.getV (vaVa f))
    let b := elems w (p.getV (vaVb f))
    let pg := p.getP (vaPg f)
    let pd := vaVd f
    let old := p.getP pd
    if !vaOk (unitKey u) f || pd ≥ 8 then illegal32 0x2B f
    else match vcmpCond (vaRm f) with
      | none => illegal32 0x2B f
      | some (c, sig) =>
        let rs := (List.range n).map (fun i => fpCmp (Fmt.of (vaFm f)) c sig (elemAt a i) (elemAt b i))
        let fl := activeFlags pg (rs.map (fun r => ⟨0, r.2⟩))
        let bit (i : Nat) : Bool :=
          if i < n && active pg i then (rs.getD i (false, 0)).1 else !vaMz f && old.getLsbD i
        .ok ((p.raise fl).setP pd (BitVec.ofNat 64 (bitsVal ((List.range 64).map bit))))))

/-- One lane of OP 0x30 + op (R217); none for a reserved sub-operation. -/
def viLane (op rm w x y : Nat) : Option Nat :=
  let a := BitVec.ofNat w x
  let b := BitVec.ofNat w y
  let sh := y % w
  match op with
  | 0 => if rm = 0 then some (a + b).toNat else none
  | 1 => if rm = 0 then some (a - b).toNat else none
  | 2 =>
    match rm with
    | 0 => some (a &&& b).toNat
    | 1 => some (a ||| b).toNat
    | 2 => some (a ^^^ b).toNat
    | 3 => some (a &&& ~~~b).toNat
    | _ => none
  | _ =>
    match rm with
    | 0 => some (a <<< sh).toNat
    | 1 => some (a >>> sh).toNat
    | 2 => some (a.sshiftRight sh).toNat
    | _ => none

def execVectorInteger (u : UnitId) (op : Fin 4) (f : BitVec 25) (s : State) : Host.Outcome State Fault Refusal :=
  .next (s.runInstr (unitKey u) (vregs f) true (fun p =>
    let w := fmtWidth (vaFm f)
    let n := 512 / w
    let a := elems w (p.getV (vaVa f))
    let b := elems w (p.getV (vaVb f))
    let bad := illegal32 (0x30 + op.val) f
    if !vaOk (unitKey u) f || vaFm f < 2 then bad
    else match (List.range n).mapM (fun i => viLane op.val (vaRm f) w (elemAt a i) (elemAt b i)) with
      | none => bad
      | some rs =>
        .ok (p.setV (vaVd f) (ofElems w (mergeElems (p.getP (vaPg f)) (vaMz f) (elems w (p.getV (vaVd f))) rs)))))

/-- The registers that a vector move names: vector or scalar by position (Table 6.6). -/
def vmoveRegs (f : BitVec 25) : List Reg :=
  [.v (vaVd f), .v (vaVa f), .v (vaVb f), .s (vaVa f), .s (vaVd f)]

def execVectorMove (u : UnitId) (f : BitVec 25) (s : State) : Host.Outcome State Fault Refusal :=
  .next (s.runInstr (unitKey u) (vmoveRegs f) true (fun p =>
    let w := fmtWidth (vaFm f)
    let n := 512 / w
    let vd := vaVd f
    let idx := vaVb f
    let pg := p.getP (vaPg f)
    let a := elems w (p.getV (vaVa f))
    let b := elems w (p.getV (vaVb f))
    let d := elems w (p.getV vd)
    let low := (p.getS (vaVa f)).toNat % 2 ^ w
    let bad := illegal32 0x37 f
    if !vaOk (unitKey u) f then bad
    else match vaRm f with
      | 0 => .ok (p.setV vd (ofElems w (mergeElems pg (vaMz f) d (List.replicate n low))))
      | 1 =>
        if vaMz f || idx ≥ n then bad
        else .ok (if active pg idx then p.setV vd (ofElems w (d.set idx low)) else p)
      | 2 =>
        if vaMz f || vaPg f != 0 || idx ≥ n then bad
        else .ok (p.setS vd (BitVec.ofNat 64 (elemAt a idx)))
      | 3 =>
        if vaMz f then bad
        else .ok (p.setV vd (ofElems w ((List.range n).map (fun i => if active pg i then elemAt a i else elemAt b i))))
      | 4 => .ok (p.setV vd (ofElems w (mergeElems pg (vaMz f) d a)))
      | _ => bad))

/-- One level of a reduction: neighbours combined, the draws used in order (R219). -/
def redLevel (g : Nat → Nat → Nat → FRes) : List Nat → List Nat → List FRes × List Nat
  | x :: y :: r, ds =>
    let d := ds.headD 0
    let (rest, ds') := redLevel g r ds.tail
    (g x y d :: rest, ds')
  | _, ds => ([], ds)

/-- All levels: the last element, and the flags of every operation. -/
def redAll (g : Nat → Nat → Nat → FRes) : Nat → List Nat → List Nat → Flg → FRes
  | 0, xs, _, fl => ⟨elemAt xs 0, fl⟩
  | n + 1, xs, ds, fl =>
    if xs.length ≤ 1 then ⟨elemAt xs 0, fl⟩
    else
      let (rs, ds') := redLevel g xs ds
      redAll g n (rs.map (·.bits)) ds' (fl ||| flagsOf rs)

/-- The operation and the identity of a reduction (R219). -/
def redOp (F : Fmt) (rm mode : Nat) : Option ((Nat → Nat → Nat → FRes) × Nat) :=
  match rm with
  | 0 => some (fun x y r => fpAdd F mode x y r, F.signBit)
  | 1 => some (fun x y _ => fpMinMax F true false x y, F.signBit + F.inf)
  | 2 => some (fun x y _ => fpMinMax F false false x y, F.inf)
  | _ => none

def execVectorReduction (u : UnitId) (f : BitVec 25) (s : State) : Host.Outcome State Fault Refusal :=
  .next (s.runInstr (unitKey u) [.v (vaVd f), .v (vaVa f)] true (fun p =>
    let k := (unitKey u)
    let F := Fmt.of (vaFm f)
    let w := F.width
    let n := 512 / w
    let mode := p.nround.toNat
    let a := elems w (p.getV (vaVa f))
    let pg := p.getP (vaPg f)
    let (ds, p1) := p.draws k true (if vaRm f = 0 then mode else 0) (n - 1)
    if !vaOk k f then illegal32 0x38 f
    else match redOp F (vaRm f) mode with
      | none => illegal32 0x38 f
      | some (g, ident) =>
        let t := (List.range n).map (fun i => if active pg i then elemAt a i else ident)
        let r := redAll g 6 t ds 0
        .ok ((p1.raise r.fl).setV (vaVd f) (BitVec.ofNat 512 r.bits))))

/-! ## Predicates (Table 6.7) -/

def execPredicateOperation (u : UnitId) (f : BitVec 25) (s : State) : Host.Outcome State Fault Refusal :=
  .next (s.runInstr (unitKey u) [.s (fld f 7 5), .s (fld f 15 5)] true (fun p =>
    let fn := fld f 26 6
    let pb := fld f 23 3
    let rd := fld f 7 5
    let a := p.getP (fld f 20 3)
    let b := p.getP pb
    let x := p.getS (fld f 15 5)
    let bad := illegal32 0x35 f
    let setP (v : Word) : IRes := if rd < 8 then .ok (p.setP rd v) else bad
    if fld f 12 3 ≠ 0 || isSpring (unitKey u) || isSluice (unitKey u) then bad
    else match fn with
      | 0 => setP (a &&& b)
      | 1 => setP (a ||| b)
      | 2 => setP (a ^^^ b)
      | 3 => setP (a &&& ~~~b)
      | 4 => if pb = 0 then setP (~~~a) else bad
      | 5 => setP x
      | 6 => .ok (p.setS rd a)
      | 7 => .ok (p.setS rd (BitVec.ofNat 64 ((List.range 64).filter (fun i => a.getLsbD i)).length))
      | 8 => .ok (p.setS rd (BitVec.ofNat 64 (((List.range 64).find? (fun i => a.getLsbD i)).getD 64)))
      | 9 => setP (BitVec.ofNat 64 (2 ^ (min x.toNat 64) - 1))
      | _ => bad))

/-! ## `vcvt` (R223 to R227) -/

def typeWidth (t : Nat) : Nat :=
  match t with
  | 0 => 16 | 1 => 16 | 2 => 32 | 3 => 64 | 4 => 32 | 5 => 32 | _ => 64

/-- One conversion between types of Table 6.8. -/
def cvtElem (src dst mode x r : Nat) : FRes :=
  if dst ≥ 4 then fpToInt (Fmt.of src) mode dst x r
  else if src ≥ 4 then intToFp (Fmt.of dst) mode src x r
  else fpConv (Fmt.of src) (Fmt.of dst) mode x r

def vcvtOk (k src dst : Nat) : Bool :=
  src != dst && !(src ≥ 4 && dst ≥ 4) && typeWidth src != 4 * typeWidth dst && typeWidth dst != 4 * typeWidth src &&
    (isCore k || (isUe k && [2, 4, 5].contains src && [2, 4, 5].contains dst))

def execVcvt (u : UnitId) (f : BitVec 25) (s : State) : Host.Outcome State Fault Refusal :=
  .next (s.runInstr (unitKey u) [.v (fld f 7 5), .v (fld f 12 5)] true (fun p =>
    let k := (unitKey u)
    let src := fld f 19 3
    let dst := fld f 25 3
    let half := fld f 31 1
    let ws := typeWidth src
    let wd := typeWidth dst
    let pg := p.getP (fld f 22 3)
    let vd := fld f 7 5
    let n := 512 / max ws wd
    let s0 := if wd > ws then half * n else 0
    let d0 := if wd < ws then half * n else 0
    if fld f 17 1 ≠ 0 || !vcvtOk k src dst then illegal32 0x36 f
    else match rmMode p (fld f 28 3) with
      | none => illegal32 0x36 f
      | some mode =>
        let a := elems ws (p.getV (fld f 12 5))
        let old := elems wd (p.getV vd)
        let (ds, p1) := p.draws k true mode n
        let rs := (List.range n).map (fun i => cvtElem src dst mode (elemAt a (s0 + i)) (elemAt ds i))
        let fl := (List.range n).foldl (fun acc i =>
          if active pg (d0 + i) then acc ||| (rs.getD i ⟨0, 0⟩).fl else acc) (0 : Flg)
        let new := (List.range (512 / wd)).map (fun j =>
          if j < d0 || j ≥ d0 + n then elemAt old j
          else if active pg j then (rs.getD (j - d0) ⟨0, 0⟩).bits
          else if fld f 18 1 = 1 then 0 else elemAt old j)
        .ok ((p1.raise fl).setV vd (ofElems wd new))))

end Sys2Proof.Machine
end

