-- ==== Sys2Proof/Machine/Dispatch.lean ====
section
/-! DEFINITION. The dispatcher: one arm for each command, each arm one call of the command's meaning. -/

namespace Sys2Proof.Machine

def exec (i : Instr) (s : State) : Host.Outcome State Fault Refusal :=
  match i with
  | .integerRegisterRegister u op f => Sys2Proof.Machine.execIntegerRegisterRegister u op f s
  | .integerImmediate u f => Sys2Proof.Machine.execIntegerImmediate u f s
  | .lic u f => Sys2Proof.Machine.execLic u f s
  | .multiplyDivide u f => Sys2Proof.Machine.execMultiplyDivide u f s
  | .scalarLoad u f => Sys2Proof.Machine.execScalarLoad u f s
  | .scalarStore u f => Sys2Proof.Machine.execScalarStore u f s
  | .amoadd u f => Sys2Proof.Machine.execAmoadd u f s
  | .amoswap u f => Sys2Proof.Machine.execAmoswap u f s
  | .amocas u f => Sys2Proof.Machine.execAmocas u f s
  | .conditionalBranch u f => Sys2Proof.Machine.execConditionalBranch u f s
  | .jal u f => Sys2Proof.Machine.execJal u f s
  | .jalr u f => Sys2Proof.Machine.execJalr u f s
  | .cread u f => Sys2Proof.Machine.execCread u f s
  | .cwrite u f => Sys2Proof.Machine.execCwrite u f s
  | .tret u f => Sys2Proof.Machine.execTret u f s
  | .scalarFloatingPoint u f => Sys2Proof.Machine.execScalarFloatingPoint u f s
  | .vectorFloatingPoint u op f => Sys2Proof.Machine.execVectorFloatingPoint u op f s
  | .vcmp u f => Sys2Proof.Machine.execVcmp u f s
  | .vectorInteger u op f => Sys2Proof.Machine.execVectorInteger u op f s
  | .vectorMove u f => Sys2Proof.Machine.execVectorMove u f s
  | .vectorReduction u f => Sys2Proof.Machine.execVectorReduction u f s
  | .vld u f => Sys2Proof.Machine.execVld u f s
  | .vst u f => Sys2Proof.Machine.execVst u f s
  | .vldb u f => Sys2Proof.Machine.execVldb u f s
  | .predicateOperation u f => Sys2Proof.Machine.execPredicateOperation u f s
  | .vcvt u f => Sys2Proof.Machine.execVcvt u f s
  | .bar u f => Sys2Proof.Machine.execBar u f s
  | .tagwait u f => Sys2Proof.Machine.execTagwait u f s
  | .fence u f => Sys2Proof.Machine.execFence u f s
  | .spanBegin u f => Sys2Proof.Machine.execSpanBegin u f s
  | .spanEnd u f => Sys2Proof.Machine.execSpanEnd u f s
  | .nfmt u f => Sys2Proof.Machine.execNfmt u f s
  | .nround u f => Sys2Proof.Machine.execNround u f s
  | .nseed u f => Sys2Proof.Machine.execNseed u f s
  | .aload u f => Sys2Proof.Machine.execAload u f s
  | .astream u f => Sys2Proof.Machine.execAstream u f s
  | .aswap u f => Sys2Proof.Machine.execAswap u f s
  | .aacc u f => Sys2Proof.Machine.execAacc u f s
  | .adrain u f => Sys2Proof.Machine.execAdrain u f s
  | .adiag u f => Sys2Proof.Machine.execAdiag u f s
  | .ddld u f => Sys2Proof.Machine.execDdld u f s
  | .ddst u f => Sys2Proof.Machine.execDdst u f s
  | .ddset u f => Sys2Proof.Machine.execDdset u f s
  | .dget u f => Sys2Proof.Machine.execDget u f s
  | .dput u f => Sys2Proof.Machine.execDput u f s
  | .dcast u f => Sys2Proof.Machine.execDcast u f s
  | .dwait u f => Sys2Proof.Machine.execDwait u f s
  | .smaskPrune u f => Sys2Proof.Machine.execSmaskPrune u f s
  | .smaskKeep u f => Sys2Proof.Machine.execSmaskKeep u f s
  | .smaskBitmap u f => Sys2Proof.Machine.execSmaskBitmap u f s
  | .smergeMatch u f => Sys2Proof.Machine.execSmergeMatch u f s
  | .smergeCoalesce u f => Sys2Proof.Machine.execSmergeCoalesce u f s
  | .smergeUnion u f => Sys2Proof.Machine.execSmergeUnion u f s
  | .aloadCaptureComplete c a flip => Sys2Proof.Machine.execAloadCaptureComplete c a flip s
  | .swapTokenAttach c a => Sys2Proof.Machine.execSwapTokenAttach c a s
  | .drainOutputWrite c a => Sys2Proof.Machine.execDrainOutputWrite c a s
  | .weirReport k => Sys2Proof.Machine.execWeirReport k s
  | .wave u f => Sys2Proof.Machine.execWave u f s
  | .gateWordPoll sp => Sys2Proof.Machine.execGateWordPoll sp s
  | .sealPoll sp => Sys2Proof.Machine.execSealPoll sp s
  | .reStreamRequest sp => Sys2Proof.Machine.execReStreamRequest sp s
  | .reStreamStart sp => Sys2Proof.Machine.execReStreamStart sp s
  | .reStreamRelease sp => Sys2Proof.Machine.execReStreamRelease sp s
  | .gopen u f => Sys2Proof.Machine.execGopen u f s
  | .gsend u f adder => Sys2Proof.Machine.execGsend u f adder s
  | .ghand u f adder => Sys2Proof.Machine.execGhand u f adder s
  | .ugrad u f => Sys2Proof.Machine.execUgrad u f s
  | .urld u f => Sys2Proof.Machine.execUrld u f s
  | .urst u f dup => Sys2Proof.Machine.execUrst u f dup s
  | .uhead u f dup => Sys2Proof.Machine.execUhead u f dup s
  | .useal u f dup => Sys2Proof.Machine.execUseal u f dup s
  | .usealWaitEnd k dup => Sys2Proof.Machine.execUsealWaitEnd k dup s
  | .udig u f dup => Sys2Proof.Machine.execUdig u f dup s
  | .routerPacketForward idx => Sys2Proof.Machine.execRouterPacketForward idx s
  | .gblkCombine idx adder => Sys2Proof.Machine.execGblkCombine idx adder s
  | .combineHoldExpiry idx => Sys2Proof.Machine.execCombineHoldExpiry idx s
  | .escapeWaitExpiry idx => Sys2Proof.Machine.execEscapeWaitExpiry idx s
  | .flitReplayRequest node port lane back err => Sys2Proof.Machine.execFlitReplayRequest node port lane back err s
  | .rdRequest idx bad => Sys2Proof.Machine.execRdRequest idx bad s
  | .wrRequest idx bad => Sys2Proof.Machine.execWrRequest idx bad s
  | .amoRequest idx bad => Sys2Proof.Machine.execAmoRequest idx bad s
  | .ctlPacket idx bad => Sys2Proof.Machine.execCtlPacket idx bad s
  | .mcPacket idx bad => Sys2Proof.Machine.execMcPacket idx bad s
  | .gblkSluiceArrival idx bad adder => Sys2Proof.Machine.execGblkSluiceArrival idx bad adder s
  | .grunSluiceArrival idx bad adder => Sys2Proof.Machine.execGrunSluiceArrival idx bad adder s
  | .xtPacket idx bad => Sys2Proof.Machine.execXtPacket idx bad s
  | .rdrResponse idx bad => Sys2Proof.Machine.execRdrResponse idx bad s
  | .wackResponse idx bad => Sys2Proof.Machine.execWackResponse idx bad s
  | .amorResponse idx bad => Sys2Proof.Machine.execAmorResponse idx bad s
  | .mack idx bad => Sys2Proof.Machine.execMack idx bad s
  | .requestTimeout tid => Sys2Proof.Machine.execRequestTimeout tid s
  | .barrierUpFrame p => Sys2Proof.Machine.execBarrierUpFrame p s
  | .barrierReleaseFrame p => Sys2Proof.Machine.execBarrierReleaseFrame p s
  | .bid0Release => Sys2Proof.Machine.execBid0Release s
  | .sludoneWrite sl v => Sys2Proof.Machine.execSludoneWrite sl v s
  | .sluiceTagStall sl tag => Sys2Proof.Machine.execSluiceTagStall sl tag s
  | .clearWindowExpiry => Sys2Proof.Machine.execClearWindowExpiry s
  | .ueInboxBlock idx bad adder => Sys2Proof.Machine.execUeInboxBlock idx bad adder s
  | .gatherOpen k => Sys2Proof.Machine.execGatherOpen k s
  | .gatherClose k => Sys2Proof.Machine.execGatherClose k s
  | .gatherAck k => Sys2Proof.Machine.execGatherAck k s
  | .gatherRequest k => Sys2Proof.Machine.execGatherRequest k s
  | .lakePatrolRead k found retry => Sys2Proof.Machine.execLakePatrolRead k found retry s
  | .pondScrub k found => Sys2Proof.Machine.execPondScrub k found s
  | .flashDoorbell q tail => Sys2Proof.Machine.execFlashDoorbell q tail s
  | .flashRead q lost => Sys2Proof.Machine.execFlashRead q lost s
  | .flashWrite q full lost => Sys2Proof.Machine.execFlashWrite q full lost s
  | .flashTrim q => Sys2Proof.Machine.execFlashTrim q s
  | .flashTeeWrite q full lost => Sys2Proof.Machine.execFlashTeeWrite q full lost s
  | .flashCommandComplete q => Sys2Proof.Machine.execFlashCommandComplete q s
  | .garbageCollection ch moved erased life free => Sys2Proof.Machine.execGarbageCollection ch moved erased life free s
  | .checkpointComplete => Sys2Proof.Machine.execCheckpointComplete s
  | .groupTrailerReceive p t msgs lost good => Sys2Proof.Machine.execGroupTrailerReceive p t msgs lost good s
  | .groupRetryTimeout p => Sys2Proof.Machine.execGroupRetryTimeout p s
  | .controlRetryTimeout p => Sys2Proof.Machine.execControlRetryTimeout p s
  | .blkMessage p bad => Sys2Proof.Machine.execBlkMessage p bad s
  | .runMessage p bad => Sys2Proof.Machine.execRunMessage p bad s
  | .writeMessage p bad => Sys2Proof.Machine.execWriteMessage p bad s
  | .ackMessage p bad => Sys2Proof.Machine.execAckMessage p bad s
  | .unitMessage p bad => Sys2Proof.Machine.execUnitMessage p bad s
  | .transitMessage p => Sys2Proof.Machine.execTransitMessage p s
  | .portFail p why => Sys2Proof.Machine.execPortFail p why s
  | .laneDegraded p lane => Sys2Proof.Machine.execLaneDegraded p lane s
  | .portTraining p lock txSpare peer => Sys2Proof.Machine.execPortTraining p lock txSpare peer s
  | .portTrainingFail p => Sys2Proof.Machine.execPortTrainingFail p s
  | .laserModuleFail b => Sys2Proof.Machine.execLaserModuleFail b s
  | .bayLatchOpen b => Sys2Proof.Machine.execBayLatchOpen b s
  | .lpctlRetrain p v => Sys2Proof.Machine.execLpctlRetrain p v s
  | .lmctlBayoff b v => Sys2Proof.Machine.execLmctlBayoff b v s
  | .opticalCalibration p ser => Sys2Proof.Machine.execOpticalCalibration p ser s
  | .barrierArrivalCell p c bad => Sys2Proof.Machine.execBarrierArrivalCell p c bad s
  | .barrierReleaseCell p c bad => Sys2Proof.Machine.execBarrierReleaseCell p c bad s
  | .commitVoteCell p c bad => Sys2Proof.Machine.execCommitVoteCell p c bad s
  | .commitResultCell p c bad => Sys2Proof.Machine.execCommitResultCell p c bad s
  | .poisonCell p c bad => Sys2Proof.Machine.execPoisonCell p c bad s
  | .fenceCell p c bad => Sys2Proof.Machine.execFenceCell p c bad s
  | .faultReport p c bad => Sys2Proof.Machine.execFaultReport p c bad s
  | .restartReport p c bad => Sys2Proof.Machine.execRestartReport p c bad s
  | .restartDecision p c bad => Sys2Proof.Machine.execRestartDecision p c bad s
  | .recoveryDone p c bad => Sys2Proof.Machine.execRecoveryDone p c bad s
  | .checkpointDesignation p c bad => Sys2Proof.Machine.execCheckpointDesignation p c bad s
  | .designationReply p c bad => Sys2Proof.Machine.execDesignationReply p c bad s
  | .substitutionNotice p c bad => Sys2Proof.Machine.execSubstitutionNotice p c bad s
  | .groupBarrierTimeout bid => Sys2Proof.Machine.execGroupBarrierTimeout bid s
  | .voteTimeoutManager => Sys2Proof.Machine.execVoteTimeoutManager s
  | .resultTimeoutWorker => Sys2Proof.Machine.execResultTimeoutWorker s
  | .workerRestart => Sys2Proof.Machine.execWorkerRestart s
  | .detectionLatch parity => Sys2Proof.Machine.execDetectionLatch parity s
  | .sequencerWatchdog c => Sys2Proof.Machine.execSequencerWatchdog c s
  | .spanSignatureCompare c diff => Sys2Proof.Machine.execSpanSignatureCompare c diff s
  | .wardenLockstepFail => Sys2Proof.Machine.execWardenLockstepFail s
  | .sftestReq v => Sys2Proof.Machine.execSftestReq v s
  | .selfTestComplete failed => Sys2Proof.Machine.execSelfTestComplete failed s
  | .clockMonitorWindow p count => Sys2Proof.Machine.execClockMonitorWindow p count s
  | .pllLockLoss p => Sys2Proof.Machine.execPllLockLoss p s
  | .thermalSample p tmax => Sys2Proof.Machine.execThermalSample p tmax s
  | .vcoreSlewComplete p => Sys2Proof.Machine.execVcoreSlewComplete p s
  | .supplyExcursion p => Sys2Proof.Machine.execSupplyExcursion p s
  | .railOvercurrent p => Sys2Proof.Machine.execRailOvercurrent p s
  | .dikeClampClose p far => Sys2Proof.Machine.execDikeClampClose p far s
  | .dikePointerSlip node port lane => Sys2Proof.Machine.execDikePointerSlip node port lane s
  | .feedLoss n => Sys2Proof.Machine.execFeedLoss n s
  | .feedRestore n => Sys2Proof.Machine.execFeedRestore n s
  | .orderlyStop why => Sys2Proof.Machine.execOrderlyStop why s
  | .pdctlShut p v => Sys2Proof.Machine.execPdctlShut p v s
  | .pdctlWake p v => Sys2Proof.Machine.execPdctlWake p v s
  | .pdctlRestore p v => Sys2Proof.Machine.execPdctlRestore p v s
  | .plannedShutdown p => Sys2Proof.Machine.execPlannedShutdown p s
  | .polderWake p pass => Sys2Proof.Machine.execPolderWake p pass s
  | .powerEstimateInterval => Sys2Proof.Machine.execPowerEstimateInterval s
  | .powerAllocation meter => Sys2Proof.Machine.execPowerAllocation meter s
  | .trimUpdate est meter => Sys2Proof.Machine.execTrimUpdate est meter s
  | .capNotMet => Sys2Proof.Machine.execCapNotMet s
  | .coolantStale => Sys2Proof.Machine.execCoolantStale s
  | .pwctlWrite port v => Sys2Proof.Machine.execPwctlWrite port v s
  | .surroundingsHeatWrite port reg v => Sys2Proof.Machine.execSurroundingsHeatWrite port reg v s
  | .srtimeWrite port v => Sys2Proof.Machine.execSrtimeWrite port v s
  | .registerWrite port off size v => Sys2Proof.Machine.execRegisterWrite port off size v s
  | .rcRead port off size => Sys2Proof.Machine.execRcRead port off size s
  | .bar2Read port off len => Sys2Proof.Machine.execBar2Read port off len s
  | .bar2Write port off bytes => Sys2Proof.Machine.execBar2Write port off bytes s
  | .hwinWrite port seg v => Sys2Proof.Machine.execHwinWrite port seg v s
  | .hqcfgWrite port q v => Sys2Proof.Machine.execHqcfgWrite port q v s
  | .hqsqdbWrite port q v cmds => Sys2Proof.Machine.execHqsqdbWrite port q v cmds s
  | .hqcqdbWrite port q v => Sys2Proof.Machine.execHqcqdbWrite port q v s
  | .copyIn port q data => Sys2Proof.Machine.execCopyIn port q data s
  | .copyOut port q => Sys2Proof.Machine.execCopyOut port q s
  | .intakeDelivery port q records => Sys2Proof.Machine.execIntakeDelivery port q records s
  | .intakeWaitTimeout port q => Sys2Proof.Machine.execIntakeWaitTimeout port q s
  | .jobSubmit port q job => Sys2Proof.Machine.execJobSubmit port q job s
  | .jobStart port q => Sys2Proof.Machine.execJobStart port q s
  | .jobAmend port q stages => Sys2Proof.Machine.execJobAmend port q stages s
  | .jobEnd port q => Sys2Proof.Machine.execJobEnd port q s
  | .jobStatus port q => Sys2Proof.Machine.execJobStatus port q s
  | .checkpoint port q => Sys2Proof.Machine.execCheckpoint port q s
  | .exportHeads port q => Sys2Proof.Machine.execExportHeads port q s
  | .retrain port q => Sys2Proof.Machine.execRetrain port q s
  | .selfTest port q => Sys2Proof.Machine.execSelfTest port q s
  | .errorRecords port q => Sys2Proof.Machine.execErrorRecords port q s
  | .moduleReset port q => Sys2Proof.Machine.execModuleReset port q s
  | .jobReset port q => Sys2Proof.Machine.execJobReset port q s
  | .polderReset port q => Sys2Proof.Machine.execPolderReset port q s
  | .firmwareStage port q image => Sys2Proof.Machine.execFirmwareStage port q image s
  | .firmwareActivate port q => Sys2Proof.Machine.execFirmwareActivate port q s
  | .rollbackCommit port q => Sys2Proof.Machine.execRollbackCommit port q s
  | .certificateRead port q => Sys2Proof.Machine.execCertificateRead port q s
  | .jobKeyInstall port q key => Sys2Proof.Machine.execJobKeyInstall port q key s
  | .jobKeyErase port q => Sys2Proof.Machine.execJobKeyErase port q s
  | .openObservation port q => Sys2Proof.Machine.execOpenObservation port q s
  | .commandCompletion port q => Sys2Proof.Machine.execCommandCompletion port q s
  | .perstPortA => Sys2Proof.Machine.execPerstPortA s
  | .portReset port why => Sys2Proof.Machine.execPortReset port why s
  | .d3hotEntry port => Sys2Proof.Machine.execD3hotEntry port s
  | .poisonedWrite port off => Sys2Proof.Machine.execPoisonedWrite port off s
  | .hostReadError port q => Sys2Proof.Machine.execHostReadError port q s
  | .doeAttestationRequest port flags nonce => Sys2Proof.Machine.execDoeAttestationRequest port flags nonce s
  | .keyGenerationComplete => Sys2Proof.Machine.execKeyGenerationComplete s
  | .powerGood feeds failed => Sys2Proof.Machine.execPowerGood feeds failed s
  | .cselWrite port k n v => Sys2Proof.Machine.execCselWrite port k n v s
  | .cntctlWrite port v => Sys2Proof.Machine.execCntctlWrite port v s
  | .trctlWrite port v => Sys2Proof.Machine.execTrctlWrite port v s
  | .tracePowerLines => Sys2Proof.Machine.execTracePowerLines s
  | .eventRecordArrival => Sys2Proof.Machine.execEventRecordArrival s
  | .evselWrite port v => Sys2Proof.Machine.execEvselWrite port v s
  | .mirrorFetchComplete port => Sys2Proof.Machine.execMirrorFetchComplete port s
  | .mirrorBlockWrite status => Sys2Proof.Machine.execMirrorBlockWrite status s
  | .d3hotExit port => Sys2Proof.Machine.execD3hotExit port s
  | .groupTrailerSend p => Sys2Proof.Machine.execGroupTrailerSend p s
  | .pruningUnitComplete k => Sys2Proof.Machine.execPruningUnitComplete k s
  | .lakeInterfaceRetraining k pass => Sys2Proof.Machine.execLakeInterfaceRetraining k pass s
  | .bayLatchClose b => Sys2Proof.Machine.execBayLatchClose b s

end Sys2Proof.Machine
end

