-- ==== Sys2Proof/Safety.lean ====
section
/-! DEFINITION. What counts as a safe run of the module, and the conditions and observations that the claims are stated in. -/

namespace Sys2Proof.Machine

open Sys2Proof

/-- A step that goes on. -/
def Steps (s t : State) : Prop := step s = .next t

/-- A step never stops the module: it neither faults nor is refused. -/
def NeverStops (s : State) : Prop := ∃ t, step s = .next t

/-- Unit `k` issues an instruction of `len` bytes that names `regs`, and its bytes are fetched without an uncorrectable error
(R158, R160, R165); `s'` is the state once they are fetched. A 64-bit instruction lies on its boundary (R194). -/
structure Issues (s s' : State) (k : Nat) (regs : List Reg) (len : Nat) : Prop where
  runs  : s.canRun k = true
  free  : s.interlocked k regs = false
  fetch : s.fetch k len = (s', none)
  place : len = 8 → (s'.proc k).pc.getLsbD 2 = false

/-- The register values that an instruction of unit `k` reads: ra and rb of Table 6.2, and rd. -/
def State.ra (s : State) (k : Nat) (f : BitVec 25) : Word := (s.proc k).getS (raOf f)
def State.rb (s : State) (k : Nat) (f : BitVec 25) : Word := (s.proc k).getS (rbOf f)
def State.rd (s : State) (k : Nat) (f : BitVec 25) : Word := (s.proc k).getS (rdOf f)

/-- OP 0x01 in integers: which `x` a function code gives from `a` and `b` (Table 6.3, R199). -/
def IntResult (fn : Nat) (a b x : Word) : Prop :=
  match fn with
  | 0 => x.toNat = (a.toNat + b.toNat) % 2 ^ 64
  | 1 => x.toInt = (a.toInt - b.toInt).bmod (2 ^ 64)
  | 2 => ∀ i, x.getLsbD i = (a.getLsbD i && b.getLsbD i)
  | 3 => ∀ i, x.getLsbD i = (a.getLsbD i || b.getLsbD i)
  | 4 => ∀ i, x.getLsbD i = (a.getLsbD i ^^ b.getLsbD i)
  | 5 => ∀ i < 64, x.getLsbD i = (a.getLsbD i && !b.getLsbD i)
  | 6 => x.toNat = a.toNat * 2 ^ (b.toNat % 64) % 2 ^ 64
  | 7 => x.toNat = a.toNat / 2 ^ (b.toNat % 64)
  | 8 => x.toInt = a.toInt / 2 ^ (b.toNat % 64)
  | 9 => x.toNat = if a.toInt < b.toInt then 1 else 0
  | 10 => x.toNat = if a.toNat < b.toNat then 1 else 0
  | 11 => x.toInt = min a.toInt b.toInt
  | 12 => x.toInt = max a.toInt b.toInt
  | 13 => x.toNat = min a.toNat b.toNat
  | 14 => x.toNat = max a.toNat b.toNat
  | 16 => x.toNat ≤ 64 ∧ (∀ i < x.toNat, a.getMsbD i = false) ∧ (x.toNat < 64 → a.getMsbD x.toNat = true)
  | 17 => x.toNat ≤ 64 ∧ (∀ i < x.toNat, a.getLsbD i = false) ∧ (x.toNat < 64 → a.getLsbD x.toNat = true)
  | 18 => x.toNat = (List.range 64).countP (fun i => a.getLsbD i)
  | _ => False

/-- The function codes that Table 6.3 assigns to OP 0x01, with rb zero where it must be. -/
def intCode (f : BitVec 25) : Prop :=
  fld f 22 10 ≤ 14 ∨ (16 ≤ fld f 22 10 ∧ fld f 22 10 ≤ 18 ∧ rbOf f = 0)

/-- OP 0x02 in integers: the operations of OP 0x01 on ra and the sign-extended immediate, and the shifts by an immediate. -/
def ImmResult (fn3 imm : Nat) (a x : Word) : Prop :=
  match fn3 with
  | 0 => IntResult 0 a (sxt 12 imm) x
  | 1 => IntResult 9 a (sxt 12 imm) x
  | 2 => IntResult 10 a (sxt 12 imm) x
  | 3 => IntResult 2 a (sxt 12 imm) x
  | 4 => IntResult 3 a (sxt 12 imm) x
  | 5 => IntResult 4 a (sxt 12 imm) x
  | 6 =>
    match imm / 64 with
    | 0 => IntResult 6 a (BitVec.ofNat 64 imm) x
    | 1 => IntResult 7 a (BitVec.ofNat 64 imm) x
    | 2 => IntResult 8 a (BitVec.ofNat 64 imm) x
    | 3 => ∀ i < 64, x.getLsbD i = a.getLsbD ((i + imm) % 64)
    | _ => False
  | _ => False

/-- OP 0x04 in integers (Table 6.3, R199): products, and quotients toward zero with the results of a zero divisor. -/
def MulDivResult (fn : Nat) (a b x : Word) : Prop :=
  match fn with
  | 0 => x.toNat = a.toNat * b.toNat % 2 ^ 64
  | 1 => x.toInt = a.toInt * b.toInt / 2 ^ 64
  | 2 => x.toNat = a.toNat * b.toNat / 2 ^ 64
  | 3 => if b = 0 then x.toNat = 2 ^ 64 - 1 else x.toInt = (a.toInt.tdiv b.toInt).bmod (2 ^ 64)
  | 4 => x.toNat = if b = 0 then 2 ^ 64 - 1 else a.toNat / b.toNat
  | 5 => if b = 0 then x = a else x.toInt = a.toInt.tmod b.toInt
  | 6 => x.toNat = if b = 0 then a.toNat else a.toNat % b.toNat
  | _ => False

/-- `s` with other registers of units, clusters, trace and memory. -/
def State.coreSide (s : State) (ps : Tbl Proc) (cs : Tbl Cluster) (tr : Trace) (m : List Host.Cell) : State :=
  { s with procs := ps, clusters := cs, trace := tr, mem := m }

/-- From `s`, unit `k` has retired an instruction: its registers are `p` with the pc at `pc`; no other unit's registers, nothing but
event counters of a cluster, and nothing else of the state has changed. While the core is not traced, memory and trace are as they
were (R608 has a traced core write lines of its ring). -/
structure Retired (s t : State) (k : Nat) (p : Proc) (pc : Word) : Prop where
  regs   : t.proc k = { p with pc := pc }
  others : ∀ j, j ≠ k → t.proc j = s.proc j
  rest   : ∃ ps cs tr m, t = s.coreSide ps cs tr m
  counts : ∀ c, { t.cluster c with cnt := (s.cluster c).cnt } = s.cluster c
  mem    : s.traced k = false → t.trace = s.trace ∧ t.mem = s.mem

/-- The handler that a trap of core `k` continues at (R188). -/
def State.handler (s : State) (k : Nat) : Word := (s.proc k).tvec &&& ~~~(63#64)

/-- Core `k` has a usable trap handler: it is not in one, TVEC is not zero, and the handler can be fetched (R188, R189). -/
structure CanTrap (s : State) (k : Nat) : Prop where
  core    : isCore k = true
  outside : (s.proc k).intrap = false
  vector  : s.handler k ≠ 0
  fetch   : s.fetchFault k (s.handler k) = none

/-- From `s`, core `k` has taken a trap (R188): TEPC, TCAUSE and TVAL written, INTRAP set, the pc at the handler, and all else as
`Retired` says. -/
def Trapped (s t : State) (k cause sub : Nat) (tval : Word) (slot1 : Bool) : Prop :=
  Retired s t k
    { s.proc k with tepc := (s.proc k).pc, cause := cause, sub := sub, slot := slot1, tval := tval, intrap := true }
    (s.handler k)

/-- Every byte of memory reads as before. -/
def State.SameMem (s t : State) : Prop := ∀ a, memByte t.mem a = memByte s.mem a

/-- Every byte outside `n` bytes at key `k` reads as before. -/
def State.SameMemOutside (s t : State) (k n : Nat) : Prop :=
  ∀ a, a < k ∨ k + n ≤ a → memByte t.mem a = memByte s.mem a

/-! ## Conditions of branches, loads and vector instructions, said of integers and elements -/

/-- The condition of a branch (R201). -/
def BranchHolds (cond : Nat) (a b : Word) : Prop :=
  match cond with
  | 0 => a = b
  | 1 => a ≠ b
  | 2 => a.toInt < b.toInt
  | 3 => b.toInt ≤ a.toInt
  | 4 => a.toNat < b.toNat
  | _ => b.toNat ≤ a.toNat

/-- The value of a scalar load that does not convert, from the number `n` that its bytes hold (R204). -/
def LoadResult (fn3 n : Nat) (x : Word) : Prop :=
  match fn3 with
  | 0 => x.toInt = (BitVec.ofNat 8 n).toInt
  | 1 => x.toInt = (BitVec.ofNat 16 n).toInt
  | 2 => x.toInt = (BitVec.ofNat 32 n).toInt
  | _ => x.toNat = n

/-- An access of `n` bytes at `a` that unit `k` performs without the mesh, granted and ready (R182, R648); no error is stored in a
pond word. -/
structure LocalAccess (s : State) (k : Nat) (a : Word) (n align : Nat) (write : Bool) : Prop where
  near    : localTo k a = true
  granted : s.accessFault k a n align write = none
  ready   : s.hazard k a n write = false
  clean   : s.pondMark = []

/-- Element `i` of width `w` of a vector register. -/
def elemOf (w : Nat) (v : VReg) (i : Nat) : Nat := v.toNat / 2 ^ (w * i) % 2 ^ w

/-- The flags that the active ones of `n` results raise together (R37, R212). -/
def FlagsOfActive (n : Nat) (pg : Word) (g : Nat → FRes) (fl : Flg) : Prop :=
  ∀ i, fl.getLsbD i = true ↔ ∃ j, j < n ∧ pg.getLsbD j = true ∧ (g j).fl.getLsbD i = true

/-- A scalar floating-point function code (Table 6.4): result `v` and flags `fl` from ra as it stands (`a`), ra, rb and rd in the format
(`x`, `y`, `z`), the mode and a draw. -/
def SfResult (fm fn rm rb m : Nat) (a : Word) (x y z r v : Nat) (fl : Flg) : Prop :=
  let F := Fmt.of (2 + fm)
  match fn with
  | 0 => fpAdd F m x y r = ⟨v, fl⟩
  | 1 => fpSub F m x y r = ⟨v, fl⟩
  | 2 => fpMul F m x y r = ⟨v, fl⟩
  | 3 => fpDiv F m x y r = ⟨v, fl⟩
  | 4 => rb = 0 ∧ fpSqrt F m x r = ⟨v, fl⟩
  | 5 => rm = 0 ∧ fpMinMax F false false x y = ⟨v, fl⟩
  | 6 => rm = 0 ∧ fpMinMax F true false x y = ⟨v, fl⟩
  | 7 => rm = 0 ∧ fpMinMax F false true x y = ⟨v, fl⟩
  | 8 => rm = 0 ∧ fpMinMax F true true x y = ⟨v, fl⟩
  | 9 => fpFma F m false false x y z r = ⟨v, fl⟩
  | 10 => fpFma F m false true x y z r = ⟨v, fl⟩
  | 11 => fpFma F m true false x y z r = ⟨v, fl⟩
  | 16 => rm = 0 ∧ v ≤ 1 ∧ fpCmp F .eq false x y = (v == 1, fl)
  | 17 => rm = 0 ∧ v ≤ 1 ∧ fpCmp F .lt true x y = (v == 1, fl)
  | 18 => rm = 0 ∧ v ≤ 1 ∧ fpCmp F .le true x y = (v == 1, fl)
  | 19 => rm = 0 ∧ v ≤ 1 ∧ fpCmp F .un false x y = (v == 1, fl)
  | 20 => rm = 0 ∧ rb = 0 ∧ fl = 0 ∧ v = fpClass F x
  | 24 => (2 ≤ rb ∧ rb ≤ 3 ∧ rb ≠ 2 + fm ∧ fpConv F (Fmt.of rb) m x r = ⟨v, fl⟩) ∨
      (rb = 4 ∧ (fpToInt F m rb x r).fl = fl ∧ v = ((BitVec.ofNat 32 (fpToInt F m rb x r).bits).signExtend 64).toNat) ∨
      (5 ≤ rb ∧ rb ≤ 7 ∧ fpToInt F m rb x r = ⟨v, fl⟩)
  | 25 => 4 ≤ rb ∧ rb ≤ 7 ∧ intToFp F m rb a.toNat r = ⟨v, fl⟩
  | _ => False

/-- One element of OP 0x20 + op (Table 6.5). -/
def VfResult (op rm : Nat) (F : Fmt) (m x y z r : Nat) (g : FRes) : Prop :=
  match op with
  | 0 => g = fpAdd F m x y r
  | 1 => g = fpSub F m x y r
  | 2 => g = fpMul F m x y r
  | 3 => g = fpDiv F m x y r
  | 4 => g = fpSqrt F m x r
  | 5 => rm ≤ 1 ∧ g = fpMinMax F false (rm == 1) x y
  | 6 => rm ≤ 1 ∧ g = fpMinMax F true (rm == 1) x y
  | 7 => g = fpFma F m false false x y z r
  | 8 => g = fpFma F m false true x y z r
  | 9 => g = fpFma F m true false x y z r
  | _ => g.fl = 0 ∧ ((rm = 0 ∧ g.bits = x % F.signBit) ∨ (rm = 1 ∧ g.bits = fpNeg F x) ∨
      (rm = 2 ∧ g.bits = x % F.signBit + y / F.signBit % 2 * F.signBit))

/-- R219: `xs` reduces to `v`: while more than one element is left, element 2i and element 2i + 1 are combined, the operations taking
the draws of `ds` from place `d` on in order; `fl` collects their flags. -/
inductive Reduces (g : Nat → Nat → Nat → FRes) (ds : List Nat) : Nat → List Nat → Nat → Flg → Prop
  | one (d v : Nat) : Reduces g ds d [v] v 0
  | level (d : Nat) (xs ys : List Nat) (v : Nat) (fl gl : Flg) (half : xs.length = 2 * ys.length) (more : 2 ≤ xs.length)
      (comb : ∀ i < ys.length, ys[i]? = some (g (elemAt xs (2 * i)) (elemAt xs (2 * i + 1)) (elemAt ds (d + i))).bits)
      (flags : ∀ b, gl.getLsbD b = true ↔
        ∃ i, i < ys.length ∧ (g (elemAt xs (2 * i)) (elemAt xs (2 * i + 1)) (elemAt ds (d + i))).fl.getLsbD b = true)
      (rest : Reduces g ds (d + ys.length) ys v fl) : Reduces g ds d xs v (gl ||| fl)

/-- The headers of the blocks that `n` vectors of an operand lie in, as memory holds them (R99, R232), and whether the operand accepts
them: a FOLLOW operand formats 0 and 1, any other only its own (R103, R260). -/
def State.hdrsOf (s : State) (d : Desc) (n : Nat) : List TileHdr :=
  (List.range (blocksOf n)).map (fun m => tileHdr (s.bytesAt (dHdr d m).toNat 16))
def State.HdrsFit (s : State) (d : Desc) (n fmt : Nat) : Prop :=
  ∀ h ∈ s.hdrsOf d n, if dFollow d then h.fmt ≤ 1 else h.fmt = fmt

/-- An array instruction of core `k` has left its sequencer: the pc past it, no scalar, vector, predicate or descriptor register
changed, no other unit's registers, and no byte of memory but the trace's. -/
structure ArrIssued (s t : State) (k : Nat) : Prop where
  pc     : (t.proc k).pc = (s.proc k).pc + 8
  regs   : ∀ r, (t.proc k).getS r = (s.proc k).getS r ∧ (t.proc k).getV r = (s.proc k).getV r ∧
             (t.proc k).getP r = (s.proc k).getP r ∧ (t.proc k).getD r = (s.proc k).getD r
  flags  : (t.proc k).nflags = (s.proc k).nflags ∧ (t.proc k).nf = (s.proc k).nf ∧ (t.proc k).span = (s.proc k).span
  others : ∀ j, j ≠ k → t.proc j = s.proc j
  mem    : s.traced k = false → t.mem = s.mem

/-- An operation of array `a` as its instruction leaves it: its kind, formats, count and mode, with the seed, step and counter of
the moment (R50), granted and not begun. -/
structure OpOf (p : Proc) (a : Nat) (o : ArrOp) (kind : ArrKind) (fmt out n mode : Nat) : Prop where
  kind  : o.kind = kind
  fmts  : o.fmt = fmt ∧ o.out = out
  count : o.n = n ∧ o.pos = 0 ∧ o.fail = false
  round : o.mode = mode ∧ o.seed = p.seedJob ∧ o.step = p.seedStep.toNat ∧ o.ctr = if a = 0 then p.ctrA0 else p.ctrA1
  span  : o.inSpan = p.span.isSome ∧ o.bound = boundNow p

/-- The counter of array `a`'s drain has moved by `n` draws, the other's not (R44). -/
def Drew (p q : Proc) (a n : Nat) : Prop :=
  q.ctrA0 = (if a = 0 then p.ctrA0 + BitVec.ofNat 64 n else p.ctrA0) ∧
    q.ctrA1 = (if a = 0 then p.ctrA1 else p.ctrA1 + BitVec.ofNat 64 n)

/-- The exact product of two finite binary16 data in units of 2^−48 (R54). -/
def prod48 (x y : Nat) : Int :=
  (unpack (Fmt.of 0) x).int * (unpack (Fmt.of 0) y).int *
    2 ^ ((unpack (Fmt.of 0) x).exp + (unpack (Fmt.of 0) y).exp + 48).toNat

/-- Elements of `new` and `old` as predication merges them (R212): an active element is `g i`; an inactive one keeps its value, or is
zero when `mz`. -/
def Merged (w : Nat) (pg : Word) (mz : Bool) (old new : VReg) (g : Nat → Nat) : Prop :=
  ∀ i, i < 512 / w → elemOf w new i = if pg.getLsbD i then g i else if mz then 0 else elemOf w old i

/-- A lane of `viadd`, `visub`, logic and shifts (R217). -/
def LaneResult (op rm w x y r : Nat) : Prop :=
  match op, rm with
  | 0, 0 => r = (x + y) % 2 ^ w
  | 1, 0 => r = (x + (2 ^ w - y)) % 2 ^ w
  | 2, 0 => r = x &&& y
  | 2, 1 => r = x ||| y
  | 2, 2 => r = x ^^^ y
  | 2, 3 => ∀ i < w, r.testBit i = (x.testBit i && !y.testBit i)
  | 3, 0 => r = x * 2 ^ (y % w) % 2 ^ w
  | 3, 1 => r = x / 2 ^ (y % w)
  | 3, 2 => (BitVec.ofNat w r).toInt = (BitVec.ofNat w x).toInt / 2 ^ (y % w) ∧ r < 2 ^ w
  | _, _ => False

/-! ## Conditions and observations of the other agents -/

/-- No error waits in a pond word or in an access of the Lake. -/
structure State.Clean (s : State) : Prop where
  ponds : s.pondMark = []
  lake  : s.lakeMark = []

/-- Shard `sh`'s seal can be read and says `q` (R357, R358). -/
structure State.SealIs (s : State) (sh : Nat) (q : Seal) : Prop where
  good  : sealGood (s.bytesAt (sealAddr s sh).toNat 64) = true
  value : sealOf (s.bytesAt (sealAddr s sh).toNat 64) = q

/-- From `s` to `t`, shard `sh`'s seal has become `q`, and every other byte reads as before. -/
structure State.Resealed (s t : State) (sh : Nat) (q : Seal) : Prop where
  wrote : t.bytesAt (sealAddr s sh).toNat 64 = sealBytes q
  other : s.SameMemOutside t (sealAddr s sh).toNat 64

/-- From `s` to `t`, exactly one event record has been written, of this code. -/
def State.Wrote (s t : State) (code : Nat) : Prop := ∃ e, t.evrec.queue = s.evrec.queue ++ [e] ∧ e.code = code

/-- Packet `i` of the mesh is `p`, of a kind, at its destination in a polder that runs. -/
structure State.Arrived (s : State) (i : Nat) (p : Packet) (k : PKind) : Prop where
  place : s.mesh[i]? = some p
  kind  : p.kind = k
  home  : p.loc = p.dst
  fits  : p.listed = true
  runs  : s.polderOn (polderOfNode p.loc) = true

/-- `q` is the response to the request `p` (R283): of a kind, to the sender, under its identifier. -/
structure Packet.Answers (q p : Packet) (k : PKind) (status : Nat) (data : List Byte) : Prop where
  kind  : q.kind = k
  cls   : q.cls = 2
  src   : q.src = p.loc
  dst   : q.dst = p.src
  tid   : q.tid = p.tid
  code  : q.status = status
  holds : q.data = data

/-- Update engine `k` runs a parameter instruction on the 16 parameters at `off` of the owned shard `e`, whose seal `q` stands in the
phase (R351); `plane` is 0 for none, 1 for heads, 2 for state. -/
structure OnShard (s : State) (k : Nat) (f : BitVec 57) (plane : Nat) (ph : Phase) (e : UeShard) (off : Nat) (q : Seal) : Prop where
  clean : s.Clean
  idle  : s.storesOut (ueKey + k) = false
  word  : lOk f (if plane = 0 then ['a'] else ['1', 'a']) 1 = true
  offs  : off = ((s.proc (ueKey + k)).getS (lRa f)).toNat % 2 ^ 21
  shard : (s.ue k).shardOf (((s.proc (ueKey + k)).getS (lRa f)).toNat / 2 ^ 21) = some e
  owned : e.owned = true
  fits  : off % 16 = 0 ∧ off < 32 * e.nblk
  codes : plane ≠ 0 → planeTrap (lD1 f) ((s.proc (ueKey + k)).getD (lD1 f)) = none
  base  : plane ≠ 0 → dBase ((s.proc (ueKey + k)).getD (lD1 f)) = if plane = 1 then e.head else e.state
  seals : s.SealIs e.shard q
  phase : (phaseOf q).1 = ph

/-- Port `p` takes the control cell `c`, which is for this engine: it is up, and the cell is the next in order (R427, R429). -/
structure State.TakesCell (s : State) (p : Nat) (c : CtlCell) : Prop where
  up    : (s.port p).state = 2
  next  : c.cseq = (s.port p).rxCseq
  home  : c.dst = some s.group.coord

/-- From `s` to `t`, polder `p` has tripped (R517, R519, R520): rails and clocks off, the cause kept, a site marked lost, its packets
gone, the neighbours' clamps toward it closed, and a detection of this code on its way. -/
structure State.Tripped (s t : State) (p cause code : Nat) : Prop where
  off    : (t.polder p).state = 4 ∧ (t.polder p).vout = 0 ∧ (t.polder p).cause = cause
  count  : (t.polder p).trips = min ((s.polder p).trips + 1) 65535
  lost   : p < 56 → (t.polder p).lost = true
  mesh   : ∀ k ∈ t.mesh, polderOfNode k.loc ≠ p
  clamps : ∀ q ∈ polNbrs p, (s.polder q).state = 2 → p ∈ (t.polder q).clamps
  detect : ∃ d ∈ t.safety.queue, d.code = code ∧ d.src = p
  poison : (t.bar p).poison = true

/-! ## Host commands -/

/-- The command `c` with opcode `opc` is at the front of queue `q` of port `p`, which is served; no command of that opcode runs in the
queue, and a DMA engine is free for it (R562, R568). -/
structure State.Begins (s : State) (p q opc : Nat) (c : HostCmd) (rest : List HostCmd) : Prop where
  front  : ((s.hport p).queue q).cmds = c :: rest
  served : s.qServed p q = true
  code   : c.opc.toNat = opc
  idle   : ∀ r ∈ (s.hport p).running, r.q = q → r.cmd.opc.toNat ≠ opc
  engine : dmaOpc opc = true → ((s.hport p).running.filter (fun e => dmaOpc e.cmd.opc.toNat)).length < 8

/-- From `s` to `t`, the command `c` has left its queue and its completion has been formed; nothing else of the port has changed. -/
def State.Ended (s t : State) (p q : Nat) (c : HostCmd) (rest : List HostCmd) (status : Nat) (r0 r1 detail : Option Nat) : Prop :=
  t.hport p = { (s.hport p).setQueue q { (s.hport p).queue q with cmds := rest } with
    compl := (s.hport p).compl ++ [⟨q, c.cid, status, r0, r1, detail⟩] }

/-- The host reaches the `n` bytes at `a`: no part of them is refused. -/
structure State.Reaches (s : State) (p : Nat) (a : Word) (n : Nat) (write : Bool) : Prop where
  inside  : a.toNat + n ≤ 2 ^ 57
  granted : ∀ b k, a.toNat ≤ b → b + k ≤ a.toNat + n → 0 < k → s.hostRefuses p (BitVec.ofNat 64 b) k write = false

end Sys2Proof.Machine
end

