-- ==== Sys2Proof/WellFormed.lean ====
section
/-! DEFINITION. Well-formed commands: operands that the outside world can present. A command's operands of bounded type need no
check; the others are held to the widths and shapes that the spec gives them. -/

namespace Sys2Proof

/-- The major opcodes that the opcode map assigns (Tables 6.1, 7.8). -/
def opAssigned (op : Nat) : Bool :=
  let within (lo hi : Nat) : Bool := decide (lo ≤ op) && decide (op ≤ hi)
  within 0x01 0x0D || op == 0x10 || within 0x20 0x2B || within 0x30 0x33 || within 0x35 0x38 || within 0x3C 0x3E ||
    within 0x50 0x57 || within 0x60 0x6E || within 0x70 0x79

/-- The function code of an atomic operation, and the form of `smask` and `smerge`, in a command's fields. A reserved one goes with the
first. -/
def amoFn (f : BitVec 25) : Nat := (f.extractLsb' 15 10).toNat
def sForm (f : BitVec 57) : Nat := (f.extractLsb' 47 2).toNat

/-- A value of a 128 × 128 tile and a bit of its format, at most 16 bits wide (R94). -/
def flipOk (flip : Option (Nat × Nat × Nat)) : Bool :=
  match flip with
  | none => true
  | some (r, c, b) => decide (r < 128) && decide (c < 128) && decide (b < 16)

/-- The TYPE of a control cell's body, with the SUBOP below it for management cells (Tables 13.4, 14.1, 14.4). -/
def CellBody.code : CellBody → Nat
  | .arrival .. => 0x01
  | .release .. => 0x02
  | .vote .. => 0x03
  | .result .. => 0x04
  | .poison .. => 0x05
  | .fence .. => 0x06
  | .faultReport .. => 0x71
  | .restartReport .. => 0x72
  | .restartDecision .. => 0x73
  | .recoveryDone .. => 0x74
  | .designation .. => 0x75
  | .designationReply .. => 0x76
  | .substitution .. => 0x77

/-- The fields of a body fit their widths: 48-bit steps, 16-bit lengths and sources. -/
def CellBody.fits : CellBody → Bool
  | .arrival _ gen count => decide (gen < 2 ^ 32) && decide (count < 2 ^ 16)
  | .release _ gen => decide (gen < 2 ^ 32)
  | .vote step len _ => decide (step < 2 ^ 48) && decide (len < 2 ^ 32)
  | .result step _ n _ => decide (step < 2 ^ 48) && decide (n < 2 ^ 16)
  | .poison step _ src => decide (step < 2 ^ 48) && decide (src < 2 ^ 16)
  | .fence step reason => decide (step < 2 ^ 48) && decide (reason < 256)
  | .faultReport _ sev src => decide (sev < 256) && decide (src < 2 ^ 16)
  | .restartReport v _ _ _ m => decide (v < 2 ^ 48) && decide (m < 2 ^ 48)
  | .restartDecision _ v f => decide (v < 2 ^ 48) && decide (f < 2 ^ 48)
  | .recoveryDone v => decide (v < 2 ^ 48)
  | .designation step => decide (step < 2 ^ 48)
  | .designationReply step _ => decide (step < 2 ^ 48)
  | .substitution serial _ => decide (serial < 2 ^ 48)

/-- A cell of the TYPE that its command carries. -/
def CtlCell.ok (c : CtlCell) (code : Nat) : Bool := c.body.code == code && c.body.fits

/-- A PCI Express access of at most 8 bytes inside BAR0 (R549). -/
def accessOk (off size : Nat) : Bool := decide (0 < size) && decide (size ≤ 8) && decide (off + size ≤ 2 ^ 26)

/-- A PCI Express payload is 1 to 4,096 bytes. -/
def lenOk (n : Nat) : Bool := decide (0 < n) && decide (n ≤ 4096)

/-- The fields of a descriptor fit their widths. -/
def JobDesc.fits (d : JobDesc) : Bool :=
  decide (d.firstStep < 2 ^ 48) && d.stages.all (fun e => decide (e.1 < 64)) && d.cores.all (fun c => decide (c.2.1 < 8)) &&
    d.shards.all (fun e => decide (e.shard < 2 ^ 32) && decide (e.stack < 64) && decide (1 ≤ e.nblk) && decide (e.nblk ≤ 65536)) &&
    decide (d.lakeMap.length ≤ 64) && d.lakeMap.all (fun e => decide (e.kind < 256) && decide (e.first < 2 ^ 32) && (decide (e.kind ≤ 2) || e.first == 0) && decide (e.base < 2 ^ 64) && decide (e.len < 2 ^ 64)) && decide (d.kfloor.length ≤ 16)

/-- Is a command well formed? -/
def Instr.wf (i : Instr) : Bool :=
  match i with
  | .integerRegisterRegister _ op _ => op == 1 || !opAssigned op.toNat
  | .amoadd _ f => amoFn f != 1 && amoFn f != 2
  | .amoswap _ f => amoFn f == 1
  | .amocas _ f => amoFn f == 2
  | .smaskPrune _ f => sForm f != 1 && sForm f != 2
  | .smaskKeep _ f => sForm f == 1
  | .smaskBitmap _ f => sForm f == 2
  | .smergeMatch _ f => sForm f != 1 && sForm f != 2
  | .smergeCoalesce _ f => sForm f == 1
  | .smergeUnion _ f => sForm f == 2
  | .aloadCaptureComplete _ _ flip => flipOk flip
  | .garbageCollection _ _ _ life free => decide (life < 256) && decide (free < 2 ^ 32)
  | .groupTrailerReceive _ t msgs _ _ => decide (t.ncell ≤ 31) && decide (msgs.length ≤ 31)
  | .opticalCalibration _ ser => ser.length == 9
  | .barrierArrivalCell _ c _ => c.ok 1
  | .barrierReleaseCell _ c _ => c.ok 2
  | .commitVoteCell _ c _ => c.ok 3
  | .commitResultCell _ c _ => c.ok 4
  | .poisonCell _ c _ => c.ok 5
  | .fenceCell _ c _ => c.ok 6
  | .faultReport _ c _ => c.ok 113
  | .restartReport _ c _ => c.ok 114
  | .restartDecision _ c _ => c.ok 115
  | .recoveryDone _ c _ => c.ok 116
  | .checkpointDesignation _ c _ => c.ok 117
  | .designationReply _ c _ => c.ok 118
  | .substitutionNotice _ c _ => c.ok 119
  | .powerAllocation meter => decide (meter < 65536)
  | .trimUpdate est meter => decide (est < 65536) && decide (meter < 65536)
  | .registerWrite _ off size _ => accessOk off size
  | .rcRead _ off size => accessOk off size
  | .bar2Read _ _ len => lenOk len
  | .bar2Write _ _ bytes => lenOk bytes.length
  | .hqsqdbWrite _ _ _ cmds => decide (cmds.length < 4096)
  | .intakeDelivery _ _ records => records.all (fun r => decide (64 ≤ r.length))
  | .jobSubmit _ _ job => job.fits
  | .firmwareStage _ _ image => decide (image.svn < 256) && decide (image.bodylen < 2 ^ 32)
  | .powerGood feeds _ => feeds.eraseDups.length == feeds.length
  | .mirrorBlockWrite status => decide (status < 256)
  | .integerImmediate .. | .lic .. | .multiplyDivide .. | .scalarLoad .. | .scalarStore .. | .conditionalBranch .. | .jal ..
  | .jalr .. | .cread .. | .cwrite .. | .tret .. | .scalarFloatingPoint .. | .vectorFloatingPoint .. | .vcmp ..
  | .vectorInteger .. | .vectorMove .. | .vectorReduction .. | .vld .. | .vst .. | .vldb .. | .predicateOperation ..
  | .vcvt .. | .bar .. | .tagwait .. | .fence .. | .spanBegin .. | .spanEnd .. | .nfmt .. | .nround .. | .nseed ..
  | .aload .. | .astream .. | .aswap .. | .aacc .. | .adrain .. | .adiag .. | .ddld .. | .ddst .. | .ddset .. | .dget ..
  | .dput .. | .dcast .. | .dwait .. | .swapTokenAttach .. | .drainOutputWrite .. | .weirReport .. | .wave ..
  | .gateWordPoll .. | .sealPoll .. | .reStreamRequest .. | .reStreamStart .. | .reStreamRelease .. | .gopen .. | .gsend ..
  | .ghand .. | .ugrad .. | .urld .. | .urst .. | .uhead .. | .useal .. | .usealWaitEnd .. | .udig ..
  | .routerPacketForward .. | .gblkCombine .. | .combineHoldExpiry .. | .escapeWaitExpiry .. | .flitReplayRequest ..
  | .rdRequest .. | .wrRequest .. | .amoRequest .. | .ctlPacket .. | .mcPacket .. | .gblkSluiceArrival ..
  | .grunSluiceArrival .. | .xtPacket .. | .rdrResponse .. | .wackResponse .. | .amorResponse .. | .mack ..
  | .requestTimeout .. | .barrierUpFrame .. | .barrierReleaseFrame .. | .bid0Release .. | .sludoneWrite ..
  | .sluiceTagStall .. | .clearWindowExpiry .. | .ueInboxBlock .. | .gatherOpen .. | .gatherClose .. | .gatherAck ..
  | .gatherRequest .. | .lakePatrolRead .. | .pondScrub .. | .flashDoorbell .. | .flashRead .. | .flashWrite ..
  | .flashTrim .. | .flashTeeWrite .. | .flashCommandComplete .. | .checkpointComplete .. | .groupRetryTimeout ..
  | .controlRetryTimeout .. | .blkMessage .. | .runMessage .. | .writeMessage .. | .ackMessage .. | .unitMessage ..
  | .transitMessage .. | .portFail .. | .laneDegraded .. | .portTraining .. | .portTrainingFail .. | .laserModuleFail ..
  | .bayLatchOpen .. | .lpctlRetrain .. | .lmctlBayoff .. | .groupBarrierTimeout .. | .voteTimeoutManager ..
  | .resultTimeoutWorker .. | .workerRestart .. | .detectionLatch .. | .sequencerWatchdog .. | .spanSignatureCompare ..
  | .wardenLockstepFail .. | .sftestReq .. | .selfTestComplete .. | .clockMonitorWindow .. | .pllLockLoss ..
  | .thermalSample .. | .vcoreSlewComplete .. | .supplyExcursion .. | .railOvercurrent .. | .dikeClampClose ..
  | .dikePointerSlip .. | .feedLoss .. | .feedRestore .. | .orderlyStop .. | .pdctlShut .. | .pdctlWake .. | .pdctlRestore ..
  | .plannedShutdown .. | .polderWake .. | .powerEstimateInterval .. | .capNotMet .. | .coolantStale .. | .pwctlWrite ..
  | .surroundingsHeatWrite .. | .srtimeWrite .. | .hwinWrite .. | .hqcfgWrite .. | .hqcqdbWrite .. | .copyIn .. | .copyOut ..
  | .intakeWaitTimeout .. | .jobStart .. | .jobAmend .. | .jobEnd .. | .jobStatus .. | .checkpoint .. | .exportHeads ..
  | .retrain .. | .selfTest .. | .errorRecords .. | .moduleReset .. | .jobReset .. | .polderReset .. | .firmwareActivate ..
  | .rollbackCommit .. | .certificateRead .. | .jobKeyInstall .. | .jobKeyErase .. | .openObservation ..
  | .commandCompletion .. | .perstPortA .. | .portReset .. | .d3hotEntry .. | .poisonedWrite .. | .hostReadError ..
  | .doeAttestationRequest .. | .keyGenerationComplete .. | .cselWrite .. | .cntctlWrite .. | .trctlWrite ..
  | .tracePowerLines .. | .eventRecordArrival .. | .evselWrite .. | .mirrorFetchComplete .. | .d3hotExit ..
  | .groupTrailerSend .. | .pruningUnitComplete .. | .lakeInterfaceRetraining .. | .bayLatchClose .. => true

end Sys2Proof
end

