-- ==== Sys2Proof/Certificates/Slice0/Obligations.lean ====
section
/-! DEFINITION. The statements for the provers. -/

open Sys2Proof Sys2Proof.Machine

/-! ## The queue -/

/-- A step with a command in front runs that command on the state with the rest of the queue; with an empty queue the reference count
advances, and nothing changes beside it but counters of the clusters and of the embankments, which stand while FREEZE is set (the model's
choice, log entry 1). -/
def Obligations.StepRunsFrontCommand : Prop :=
  (∀ (s : State) (c : Instr) (rest : List Instr), s.pending = c :: rest → step s = exec c (s.withPending rest)) ∧
  (∀ s : State, s.pending = [] → ∃ cl ec, step s = .next { s with ref := s.ref + 1, clusters := cl, ecnt := ec } ∧
    (∀ c, { Tbl.get cl Cluster.reset c with cnt := (s.cluster c).cnt } = s.cluster c) ∧
    (s.freeze = true → cl = s.clusters ∧ ec = s.ecnt))

/-! ## Scalar instructions -/

/-- R199, Table 6.3: integer instructions complete, write the wrapped result to rd (nothing where rd is s0), and retire with no flag
and no trap. -/
def Obligations.IntegerInstructionsWriteResult : Prop :=
  (∀ (p : Proc) (x : Word), p.setS 0 x = p ∧ p.getS 0 = 0) ∧
  (∀ (u : UnitId) (f : BitVec 25) (s s' : State),
    (Issues s s' (unitKey u) (regs3 f) 4 → intCode f →
      ∃ x t, IntResult (fld f 22 10) (s'.ra (unitKey u) f) (s'.rb (unitKey u) f) x ∧
        exec (.integerRegisterRegister u 1 f) s = .next t ∧
        Retired s' t (unitKey u) ((s'.proc (unitKey u)).setS (rdOf f) x) ((s'.proc (unitKey u)).pc + 4)) ∧
    (Issues s s' (unitKey u) [.s (rdOf f), .s (raOf f)] 4 → fld f 17 3 ≤ 5 ∨ (fld f 17 3 = 6 ∧ fld f 20 12 < 256) →
      ∃ x t, ImmResult (fld f 17 3) (fld f 20 12) (s'.ra (unitKey u) f) x ∧
        exec (.integerImmediate u f) s = .next t ∧
        Retired s' t (unitKey u) ((s'.proc (unitKey u)).setS (rdOf f) x) ((s'.proc (unitKey u)).pc + 4)) ∧
    (Issues s s' (unitKey u) (regs3 f) 4 → fld f 22 10 ≤ 6 →
      ∃ x t, MulDivResult (fld f 22 10) (s'.ra (unitKey u) f) (s'.rb (unitKey u) f) x ∧
        exec (.multiplyDivide u f) s = .next t ∧
        Retired s' t (unitKey u) ((s'.proc (unitKey u)).setS (rdOf f) x) ((s'.proc (unitKey u)).pc + 4)))

/-- R200: `lic` writes IMM16 into bits [16Q + 15 : 16Q] of rd; the other bits are zero with KEEP = 0 and keep their values with
KEEP = 1. -/
def Obligations.LicWritesQuarter : Prop :=
  ∀ (u : UnitId) (f : BitVec 25) (s s' : State), Issues s s' (unitKey u) [.s (rdOf f)] 4 → fld f 31 1 = 0 →
    ∃ (x : Word) (t : State),
      (∀ i < 64, x.getLsbD i =
        if i / 16 = fld f 12 2 then (fld f 15 16).testBit (i % 16)
        else (fld f 14 1 == 1 && (s'.rd (unitKey u) f).getLsbD i)) ∧
      exec (.lic u f) s = .next t ∧
      Retired s' t (unitKey u) ((s'.proc (unitKey u)).setS (rdOf f) x) ((s'.proc (unitKey u)).pc + 4)

/-- R201: a branch compares ra with rb, which lies in the rd field, under COND, and continues at its own address + sext(OFF12) × 4 when
the condition holds, else past itself; the reserved conditions trap. -/
def Obligations.BranchComparesAndContinues : Prop :=
  (∀ (u : UnitId) (f : BitVec 25) (s s' : State), Issues s s' (unitKey u) [.s (rdOf f), .s (raOf f)] 4 →
    (fld f 17 3 ≤ 5 → BranchHolds (fld f 17 3) (s'.ra (unitKey u) f) (s'.rd (unitKey u) f) →
      s'.fetchFault (unitKey u) ((s'.proc (unitKey u)).pc + sxt 12 (fld f 20 12) * 4) = none →
      ∃ t, exec (.conditionalBranch u f) s = .next t ∧
        Retired s' t (unitKey u) (s'.proc (unitKey u)) ((s'.proc (unitKey u)).pc + sxt 12 (fld f 20 12) * 4)) ∧
    (fld f 17 3 ≤ 5 → ¬ BranchHolds (fld f 17 3) (s'.ra (unitKey u) f) (s'.rd (unitKey u) f) →
      ∃ t, exec (.conditionalBranch u f) s = .next t ∧
        Retired s' t (unitKey u) (s'.proc (unitKey u)) ((s'.proc (unitKey u)).pc + 4)) ∧
    (6 ≤ fld f 17 3 → CanTrap s' (unitKey u) →
      ∃ t, exec (.conditionalBranch u f) s = .next t ∧
        Trapped s' t (unitKey u) causeIllegal 0 ((word32 0x08 f).zeroExtend 64) false)) ∧
  (∀ f : BitVec 25, -8192 ≤ (sxt 12 (fld f 20 12) * 4).toInt ∧ (sxt 12 (fld f 20 12) * 4).toInt ≤ 8188)

/-- R202, R209: `jal`, `jalr` and `tret` continue at their targets, `jal` and `jalr` with the address of the next instruction in rd; a
`jalr` with FN3 not zero and a `tret` outside a handler trap. -/
def Obligations.JumpsContinue : Prop :=
  ∀ (u : UnitId) (f : BitVec 25) (s s' : State),
    (Issues s s' (unitKey u) [.s (rdOf f)] 4 →
      s'.fetchFault (unitKey u) ((s'.proc (unitKey u)).pc + sxt 20 (fld f 12 20) * 4) = none →
      ∃ t, exec (.jal u f) s = .next t ∧
        Retired s' t (unitKey u) ((s'.proc (unitKey u)).setS (rdOf f) ((s'.proc (unitKey u)).pc + 4))
          ((s'.proc (unitKey u)).pc + sxt 20 (fld f 12 20) * 4)) ∧
    (Issues s s' (unitKey u) [.s (rdOf f), .s (raOf f)] 4 → fld f 17 3 = 0 →
      (s'.ra (unitKey u) f + sxt 12 (fld f 20 12)).toNat % 4 = 0 →
      s'.fetchFault (unitKey u) (s'.ra (unitKey u) f + sxt 12 (fld f 20 12)) = none →
      ∃ t, exec (.jalr u f) s = .next t ∧
        Retired s' t (unitKey u) ((s'.proc (unitKey u)).setS (rdOf f) ((s'.proc (unitKey u)).pc + 4))
          (s'.ra (unitKey u) f + sxt 12 (fld f 20 12))) ∧
    (-2097152 ≤ (sxt 20 (fld f 12 20) * 4).toInt ∧ (sxt 20 (fld f 12 20) * 4).toInt ≤ 2097148) ∧
    (CanTrap s' (unitKey u) →
      (Issues s s' (unitKey u) [.s (rdOf f), .s (raOf f)] 4 → fld f 17 3 ≠ 0 → ∃ t, exec (.jalr u f) s = .next t ∧
        Trapped s' t (unitKey u) causeIllegal 0 ((word32 0x0A f).zeroExtend 64) false) ∧
      (Issues s s' (unitKey u) [] 4 → ∃ t, exec (.tret u f) s = .next t ∧
        Trapped s' t (unitKey u) causeIllegal 0 ((word32 0x0D f).zeroExtend 64) false)) ∧
    (Issues s s' (unitKey u) [] 4 → f = 0 → isCore (unitKey u) = true → (s'.proc (unitKey u)).intrap = true →
      s'.fetchFault (unitKey u) (s'.proc (unitKey u)).tepc = none →
      ∃ t, exec (.tret u f) s = .next t ∧
        Retired s' t (unitKey u) { s'.proc (unitKey u) with intrap := false } (s'.proc (unitKey u)).tepc)

/-- R194 to R196, R203, R208, R249, R252, R253, R254: where a core traps precisely, with TEPC at the instruction: an OP that the opcode
map does not assign and reserved encodings (illegal-instruction, TVAL the word), a misaligned `jalr` target, an unassigned control
register number, a `bar` by a core that is not a member, `nround` mode 7, and `nseed` and `nfmt` values with high bits. No other
register of the core is written. -/
def Obligations.CoreTrapsPrecisely : Prop :=
  ∀ (c : CoreId) (f : BitVec 25) (s s' : State), CanTrap s' (coreKey c) →
    (∀ op : BitVec 7, opAssigned op.toNat = false →
      Issues s s' (coreKey c) [] (if 0x60 ≤ op.toNat ∧ op.toNat ≤ 0x7E then 8 else 4) →
      ∃ t slot, exec (.integerRegisterRegister (.core c) op f) s = .next t ∧
        Trapped s' t (coreKey c) causeIllegal 0 ((word32 op f).zeroExtend 64) slot) ∧
    (Issues s s' (coreKey c) (regs3 f) 4 →
      (3 ≤ fld f 22 10 → ∃ t, exec (.amoadd (.core c) f) s = .next t ∧
        Trapped s' t (coreKey c) causeIllegal 0 ((word32 0x07 f).zeroExtend 64) false) ∧
      (¬ intCode f → ∃ t, exec (.integerRegisterRegister (.core c) 1 f) s = .next t ∧
        Trapped s' t (coreKey c) causeIllegal 0 ((word32 0x01 f).zeroExtend 64) false) ∧
      (7 ≤ fld f 22 10 → ∃ t, exec (.multiplyDivide (.core c) f) s = .next t ∧
        Trapped s' t (coreKey c) causeIllegal 0 ((word32 0x04 f).zeroExtend 64) false)) ∧
    (Issues s s' (coreKey c) [.s (rdOf f), .s (raOf f)] 4 → fld f 17 3 = 0 →
      (s'.ra (coreKey c) f + sxt 12 (fld f 20 12)).toNat % 4 ≠ 0 →
      ∃ t, exec (.jalr (.core c) f) s = .next t ∧
        Trapped s' t (coreKey c) causeAddress 1 (s'.ra (coreKey c) f + sxt 12 (fld f 20 12)) false) ∧
    (Issues s s' (coreKey c) [.s (rdOf f)] 4 → fld f 17 3 = 0 → raOf f = 0 → s'.coreReg (coreKey c) (fld f 20 12) = none →
      ∃ t, exec (.cread (.core c) f) s = .next t ∧
        Trapped s' t (coreKey c) causeOperand 0 (BitVec.ofNat 64 (fld f 20 12)) false) ∧
    (Issues s s' (coreKey c) [] 4 → rdOf f = 0 → raOf f = 0 → rbOf f = 0 → syImm f < 32 →
      s'.member (syImm f % 16) (coreKey c) = false →
      ∃ t, exec (.bar (.core c) f) s = .next t ∧
        Trapped s' t (coreKey c) causeOperand 0 (BitVec.ofNat 64 (syImm f % 16)) false) ∧
    (Issues s s' (coreKey c) [.s (rdOf f)] 4 → raOf f = 0 → rbOf f = 0 → syImm f = 7 →
      ∃ t, exec (.nround (.core c) f) s = .next t ∧ Trapped s' t (coreKey c) causeOperand 0 7 false) ∧
    (Issues s s' (coreKey c) [.s (raOf f)] 4 → rdOf f = 0 → rbOf f = 0 → syImm f = 0 → 2 ^ 48 ≤ (s'.ra (coreKey c) f).toNat →
      ∃ t, exec (.nseed (.core c) f) s = .next t ∧ Trapped s' t (coreKey c) causeOperand 0 (s'.ra (coreKey c) f) false) ∧
    (Issues s s' (coreKey c) [.s (rdOf f), .s (raOf f)] 4 → rbOf f = 0 → syImm f = 0 → 1 < (s'.ra (coreKey c) f).toNat →
      ∃ t, exec (.nfmt (.core c) f) s = .next t ∧ Trapped s' t (coreKey c) causeOperand 0 (s'.ra (coreKey c) f) false)

/-- R204, R205: a scalar load of the core's own pond, or of a unit's own scratch, writes the value to rd; a store writes rd's low bytes
at the address, or its binary32 rounded to binary16 in the mode of NROUND, and every byte outside them reads as before. -/
def Obligations.ScalarLoadsAndStoresLocal : Prop :=
  ∀ (u : UnitId) (f : BitVec 25) (s s' : State) (a : Word), Issues s s' (unitKey u) [.s (rdOf f), .s (raOf f)] 4 →
    a = s'.ra (unitKey u) f + sxt 12 (fld f 20 12) →
    (LocalAccess s' (unitKey u) a (ldSize (fld f 17 3)) (ldSize (fld f 17 3)) false →
      (fld f 17 3 ≠ 7 → ∃ x t, LoadResult (fld f 17 3) (leNat (s'.bytesAt (keyFor (unitKey u) a) (ldSize (fld f 17 3)))) x ∧
        exec (.scalarLoad u f) s = .next t ∧
        Retired s' t (unitKey u) ((s'.proc (unitKey u)).setS (rdOf f) x) ((s'.proc (unitKey u)).pc + 4)) ∧
      (fld f 17 3 = 7 → ∃ t, exec (.scalarLoad u f) s = .next t ∧
        Retired s' t (unitKey u) ((s'.proc (unitKey u)).loaded (rdOf f) 7 (s'.bytesAt (keyFor (unitKey u) a) 2))
          ((s'.proc (unitKey u)).pc + 4))) ∧
    (LocalAccess s' (unitKey u) a (ldSize (fld f 17 3)) (ldSize (fld f 17 3)) true → fld f 17 3 ≤ 3 → s'.traced (unitKey u) = false →
      ∃ t, exec (.scalarStore u f) s = .next t ∧
        (∀ i < ldSize (fld f 17 3),
          memByte t.mem (keyFor (unitKey u) a + i) = BitVec.ofNat 8 ((s'.rd (unitKey u) f).toNat / 256 ^ i)) ∧
        s'.SameMemOutside t (keyFor (unitKey u) a) (ldSize (fld f 17 3)) ∧
        t.proc (unitKey u) = { s'.proc (unitKey u) with pc := (s'.proc (unitKey u)).pc + 4 }) ∧
    (LocalAccess s' (unitKey u) a 2 2 true → fld f 17 3 = 7 → s'.traced (unitKey u) = false → ∀ ds p1 g,
      (s'.proc (unitKey u)).draws (unitKey u) false (s'.proc (unitKey u)).nround.toNat 1 = (ds, p1) →
      g = fpConv (Fmt.of 2) (Fmt.of 0) (s'.proc (unitKey u)).nround.toNat ((s'.rd (unitKey u) f).toNat % 2 ^ 32) (elemAt ds 0) →
      ∃ t, exec (.scalarStore u f) s = .next t ∧ s'.SameMemOutside t (keyFor (unitKey u) a) 2 ∧
        (∀ i < 2, memByte t.mem (keyFor (unitKey u) a + i) = BitVec.ofNat 8 (g.bits / 256 ^ i)) ∧
        t.proc (unitKey u) = { p1.raise g.fl with pc := (s'.proc (unitKey u)).pc + 4 })

/-- R178, R204 to R207, R283: a scalar load, a store or an atomic operation that leaves the cluster becomes one class-1 request to the
node that serves the address, recorded under a fresh identifier, and the instruction retires; a load and an atomic operation write rd
only when the answer comes. -/
def Obligations.RemoteLoadsAndStoresSendRequest : Prop :=
  ∀ (u : UnitId) (f : BitVec 25) (s s' : State) (a : Word) (n : Nat),
    Issues s s' (unitKey u) [.s (rdOf f), .s (raOf f)] 4 →
    a = s'.ra (unitKey u) f + sxt 12 (fld f 20 12) → n = ldSize (fld f 17 3) → localTo (unitKey u) a = false →
    s'.portUse (unitKey u) < 16 →
    (s'.accessFault (unitKey u) a n n false = none → s'.hazard (unitKey u) a n false = false →
      ∃ t, exec (.scalarLoad u f) s = .next t ∧
        t.reqs = s'.reqs ++ [⟨s'.nextId, unitKey u, nodeOfUnit (unitKey u), a, .load (rdOf f) (fld f 17 3)⟩] ∧
        t.mesh = s'.mesh ++ [{ mkPacket .rd 1 (nodeOfUnit (unitKey u)) (s'.targetNode a) s'.nextId with addr := a, size := n }] ∧
        t.nextId = s'.nextId + 1 ∧
        t.proc (unitKey u) = { s'.proc (unitKey u) with pc := (s'.proc (unitKey u)).pc + 4 }) ∧
    (s'.accessFault (unitKey u) a n n true = none → s'.hazard (unitKey u) a n true = false → fld f 17 3 ≤ 3 →
      ∃ t, exec (.scalarStore u f) s = .next t ∧
        t.reqs = s'.reqs ++ [⟨s'.nextId, unitKey u, nodeOfUnit (unitKey u), a, .store⟩] ∧
        t.mesh = s'.mesh ++ [{ mkPacket .wr 1 (nodeOfUnit (unitKey u)) (s'.targetNode a) s'.nextId with
          addr := a, size := n, data := leBytes n (s'.rd (unitKey u) f).toNat }] ∧
        t.nextId = s'.nextId + 1 ∧
        t.proc (unitKey u) = { s'.proc (unitKey u) with pc := (s'.proc (unitKey u)).pc + 4 }) ∧
    (∀ (x : Word) (fn : Nat), isCore (unitKey u) = true → x = s'.ra (unitKey u) f → fn = fld f 22 10 → fn ≤ 2 →
      Issues s s' (unitKey u) (regs3 f) 4 → s'.amoFault (unitKey u) x = none → s'.hazard (unitKey u) x 8 true = false →
      localTo (unitKey u) x = false →
      ∃ t, (fn = 0 → exec (.amoadd u f) s = .next t) ∧ (fn = 1 → exec (.amoswap u f) s = .next t) ∧
        (fn = 2 → exec (.amocas u f) s = .next t) ∧
        t.reqs = s'.reqs ++ [⟨s'.nextId, unitKey u, nodeOfUnit (unitKey u), x, .amo (rdOf f)⟩] ∧
        t.mesh = s'.mesh ++ [{ mkPacket .amo 1 (nodeOfUnit (unitKey u)) (s'.targetNode x) s'.nextId with
          addr := x, size := 8, op := fn,
          data := leBytes 8 (s'.rb (unitKey u) f).toNat ++ leBytes 8 (s'.rd (unitKey u) f).toNat }] ∧
        t.nextId = s'.nextId + 1 ∧
        t.proc (unitKey u) = { s'.proc (unitKey u) with pc := (s'.proc (unitKey u)).pc + 4 })

/-- R206: on an aligned word of the core's own pond, `amoadd` writes old + rb, `amoswap` writes rb, and `amocas` writes rb only if old
equals rd's value before; each returns the old value in rd, and every other byte reads as before. -/
def Obligations.AtomicsUpdateWordAndReturnOld : Prop :=
  ∀ (c : CoreId) (f : BitVec 25) (s s' : State) (a old b e : Word),
    Issues s s' (coreKey c) (regs3 f) 4 → s'.traced (coreKey c) = false →
    a = s'.ra (coreKey c) f → b = s'.rb (coreKey c) f → e = s'.rd (coreKey c) f →
    LocalAccess s' (coreKey c) a 8 8 true → (∃ st cl off, place a = .pond st cl off) →
    old = BitVec.ofNat 64 (leNat (s'.bytesAt a.toNat 8)) →
    (fld f 22 10 = 0 → ∃ t, exec (.amoadd (.core c) f) s = .next t ∧ leNat (t.bytesAt a.toNat 8) = (old + b).toNat ∧
      s'.SameMemOutside t a.toNat 8 ∧
      t.proc (coreKey c) = { (s'.proc (coreKey c)).setS (rdOf f) old with pc := (s'.proc (coreKey c)).pc + 4 }) ∧
    (fld f 22 10 = 1 → ∃ t, exec (.amoswap (.core c) f) s = .next t ∧ leNat (t.bytesAt a.toNat 8) = b.toNat ∧
      s'.SameMemOutside t a.toNat 8 ∧
      t.proc (coreKey c) = { (s'.proc (coreKey c)).setS (rdOf f) old with pc := (s'.proc (coreKey c)).pc + 4 }) ∧
    (fld f 22 10 = 2 → ∃ t, exec (.amocas (.core c) f) s = .next t ∧
      leNat (t.bytesAt a.toNat 8) = (if old = e then b else old).toNat ∧ s'.SameMemOutside t a.toNat 8 ∧
      t.proc (coreKey c) = { (s'.proc (coreKey c)).setS (rdOf f) old with pc := (s'.proc (coreKey c)).pc + 4 })

/-- R208, R164: `cread` writes the register's value to rd; `cwrite` writes ra's value to a register that is writable: here TVEC, TEPC,
the clear-by-one TAGERR and NFLAGS, NROUND and NSEED_STEP, which also clears the element counters (R49). -/
def Obligations.ControlRegistersReadAndWritten : Prop :=
  ∀ (c : CoreId) (f : BitVec 25) (s s' : State) (p : Proc) (v : Word), p = s'.proc (coreKey c) → v = s'.ra (coreKey c) f →
    fld f 17 3 = 0 →
    (Issues s s' (coreKey c) [.s (rdOf f)] 4 → raOf f = 0 → ∀ x, s'.coreReg (coreKey c) (fld f 20 12) = some x →
      ∃ t, exec (.cread (.core c) f) s = .next t ∧
        Retired s' t (coreKey c) (p.setS (rdOf f) (BitVec.ofNat 64 x)) (p.pc + 4)) ∧
    (Issues s s' (coreKey c) [.s (raOf f)] 4 → rdOf f = 0 →
      ∀ q, ((fld f 20 12 = 0x008 ∧ q = { p with tvec := v }) ∨ (fld f 20 12 = 0x009 ∧ q = { p with tepc := v }) ∨
          (fld f 20 12 = 0x011 ∧ q = { p with tagErr := p.tagErr &&& ~~~(v.truncate 32) }) ∨
          (fld f 20 12 = 0x020 ∧ v.toNat % 8 ≤ 4 ∧ q = { p with nround := v.truncate 3 }) ∨
          (fld f 20 12 = 0x021 ∧ q = { p with nflags := p.nflags &&& ~~~(v.truncate 5) }) ∨
          (fld f 20 12 = 0x023 ∧ q = { p with seedStep := v.truncate 48, ctrS := 0, ctrV := 0, ctrA0 := 0, ctrA1 := 0 })) →
      ∃ t, exec (.cwrite (.core c) f) s = .next t ∧ Retired s' t (coreKey c) q (p.pc + 4))

/-! ## Floating point, vectors and predicates -/

/-- Table 6.4, R34, R43, R44, R226, R227: every scalar floating-point instruction writes its result to rd, raises its flags, and draws
one value of its generator exactly when it rounds stochastically. -/
def Obligations.ScalarFloatWritesRoundedResult : Prop :=
  ∀ (u : UnitId) (f : BitVec 25) (s s' : State) (k fm m r v : Nat) (x y z : Nat) (fl : Flg) (ds : List Nat) (p1 : Proc),
    k = unitKey u → Issues s s' k (regs3 f) 4 → fm = fld f 22 1 → isCore k = true ∨ (isUe k = true ∧ fm = 0) →
    rmMode (s'.proc k) (fld f 23 3) = some m →
    x = (s'.ra k f).toNat % 2 ^ fmtWidth (2 + fm) → y = (s'.rb k f).toNat % 2 ^ fmtWidth (2 + fm) →
    z = (s'.rd k f).toNat % 2 ^ fmtWidth (2 + fm) → (s'.proc k).draws k false m 1 = (ds, p1) → r = elemAt ds 0 →
    SfResult fm (fld f 26 6) (fld f 23 3) (rbOf f) m (s'.ra k f) x y z r v fl →
    ∃ t, exec (.scalarFloatingPoint u f) s = .next t ∧
      Retired s' t k ((p1.raise fl).setS (rdOf f) (BitVec.ofNat 64 v)) ((s'.proc k).pc + 4) ∧
      (m ≠ mSR → p1 = s'.proc k) ∧ (m = mSR → isCore k = true → p1 = { s'.proc k with ctrS := (s'.proc k).ctrS + 1 })

/-- R212, R214, R217, R218, Tables 6.5 and 6.6: vector floating point, integer lanes and moves work element by element on the active
elements; an inactive element keeps its value, or is zero with MZ = 1. No memory is touched and no other register of the core changes
but the flags and generator of a floating-point one. -/
def Obligations.VectorElementsUnderPredicate : Prop :=
  ∀ (u : UnitId) (f : BitVec 25) (s s' : State) (k w : Nat) (p : Proc) (pg : Word), k = unitKey u → p = s'.proc k →
    vaOk k f = true → w = fmtWidth (vaFm f) → pg = p.getP (vaPg f) →
    (Issues s s' k (vregs f) 4 →
      (∀ (op : Fin 11) (m : Nat) (ds : List Nat) (p1 : Proc), rmMode p (vaRm f) = some m →
        (op.val = 4 → vaVb f = 0) → (op.val = 5 ∨ op.val = 6 → vaRm f ≤ 1) → (op.val = 10 → vaRm f ≤ 2) →
        p.draws k true (if vfRounds op.val then m else 0) (512 / w) = (ds, p1) →
        ∃ t v fl g, exec (.vectorFloatingPoint u op f) s = .next t ∧
          Retired s' t k ((p1.raise fl).setV (vaVd f) v) (p.pc + 4) ∧ FlagsOfActive (512 / w) pg g fl ∧
          Merged w pg (vaMz f) (p.getV (vaVd f)) v (fun i => (g i).bits) ∧
          ∀ i < 512 / w, VfResult op.val (vaRm f) (Fmt.of (vaFm f)) m (elemOf w (p.getV (vaVa f)) i) (elemOf w (p.getV (vaVb f)) i)
            (elemOf w (p.getV (vaVd f)) i) (elemAt ds i) (g i)) ∧
      (∀ op : Fin 4, 2 ≤ vaFm f → (op.val ≤ 1 ∧ vaRm f = 0) ∨ (op.val = 2 ∧ vaRm f ≤ 3) ∨ (op.val = 3 ∧ vaRm f ≤ 2) →
        ∃ t v g, exec (.vectorInteger u op f) s = .next t ∧
          Retired s' t k (p.setV (vaVd f) v) (p.pc + 4) ∧
          Merged w pg (vaMz f) (p.getV (vaVd f)) v g ∧
          ∀ i < 512 / w, LaneResult op.val (vaRm f) w
            (elemOf w (p.getV (vaVa f)) i) (elemOf w (p.getV (vaVb f)) i) (g i))) ∧
    (Issues s s' k (vmoveRegs f) 4 →
      (∀ g : Nat → Nat, (vaRm f = 0 ∧ (∀ i, g i = (p.getS (vaVa f)).toNat % 2 ^ w)) ∨
          (vaRm f = 3 ∧ vaMz f = false ∧
            ∀ i, g i = if pg.getLsbD i then elemOf w (p.getV (vaVa f)) i else elemOf w (p.getV (vaVb f)) i) ∨
          (vaRm f = 4 ∧ g = elemOf w (p.getV (vaVa f))) →
        ∃ t v, exec (.vectorMove u f) s = .next t ∧ Retired s' t k (p.setV (vaVd f) v) (p.pc + 4) ∧
          Merged w (if vaRm f = 3 then BitVec.allOnes 64 else pg) (vaMz f) (p.getV (vaVd f)) v g) ∧
      (vaMz f = false → vaVb f < 512 / w →
        (vaRm f = 1 →
          (pg.getLsbD (vaVb f) = true → ∃ t v, exec (.vectorMove u f) s = .next t ∧ Retired s' t k (p.setV (vaVd f) v) (p.pc + 4) ∧
            ∀ i < 512 / w, elemOf w v i =
              if i = vaVb f then (p.getS (vaVa f)).toNat % 2 ^ w else elemOf w (p.getV (vaVd f)) i) ∧
          (pg.getLsbD (vaVb f) = false → ∃ t, exec (.vectorMove u f) s = .next t ∧ Retired s' t k p (p.pc + 4))) ∧
        (vaRm f = 2 → vaPg f = 0 → ∃ t, exec (.vectorMove u f) s = .next t ∧
          Retired s' t k (p.setS (vaVd f) (BitVec.ofNat 64 (elemOf w (p.getV (vaVa f)) (vaVb f)))) (p.pc + 4))))

/-- R216, Table 6.7: `vcmp` writes the predicate bit of each active element from its condition and keeps or clears the others;
the predicate operations combine, move, count and scan all 64 bits; p0 stays all ones. -/
def Obligations.PredicatesWritten : Prop :=
  ∀ (u : UnitId) (f : BitVec 25) (s s' : State) (k w : Nat) (p : Proc), k = unitKey u → p = s'.proc k → w = fmtWidth (vaFm f) →
    (Issues s s' k [.v (vaVa f), .v (vaVb f)] 4 → vaOk k f = true → vaVd f < 8 →
      ∀ (cond : FCmp) (sig : Bool) (g : Nat → Bool × Flg), vcmpCond (vaRm f) = some (cond, sig) →
      (∀ i, g i = fpCmp (Fmt.of (vaFm f)) cond sig (elemOf w (p.getV (vaVa f)) i) (elemOf w (p.getV (vaVb f)) i)) →
      ∃ t x fl, exec (.vcmp u f) s = .next t ∧ Retired s' t k ((p.raise fl).setP (vaVd f) x) (p.pc + 4) ∧
        FlagsOfActive (512 / w) (p.getP (vaPg f)) (fun i => ⟨0, (g i).2⟩) fl ∧
        ∀ i < 64, x.getLsbD i =
          if i < 512 / w ∧ (p.getP (vaPg f)).getLsbD i then (g i).1 else !vaMz f && (p.getP (vaVd f)).getLsbD i) ∧
    (Issues s s' k [.s (fld f 7 5), .s (fld f 15 5)] 4 → isCore k = true ∨ isUe k = true → fld f 12 3 = 0 → ∀ a b x : Word,
      a = p.getP (fld f 20 3) → b = p.getP (fld f 23 3) → x = p.getS (fld f 15 5) →
      (∀ y : Word, fld f 7 5 < 8 →
        (fld f 26 6 = 0 ∧ y = a &&& b) ∨ (fld f 26 6 = 1 ∧ y = a ||| b) ∨ (fld f 26 6 = 2 ∧ y = a ^^^ b) ∨
          (fld f 26 6 = 3 ∧ y = a &&& ~~~b) ∨ (fld f 26 6 = 4 ∧ fld f 23 3 = 0 ∧ y = ~~~a) ∨ (fld f 26 6 = 5 ∧ y = x) ∨
          (fld f 26 6 = 9 ∧ ∀ i < 64, y.getLsbD i = decide (i < x.toNat)) →
        ∃ t, exec (.predicateOperation u f) s = .next t ∧ Retired s' t k (p.setP (fld f 7 5) y) (p.pc + 4)) ∧
      (∀ y : Word, (fld f 26 6 = 6 ∧ y = a) ∨ (fld f 26 6 = 7 ∧ y.toNat = (List.range 64).countP (fun i => a.getLsbD i)) ∨
          (fld f 26 6 = 8 ∧ y.toNat ≤ 64 ∧ (∀ i < y.toNat, a.getLsbD i = false) ∧ (y.toNat < 64 → a.getLsbD y.toNat = true)) →
        ∃ t, exec (.predicateOperation u f) s = .next t ∧ Retired s' t k (p.setS (fld f 7 5) y) (p.pc + 4))) ∧
    (∀ x, (p.setP 0 x).getP 0 = BitVec.allOnes 64)

/-- R219, R223 to R227: a reduction combines neighbours level by level, an inactive element being the identity of its operation, and
writes element 0 of vd and zeros every other bit, the sum in the mode of NROUND with draws in the order of the operations; `vcvt`
converts, for every pair of types that Table 6.8 gives, as many elements as the wider type has, and those of the other half keep their
values. -/
def Obligations.ReductionsAndConversions : Prop :=
  ∀ (u : UnitId) (f : BitVec 25) (s s' : State) (k : Nat) (p : Proc), k = unitKey u → p = s'.proc k →
    (Issues s s' k [.v (vaVd f), .v (vaVa f)] 4 → vaOk k f = true →
      ∀ (F : Fmt) (n m : Nat) (g : Nat → Nat → Nat → FRes) (ident : Nat) (ds : List Nat) (p1 : Proc),
      F = Fmt.of (vaFm f) → n = 512 / F.width → m = p.nround.toNat →
      (vaRm f = 0 ∧ g = (fun x y r => fpAdd F m x y r) ∧ ident = F.signBit ∧ p.draws k true m (n - 1) = (ds, p1)) ∨
        (vaRm f = 1 ∧ g = (fun x y _ => fpMinMax F true false x y) ∧ ident = F.signBit + F.inf ∧ p1 = p) ∨
        (vaRm f = 2 ∧ g = (fun x y _ => fpMinMax F false false x y) ∧ ident = F.inf ∧ p1 = p) →
      ∃ t v fl, exec (.vectorReduction u f) s = .next t ∧
        Retired s' t k ((p1.raise fl).setV (vaVd f) (BitVec.ofNat 512 v)) (p.pc + 4) ∧
        Reduces g ds 0 ((List.range n).map (fun i =>
          if (p.getP (vaPg f)).getLsbD i then elemOf F.width (p.getV (vaVa f)) i else ident)) v fl) ∧
    (Issues s s' k [.v (fld f 7 5), .v (fld f 12 5)] 4 → fld f 17 1 = 0 →
      ∀ (src dst n s0 d0 m : Nat) (ds : List Nat) (p1 : Proc) (g : Nat → FRes), src = fld f 19 3 → dst = fld f 25 3 →
      vcvtOk k src dst = true → n = 512 / max (typeWidth src) (typeWidth dst) →
      s0 = (if typeWidth src < typeWidth dst then fld f 31 1 * n else 0) →
      d0 = (if typeWidth dst < typeWidth src then fld f 31 1 * n else 0) →
      rmMode p (fld f 28 3) = some m → p.draws k true m n = (ds, p1) →
      (∀ i, g (d0 + i) = cvtElem src dst m (elemOf (typeWidth src) (p.getV (fld f 12 5)) (s0 + i)) (elemAt ds i)) →
      ∃ t v fl, exec (.vcvt u f) s = .next t ∧ Retired s' t k ((p1.raise fl).setV (fld f 7 5) v) (p.pc + 4) ∧
        (∀ i, fl.getLsbD i = true ↔ ∃ j, d0 ≤ j ∧ j < d0 + n ∧ (p.getP (fld f 22 3)).getLsbD j = true ∧ (g j).fl.getLsbD i = true) ∧
        ∀ j < 512 / typeWidth dst, elemOf (typeWidth dst) v j =
          if d0 ≤ j ∧ j < d0 + n then
            (if (p.getP (fld f 22 3)).getLsbD j then (g j).bits % 2 ^ typeWidth dst
            else if fld f 18 1 = 1 then 0 else elemOf (typeWidth dst) (p.getV (fld f 7 5)) j)
          else elemOf (typeWidth dst) (p.getV (fld f 7 5)) j)

/-- R220, R221: vector loads write the active elements from memory and keep the others; vector stores write the bytes of active
elements only; `vldb` writes one element's value to every active element. All in the core's own pond. -/
def Obligations.VectorLoadsAndStoresLocal : Prop :=
  ∀ (c : CoreId) (f : BitVec 25) (s s' : State) (k esz : Nat) (p : Proc) (a : Word) (ea : Nat → Nat), k = coreKey c → p = s'.proc k →
    Issues s s' k [.v (fld f 7 5), .s (fld f 12 5)] 4 → a = vmAddr p f → eszOf k (fld f 20 2) = some esz →
    (∀ i, ea i = (a + BitVec.ofNat 64 (i * esz)).toNat) → s'.pondMark = [] → s'.traced k = false → s'.portUse k = 0 →
    ((∀ i < 64 / esz, (vmPg p f).getLsbD i = true → localTo k (a + BitVec.ofNat 64 (i * esz)) = true) →
      (s'.vmFault k a esz (64 / esz) (active (vmPg p f)) false = none → s'.hazard k a 64 false = false →
        ∃ t v, exec (.vld (.core c) f) s = .next t ∧ Retired s' t k (p.setV (fld f 7 5) v) (p.pc + 4) ∧
          Merged (8 * esz) (vmPg p f) false (p.getV (fld f 7 5)) v (fun i => leNat (s'.bytesAt (ea i) esz))) ∧
      (s'.vmFault k a esz (64 / esz) (active (vmPg p f)) true = none → s'.hazard k a 64 true = false →
        ∃ t, exec (.vst (.core c) f) s = .next t ∧ t.proc k = { p with pc := p.pc + 4 } ∧
          (∀ i < 64 / esz, (vmPg p f).getLsbD i = true →
            leNat (t.bytesAt (ea i) esz) = elemOf (8 * esz) (p.getV (fld f 7 5)) i) ∧
          ∀ b, (∀ i < 64 / esz, (vmPg p f).getLsbD i = true → b < ea i ∨ ea i + esz ≤ b) →
            memByte t.mem b = memByte s'.mem b)) ∧
    (s'.accessFault k a esz esz false = none → s'.hazard k a esz false = false → localTo k a = true →
      ∃ t v, exec (.vldb (.core c) f) s = .next t ∧ Retired s' t k (p.setV (fld f 7 5) v) (p.pc + 4) ∧
        Merged (8 * esz) (vmPg p f) false (p.getV (fld f 7 5)) v (fun _ => leNat (s'.bytesAt a.toNat esz)))

/-! ## Synchronisation and numeric state -/

/-- R178 to R180, R185, R248 to R254: `bar` enters the barrier once every older store is performed, and does not retire; `tagwait`
retires when every named tag's count is zero and none has an error; `fence` when what it waits for is performed; `nround`, `nseed` and
`nfmt` write their registers and return the old value where they have an rd. -/
def Obligations.SynchronisationInstructions : Prop :=
  ∀ (c : CoreId) (f : BitVec 25) (s s' : State) (k : Nat) (p : Proc), k = coreKey c → p = s'.proc k →
    (Issues s s' k [] 4 → rdOf f = 0 → raOf f = 0 → rbOf f = 0 → syImm f < 32 → s'.member (syImm f % 16) k = true →
      p.span = none → s'.storesOut k = false →
      ∃ t, exec (.bar (.core c) f) s = .next t ∧ t.proc k = { p with inBar := some (syImm f % 16, syImm f / 16 % 2 == 1) } ∧
        Tbl.get (t.bar (polderOf k)).count 0 (syImm f % 16) = Tbl.get (s'.bar (polderOf k)).count 0 (syImm f % 16) + 1 ∧
        t.mem = s'.mem) ∧
    (Issues s s' k [.s (raOf f)] 4 → tagwaitBad f = false →
      (∀ i < 32, (tagMask p f).getLsbD i = true → p.tagCount i = 0) → tagMask p f &&& p.tagErr = 0 →
      ∃ t, exec (.tagwait (.core c) f) s = .next t ∧ Retired s' t k p (p.pc + 4)) ∧
    (Issues s s' k [] 4 → rdOf f = 0 → raOf f = 0 → rbOf f = 0 → 1 ≤ syImm f → syImm f ≤ 3 →
      (syImm f % 2 = 1 → s'.storesOut k = false) → (2 ≤ syImm f → s'.loadsOut k = false) →
      ∃ t, exec (.fence (.core c) f) s = .next t ∧ Retired s' t k p (p.pc + 4)) ∧
    (Issues s s' k [.s (rdOf f)] 4 → raOf f = 0 → rbOf f = 0 → syImm f ≤ 4 →
      ∃ t, exec (.nround (.core c) f) s = .next t ∧
        Retired s' t k ({ p with nround := BitVec.ofNat 3 (syImm f) }.setS (rdOf f) (p.nround.zeroExtend 64)) (p.pc + 4)) ∧
    (Issues s s' k [.s (raOf f)] 4 → rdOf f = 0 → rbOf f = 0 → syImm f = 0 → (s'.ra k f).toNat < 2 ^ 48 →
      ∃ t, exec (.nseed (.core c) f) s = .next t ∧
        Retired s' t k { p with seedStep := (s'.ra k f).truncate 48, ctrS := 0, ctrV := 0, ctrA0 := 0, ctrA1 := 0 } (p.pc + 4)) ∧
    (Issues s s' k [.s (rdOf f), .s (raOf f)] 4 → rbOf f = 0 → syImm f = 0 → (s'.ra k f).toNat ≤ 1 →
      ∃ t, exec (.nfmt (.core c) f) s = .next t ∧
        Retired s' t k ({ p with nf := s'.ra k f == 1 }.setS (rdOf f) (if p.nf then 1 else 0)) (p.pc + 4))

/-- R255, R256: `span.begin` opens the span with the saved format and the stream and range words, writes the span's state to rd and
retires; the matching `span.end` of a span with nothing outstanding closes it and restores the format, and past a replay call goes back
to the span's start, with the span marked for the wide format and code 0x1101 written. -/
def Obligations.SpansOpenAndClose : Prop :=
  ∀ (c : CoreId) (f : BitVec 25) (s s' : State) (k : Nat) (p : Proc), k = coreKey c → p = s'.proc k →
    (Issues s s' k [.s (rdOf f), .s (raOf f), .s (rbOf f)] 4 → p.span = none → badBound ((s'.rb k f).toNat % 2 ^ 32) = false →
      ∃ t x, exec (.spanBegin (.core c) f) s = .next t ∧
        t.proc k = { ({ p with
          nf := ((s'.cluster (clOf k)).span (syImm f)).wide || p.replayNext
          span := some ⟨syImm f, p.nf, p.pc, p.replayNext, s'.ra k f, s'.rb k f⟩
          replayNext := false } : Proc).setS (rdOf f) x with pc := p.pc + 4 } ∧
        x.getLsbD 0 = (((s'.cluster (clOf k)).span (syImm f)).wide || p.replayNext) ∧
        x.getLsbD 1 = ((s'.cluster (clOf k)).span (syImm f)).sticky ∧
        x.getLsbD 2 = p.replayNext ∧ (∀ i, 3 ≤ i → x.getLsbD i = false) ∧ (s'.traced k = false → t.mem = s'.mem)) ∧
    (Issues s s' k [] 4 → rdOf f = 0 → raOf f = 0 → rbOf f = 0 → ∀ sp e, p.span = some sp → sp.id = syImm f →
      s'.spanBusy k = false → e = (s'.cluster (clOf k)).exec (k % 9) →
      (e.poison = true ∨ e.replay = none →
        ∃ t, exec (.spanEnd (.core c) f) s = .next t ∧
          t.proc k = { p with nf := sp.savedNf, span := none, pc := p.pc + 4 } ∧
          (s'.traced k = false → t.mem = s'.mem)) ∧
      (e.poison = false → e.replay.isSome → s'.fetchFault k sp.pc = none →
        ∃ t, exec (.spanEnd (.core c) f) s = .next t ∧
          t.proc k = { p with nf := sp.savedNf, span := none, replayNext := true, pc := sp.pc } ∧
          ((t.cluster (clOf k)).span (syImm f)).wide = true ∧ ((t.cluster (clOf k)).span (syImm f)).replayed = true ∧
          (∃ r ∈ t.evrec.queue, r.code = 0x1101) ∧ (s'.traced k = false → t.mem = s'.mem)))

/-! ## Matrix arrays -/

/-- R94, R96, R105, R236, R93: `aload` of a dense tile or of a pair of T24 tiles whose operands are granted and whose headers fit takes
a load request to the array on its tag, with the formats that its headers give; `aswap` issues a token and exchanges what later
instructions know of the two latches. -/
def Obligations.LoadsAndSwapsQueue : Prop :=
  ∀ (c : CoreId) (f : BitVec 57) (s s' : State) (k a : Nat) (p : Proc), k = coreKey c → p = s'.proc k → a = lAr f →
    (∀ (d : Desc) (fmt n : Nat) (hs : List TileHdr), Issues s s' k [.d (lD1 f)] 8 → lOk f ['r', '1', 't'] 2 = true → d = p.getD (lD1 f) →
      fmt = resolveFmt p.nf d → n = (if dMdv d then 256 else 128) → s'.arrStall k a (some (lTag f)) = false →
      firstTrap [s'.arrOut k a, arrBusy p a, aloadTrap p (lD1 f) d (lFlags f == 1)] = none → s'.pondMark = [] →
      refusedIn k (aloadRanges d ++ if dHdrv d then hdrRanges d n else []) = none →
      (dMdv d = true → s'.t24Bad (dMd d) = false ∧ s'.t24Bad (dMd d + 1088) = false ∧
        refusedIn k ((s'.escRanges d).filter (fun r => r.2 != 0)) = none) →
      (dHdrv d = true → s'.HdrsFit d n fmt) →
      (dHdrv d = true → dMdv d = true → ∀ h ∈ s'.hdrsOf d n, h.rows = 128 ∧ h.cols = 128) →
      hs = (if dHdrv d then s'.hdrsOf d n else []) →
      ∃ t, exec (.aload (.core c) f) s = .next t ∧ ArrIssued s' t k ∧
        ((t.proc k).arr a).loads = (p.arr a).loads ++ [⟨d, lFlags f == 1, hs.map (·.fmt), fmt, lTag f, p.span.isSome,
          ((p.arr a).ops.filter (·.kind == .swap)).length, false⟩] ∧
        ((t.proc k).arr a).infoIdle = ⟨fmt, dMdv d, dHdrv d, hdrMax (hs.map some)⟩ ∧ ((t.proc k).arr a).ops = (p.arr a).ops ∧
        (t.proc k).tagCount (lTag f) = p.tagCount (lTag f) + 1) ∧
    (Issues s s' k [] 8 → lOk f ['r'] 1 = true → s'.arrOut k a = none →
      (p.arr a).ops.any (·.kind == .swap) = false → (p.arr a).waiting < 8 →
      ∃ t o, exec (.aswap (.core c) f) s = .next t ∧ ArrIssued s' t k ∧ o.kind = .swap ∧
        ((t.proc k).arr a).ops = (p.arr a).ops ++ [o] ∧ ((t.proc k).arr a).loads = (p.arr a).loads ∧
        ((t.proc k).arr a).infoAct = (p.arr a).infoIdle ∧ ((t.proc k).arr a).infoIdle = (p.arr a).infoAct ∧
        ((t.proc k).arr a).act = (p.arr a).act)

/-- R50, R85, R91, R99 to R103, R106, R108, R110, R238 to R241: `astream`, `adrain` and `adiag` of operands that are granted, whose
bitmaps and headers fit, each take one operation to the end of the array's queue, with the operands, counts, formats, window, mode,
seed, step and counter of the moment; a stochastic one moves the drain's counter past its draws; no sums are taken by instructions
after an `adrain` (R109). -/
def Obligations.PassesAndDrainsQueue : Prop :=
  ∀ (c : CoreId) (f : BitVec 57) (s s' : State) (k a : Nat) (p : Proc), k = coreKey c → p = s'.proc k → a = lAr f →
    (∀ (x y z : Desc) (te cin raw n kk fmt out e m : Nat) (hdrs chain : Bool),
      Issues s s' k [.d (lD1 f), .d (lD2 f), .d (lD3 f), .s (lRa f), .s (lRb f), .s (lRc f)] 8 →
      lOk f ['r', '1', '2', '3', 't', 'm', 'a', 'b', 'c'] 8 = true → rmMode (s.proc k) (lRm f) = some m → rmMode p (lRm f) = some m →
      x = p.getD (lD1 f) → y = p.getD (lD2 f) → z = p.getD (lD3 f) → te = lFlags f % 2 → cin = lFlags f / 2 % 2 → raw = lFlags f / 4 →
      n = (p.getS (lRa f)).toNat → kk = (p.getS (lRb f)).toNat → fmt = resolveFmt p.nf x →
      out = (if raw = 1 then fmt else resolveFmt p.nf z) → e = (if (p.arr a).infoAct.t24 then 256 else 128) →
      s'.arrStall k a (some (lTag f)) = false → firstTrap [s'.arrOut k a, arrBusy p a, astreamTrap p f a] = none → s'.pondMark = [] →
      hdrs = (dHdrv x && (dFollow x || fmt == 0 || te == 0)) → chain = (cin == 1 && dHdrv y && (fmt == 0 || te == 0)) →
      refusedIn k (astreamRanges x y z (cin == 1) (raw == 1) fmt out e n hdrs) = none → s'.bitmapFault x e (min e kk) n = none →
      (hdrs = true → s'.HdrsFit x n fmt) → (chain = true → ∀ h ∈ s'.hdrsOf y n, h.fmt = fmt) →
      ∃ t o, exec (.astream (.core c) f) s = .next t ∧ ArrIssued s' t k ∧ ((t.proc k).arr a).ops = (p.arr a).ops ++ [o] ∧
        OpOf p a o .pass fmt out n m ∧ o.d1 = x ∧ o.d2 = y ∧ o.d3 = z ∧ o.k = kk ∧ o.cin = (cin == 1) ∧ o.raw = (raw == 1) ∧
        o.src1 = (if hdrs then (s'.hdrsOf x n).map (·.fmt) else []) ∧ o.f16 = (dFollow z && out == 0) ∧ o.tag = some (lTag f) ∧
        (fmt = 0 → o.top = none) ∧ (fmt ≠ 0 → te = 1 → o.top = some (p.getS (lRc f)).toInt) ∧
        (fmt ≠ 0 → te = 0 → cin = 0 →
          o.top = some (windowTop fmt kk (p.arr a).infoAct.maxexp (hdrMax ((s'.hdrsOf x n).map some)))) ∧
        (fmt ≠ 0 → te = 0 → cin = 1 → ∀ w, ((s'.hdrsOf y n).head?.bind (·.top)) = some w → o.top = some w) ∧
        Drew p (t.proc k) a (if m = mSR ∧ raw = 0 then 128 * n else 0) ∧
        (t.proc k).tagCount (lTag f) = p.tagCount (lTag f) + 1) ∧
    (∀ z out m, Issues s s' k [.d (lD3 f), .s (lRa f), .s (lRb f)] 8 → (s.proc k).getD (lD3 f) = z → p.getD (lD3 f) = z →
      resolveFmt (s.proc k).nf z = out → resolveFmt p.nf z = out → lOk f ['r', '3', 't', 'm', 'a', 'b'] 1 = true →
      (out = 8 → lTag f = 0 ∧ m = mSR) → (out ≠ 8 → rmMode (s.proc k) (lRm f) = some m ∧ rmMode p (lRm f) = some m) →
      s'.arrStall k a (if out = 8 then none else some (lTag f)) = false → firstTrap [s'.arrOut k a, adrainTrap p f] = none →
      refusedIn k ((if out = 8 then [] else vecRanges z 16 (128 * esize out) 128 ++ bitmapRanges z 128 128) ++
        hdrRangesIf z 128) = none →
      ∃ t o, exec (.adrain (.core c) f) s = .next t ∧ ArrIssued s' t k ∧ ((t.proc k).arr a).ops = (p.arr a).ops ++ [o] ∧
        OpOf p a o .drain (if (p.arr a).accLive then (p.arr a).accFmt else 0) out 128 m ∧ o.d3 = z ∧
        o.k = (if (p.arr a).accLive then 1 else 0) ∧ o.top = (if (p.arr a).accLive then (p.arr a).accTop else none) ∧
        o.tag = (if out = 8 then none else some (lTag f)) ∧ o.gword = p.getS (lRa f) ∧ o.block = p.getS (lRb f) ∧
        ((t.proc k).arr a).accLive = false ∧ ((t.proc k).arr a).acc = (p.arr a).acc ∧
        ((p.arr a).accLive = true → ((t.proc k).arr a).live = true) ∧ Drew p (t.proc k) a (if m = mSR then 16384 else 0) ∧
        (out ≠ 8 → (t.proc k).tagCount (lTag f) = p.tagCount (lTag f) + 1)) ∧
    (∀ (x y z w : Desc) (n fmt out m : Nat) (rng : Desc → List (Word × Nat)), Issues s s' k [.d (lD1 f), .d (lD2 f), .d (lD3 f), .d (lD4 f), .s (lRa f)] 8 →
      lOk f ['r', '1', '2', '3', '4', 't', 'm', 'a'] 2 = true → rmMode (s.proc k) (lRm f) = some m → rmMode p (lRm f) = some m →
      x = p.getD (lD1 f) → y = p.getD (lD2 f) → z = p.getD (lD3 f) → w = p.getD (lD4 f) → n = (p.getS (lRa f)).toNat →
      fmt = resolveFmt p.nf x → out = resolveFmt p.nf z →
      s'.arrStall k a (some (lTag f)) = false → firstTrap [s'.arrOut k a, arrBusy p a, adiagTrap p f] = none → s'.pondMark = [] →
      (∀ d : Desc, rng d = vecRanges d (esize fmt) (128 * esize fmt) n ++ bitmapRanges d 128 n ++ hdrRangesIf d n) →
      refusedIn k (rng x ++ rng y ++ (if lFlags f = 1 then rng w else []) ++
        vecRanges z 16 (128 * esize out) n ++ bitmapRanges z 128 n ++ hdrRangesIf z n) = none →
      (dHdrv x = true → s'.HdrsFit x n fmt) → (dHdrv y = true → s'.HdrsFit y n fmt) →
      (lFlags f = 1 → dHdrv w = true → s'.HdrsFit w n fmt) →
      ∃ t o, exec (.adiag (.core c) f) s = .next t ∧ ArrIssued s' t k ∧ ((t.proc k).arr a).ops = (p.arr a).ops ++ [o] ∧
        OpOf p a o .diag fmt out n m ∧ o.d1 = x ∧ o.d2 = y ∧ o.d3 = z ∧ o.d4 = w ∧ o.add = (lFlags f == 1) ∧ o.tag = some (lTag f) ∧
        Drew p (t.proc k) a (if m = mSR then 128 * n else 0) ∧ (t.proc k).tagCount (lTag f) = p.tagCount (lTag f) + 1)

/-- R106, R109, R139, R141, R239: `aacc` of operands that are granted, whose headers fit, opens or continues the accumulation in its
format and window; behind other work it waits in the queue, and an idle array performs it at once. Dense binary16 operands of finite
values then leave the exact sum of their products in every register, in units of 2^−48 (R54). -/
def Obligations.AccumulateOpensSums : Prop :=
  ∀ (c : CoreId) (f : BitVec 57) (s s' : State) (k a : Nat) (p : Proc) (x y m : Desc) (fmt kk gm : Nat) (hx hy : Bool),
    k = coreKey c → p = s'.proc k → a = lAr f → Issues s s' k [.d (lD1 f), .d (lD2 f), .d (lD3 f), .s (lRa f), .s (lRc f)] 8 →
    lOk f ['r', '1', '2', '3', 'a', 'c'] 4 = true → gm = lFlags f / 2 → x = p.getD (lD1 f) → y = p.getD (lD2 f) →
    m = p.getD (lD3 f) → fmt = resolveFmt p.nf x → kk = (p.getS (lRa f)).toNat →
    hx = (dHdrv x && (dFollow x || fmt == 0)) → hy = (dHdrv y && (dFollow y || fmt == 0)) → s'.arrStall k a none = false →
    firstTrap [s'.arrOut k a, aaccTrap p f a] = none → s'.pondMark = [] →
    refusedIn k (vecRanges x (esize fmt) (128 * esize fmt) kk ++ vecRanges y (esize fmt) (128 * esize fmt) kk ++
      (if hx then hdrRanges x kk else []) ++ (if hy then hdrRanges y kk else []) ++
      (bitmapRanges x 128 kk ++ bitmapRanges y 128 kk ++ (if gm = 1 then [(dMd m, 1088)] else []))) = none →
    (gm = 1 → s'.t24Bad (dMd m) = false) → (hx = true → s'.HdrsFit x kk fmt) → (hy = true → s'.HdrsFit y kk fmt) →
    ∃ t, exec (.aacc (.core c) f) s = .next t ∧ ArrIssued s' t k ∧ ((t.proc k).arr a).accLive = true ∧
      ((t.proc k).arr a).accFmt = fmt ∧ ((t.proc k).arr a).accTop = (if fmt = 0 then none else some (p.getS (lRc f)).toInt) ∧
      ((∃ q r, (p.arr a).ops = q :: r ∧ q.kind ≠ .acc) → ∃ o, ((t.proc k).arr a).ops = (p.arr a).ops ++ [o] ∧ o.kind = .acc ∧
        o.d1 = x ∧ o.d2 = y ∧ o.k = kk ∧ o.fmt = fmt ∧ o.gm = (gm == 1) ∧ o.fail = false ∧ ((t.proc k).arr a).acc = (p.arr a).acc) ∧
      ((p.arr a).ops = [] → s'.safety.fence = false → ((t.proc k).arr a).ops = [] ∧
        (fmt = 0 → gm = 0 → (p.arr a).acc = [] → dFollow x = false → dFollow y = false → hx = false → hy = false →
          dMdv x = false → dMdv y = false → dKind x = 0 → dRsplit x = false →
          (∀ v < kk, ∀ i < 128, (unpack (Fmt.of 0) (s'.natAt (dVec x v + BitVec.ofNat 64 (i * 2)).toNat 2)).finite = true ∧
            (unpack (Fmt.of 0) (s'.natAt (dVec y v + BitVec.ofNat 64 (i * 2)).toNat 2)).finite = true) →
          ∀ i < 128, ∀ j < 128, ((((t.proc k).arr a).accRow i).1.getD j Cell.fresh).reg =
            ((List.range kk).map (fun v => prod48 (s'.natAt (dVec x v + BitVec.ofNat 64 (i * 2)).toNat 2)
              (s'.natAt (dVec y v + BitVec.ofNat 64 (j * 2)).toNat 2))).sum))

/-- R94 to R98, R105: the oldest load that no unattached swap precedes is captured into the idle latch with its checksum residues, a
dense tile's values in their rows or, transposed, in their columns, and its tag completes; a refused one captures nothing and completes
with an error; a swap token attaches to the next pass and exchanges the latches, once no earlier load is outstanding. -/
def Obligations.LatchesLoadAndSwap : Prop :=
  ∀ (c : CoreId) (a : Fin 2) (s : State) (k : Nat), k = coreKey c → s.arrRuns k = true →
    (∀ l rest, (s.array k a.val).loads = l :: rest → l.ahead = 0 → s.pondMark = [] →
      (l.fail = false →
        ∃ t rows, exec (.aloadCaptureComplete c a none) s = .next t ∧
          (t.array k a.val).latIdle = ⟨l.fmt, dMdv l.desc, rows, rows.map (rowResidue (Fmt.of l.fmt)),
            if dMdv l.desc then violations rows else 0⟩ ∧
          rows.length = (if dMdv l.desc then 256 else 128) ∧
          (dMdv l.desc = false → srcOf l.src l.fmt 0 = l.fmt → ∀ i < 128, ∀ j < 128,
            (rows.getD (if l.tr then j else i) []).getD (if l.tr then i else j) none =
              some (if i < dE l.desc 1 ∧ j < dE l.desc 0 then
                s.natAt (dBase l.desc + BitVec.ofNat 64 (i * dS l.desc 1 + j * esize l.fmt)).toNat (esize l.fmt) else 0)) ∧
          (t.array k a.val).latUse = (s.array k a.val).latUse ∧ (t.array k a.val).loads = rest ∧
          (t.proc k).tagCount l.tag = (s.proc k).tagCount l.tag - 1 ∧ t.mem = s.mem) ∧
      (l.fail = true → l.tag < 32 →
        ∃ t, exec (.aloadCaptureComplete c a none) s = .next t ∧ (t.array k a.val).latIdle = (s.array k a.val).latIdle ∧
          (t.array k a.val).loads = rest ∧ (t.proc k).tagCount l.tag = (s.proc k).tagCount l.tag - 1 ∧
          (t.proc k).tagErr.getLsbD l.tag = true ∧ t.mem = s.mem)) ∧
    (∀ o v rest, (s.array k a.val).ops = o :: v :: rest → o.kind = .swap → v.kind = .pass ∨ v.kind = .diag →
      (s.array k a.val).loads.any (·.ahead == 0) = false → s.safety.fence = false →
      ∃ t, exec (.swapTokenAttach c a) s = .next t ∧ (t.array k a.val).latUse = (s.array k a.val).latIdle ∧
        (t.array k a.val).latIdle = (s.array k a.val).latUse ∧ (t.array k a.val).ops = v :: rest ∧ t.mem = s.mem ∧
        (t.array k a.val).loads = (s.array k a.val).loads.map (fun l => { l with ahead := l.ahead - 1 }))

/-- R108, R110, R117, R119, R240: an operation refused at issue ends with an error on its tag and writes nothing; one vector of a pass or
a diagonal that is not the last leaves the operation at the head of the queue, one position on; a vector of a diagonal of plain
operands writes the rounded sums a × b + c. -/
def Obligations.DrainOutputAdvances : Prop :=
  ∀ (c : CoreId) (a : Fin 2) (s : State) (k : Nat) (o : ArrOp) (rest : List ArrOp) (t0 : Nat), k = coreKey c →
    s.arrRuns k = true → s.safety.fence = false → (s.array k a.val).ops = o :: rest → o.kind = .pass ∨ o.kind = .diag →
    (o.fail = true → o.tag = some t0 → o.resBad = false → o.cancels = 0 → rest = [] →
      ∃ t, exec (.drainOutputWrite c a) s = .next t ∧ (t.array k a.val).ops = [] ∧ t.mem = s.mem ∧
        (t.proc k).tagCount t0 = (s.proc k).tagCount t0 - 1 ∧ (t0 < 32 → (t.proc k).tagErr.getLsbD t0 = true)) ∧
    (o.fail = false → o.pos + 1 < o.n →
      ∃ t o', exec (.drainOutputWrite c a) s = .next t ∧ (t.array k a.val).ops = o' :: rest ∧ o'.pos = o.pos + 1 ∧
        o'.kind = o.kind ∧ o'.tag = o.tag ∧ (t.proc k).tagCount t0 = (s.proc k).tagCount t0) ∧
    (∀ (st cl off : Nat) (x : Desc → Nat → Nat) (y : Nat → Drained) (w : Nat → Nat), o.kind = .diag → o.fail = false → o.pos + 1 < o.n → o.pos % 128 ≠ 127 → o.mode ≠ mSR → s.pondMark = [] →
      o.src1 = [] → o.src2 = [] → o.src4 = [] → dKind o.d1 = 0 → dKind o.d2 = 0 → dKind o.d4 = 0 → dMdv o.d1 = false →
      dMdv o.d2 = false → dMdv o.d3 = false → dMdv o.d4 = false →
      place (dVec o.d3 o.pos) = .pond st cl off → off + 128 * esize o.out ≤ 2 ^ 26 →
      (∀ (d : Desc) (j : Nat), x d j = s.natAt (dVec d o.pos + BitVec.ofNat 64 (j * esize o.fmt)).toNat (esize o.fmt)) →
      (∀ j, y j = diagOne (Fmt.of o.fmt) (Fmt.of o.out) o.add o.mode 0 (x o.d1 j) (x o.d2 j) (w j)) →
      (∀ j, w j = if o.add then x o.d4 j else 0) →
      ∃ t, exec (.drainOutputWrite c a) s = .next t ∧
        t.bytesAt (dVec o.d3 o.pos).toNat (128 * esize o.out) =
          (List.range 128).flatMap (fun j => leBytes (esize o.out) (y j).bits) ∧
        s.SameMemOutside t (dVec o.d3 o.pos).toNat (128 * esize o.out))

/-- R367, R368, R113, R114, R649, Table 11.1: the oldest report of a cluster reaches its aggregator. An overflow of a FOLLOW binary16
output of an execution begun in binary16 calls for a replay; any other overflow poisons the step and writes code 0x1104; a non-finite
value does so with code 0x1105; a range violation is a detection with code 0x2101; a cancellation is counted inside a span, or recorded
at once with code 0x1106; a window loss is counted. -/
def Obligations.WeirActsOnReports : Prop :=
  ∀ (q : ClusterId) (s : State) (r : Report) (rest : List Report) (e : Exec), (s.cluster (clKey q)).reports = r :: rest →
    s.safety.fence = false → e = (s.cluster (clKey q)).exec r.core →
    (∀ follow fmt, r.kind = .overflow follow fmt →
      (r.inSpan = true → follow = true → e.nf = false →
        ∃ t, exec (.weirReport q) s = .next t ∧ (t.cluster (clKey q)).reports = rest ∧
          (t.cluster (clKey q)).exec r.core = { e with replay := some (e.replay.getD r.arr) } ∧
          t.evrec = s.evrec ∧ t.bars = s.bars ∧ t.mem = s.mem) ∧
      (r.inSpan = false ∨ follow = false ∨ e.nf = true →
        ∃ t, exec (.weirReport q) s = .next t ∧ (t.cluster (clKey q)).reports = rest ∧ s.Wrote t 0x1104 ∧
          (r.inSpan = true → (t.cluster (clKey q)).exec r.core = { e with poison := true }) ∧
          (t.bar (clKey q / 10)).poison = true ∧ t.mem = s.mem)) ∧
    (r.kind = .nonfinite →
      ∃ t, exec (.weirReport q) s = .next t ∧ (t.cluster (clKey q)).reports = rest ∧ s.Wrote t 0x1105 ∧
        (r.inSpan = true → (t.cluster (clKey q)).exec r.core = { e with poison := true }) ∧
        (t.bar (clKey q / 10)).poison = true ∧ t.mem = s.mem) ∧
    (∀ bound v, r.kind = .range bound v →
      ∃ t, exec (.weirReport q) s = .next t ∧ (t.cluster (clKey q)).reports = rest ∧ s.Wrote t 0x2101 ∧
        t.safety.queue.length = s.safety.queue.length + 1 ∧ (t.bar (clKey q / 10)).poison = true ∧ t.mem = s.mem ∧
        (r.inSpan = true → (t.cluster (clKey q)).exec r.core = { e with poison := true })) ∧
    (∀ n, r.kind = .cancel n →
      (r.inSpan = true → ∃ t, exec (.weirReport q) s = .next t ∧ (t.cluster (clKey q)).reports = rest ∧ t.evrec = s.evrec ∧
        (t.cluster (clKey q)).exec r.core = { e with
          poison := e.poison || s.cancelPoisons, can0 := e.can0 + (if r.arr = 0 then n else 0),
          can1 := e.can1 + (if r.arr = 0 then 0 else n) }) ∧
      (r.inSpan = false → ∃ t, exec (.weirReport q) s = .next t ∧ (t.cluster (clKey q)).reports = rest ∧ s.Wrote t 0x1106 ∧
        (t.bar (clKey q / 10)).poison = (s.cancelPoisons || (s.bar (clKey q / 10)).poison))) ∧
    (r.kind = .wloss →
      ∃ t, exec (.weirReport q) s = .next t ∧ (t.cluster (clKey q)).reports = rest ∧ t.evrec = s.evrec ∧ t.bars = s.bars ∧
        (r.inSpan = true → (t.cluster (clKey q)).exec r.core = { e with wloss := e.wloss + 1 }))

/-! ## Descriptors, DMA and the sparsity unit -/

/-- R235, R228: `ddld` loads 32 bytes of the own pond into D1, `ddst` stores them, and `ddset` replaces one word of D1, or adds to
BASE. -/
def Obligations.DescriptorMoves : Prop :=
  ∀ (c : CoreId) (f : BitVec 57) (s s' : State) (k : Nat) (p : Proc) (a : Word), k = coreKey c → p = s'.proc k → a = p.getS (lRa f) →
    Issues s s' k [.d (lD1 f), .s (lRa f)] 8 →
    (lOk f ['1', 'a'] 1 = true → s'.ddFault k a false = none → LocalAccess s' k a 32 32 false →
      ∃ t, exec (.ddld (.core c) f) s = .next t ∧
        Retired s' t k (p.setD (lD1 f) (BitVec.ofNat 256 (leNat (s'.bytesAt a.toNat 32)))) (p.pc + 8)) ∧
    (lOk f ['1', 'a'] 1 = true → s'.ddFault k a true = none → LocalAccess s' k a 32 32 true → s'.traced k = false →
      ∃ t, exec (.ddst (.core c) f) s = .next t ∧ leNat (t.bytesAt a.toNat 32) = (p.getD (lD1 f)).toNat ∧
        s'.SameMemOutside t a.toNat 32 ∧ t.proc k = { p with pc := p.pc + 8 }) ∧
    (lOk f ['1', 'a'] 8 = true → lFlags f < 4 →
      ∃ t d, exec (.ddset (.core c) f) s = .next t ∧ Retired s' t k (p.setD (lD1 f) d) (p.pc + 8) ∧
        ∀ i < 256, d.getLsbD i = if i / 64 = lFlags f then a.getLsbD (i % 64) else (p.getD (lD1 f)).getLsbD i) ∧
    (lOk f ['1', 'a'] 8 = true → lFlags f = 4 →
      ∃ t d, exec (.ddset (.core c) f) s = .next t ∧ Retired s' t k (p.setD (lD1 f) d) (p.pc + 8) ∧
        dBase d = dBase (p.getD (lD1 f)) + a ∧ ∀ i, 64 ≤ i → d.getLsbD i = (p.getD (lD1 f)).getLsbD i)

/-- R178, R181, R242 to R244, R24: a `dget` or `dput` that is refused writes nothing, reports the address, and completes its tag with an
error; a `dget` with a part that the mesh must fetch becomes a transfer on its tag; `dcast` to a group that is not in the node's table
fails with code 0x4106; `dwait` retires once no transfer of the core has source bytes left to read. -/
def Obligations.DmaTransfers : Prop :=
  ∀ (c : CoreId) (f : BitVec 57) (s s' : State) (k : Nat) (p : Proc) (x y : Desc), k = coreKey c → p = s'.proc k →
    x = p.getD (lD1 f) → y = p.getD (lD3 f) →
    (Issues s s' k [.d (lD1 f), .d (lD3 f)] 8 → lOk f ['1', '3', 't'] 1 = true → s'.dmaStall k (lTag f) = false →
      dmaTrap f x y = none →
      (∀ w, s'.dmaRefused k true (dmaParts x y) = some w →
        ∃ t, exec (.dget (.core c) f) s = .next t ∧ t.evrec.queue.getLast?.map (·.code) = some 0x7101 ∧
          (t.proc k).tagCount (lTag f) = p.tagCount (lTag f) ∧ (t.proc k).tagErr.getLsbD (lTag f) = true ∧
          (t.proc k).pc = p.pc + 8 ∧ (s'.traced k = false → t.mem = s'.mem)) ∧
      (∀ w, s'.dmaRefused k false (dmaParts x y) = some w →
        ∃ t, exec (.dput (.core c) f) s = .next t ∧ t.evrec.queue.getLast?.map (·.code) = some 0x7101 ∧
          (t.proc k).tagErr.getLsbD (lTag f) = true ∧ (t.proc k).pc = p.pc + 8 ∧ (s'.traced k = false → t.mem = s'.mem)) ∧
      (∀ a d n, s'.dmaRefused k true (dmaParts x y) = none → dmaParts x y = [(a, d, n)] → localTo k a = false →
        ∃ t, exec (.dget (.core c) f) s = .next t ∧
          t.xfers = s'.xfers ++ [⟨s'.nextId, k, .tag (lTag f), 1, 1, false, true, []⟩] ∧
          t.reqs = s'.reqs ++ [⟨s'.nextId + 1, k, nodeOfUnit k, a, .xferRd s'.nextId d⟩] ∧
          (t.proc k).tagCount (lTag f) = p.tagCount (lTag f) + 1 ∧ (t.proc k).pc = p.pc + 8) ∧
      (∀ a d n, s'.dmaRefused k false (dmaParts x y) = none → dmaParts x y = [(a, d, n)] → localTo k a = true → localTo k d = true →
        s'.pondMark = [] → (∃ st cl off, place a = .pond st cl off) → (∃ st cl off, place d = .pond st cl off) → s'.traced k = false →
        ∃ t, exec (.dput (.core c) f) s = .next t ∧ t.bytesAt d.toNat n = s'.bytesAt a.toNat n ∧ s'.SameMemOutside t d.toNat n ∧
          (t.proc k).tagCount (lTag f) = p.tagCount (lTag f) ∧ (t.proc k).pc = p.pc + 8)) ∧
    (Issues s s' k [.d (lD1 f), .d (lD3 f), .s (lRa f)] 8 → lOk f ['1', '3', 't', 'a'] 1 = true → s'.dmaStall k (lTag f) = false →
      dmaTrap f x y = none → (p.getS (lRa f)).toNat < 256 → (∀ q ∈ dmaParts x y, ownPond k q.1 q.2.2 = true) →
      (∀ q ∈ dmaParts x y, ∃ st cl off, place q.2.1 = .pond st cl off ∧ off + q.2.2 ≤ 2 ^ 26) →
      (mcValid (Tbl.get (s'.node (nodeOfUnit k)).multi 0 (p.getS (lRa f)).toNat) = false →
        ∃ t, exec (.dcast (.core c) f) s = .next t ∧ t.evrec.queue.getLast?.map (·.code) = some 0x4106 ∧
          (t.proc k).tagErr.getLsbD (lTag f) = true ∧ (t.proc k).pc = p.pc + 8) ∧
      (mcValid (Tbl.get (s'.node (nodeOfUnit k)).multi 0 (p.getS (lRa f)).toNat) = true → s'.pondMark = [] →
        ∃ t, exec (.dcast (.core c) f) s = .next t ∧ t.mesh.length = s'.mesh.length + (dmaParts x y).length ∧
          t.reqs.length = s'.reqs.length + (dmaParts x y).length ∧
          (t.proc k).tagCount (lTag f) = p.tagCount (lTag f) + 1 ∧ (t.proc k).pc = p.pc + 8)) ∧
    (Issues s s' k [] 8 → lOk f [] 1 = true → s'.xfers.any (fun z => z.owner == k && z.dma && decide (z.srcLeft > 0)) = false →
      ∃ t, exec (.dwait (.core c) f) s = .next t ∧ Retired s' t k p (p.pc + 8))

/-- R145 to R148, R245: each form of `smask` whose operands are granted takes a request to the cluster's pruning unit on its tag. A source
without uncorrectable words is then turned, for the bitmap form, into one 16-byte word a row whose bits mark the elements other than
zero, and for the prune form into the best pattern of each block, and the tag completes. -/
def Obligations.MaskRequestsAndBitmaps : Prop :=
  (∀ (c : CoreId) (f : BitVec 57) (s s' : State) (k form : Nat) (p : Proc) (x y : Desc), k = coreKey c → p = s'.proc k →
    x = p.getD (lD1 f) → y = p.getD (lD3 f) → Issues s s' k [.d (lD1 f), .d (lD3 f)] 8 → lOk f ['1', '3', 't'] 3 = true →
    lFlags f = form → s'.storesOut k = false → p.tagCount (lTag f) < 255 → smaskTrap form f x y = none → s'.pondMark = [] →
    refusedIn k (smaskRanges form x y) = none → s'.hdrDims x = false → (form = 1 → s'.t24Bad (dMd y) = false) →
    ∃ t, (form = 0 → exec (.smaskPrune (.core c) f) s = .next t) ∧ (form = 1 → exec (.smaskKeep (.core c) f) s = .next t) ∧
      (form = 2 → exec (.smaskBitmap (.core c) f) s = .next t) ∧
      (t.cluster (clOf k)).prune = (s'.cluster (clOf k)).prune ++ [⟨k % 9, form, x, y, dFmt x, p.nf, lTag f, p.span.isSome⟩] ∧
      t.proc k = { p.tagUp (lTag f) with pc := p.pc + 8 } ∧ (s'.traced k = false → t.mem = s'.mem)) ∧
  (∀ (q : ClusterId) (s : State) (r : PruneReq) (rest : List PruneReq) (k : Nat) (rows : List (List Nat)),
    (s.cluster (clKey q)).prune = r :: rest → k = 9 * clKey q + r.core → s.polderOn (clKey q / 10) = true →
    s.safety.fence = false → s.pondMark = [] → (∃ st cl off, place (dBase r.dst) = .pond st cl off) →
    rows = (List.range (dE r.src 1)).map (fun i => (List.range (dE r.src 0)).map (fun j =>
      s.natAt (dBase r.src + BitVec.ofNat 64 (i * dS r.src 1 + j * esize (dFmt r.src))).toNat (esize (dFmt r.src)))) →
    (r.form = 2 → ∃ t, exec (.pruningUnitComplete q) s = .next t ∧ (t.cluster (clKey q)).prune = rest ∧
      t.bytesAt (dBase r.dst).toNat (16 * dE r.src 1) = (rows.map (fun xs => leBytes 16 (bitmapWord (Fmt.of r.fmt) xs))).flatten ∧
      s.SameMemOutside t (dBase r.dst).toNat (16 * dE r.src 1) ∧
      (t.proc k).tagCount r.tag = (s.proc k).tagCount r.tag - 1) ∧
    (r.form = 0 → dHdrv r.dst = false → ownPond k (dBase r.dst) (8192 * esize r.fmt) = true → ownPond k (dMd r.dst) 1088 = true →
      ∃ t, exec (.pruningUnitComplete q) s = .next t ∧ (t.cluster (clKey q)).prune = rest ∧
        t.bytesAt (dMd r.dst).toNat 1024 = (List.range 1024).map (fun b => BitVec.ofNat 8
          (bestPattern (Fmt.of r.fmt) ((List.range 90).map (fun i => maskBits (patMask i))) (blockAt rows b))) ∧
        t.natAt ((dMd r.dst).toNat + 1032) 2 = 0 ∧
        (∀ x, (x < (dBase r.dst).toNat ∨ (dBase r.dst).toNat + 8192 * esize r.fmt ≤ x) →
          (x < (dMd r.dst).toNat ∨ (dMd r.dst).toNat + 1088 ≤ x) → memByte t.mem x = memByte s.mem x) ∧
        (t.proc k).tagCount r.tag = (s.proc k).tagCount r.tag - 1))

/-- R149, R246: `smerge` of index streams in the own pond that are free of faults writes its outputs and its 16-byte record and retires:
match, coalesce and union. Every byte outside its outputs and its record reads as before. -/
def Obligations.IndexMergesRetire : Prop :=
  ∀ (c : CoreId) (f : BitVec 57) (s s' : State) (k op w : Nat) (p : Proc) (a b o : Desc) (rec' : Word) (xs ys : List Nat)
    (r : MergeRes), k = coreKey c → p = s'.proc k → a = p.getD (lD1 f) → b = p.getD (lD2 f) → o = p.getD (lD3 f) →
    rec' = p.getS (lRa f) → Issues s s' k [.d (lD1 f), .d (lD2 f), .d (lD3 f), .s (lRa f)] 8 → lOk f ['1', '2', '3', 'a'] 3 = true →
    lFlags f = op → s'.storesOut k = false → smergeTrap op f a b o rec' = none → s'.pondMark = [] → w = (if op = 2 then 8 else 4) →
    refusedIn k [(dBase a, 4 * dCount a), (dBase b, 4 * (if op = 1 then dCount a else dCount b)),
      (dBase o, w * (dCount a + (if op = 2 then dCount b else 0))), (rec', 16)] = none →
    xs = s'.indices a → ys = (if op = 1 then [] else s'.indices b) →
    r = (if op = 0 then mergeMatch (dX a) (xs.length + ys.length + 1) xs ys 0 none none []
      else if op = 1 then mergeCoalesce (dX a) xs none [] []
      else mergeUnion (dX a) (xs.length + ys.length + 1) xs ys none none []) → r.fault = none →
    ∃ t n1 n2, (op = 0 → exec (.smergeMatch (.core c) f) s = .next t) ∧ (op = 1 → exec (.smergeCoalesce (.core c) f) s = .next t) ∧
      (op = 2 → exec (.smergeUnion (.core c) f) s = .next t) ∧
      t.proc k = { p with pc := p.pc + 8 } ∧ (∀ j, j ≠ k → t.proc j = s'.proc j) ∧
      (op = 0 → n1 = (r.out.filter (· != 0xFFFFFFFF)).length ∧ n2 = xs.length - n1) ∧
      (op = 1 → n1 = r.uniq.length ∧ n2 = xs.length - n1) ∧ (op = 2 → n1 = r.out.length ∧ n2 = 0) ∧
      (s'.traced k = false →
        t.bytesAt rec'.toNat 16 = leBytes 4 n1 ++ leBytes 4 n2 ++ leBytes 8 0 ∧
        (∀ x, (x < rec'.toNat ∨ rec'.toNat + 16 ≤ x) → (x < (dBase o).toNat ∨ (dBase o).toNat + w * r.out.length ≤ x) →
          (op = 1 → x < (dBase b).toNat ∨ (dBase b).toNat + 4 * r.uniq.length ≤ x) → memByte t.mem x = memByte s'.mem x) ∧
        (rec'.toNat + 16 ≤ (dBase o).toNat ∨ (dBase o).toNat + w * r.out.length ≤ rec'.toNat →
          (op = 1 → rec'.toNat + 16 ≤ (dBase b).toNat ∨ (dBase b).toNat + 4 * r.uniq.length ≤ rec'.toNat) →
          (op = 1 → (dBase o).toNat + 4 * r.out.length ≤ (dBase b).toNat ∨ (dBase b).toNat + 4 * r.uniq.length ≤ (dBase o).toNat) →
          t.bytesAt (dBase o).toNat (w * r.out.length) = r.out.flatMap (leBytes w) ∧
          (op = 1 → t.bytesAt (dBase b).toNat (4 * r.uniq.length) = r.uniq.flatMap (leBytes 4))))

/-- R149, Table 4.4: of a stream in order and below the extent, coalesce gives each index once, in order, and for every entry the position
of its index among them; of a stream in order and a strictly rising one, match gives for every entry the position of its index in the
second stream, or 0xFFFF_FFFF where it is absent; of two strictly rising streams, union gives each index once, in order, with where it
is present. -/
def Obligations.MergeResultsAreRight : Prop :=
  (∀ (x : Nat) (xs : List Nat), xs.Pairwise (· ≤ ·) → (∀ a ∈ xs, a < x) →
    (mergeCoalesce x xs none [] []).fault = none ∧
    (mergeCoalesce x xs none [] []).uniq.Pairwise (· < ·) ∧
    (mergeCoalesce x xs none [] []).out.length = xs.length ∧
    ∀ i < xs.length, (mergeCoalesce x xs none [] []).uniq[(mergeCoalesce x xs none [] []).out.getD i 0]? = xs[i]?) ∧
  (∀ (x n : Nat) (xs ys : List Nat), xs.Pairwise (· ≤ ·) → ys.Pairwise (· < ·) → (∀ a ∈ xs, a < x) → (∀ b ∈ ys, b < x) →
    xs.length + ys.length < n →
    (mergeMatch x n xs ys 0 none none []).fault = none ∧
    (mergeMatch x n xs ys 0 none none []).out.length = xs.length ∧
    ∀ i < xs.length, (mergeMatch x n xs ys 0 none none []).out[i]? =
      some (match ys.findIdx? (· == xs.getD i 0) with | some j => j | none => 0xFFFFFFFF)) ∧
  (∀ (x n : Nat) (xs ys : List Nat), xs.Pairwise (· < ·) → ys.Pairwise (· < ·) → (∀ a ∈ xs, a < x) → (∀ b ∈ ys, b < x) →
    x ≤ 2 ^ 32 → xs.length + ys.length < n →
    (mergeUnion x n xs ys none none []).fault = none ∧
    ((mergeUnion x n xs ys none none []).out.map (· % 2 ^ 32)).Pairwise (· < ·) ∧
    ∀ e, e ∈ (mergeUnion x n xs ys none none []).out ↔
      ∃ i, (i ∈ xs ∨ i ∈ ys) ∧ e = i + (if i ∈ xs then 2 ^ 32 else 0) + (if i ∈ ys then 2 ^ 33 else 0))

/-! ## Springs and re-streams -/

/-- R307, R308, R28: `wave` beside waves that wait, whose gate word still lies below its minimum, waits with them; the poll that finds the word there moves a wave on to its
seals; a poll of the seals that passes the last shard sends every row of every tile as a multicast, and one that finds heads newer than
the wave's step stops it, writes code 0x1501 and poisons. -/
def Obligations.WavesWaitAndStream : Prop :=
  (∀ (sp : Fin 16) (f : BitVec 57) (s s' : State) (k : Nat) (p : Proc) (d : Desc) (ra : Word) (g : SprGrp),
    k = unitKey (.spring sp) → p = s'.proc k → d = p.getD (lD1 f) → ra = p.getS (lRa f) →
    Issues s s' k [.d (lD1 f), .s (lRa f), .s (lRb f), .s (lRc f)] 8 → lOk f ['1', 't', 'a', 'b', 'c'] 1 = true →
    s'.storesOut k = false → (s'.spring sp).waves.length < 4 → p.tagCount (lTag f) < 255 →
    (∀ v ∈ (s'.spring sp).waves, v.phase = .gate ∨ v.phase = .seal ∨ v.phase = .stopped) → (∀ x ∈ s'.xfers, x.err = false) →
    waveTrap (s'.spring sp) f d ra (p.getS (lRb f)) (p.getS (lRc f)) = none → s'.waveRefused sp d = none →
    (∀ x ∈ s'.xfers, x.id < s'.nextId) → (s'.spring sp).grp (ra.toNat % 256) = some g →
    s'.accessFault k g.gate 8 8 false = none → s'.pondMark = [] → s'.lakeMark = [] → s'.traced k = false →
    s'.natAt g.gate.toNat 8 < ra.toNat / 2 ^ 32 →
    ∃ t w, exec (.wave (.spring sp) f) s = .next t ∧ (t.spring sp).waves = (s'.spring sp).waves ++ [w] ∧ w.phase = .gate ∧ w.desc = d ∧
      w.group = ra.toNat % 256 ∧ w.wave = ra.toNat / 256 % 65536 ∧ w.gatemin = ra.toNat / 2 ^ 32 ∧
      w.off = (p.getS (lRb f)).toNat ∧ w.step = (p.getS (lRc f)).toNat ∧ w.tag = lTag f ∧
      t.proc k = { p.tagUp (lTag f) with pc := p.pc + 8 } ∧ t.mem = s'.mem ∧ t.mesh = s'.mesh) ∧
  (∀ (sp : Fin 16) (s : State) (w : Wave) (x : Xfer), s.sprRuns sp = true → (s.spring sp).waves = [w] → s.xfer w.xfer = some x →
    x.err = false → x.left = 0 → s.pondMark = [] → s.lakeMark = [] →
    (∀ g sh rest q, w.phase = .gate → w.shardsDone = 0 → (s.spring sp).grp w.group = some g →
      s.accessFault (sprKey + sp) g.gate 8 8 false = none → w.gatemin ≤ s.natAt g.gate.toNat 8 →
      waveShards s w.desc = sh :: rest → 0 < tileCount w.desc → w.sent = 0 → tileShards s w.desc 0 ≠ [] →
      sealGood (s.bytesAt (sealAddr s sh).toNat 64) = true → q = sealOf (s.bytesAt (sealAddr s sh).toNat 64) →
      q.hstep + 1 < w.step →
      ∃ t, exec (.gateWordPoll sp) s = .next t ∧ (t.spring sp).waves = [{ w with phase := .seal }] ∧ t.mem = s.mem ∧
        t.mesh = s.mesh ∧ t.procs = s.procs ∧ t.evrec = s.evrec) ∧
    (∀ sh q, w.phase = .seal → (waveShards s w.desc)[w.shardsDone]? = some sh →
      sealGood (s.bytesAt (sealAddr s sh).toNat 64) = true → q = sealOf (s.bytesAt (sealAddr s sh).toNat 64) →
      (q.hstep + 1 = w.step → w.shardsDone + 1 = (waveShards s w.desc).length → w.sent < tileCount w.desc → 0 < dE w.desc 1 →
        ∃ t v, exec (.sealPoll sp) s = .next t ∧ (t.spring sp).waves = [v] ∧ v.phase = .tiles ∧ v.sent = tileCount w.desc ∧
          v.xfer = w.xfer ∧ v.tag = w.tag ∧ t.mesh.length = s.mesh.length + dE w.desc 1 * (tileCount w.desc - w.sent) ∧
          t.mem = s.mem ∧ t.procs = s.procs) ∧
      (w.step < q.hstep + 1 →
        ∃ t, exec (.sealPoll sp) s = .next t ∧ (t.spring sp).waves = [{ w with phase := .stopped }] ∧ t.mesh = s.mesh ∧
          t.evrec.queue.getLast?.map (·.code) = some 0x1501 ∧ (t.bar (56 + sp / 4)).poison = true ∧ t.mem = s.mem)))

/-- R317 to R320: a request is queued, or merged into the re-stream in service for its wave, step and cluster; a queued one whose wave is
in the log and whose shards' states stand at its step less one starts with the queued ones for the same merged into it, sending every
row and the headers; a wave that is not in the log, or a shard that does not stand there, refuses it with code 0x1501; each release
counts one merged request off, and the last frees the slot. -/
def Obligations.ReStreamsServed : Prop :=
  ∀ (sp : Fin 16) (s : State), s.sprRuns sp = true →
    (∀ p rest wv st cl co, s.mesh = p :: rest → p.kind = .ctl → p.loc = nodeOfSpring sp → p.dst = nodeOfSpring sp →
      p.ctl = .restream sp wv st cl co →
      ((∀ v ∈ (s.spring sp).rs, ¬ (v.cluster = cl ∧ v.wave = wv ∧ v.step = st)) → (s.spring sp).rsQ.length < 8 →
        ∃ t, exec (.reStreamRequest sp) s = .next t ∧ t.mesh = rest ∧ (t.spring sp).rsQ = (s.spring sp).rsQ ++ [⟨wv, st, cl, co⟩] ∧
          (t.spring sp).rs = (s.spring sp).rs ∧ t.mem = s.mem) ∧
      (∀ v, (s.spring sp).rs = [v] → v.cluster = cl → v.wave = wv → v.step = st →
        ∃ t, exec (.reStreamRequest sp) s = .next t ∧ t.mesh = rest ∧ (t.spring sp).rs = [{ v with releases := v.releases + 1 }] ∧
          (t.spring sp).rsQ = (s.spring sp).rsQ ∧ t.mem = s.mem)) ∧
    (∀ r rest, (s.spring sp).rsQ = r :: rest → (s.spring sp).logged r = none →
      ∃ t, exec (.reStreamStart sp) s = .next t ∧ (t.spring sp).rsQ = rest ∧ (t.spring sp).rs = (s.spring sp).rs ∧ s.Wrote t 0x1501 ∧
        (t.bar (56 + sp / 4)).poison = true ∧ t.mesh = s.mesh ∧ t.mem = s.mem) ∧
    (∀ (r : RsReq) (rest : List RsReq) (e : WaveLog) (same : RsReq → Bool), (s.spring sp).rsQ = r :: rest →
      (s.spring sp).logged r = some e → (s.spring sp).rs = [] → s.pondMark = [] → s.lakeMark = [] →
      (∀ v, same v = (v.cluster == r.cluster && v.wave == r.wave && v.step == r.step)) →
      (∀ g, (s.spring sp).grp e.group = some g →
        (∀ sh ∈ waveShards s e.desc, sealGood (s.bytesAt (sealAddr s sh).toNat 64) = true ∧
          (sealOf (s.bytesAt (sealAddr s sh).toNat 64)).sstep + 1 = r.step) →
        ∃ t v, exec (.reStreamStart sp) s = .next t ∧ (t.spring sp).rsQ = rest.filter (fun v => !same v) ∧ (t.spring sp).rs = [v] ∧
          v.wave = r.wave ∧ v.step = r.step ∧ v.cluster = r.cluster ∧ v.group = e.group ∧ v.desc = e.desc ∧ v.off = g.rploff ∧
          v.releases = 1 + (rest.filter same).length ∧ v.flagOut = false ∧
          t.reqs.length = s.reqs.length + dE e.desc 1 * tileCount e.desc + 1 ∧
          t.mesh.length = s.mesh.length + dE e.desc 1 * tileCount e.desc + 1 ∧ t.mem = s.mem ∧ t.procs = s.procs) ∧
      (∀ sh others, waveShards s e.desc = sh :: others → sealGood (s.bytesAt (sealAddr s sh).toNat 64) = true →
        (sealOf (s.bytesAt (sealAddr s sh).toNat 64)).sstep + 1 ≠ r.step →
        ∃ t, exec (.reStreamStart sp) s = .next t ∧ (t.spring sp).rsQ = rest.filter (fun v => !same v) ∧ (t.spring sp).rs = [] ∧
          t.evrec.queue.getLast?.map (·.code) = some 0x1501 ∧ (t.bar (56 + sp / 4)).poison = true ∧ t.mesh = s.mesh)) ∧
    (∀ p rest wv st cl v, s.mesh = p :: rest → p.kind = .ctl → p.loc = nodeOfSpring sp → p.dst = nodeOfSpring sp →
      p.ctl = .release sp wv st cl → (s.spring sp).rs = [v] → v.cluster = cl → v.wave = wv → v.step = st →
      ∃ t, exec (.reStreamRelease sp) s = .next t ∧ t.mesh = rest ∧
        (t.spring sp).rs = (if v.releases ≤ 1 then [] else [{ v with releases := v.releases - 1 }]) ∧ t.mem = s.mem)

/-! ## Gradients: Sluices and update engines -/

/-- R341, R344: `gopen` opens a tag on entries that read zero; `gsend` and `ghand` arm an open tag and count its completion, send nothing
while no block is done, and send a block that is done: `ghand` as one gradient packet to the stack, `gsend` as one message to the Sluice of
the peer. A failed check of the shifter or of the stored residue is detected with code 0x2306 (R73). -/
def Obligations.GradientTagsOpenAndArm : Prop :=
  ∀ (sl : Fin 16) (f : BitVec 57) (s s' : State) (k : Nat) (p : Proc) (ra rb rc : Word), k = unitKey (.sluice sl) → p = s'.proc k →
    ra = p.getS (lRa f) → rb = p.getS (lRb f) → rc = p.getS (lRc f) → s'.storesOut k = false →
    (Issues s s' k [.d (lD1 f), .s (lRa f), .s (lRb f), .s (lRc f)] 8 → lOk f ['1', 'a', 'b', 'c'] 1 = true →
      gopenTrap (s'.sluice sl) p.seedStep.toNat f (p.getD (lD1 f)) ra rb rc = none →
      s'.refuses (.unit k) (dBase (p.getD (lD1 f))) (128 * (rb.toNat % 2 ^ 26)) true = none →
      ∃ t, exec (.gopen (.sluice sl) f) s = .next t ∧
        (t.sluice sl).tags = (s'.sluice sl).tags ++
          [⟨ra.toNat, p.seedStep.toNat, rb.toNat % 2 ^ 26, rb.toNat / 2 ^ 26, rc.toNat, dBase (p.getD (lD1 f)), .none, 0,
            rb.toNat % 2 ^ 26, s'.nextId, false⟩] ∧
        (∀ i < 128 * (rb.toNat % 2 ^ 26), memByte t.mem ((dBase (p.getD (lD1 f))).toNat + i) = 0) ∧
        s'.SameMemOutside t (dBase (p.getD (lD1 f))).toNat (128 * (rb.toNat % 2 ^ 26)) ∧ t.proc k = { p with pc := p.pc + 8 }) ∧
    (Issues s s' k [.s (lRa f), .s (lRb f)] 8 → lOk f ['t', 'a', 'b'] 1 = true → p.tagCount (lTag f) < 255 → ra.toNat < 2 ^ 32 →
      s'.Clean → ∀ o, s'.openTag sl ra.toNat p.seedStep.toNat = some o → o.arm = .none → o.unsent ≠ 0 →
      ((∀ b < o.nb, (accEntry (s'.bytesAt (entryAddr o b).toNat 128)).done = false) →
        (∀ adder, rb.toNat < 65536 → ∃ t, exec (.gsend (.sluice sl) f adder) s = .next t ∧
          t.openTag sl o.gtag o.step = some { o with arm := .gsend (rb.toNat % 4096) (rb.toNat / 4096 % 16), tag := lTag f } ∧
          t.mesh = s'.mesh ∧ t.mem = s'.mem ∧ t.proc k = { p.tagUp (lTag f) with pc := p.pc + 8 }) ∧
        (∀ adder, rb.toNat < 44 → ∃ t, exec (.ghand (.sluice sl) f adder) s = .next t ∧
          t.openTag sl o.gtag o.step = some { o with arm := .ghand rb.toNat, tag := lTag f } ∧
          t.mesh = s'.mesh ∧ t.mem = s'.mem ∧ t.proc k = { p.tagUp (lTag f) with pc := p.pc + 8 })) ∧
      (∀ e z c adder, o.nb = 1 → e = accEntry (s'.bytesAt (entryAddr o 0).toNat 128) → e.done = true → e.sent = false →
        normalise (s'.sluDraw sl) p.ctrV e.acc = (z, c) → z.e ≠ 0 →
        (rb.toNat < 44 → ∃ t, exec (.ghand (.sluice sl) f adder) s = .next t ∧ s'.SameMemOutside t (entryAddr o 0).toNat 128 ∧
          t.mesh = s'.mesh ++ [{ mkPacket .gblk 4 (nodeOfSluice sl) (nodeOfStack rb.toNat) s'.nextId with
            gtag := o.gtag, block := o.pb, cnt := o.total, slu := sl, ue := true, step := o.step % 65536, blk := z }] ∧
          t.proc k = { p.tagUp (lTag f) with pc := p.pc + 8, ctrV := c } ∧
          ((adder = true ∨ e.resBad = true) → ∃ d ∈ t.safety.queue, d.code = 0x2306)) ∧
        (∀ (m : Message) (d pt : Nat), rb.toNat < 65536 →
          m = { mkMessage s' k .blk (BitVec.ofNat 12 rb.toNat) (nodeOfSluice (rb.toNat / 4096)) (rb.toNat / 4096) s'.nextId with
            ncell := 1, addr := BitVec.ofNat 64 o.gtag, cnt := o.total, slu := Fin.ofNat 16 (rb.toNat / 4096), step := o.step,
            payload := blockBytes z } →
          inTorus s'.group.extm1 m.dst = true → torusDir s'.group.extm1 s'.group.coord m.dst = some d → s'.pickPort d m = some pt →
          ∃ t, exec (.gsend (.sluice sl) f adder) s = .next t ∧ s'.SameMemOutside t (entryAddr o 0).toNat 128 ∧
            t.mesh = s'.mesh ++ [{ mkPacket .xt 5 (nodeOfSluice sl) (nodeOfPort pt) 0 with
              ctl := .message { m with vc := wraps s'.group.extm1 s'.group.coord d } }] ∧
            t.proc k = { p.tagUp (lTag f) with pc := p.pc + 8, ctrV := c } ∧
            ((adder = true ∨ e.resBad = true) → ∃ d ∈ t.safety.queue, d.code = 0x2306))))

/-- R342, R343, R346, R347, R349, R350: a block that its Sluice can take is added into its entry and counted, and no other byte changes; a
run counts into each of its entries; a packet that names no open tag is dropped with code 0x2301; a tag that stalls writes code 0x2302 and
poisons; `SLUDONE` takes the value written; a final block is written into the inbox slot of its shard and counted, and one that the engine
does not take is discarded with code 0x2303. A failed check of an adder is detected with code 0x2306 (R73). -/
def Obligations.GradientBlocksArrive : Prop :=
  (∀ (sl : Fin 16) (i : Nat) (p : Packet) (s : State) (o : OpenTag), p.ue = false → p.loc = nodeOfSluice sl → p.acks = [] →
    s.sluRuns sl = true → s.Clean →
    (s.Arrived i p .gblk → p.out = some 0 → p.held = false → blockBad p.blk = false →
      (∀ e a c, (s.sluice sl).tagFor p.gtag p.step = some o → o.arm = .none → p.block < o.nb →
        e = accEntry (s.bytesAt (entryAddr o p.block).toNat 128) → e.done = false → e.cnt + p.cnt ≤ o.total →
        addBlock (s.sluDraw sl) (s.proc (sluKey + sl)).ctrV e.acc p.blk = (a, c) →
        ∀ adder, ∃ t, exec (.gblkSluiceArrival i false adder) s = .next t ∧ t.mesh = s.mesh.eraseIdx i ∧
          ((adder = true ∨ (p.blk.e ≠ 0 ∧ e.resBad = true)) → ∃ d ∈ t.safety.queue, d.code = 0x2306) ∧
          t.bytesAt (entryAddr o p.block).toNat 128 =
            accBytes { e with acc := a, cnt := e.cnt + p.cnt, done := e.cnt + p.cnt == o.total } ∧
          s.SameMemOutside t (entryAddr o p.block).toNat 128 ∧
          t.proc (sluKey + sl) = { s.proc (sluKey + sl) with ctrV := c }) ∧
      ((s.sluice sl).tagFor p.gtag p.step = none →
        ∀ adder, ∃ t, exec (.gblkSluiceArrival i false adder) s = .next t ∧ t.mesh = s.mesh.eraseIdx i ∧ s.Wrote t 0x2301 ∧
          t.safety.queue.length = s.safety.queue.length + 1 ∧ t.mem = s.mem)) ∧
    (s.Arrived i p .grun → (s.sluice sl).tagFor p.gtag p.step = some o → o.arm = .none → o.nb ≤ 1048576 → o.total < 65536 →
      (∀ b, p.block ≤ b → b < p.block + p.nrun → b < o.nb ∧ (accEntry (s.bytesAt (entryAddr o b).toNat 128)).done = false ∧
        (accEntry (s.bytesAt (entryAddr o b).toNat 128)).cnt + p.cnt ≤ o.total) →
      ∀ adder, ∃ t, exec (.grunSluiceArrival i false adder) s = .next t ∧ t.mesh = s.mesh.eraseIdx i ∧
        ∀ b, p.block ≤ b → b < p.block + p.nrun →
          (accEntry (t.bytesAt (entryAddr o b).toNat 128)).cnt = (accEntry (s.bytesAt (entryAddr o b).toNat 128)).cnt + p.cnt)) ∧
  (∀ (sl : Fin 16) (g : BitVec 32) (s : State) (o : OpenTag) (b : Nat), s.sluRuns sl = true →
    (s.sluice sl).tags.find? (fun t => t.gtag == g.toNat) = some o → b < o.nb →
    (accEntry (s.bytesAt (entryAddr o b).toNat 128)).done = false →
    (∀ c < b, (accEntry (s.bytesAt (entryAddr o c).toNat 128)).done = true) →
    ∃ t, exec (.sluiceTagStall sl g) s = .next t ∧ t.openTag sl o.gtag o.step = some { o with stalled := true } ∧
      s.Wrote t 0x2302 ∧ (t.bar (56 + sl / 4)).poison = true ∧ t.mem = s.mem) ∧
  (∀ (sl : Fin 16) (v : Word) (s : State), s.canRun (sluKey + sl) = true →
    ∃ t, exec (.sludoneWrite sl v) s = .next t ∧ (t.sluice sl).done = v.truncate 48 ∧ t.mem = s.mem ∧ t.procs = s.procs ∧
      (∀ j, s.job = some j → j.state = 2 → j.clearAt = none → j.voted = false → (∃ e ∈ j.desc.sluices, e.1 = sl) →
        (∀ e ∈ j.desc.sluices, e.1 ≠ sl → (s.sluice e.1).done.toNat = j.step) → (v.truncate 48).toNat = j.step →
        t.job = some { j with clearAt := some (s.ref + 100 * j.desc.clearwin) })) ∧
  (∀ (k : Fin 44) (i : Nat) (p : Packet) (s : State), s.Arrived i p .gblk → p.out = some 0 → p.held = false → p.ue = true →
    p.loc = nodeOfStack k → p.acks = [] → p.tid ≠ 0 → s.ueRuns k = true → s.Clean → blockBad p.blk = false →
    ((s.ue k).takes p.step p.block = false →
      ∃ t, exec (.ueInboxBlock i false false) s = .next t ∧ t.mesh = s.mesh.eraseIdx i ∧ s.Wrote t 0x2303 ∧ t.mem = s.mem ∧
        (t.ue k).inbox = (s.ue k).inbox) ∧
    ((s.ue k).takes p.step p.block = true → ∀ adder,
    ∃ t q, exec (.ueInboxBlock i false adder) s = .next t ∧ t.mesh = s.mesh.eraseIdx i ++ [q] ∧ q.Answers p .wack 0 [] ∧
      (adder = true → ∃ d ∈ t.safety.queue, d.code = 0x2306) ∧
      t.bytesAt ((s.ue k).inboxAddr (p.block / 65536) (p.block % 65536)).toNat 64 = blockBytes p.blk ∧
      s.SameMemOutside t ((s.ue k).inboxAddr (p.block / 65536) (p.block % 65536)).toNat 64 ∧
      (Tbl.get (t.ue k).inbox Inbox.fresh (p.block / 65536)).count =
        (Tbl.get (s.ue k).inbox Inbox.fresh (p.block / 65536)).count + 1))

/-- R351 to R353, R355: the parameter instructions in their phases. `ugrad` and `urld` write vector registers alone; `urst` writes 16 state
records, `uhead` 16 heads from the records' echoes, `udig` the digest of the heads into the seal; outside these bytes memory reads as
before. A `urst` with a result that is not finite writes none of them, and the engine halts with code 0x1602. -/
def Obligations.ParameterInstructionsWriteTheirPlane : Prop :=
  ∀ (k : Fin 44) (f : BitVec 57) (s s' : State) (key : Nat) (p : Proc) (e : UeShard) (off : Nat) (q : Seal), key = unitKey (.ue k) →
    p = s'.proc key → Issues s s' key [.d (lD1 f), .s (lRa f), .v 24, .v 25, .v 26, .v 27, .v 28, .v 29] 8 →
    (OnShard s' k f 0 .passing e off q →
      ∃ t v, exec (.ugrad (.ue k) f) s = .next t ∧ t.proc key = { p.setV 28 v with pc := p.pc + 8 } ∧ t.mem = s'.mem ∧
        ∀ i < 16, elemOf 32 v i =
          blockElem (blockOf (s'.bytesAt ((s'.ue k).inboxAddr e.shard (off / 32)).toNat 64)) (off % 32 + i)) ∧
    (OnShard s' k f 2 .passing e off q →
      (∃ t v0 v1 v2 v3, exec (.urld (.ue k) f) s = .next t ∧
        t.proc key = { (((p.setV 24 v0).setV 25 v1).setV 26 v2).setV 27 v3 with pc := p.pc + 8 } ∧ t.mem = s'.mem ∧
        ∀ (i a : Nat), i < 16 → a = (e.state + BitVec.ofNat 64 (8 * off)).toNat + 8 * i →
          elemOf 32 v0 i = (fpConv (Fmt.of 0) (Fmt.of 2) mRNE (s'.natAt ((e.head + BitVec.ofNat 64 (2 * off)).toNat + 2 * i) 2) 0).bits ∧
          (BitVec.ofNat 32 (elemOf 32 v1 i)).toInt = (BitVec.ofNat 16 (s'.natAt a 2)).toInt ∧
          elemOf 32 v2 i = scaleM (s'.natAt (a + 2) 2) q.mscale ∧
          elemOf 32 v3 i = (fpConv (Fmt.of 1) (Fmt.of 2) mRNE (s'.natAt (a + 4) 2) 0).bits) ∧
      (∀ r1 r2 p1 p2, p.draws key true mSR 16 = (r1, p1) → p1.draws key true mSR 16 = (r2, p2) →
        ∀ o : Nat → Option (Nat × Int × Nat × Nat × Bool),
        (∀ i, o i = storeOne q.nmscale (elemAt (el32 (p.getV 24)) i) (elemAt (el32 (p.getV 25)) i) (elemAt (el32 (p.getV 29)) i)
          (elemAt (el32 (p.getV 26)) i) (elemAt (el32 (p.getV 27)) i) (elemAt r1 i) (elemAt r2 i)) →
        ((∀ i < 16, (o i).isSome) → s'.flash.teeStep ≠ some (q.sstep + 1) →
          ∃ t v, exec (.urst (.ue k) f false) s = .next t ∧ t.proc key = { p2.setV 24 v with pc := p.pc + 8 } ∧
            (∀ i < 16, ∀ x, o i = some x → t.bytesAt ((e.state + BitVec.ofNat 64 (8 * off)).toNat + 8 * i) 8 =
              recordBytes x.1 x.2.1 x.2.2.1 x.2.2.2.1) ∧
            s'.SameMemOutside t (e.state + BitVec.ofNat 64 (8 * off)).toNat 128) ∧
        ((∃ i < 16, o i = none) →
          ∃ t, exec (.urst (.ue k) f false) s = .next t ∧ t.mem = s'.mem ∧ s'.Wrote t 0x1602 ∧
            t.proc key = { p with halted := true } ∧ (t.bar (56 + k / 11)).poison = true))) ∧
    (OnShard s' k f 1 .stated e off q → s'.flash.teeStep ≠ some q.sstep →
      ∃ t, exec (.uhead (.ue k) f false) s = .next t ∧ t.proc key = { p with pc := p.pc + 8 } ∧
        (∀ i < 16, t.bytesAt ((e.head + BitVec.ofNat 64 (2 * off)).toNat + 2 * i) 2 =
          s'.bytesAt ((e.state + BitVec.ofNat 64 (8 * off)).toNat + 8 * i + 6) 2) ∧
        s'.SameMemOutside t (e.head + BitVec.ofNat 64 (2 * off)).toNat 32) ∧
    (∀ x, lOk f ['1', 'a'] 1 = true → s'.Clean → s'.storesOut key = false → (s'.ue k).shardOf (p.getS (lRa f)).toNat = some x →
      x.owned = true → 0 < x.nblk → planeTrap (lD1 f) (p.getD (lD1 f)) = none → dBase (p.getD (lD1 f)) = x.head → s'.SealIs x.shard q → (phaseOf q).1 = .headed →
      ∃ t, exec (.udig (.ue k) f false) s = .next t ∧ t.proc key = { p with pc := p.pc + 8 } ∧
        s'.Resealed t x.shard { q with digest := crc64 (s'.bytesAt x.head.toNat (64 * x.nblk)) })

/-- R359, R362, Table 10.5: a `useal` whose phase and conditions hold rewrites the one seal, as its field says, and retires; one that
writes CSTEP compares the digests that the replicas acknowledged with the seal's and keeps each that differs for the report; one whose
conditions do not hold yet waits and holds its engine, and the end of the wait does the same; no other byte changes. -/
def Obligations.SealsAdvance : Prop :=
  (∀ (k : Fin 44) (f : BitVec 57) (s s' : State) (key : Nat) (p : Proc) (e : UeShard) (q : Seal) (rc : Word) (field : Nat),
    key = unitKey (.ue k) → p = s'.proc key → rc = p.getS (lRc f) → field = (p.getS (lRb f)).toNat →
    Issues s s' key [.s (lRa f), .s (lRb f), .s (lRc f)] 8 → lOk f ['a', 'b', 'c'] 1 = true → s'.Clean → s'.storesOut key = false →
    (s'.ue k).shardOf (p.getS (lRa f)).toNat = some e → usealBad (some e) (p.getS (lRa f)) (p.getS (lRb f)) rc = none →
    s'.SealIs e.shard q → sealPhaseOk q field (sealStep rc) = true →
    (s'.sealMay k e field (sealStep rc) = true →
      ∃ t r, exec (.useal (.ue k) f false) s = .next t ∧ s'.Resealed t e.shard r ∧ t.proc key = { p with pc := p.pc + 8 } ∧
        (field = 0 → r = { q with pass := true, nmscale := sealScale rc } ∧ (t.ue k).ummax = 0) ∧
        (field = 1 → r = { q with pass := false, sstep := sealStep rc, mscale := q.nmscale } ∧
          Tbl.get (t.ue k).inbox Inbox.fresh e.shard = ⟨0, 0, sealStep rc + 1⟩) ∧
        (field = 2 → r = { q with hstep := sealStep rc }) ∧
        (field = 3 → r = { q with cstep := sealStep rc } ∧ (∀ g ∈ (t.ue k).gathers, g.shard ≠ e.shard) ∧
          (t.ue k).compared = (s'.ue k).compared + 1 ∧
          ((∀ g ∈ (s'.ue k).gathers, g.shard = e.shard → g.stage = 3 → g.digest = q.digest) → (t.ue k).mis = (s'.ue k).mis) ∧
          (∀ g ∈ (s'.ue k).gathers, g.shard = e.shard → g.stage = 3 → g.digest ≠ q.digest →
            (e.shard, g.peer, false, g.digest) ∈ (t.ue k).mis))) ∧
    (s'.sealMay k e field (sealStep rc) = false →
      ∃ t, exec (.useal (.ue k) f false) s = .next t ∧ (t.ue k).waiting = some ⟨e.shard, field, rc⟩ ∧ t.mem = s'.mem ∧
        t.proc key = p ∧ t.canRun key = false)) ∧
  (∀ (k : Fin 44) (s : State) (w : WaitSeal) (e : UeShard) (q : Seal), (s.ue k).waiting = some w → s.Clean →
    (s.ue k).shardOf w.shard = some e → (s.setUe k { s.ue k with waiting := none }).canRun (ueKey + k) = true →
    s.sealMay k e w.field (sealStep w.rc) = true → s.SealIs w.shard q →
    ∃ t r, exec (.usealWaitEnd k false) s = .next t ∧ s.Resealed t w.shard r ∧ (t.ue k).waiting = none ∧
      t.proc (ueKey + k) = { s.proc (ueKey + k) with pc := (s.proc (ueKey + k)).pc + 8 } ∧
      (w.field = 0 → r = { q with pass := true, nmscale := sealScale w.rc }) ∧
      (w.field = 1 → r = { q with pass := false, sstep := sealStep w.rc, mscale := q.nmscale }) ∧
      (w.field = 2 → r = { q with hstep := sealStep w.rc }) ∧ (2 < w.field → r = { q with cstep := sealStep w.rc }))

/-- R362, Table 10.6, R462: gather-open brings a replica's state step up and is acknowledged; gather-close makes its heads those of the step,
with their digest; gather-ack ends the exchange and keeps the digest for the owner's comparison; gather-request opens an exchange. -/
def Obligations.GatherMessagesKeepReplicasEqual : Prop :=
  ∀ (k : Fin 44) (s : State) (p : Packet) (rest : List Packet) (m : Message) (sh n : Nat) (e : UeShard) (q : Seal),
    s.ueRuns k = true → s.mesh = p :: rest → p.kind = .ctl → p.loc = nodeOfStack k → p.dst = nodeOfStack k → p.ctl = .message m →
    m.kind = .unit → s.group.recover = none → s.Clean → (s.ue k).shardOf sh = some e → s.SealIs sh q →
    (m.umsg = .gatherOpen sh n →
      ∃ t, exec (.gatherOpen k) s = .next t ∧ s.Resealed t sh { q with sstep := max q.sstep n } ∧
        t.mesh = ((s.dropPacket 0).ackMessage (ueKey + k) (nodeOfStack k) m 0).mesh ∧ t.procs = s.procs) ∧
    (m.umsg = .gatherClose sh n → s.group.repairs.contains sh = false →
      ∃ t d, exec (.gatherClose k) s = .next t ∧ d = crc64 (s.bytesAt e.head.toNat (64 * e.nblk)) ∧
        s.Resealed t sh { q with hstep := n, cstep := n, digest := d } ∧ t.procs = s.procs ∧
        t.mesh = ((s.dropPacket 0).ueSend k m.src 0 (.gatherAck sh n (BitVec.ofNat 64 d))).mesh) ∧
    (∀ d g, m.umsg = .gatherAck sh n d →
      (s.ue k).gathers.find? (fun g => g.shard == sh && g.step == n && g.peer == m.src.toNat) = some g →
      ∃ t, exec (.gatherAck k) s = .next t ∧ t.mem = s.mem ∧ t.mesh = rest ∧
        (t.ue k).gathers = (s.ue k).gathers.map (fun h => if h = g then { h with stage := 3, digest := d.toNat } else h) ∧
        (t.ue k).mis = (s.ue k).mis) ∧
    (m.umsg = .gatherRequest sh n →
      ∃ t, exec (.gatherRequest k) s = .next t ∧ (t.ue k).gathers.getLast? = some ⟨sh, n, m.src.toNat, 0, 0⟩ ∧
        t.reqs.length = s.reqs.length + 1 ∧ t.xfers.length = s.xfers.length + 1 ∧ t.mem = s.mem)

/-! ## The mesh -/

/-- R271, R273, R283, R647: a request at the node that serves it, granted and free of stored errors, is performed and answered under its
identifier with status done: a read with the bytes, a write after they are stored, an atomic operation with the old value. One that is
refused is answered with its status, recorded with code 0x7101, and changes no memory; one whose CRC-32 fails is dropped and detected, and
nothing answers. A write leaves the bytes of its gaps (R221). In the
flash window a read gives the window's bytes, a write a queue's bytes, and a doorbell the queue's tail (R403). -/
def Obligations.RequestsAreServedAndAnswered : Prop :=
  (∀ (i : Nat) (p : Packet) (s : State), s.Clean → (∀ off, place p.addr ≠ .window off) →
    (s.Arrived i p .rd →
      (s.refusal p p.size false = none → ∃ t q, exec (.rdRequest i false) s = .next t ∧ t.mesh = s.mesh.eraseIdx i ++ [q] ∧
        q.Answers p .rdr 0 (s.bytesAt p.addr.toNat p.size) ∧ t.mem = s.mem ∧ t.procs = s.procs) ∧
      (∀ st, s.refusal p p.size false = some st → ∃ t q, exec (.rdRequest i false) s = .next t ∧
        t.mesh = s.mesh.eraseIdx i ++ [q] ∧ q.Answers p .rdr st [] ∧ s.Wrote t 0x7101 ∧ t.mem = s.mem) ∧
      (∃ t, exec (.rdRequest i true) s = .next t ∧ t.mesh = s.mesh.eraseIdx i ∧ s.Wrote t 0x4103 ∧ t.mem = s.mem ∧ t.reqs = s.reqs)) ∧
    (s.Arrived i p .wr →
      (s.refusal p p.data.length true = none → ∃ t q, exec (.wrRequest i false) s = .next t ∧ t.mesh = s.mesh.eraseIdx i ++ [q] ∧
        q.Answers p .wack 0 [] ∧ (∀ j < p.data.length, memByte t.mem (p.addr.toNat + j) =
          if p.gaps.contains j then memByte s.mem (p.addr.toNat + j) else p.data.getD j 0) ∧
        s.SameMemOutside t p.addr.toNat p.data.length ∧ t.procs = s.procs) ∧
      (∀ st, s.refusal p p.data.length true = some st → ∃ t q, exec (.wrRequest i false) s = .next t ∧
        t.mesh = s.mesh.eraseIdx i ++ [q] ∧ q.Answers p .wack st [] ∧ s.Wrote t 0x7101 ∧ t.mem = s.mem) ∧
      (∃ t, exec (.wrRequest i true) s = .next t ∧ t.mesh = s.mesh.eraseIdx i ∧ s.Wrote t 0x4103 ∧ t.mem = s.mem)) ∧
    (s.Arrived i p .amo → ∀ st, s.refusal p 8 true = some st → ∃ t q, exec (.amoRequest i false) s = .next t ∧
        t.mesh = s.mesh.eraseIdx i ++ [q] ∧ q.Answers p .amor st [] ∧ s.Wrote t 0x7101 ∧ t.mem = s.mem) ∧
    (s.Arrived i p .amo → s.refusal p 8 true = none → ∀ old b e : Word, old = BitVec.ofNat 64 (s.natAt p.addr.toNat 8) →
      b = BitVec.ofNat 64 (leNat (p.data.take 8)) → e = BitVec.ofNat 64 (leNat ((p.data.drop 8).take 8)) → p.op ≤ 2 →
      ∃ t q, exec (.amoRequest i false) s = .next t ∧ t.mesh = s.mesh.eraseIdx i ++ [q] ∧ q.Answers p .amor 0 (leBytes 8 old.toNat) ∧
        t.natAt p.addr.toNat 8 = (if p.op = 0 then old + b else if p.op = 1 then b else if old = e then b else old).toNat ∧
        s.SameMemOutside t p.addr.toNat 8 ∧ t.procs = s.procs)) ∧
  ∀ (i : Nat) (p : Packet) (s : State) (off : Nat), place p.addr = .window off →
    (s.Arrived i p .rd → s.refusal p p.size false = none →
      ∃ t q, exec (.rdRequest i false) s = .next t ∧ t.mesh = s.mesh.eraseIdx i ++ [q] ∧
        q.Answers p .rdr 0 (s.windowRead off p.size) ∧ t.mem = s.mem) ∧
    (s.Arrived i p .wr → s.refusal p p.data.length true = none → 0x080200 ≤ off ∨ off < 0x080000 →
      ∃ t q, exec (.wrRequest i false) s = .next t ∧ t.mesh = s.mesh.eraseIdx i ++ [q] ∧ q.Answers p .wack 0 [] ∧
        t.bytesAt (2 ^ 71 + off) p.data.length = p.data ∧ s.SameMemOutside t (2 ^ 71 + off) p.data.length) ∧
    (∀ x, s.Arrived i p .wr → s.refusal p p.data.length true = none → off = 0x080000 + 8 * x → x < 64 →
      ∃ t q, exec (.wrRequest i false) s = .next t ∧ t.mesh = s.mesh.eraseIdx i ++ [q] ∧ q.Answers p .wack 0 [] ∧
        (t.flq x).tail = leNat p.data % 64 ∧ (t.flq x).head = (s.flq x).head ∧ t.mem = s.mem)

/-- R432, R437, R285, R286, R430: an acknowledgement on a control packet ends the wait that it names; a multicast packet at its root is
admitted under a fresh identifier, takes the branches of its tree and is written into the root's own pond where the root is a member; at a
leaf of the tree it is written and acknowledged toward the root, and one that comes by another input than its tree's is discarded with code
0x4106; a transit packet joins the egress buffer of its light port, or is dropped and counted where that port is not up or the engine is
stopped. -/
def Obligations.ControlMulticastAndTransitPackets : Prop :=
  ∀ (i : Nat) (p : Packet) (s : State), s.Clean →
    (∀ m r x y, s.Arrived i p .ctl → p.ctl = .message m → m.kind = .ack → m.run = 0 → m.addr.toNat / 2 ^ 32 % 65536 = 1 →
      s.reqs.find? (fun r => r.tid % 2 ^ 32 == m.addr.toNat % 2 ^ 32 && (match r.kind with | .ueWr _ => true | _ => false)) = some r →
      r.kind = .ueWr x → s.xfer x = some y → y.left = 2 → y.err = false → (∀ sp, y.fin ≠ .wave sp) →
      ∃ t, exec (.ctlPacket i false) s = .next t ∧ t.mesh = s.mesh.eraseIdx i ∧ t.reqs = s.reqs.filter (·.tid != r.tid) ∧
        (t.xfer x).map (·.left) = some 1 ∧ t.mem = s.mem ∧ t.procs = s.procs) ∧
    (∀ (e : Word) (ports : List Nat) (at' : Nat), s.mesh[i]? = some p → p.kind = .mc → p.branches = none →
      s.polderOn (polderOfNode p.loc) = true → e = Tbl.get (s.node p.loc).multi 0 p.group → isClNode p.loc = true →
      s.siteIn (clOfNode p.loc / 10) = true → p.addr.toNat % 2 ^ 26 + p.data.length ≤ 2 ^ 26 →
      ports = (List.range 8).filter (fun o => decide (1 ≤ o) && e.getLsbD o) → (∀ o ∈ ports, s.outDown p.loc o = none) →
      at' = clOfNode p.loc / 10 * 2 ^ 30 + clOfNode p.loc % 10 * 2 ^ 26 + p.addr.toNat % 2 ^ 26 →
      (p.cls = 1 → p.loc = p.dst → mcValid e = true → (s.mcasts.filter (·.group == p.group)).length < 8 → ports ≠ [] →
        ∃ t, exec (.mcPacket i false) s = .next t ∧ t.mcasts = s.mcasts ++ [⟨s.nextId, p.group, p.loc, p.src, p.tid⟩] ∧
          t.mcnodes = s.mcnodes ++ [⟨s.nextId, p.loc, none, ports.length, false⟩] ∧
          t.mesh = s.mesh.set i { p with
            cls := 3, tid := s.nextId, inp := 0, bufEsc := false, esc := false, branches := some ports } ∧
          (e.getLsbD 0 = false → t.mem = s.mem) ∧
          (e.getLsbD 0 = true → t.bytesAt at' p.data.length = p.data ∧ s.SameMemOutside t at' p.data.length)) ∧
      (∀ u, p.cls = 3 → mcValid e = true → mcIn e = p.inp → meshNext p.loc p.inp = some u → ports = [] → e.getLsbD 0 = true →
        ∃ t q, exec (.mcPacket i false) s = .next t ∧ t.mesh = s.mesh.eraseIdx i ++ [q] ∧ q.kind = .mack ∧ q.cls = 2 ∧ q.src = p.loc ∧
          q.dst = u ∧ q.tid = p.tid ∧ q.status = 0 ∧ t.bytesAt at' p.data.length = p.data ∧
          s.SameMemOutside t at' p.data.length ∧ t.mcnodes = s.mcnodes) ∧
      (p.cls = 3 → mcIn e ≠ p.inp → ∃ t, exec (.mcPacket i false) s = .next t ∧ t.mesh = s.mesh.eraseIdx i ∧ s.Wrote t 0x4106 ∧
        (t.node p.loc).drops = min ((s.node p.loc).drops + 1) 65535 ∧ t.mem = s.mem)) ∧
    (∀ (q : Fin 56) (m : Message), s.Arrived i p .xt → p.loc = nodeOfPort q → p.ctl = .message m →
      (s.stopped = true → ∃ t, exec (.xtPacket i false) s = .next t ∧ t.mesh = s.mesh.eraseIdx i ∧
        t.port q = { s.port q with drops := min ((s.port q).drops + 1) 65535 } ∧ t.mem = s.mem) ∧
      (s.stopped = false → (s.port q).state = 2 →
        (m.src = s.group.coord →
          (((s.port q).egress.filter (fun y => y.src == s.group.coord)).map msgCells).sum + msgCells m ≤ 256) →
        ∃ t, exec (.xtPacket i false) s = .next t ∧ t.mesh = s.mesh.eraseIdx i ∧
          t.port q = { s.port q with egress := (s.port q).egress ++ [m] } ∧ t.mem = s.mem) ∧
      (s.stopped = false → (s.port q).state ≠ 2 →
        ∃ t, exec (.xtPacket i false) s = .next t ∧ t.mesh = s.mesh.eraseIdx i ∧ (t.port q).egress = (s.port q).egress ∧
          (t.port q).drops = min ((s.port q).drops + 1) 65535 ∧ s.Wrote t 0x420A ∧ t.mem = s.mem))

/-- R178, R283, R286, R648: an answer with status done ends its request and writes what it asked for: a load its register, an atomic
operation the old value, a store nothing; the acknowledgement of the last part of a transfer completes its tag; an answer with another
status, and a request without an answer, end the request late: the register is zero, LATEERR is set and the step is poisoned; the access
that did not reach its target in time is not performed. -/
def Obligations.AnswersEndTheirRequests : Prop :=
  (∀ (i : Nat) (p : Packet) (s : State) (r : Req), s.reqOf p.tid = some r →
    (∀ rd fn3, s.Arrived i p .rdr → r.kind = .load rd fn3 →
      (p.status = 0 → ∃ t, exec (.rdrResponse i false) s = .next t ∧ t.reqs = s.reqs.filter (·.tid != r.tid) ∧
        t.proc r.owner = (s.proc r.owner).loaded rd fn3 p.data ∧ (∀ j, j ≠ r.owner → t.proc j = s.proc j) ∧ t.mem = s.mem) ∧
      (p.status ≠ 0 → ∃ t, exec (.rdrResponse i false) s = .next t ∧ t.reqs = s.reqs.filter (·.tid != r.tid) ∧
        t.proc r.owner = { (s.proc r.owner).setS rd 0 with lateerr := true } ∧ (t.bar (polderOf r.owner)).poison = true ∧
        t.mem = s.mem)) ∧
    (∀ vd esz mask bc, s.Arrived i p .rdr → r.kind = .vload vd esz mask bc →
      (p.status = 0 → ∃ t, exec (.rdrResponse i false) s = .next t ∧ t.reqs = s.reqs.filter (·.tid != r.tid) ∧
        t.proc r.owner = (s.proc r.owner).setV vd (vloadMerge ((s.proc r.owner).getV vd) esz mask bc p.data) ∧ t.mem = s.mem) ∧
      (p.status ≠ 0 → ∃ t, exec (.rdrResponse i false) s = .next t ∧
        t.proc r.owner = { (s.proc r.owner).setV vd 0 with lateerr := true } ∧ (t.bar (polderOf r.owner)).poison = true ∧
        (∀ q ∈ t.reqs, q.tid ≠ r.tid ∧ (q.owner = r.owner → ∀ z m b, q.kind = .vload vd z m b → m = 0)) ∧ t.mem = s.mem)) ∧
    (s.Arrived i p .wack → r.kind = .store → p.status = 0 →
      ∃ t, exec (.wackResponse i false) s = .next t ∧ t.reqs = s.reqs.filter (·.tid != r.tid) ∧ t.mesh = s.mesh.eraseIdx i ∧
        (∀ j, t.proc j = s.proc j) ∧ t.mem = s.mem) ∧
    (∀ rd, s.Arrived i p .amor → r.kind = .amo rd → p.status = 0 →
      ∃ t, exec (.amorResponse i false) s = .next t ∧ t.reqs = s.reqs.filter (·.tid != r.tid) ∧
        t.proc r.owner = (s.proc r.owner).setS rd (BitVec.ofNat 64 (leNat p.data)) ∧ t.mem = s.mem) ∧
    (∀ x y tag, s.Arrived i p .mack → s.mcnodes.find? (fun z => z.mc == p.tid && z.node == p.loc) = none → r.kind = .mcast x →
      s.xfer x = some y → y.left = 1 → y.fin = .tag tag → y.buf = [] → p.status = 0 →
      ∃ t, exec (.mack i false) s = .next t ∧ t.xfers = s.xfers.filter (·.id != x) ∧
        t.proc y.owner = (s.proc y.owner).tagDone tag y.err ∧ t.mem = s.mem)) ∧
  (∀ (tid : Nat) (s : State) (r : Req) (rd fn3 : Nat), s.reqOf tid = some r → r.kind = .load rd fn3 →
    s.polderOn (polderOfNode r.node) = true →
    ∃ t, exec (.requestTimeout tid) s = .next t ∧ s.Wrote t 0x4105 ∧ t.reqs = s.reqs.filter (·.tid != r.tid) ∧
      t.proc r.owner = { (s.proc r.owner).setS rd 0 with lateerr := true } ∧ (t.bar (polderOf r.owner)).poison = true ∧
      (∀ q, q ∈ t.mesh ↔ q ∈ s.mesh ∧ ¬ (q.cls = 1 ∧ q.tid = tid)) ∧
      t.safety.queue.length = s.safety.queue.length + 1 ∧ t.mem = s.mem)

/-- R275 to R279, R282, R287, R288, R271, R272: an output of a router grants one of the packets that wait for it and for whose flits the far
side has credits: by lane 0 a packet of class 0 before any other; of the granted class an escape packet before a primary one, and then the
inputs in rotation, the earlier arrival of an input first. A packet that waits alone at its node leaves by its route. One whose output has
gone down is answered or dropped (code 0x4104), one that is not listed is dropped (code 0x4107). A gradient block joins its output's queue,
or is added into the oldest block there when they match; a full queue offers the block that joined it first; an expired hold makes a block
eligible, an expired wait moves a packet to escape. A flit whose CRC-16 matches is taken; a replay writes code 0x4101, and more than 16
replays in 65,536 ac or four failed ones of a flit fail the link on both sides. -/
def Obligations.RoutersForwardCombineAndReplay : Prop :=
  (∀ (i : Nat) (p : Packet) (s : State), s.mesh[i]? = some p → s.polderOn (polderOfNode p.loc) = true →
    (p.listed = false →
      ∃ t, exec (.routerPacketForward i) s = .next t ∧ t.mesh = s.mesh.eraseIdx i ∧ s.Wrote t 0x4107 ∧
        (t.node p.loc).drops = min ((s.node p.loc).drops + 1) 65535 ∧ t.mem = s.mem) ∧
    (∀ o, p.listed = true → p.cls ≠ 3 → p.kind ≠ .gblk → s.routeOf p = some o → o ≠ 0 →
      (∀ q j lane y m, s.outDown p.loc o = none → s.grant p.loc o = some (q, j, lane, y) → q.cls ≠ 3 → meshNext p.loc o = some m →
        s.trace.openT = false →
        (∃ t, exec (.routerPacketForward i) s = .next t ∧ t.mem = s.mem ∧ t.procs = s.procs ∧
          Tbl.get (t.node p.loc).arb OutArb.reset o = y ∧ (t.node m).arrived = (s.node m).arrived + 1 ∧
          t.mesh = s.mesh.set j { q with loc := m, inp := portBack p.loc m, bufEsc := q.esc, arr := (s.node m).arrived + 1,
                                         out := none, held := false, branches := none }) ∧
        (q, j) ∈ s.ready p.loc o ∧ s.hasCredit q o = true ∧
        ∀ x ∈ s.ready p.loc o,
          (x.1.cls = 0 → (Tbl.get (s.node p.loc).arb OutArb.reset o).lane = 0 → q.cls = 0 ∧ lane = 0) ∧
          (x.1.cls = q.cls → (x.1.esc = true → q.esc = true) ∧ (x.1.esc = q.esc →
            Packet.before (Tbl.get (Tbl.get (s.node p.loc).arb OutArb.reset o).turn 0 q.cls) x.1 q = false))) ∧
      (s.outDown p.loc o = none → s.grant p.loc o = none → exec (.routerPacketForward i) s = .next s) ∧
      (∀ m, s.outDown p.loc o = none → meshNext p.loc o = some m → s.trace.openT = false → s.hasCredit p o = true →
        (∀ (j : Nat) (q : Packet), s.mesh[j]? = some q → q.loc = p.loc → j = i) →
        ∃ t, exec (.routerPacketForward i) s = .next t ∧ t.mem = s.mem ∧ t.procs = s.procs ∧
          t.mesh = s.mesh.set i { p with loc := m, inp := portBack p.loc m, bufEsc := p.esc, arr := (s.node m).arrived + 1,
                                         out := none, held := false, branches := none }) ∧
      (∀ st, s.outDown p.loc o = some st → p.cls = 1 →
        ∃ t q, exec (.routerPacketForward i) s = .next t ∧ t.mesh = s.mesh.eraseIdx i ++ [q] ∧ q.cls = 2 ∧ q.src = p.loc ∧
          q.dst = p.src ∧ q.tid = p.tid ∧ q.status = st ∧ (t.node p.loc).drops = min ((s.node p.loc).drops + 1) 65535 ∧
          (s.isAccess p = true → s.Wrote t 0x4104) ∧ t.mem = s.mem) ∧
      (∀ st, s.outDown p.loc o = some st → p.cls ≠ 1 →
        ∃ t, exec (.routerPacketForward i) s = .next t ∧ t.mesh = s.mesh.eraseIdx i ∧ s.Wrote t 0x4104 ∧ t.mem = s.mem)) ∧
    (∀ adder, p.listed = true → p.kind = .gblk → p.out = none →
      (blockBad p.blk = true → ∃ t, exec (.gblkCombine i adder) s = .next t ∧ t.mem = s.mem ∧ ∃ d ∈ t.safety.queue, d.code = 0x2305) ∧
      (∀ o, s.routeOf p = some o → o = 0 ∨ s.outDown p.loc o = none →
        (s.gblkQueue p.loc o = [] →
          ∃ t, exec (.gblkCombine i adder) s = .next t ∧ t.mem = s.mem ∧ t.mesh = s.mesh.set i { p with
            out := some o, held := (s.node p.loc).hold != 0 && !p.ue, arr := (s.node p.loc).arrived + 1 }) ∧
        (∀ j js q z c, s.gblkQueue p.loc o = j :: js → s.mesh[j]? = some q → q.matches p = true →
          routerSum (s.node p.loc) (uidNode p.loc) q.blk p.blk = (z, c) →
          ∃ t, exec (.gblkCombine i adder) s = .next t ∧ t.mem = s.mem ∧ (t.node p.loc).ctr = c ∧
            t.mesh = (s.mesh.set j { q with blk := z, cnt := q.cnt + p.cnt, acks := q.acks ++ p.acks }).eraseIdx i ∧
            (adder = true → ∃ d ∈ t.safety.queue, d.code = 0x2306)) ∧
        (32 ≤ (s.gblkQueue p.loc o).length →
          (∀ (j : Nat) (q : Packet), j ∈ s.gblkQueue p.loc o → s.mesh[j]? = some q → q.matches p = false) →
          ∃ t j q, exec (.gblkCombine i adder) s = .next t ∧ t.mem = s.mem ∧ j ∈ s.gblkQueue p.loc o ∧ s.mesh[j]? = some q ∧
            t.mesh = s.mesh.set j { q with held := false } ∧
            ∀ (k : Nat) (x : Packet), k ∈ s.gblkQueue p.loc o → s.mesh[k]? = some x → q.arr ≤ x.arr))) ∧
    (p.kind = .gblk → p.held = true →
      exec (.combineHoldExpiry i) s = .next { s with mesh := s.mesh.set i { p with held := false } }) ∧
    ((s.node p.loc).mode = true → p.esc = false → p.loc ≠ p.dst → p.cls ∈ [0, 1, 2, 5] →
      exec (.escapeWaitExpiry i) s = .next { s with mesh := s.mesh.set i { p with esc := true } })) ∧
  (∀ (n : Fin 662) (port : Fin 8) (lane : Fin 4) (back : Fin 16) (err : BitVec 1048) (m key : Nat) (f : SentFlit) (times : List Nat)
    (s : State), s.polderOn (polderOfNode n) = true → s.outDown n port = none → meshNext n port = some m → key = laneKey port lane →
    (Tbl.get (s.node n).sent [] key)[back.val]? = some f →
    times = (s.node n).replayTimes key ((s.polder (polderOfNode n)).acNow s.ref) →
    (f.pkt.cls < 8 → exec (.flitReplayRequest n port lane back 0) s = .next s) ∧
    (flitGood (f.pkt.laneBits f.idx ^^^ err) = false →
      (times.length ≤ 16 → (s.node n).failedReplays key f.no < 4 →
        ∃ t, exec (.flitReplayRequest n port lane back err) s = .next t ∧ s.Wrote t 0x4101 ∧ t.mesh = s.mesh ∧ t.mem = s.mem ∧
          (t.node n).dead = (s.node n).dead) ∧
      (16 < times.length ∨ 4 ≤ (s.node n).failedReplays key f.no →
        ∃ t, exec (.flitReplayRequest n port lane back err) s = .next t ∧ (t.node n).linkFail.getLsbD port = true ∧
          (t.node m).linkFail.getLsbD (portBack n m) = true ∧ (t.node n).dead.getLsbD port = true ∧
          (t.node m).dead.getLsbD (portBack n m) = true ∧ t.safety.queue.length = s.safety.queue.length + 2 ∧ t.mem = s.mem)))

/-! ## The barrier net and the step -/

/-- R293 to R296, R248, R325, R328, R347, R361: an up frame moves a node's complete barriers and its poison to its parent; the root releases
a complete barrier, or fences a poisoned step; a release frame frees the members of the polder, unless the fence is raised (R249), and goes
to the children with the thirds of the step number, which the polder's routers take on the release of BID 0; that release writes the next
step's number and starts the step; and the clear window's end casts the vote, which a lone engine commits at once. -/
def Obligations.BarriersGatherReleaseAndVote : Prop :=
  (∀ (p : Fin 60) (s : State), s.polderOn p = true →
    (∀ q, s.barUp p = some q → q ≠ p → q ≠ 56 → s.polderOn q = true →
      ∃ t, exec (.barrierUpFrame p) s = .next t ∧ t.mem = s.mem ∧ t.procs = s.procs ∧ (t.bar p).poison = false ∧
        (t.bar q).poison = ((s.bar q).poison || (s.bar p).poison) ∧
        ∀ bid < 16, (s.barFull p bid = true →
            t.barCount p bid = 0 ∧ (t.bar p).sentUp.getLsbD bid = true ∧ t.barCount q bid = s.barCount q bid + 1) ∧
          (s.barFull p bid = false → t.barCount p bid = s.barCount p bid ∧ t.barCount q bid = s.barCount q bid)) ∧
    (s.barUp p = none → p = 56 → (s.bar 56).poison = false → ∀ b, 0 < b → b < 16 → s.barFull 56 b = true →
      (∀ c < 16, c ≠ b → s.barFull 56 c = false) → s.barScope b = false →
      ∃ t, exec (.barrierUpFrame p) s = .next t ∧ (t.bar 56).rel.getLsbD b = true ∧ t.barCount 56 b = 0 ∧ t.mem = s.mem ∧
        t.procs = s.procs) ∧
    (s.barUp p = none → p = 56 → (s.bar 56).poison = false → s.barFull 56 0 = true → (s.bar 56).sentUp.getLsbD 0 = false →
      (∀ c < 16, c ≠ 0 → s.barFull 56 c = false) → s.barScope 0 = false →
      ∃ t, exec (.barrierUpFrame p) s = .next t ∧ (t.bar 56).sentUp.getLsbD 0 = true ∧ (t.bar 56).rel = (s.bar 56).rel ∧
        t.barCount 56 0 = 0 ∧ t.mem = s.mem ∧ t.procs = s.procs) ∧
    (s.barUp p = none → p = 56 → (s.bar 56).poison = true → s.job.isSome → s.stopped = false → (∀ c < 16, s.barFull 56 c = false) →
      ∃ t, exec (.barrierUpFrame p) s = .next t ∧ t.safety.fence = true) ∧
    ((s.bar p).rel ≠ 0 ∨ (s.bar p).data ≠ [] →
      ∃ t, exec (.barrierReleaseFrame p) s = .next t ∧ (t.bar p).rel = 0 ∧ (t.bar p).data = [] ∧
        (∀ c, c < 60 → c ≠ p → s.barUp c = some p.val → s.polderOn c = true →
          (t.bar c).rel = (s.bar c).rel ||| (s.bar p).rel ∧ (t.bar c).data = (s.bar c).data ++ (s.bar p).data ∧
          (∀ n < 2 ^ 48, (s.bar p).data = stepFrames n → (t.bar c).stepNo = BitVec.ofNat 48 n)) ∧
        (∀ n < 662, polderOfNode n = p → (s.bar p).rel.getLsbD 0 = true →
          (t.node n).step = (s.bar p).stepNo ∧ (t.node n).ctr = 0) ∧
        (∀ n, polderOfNode n ≠ p ∨ (s.bar p).rel.getLsbD 0 = false → t.node n = s.node n) ∧
        (∀ k bid sc, bid < 16 → polderOf k = p → (s.proc k).inBar = some (bid, sc) →
          (s.safety.fence = false → (s.bar p).rel.getLsbD bid = true →
            t.proc k = { s.proc k with inBar := none, pc := (s.proc k).pc + 4 }) ∧
          (s.safety.fence = true ∨ (s.bar p).rel.getLsbD bid = false → t.proc k = s.proc k)) ∧
        (∀ k, polderOf k ≠ p → t.proc k = s.proc k))) ∧
  (∀ (s : State) (j : JobSt), s.job = some j → s.safety.fence = false → (s.bar 56).sentUp.getLsbD 0 = true → j.state = 2 →
    (s.gateMet j = true → s.mayLend j = false → s.stillLent j = false → (∀ t0, j.sched = some t0 → t0 ≤ s.ref) →
      ∃ t, exec .bid0Release s = .next t ∧ (t.bar 56).rel.getLsbD 0 = true ∧ (t.bar 56).sentUp.getLsbD 0 = false ∧
        t.bid0Step = some j.nextStep ∧ (t.bar 56).data = stepFrames j.nextStep ∧ (t.bar 56).stepNo = BitVec.ofNat 48 j.nextStep ∧
        t.job = some { j with step := j.nextStep, nextStep := j.nextStep + 1, sched := nextSched j.desc.period j.sched s.ref,
                              anchor := true, gateFrom := none, voted := false, clearAt := none, poisoned := false } ∧
        t.mem = s.mem ∧ t.procs = s.procs) ∧
    (s.gateMet j = true → s.mayLend j = false → s.stillLent j = true ∨ (∃ t0, j.sched = some t0 ∧ s.ref < t0) →
      ∃ t, exec .bid0Release s = .next t ∧ t.job = some { j with gateFrom := none } ∧ t.bars = s.bars ∧ t.mem = s.mem ∧
        t.procs = s.procs) ∧
    (s.gateMet j = false →
      exec .bid0Release s = .next { s with job := some { j with gateFrom := some (j.gateFrom.getD s.ref) } })) ∧
  (∀ (s s1 : State) (j : JobSt) (t0 : Nat), s.job = some j → j.clearAt = some t0 → t0 ≤ s.ref → s.safety.fence = false →
    j.poisoned = false → j.voted = false → j.state = 2 → s.safety.queue = [] → s.sealedAll (j.step - 1) = (s1, true) →
    (s.groupSize = 1 → s.superior = none →
      ∃ t, exec .clearWindowExpiry s = .next t ∧ t.group.last = BitVec.ofNat 48 j.step ∧ t.group.verdict = 0 ∧
        t.job = some { j with voted := true, clearAt := none, lastCommit := some j.step } ∧
        ∀ k < 44, (t.ue k).commit = BitVec.ofNat 48 j.step ∧ (t.ue k).valid = true ∧ (t.ue k).vpoison = false) ∧
    (s.isMgr = false → s.groupSize ≠ 1 →
      ∃ t bs, exec .clearWindowExpiry s = .next t ∧ bs = (s1.ownReport j.step j.first).bytes ∧
        t.group.reportOut = some (bs.length, BitVec.ofNat 32 (crc32 bs)) ∧
        t.job = some { j with voted := true, clearAt := none } ∧ t.mem = s.mem))

/-! ## The Lake, the ponds' scrub and the flash store -/

/-- R172, R173, R386, R390 to R393, R399, R496: the patrol and the scrub go on by one access; a correctable error that they meet is mended
and written down, an uncorrectable one is a detection of their own mechanism, and one elsewhere waits; a parity error that a retry does not
clear is uncorrectable, and a second within 1,024 accesses fails the stack; a stack that does not train fails, the Lake's content is not held,
and the restart needs the checkpoint. -/
def Obligations.PatrolAndScrubGoOn : Prop :=
  (∀ (k : Fin 44) (s : State) (key : Nat), s.polderOn (56 + k / 11) = true → key = k * 2 ^ 30 + (s.stack k).patrol / 64 →
    Tbl.get s.lakeMark none key = none →
    (∀ found, (s.stack k).patrol + 64 < stackBytes →
      ∃ t, exec (.lakePatrolRead k found none) s = .next t ∧ (t.stack k).patrol = (s.stack k).patrol + 64 ∧ t.mem = s.mem ∧
        (found = none → t.evrec = s.evrec ∧ t.safety = s.safety) ∧
        (∀ x m, found = some (x, m) →
          (key ≠ k * 2 ^ 30 + x.val → t.evrec = s.evrec ∧ Tbl.get t.lakeMark none (k * 2 ^ 30 + x.val) = some m) ∧
          (key = k * 2 ^ 30 + x.val → m = .corr → s.Wrote t 0x5301 ∧ t.safety = s.safety ∧
            t.lkCorr = min (s.lkCorr + 1) (2 ^ 32 - 1) ∧ Tbl.get t.lakeMark none key = none) ∧
          (key = k * 2 ^ 30 + x.val → m = .uncorr → ∃ d, t.safety.queue = s.safety.queue ++ [d] ∧ d.code = 0x5302 ∧ d.mech = 11))) ∧
    (∀ n, ∃ t d, exec (.lakePatrolRead k none (some n)) s = .next t ∧ t.safety.queue = s.safety.queue ++ [d] ∧ d.code = 0x5302 ∧
      d.mech = 11 ∧ (n < 1024 → (t.stack k).failed = true) ∧ t.mem = s.mem) ∧
    (stackBytes ≤ (s.stack k).patrol + 64 →
      ∃ t, exec (.lakePatrolRead k none none) s = .next t ∧ (t.stack k).patrol = 0 ∧
        (t.stack k).passes = (s.stack k).passes + 1 ∧ (t.stack k).unc = 0)) ∧
  (∀ (c : ClusterId) (s : State) (found : Option (Fin 8388608 × Mark)) (line base : Nat), s.polderOn (clKey c / 10) = true →
    s.pondMark = [] → line = scrubOff (s.cluster (clKey c)).scrub / 64 → base = (c.site.val * 2 ^ 30 + c.cl.val * 2 ^ 26) / 8 →
    ∃ t, exec (.pondScrub c found) s = .next t ∧ t.mem = s.mem ∧ t.procs = s.procs ∧
      (t.cluster (clKey c)).scrub =
        (if (s.cluster (clKey c)).scrub + 1 ≥ 2 ^ 20 then 0 else (s.cluster (clKey c)).scrub + 1) ∧
      (found = none → t.evrec = s.evrec ∧ t.safety = s.safety) ∧
      (∀ w m, found = some (w, m) →
        (w.val / 8 ≠ line → t.evrec = s.evrec ∧ Tbl.get t.pondMark none (base + w.val) = some m) ∧
        (w.val / 8 = line → m = .corr → s.Wrote t 0x5101 ∧ t.safety = s.safety ∧ ∀ a, Tbl.get t.pondMark none a = none) ∧
        (w.val / 8 = line → m = .uncorr → s.Wrote t 0x5102 ∧
          ∃ d, t.safety.queue = s.safety.queue ++ [d] ∧ d.code = 0x5102 ∧ d.mech = 6))) ∧
  (∀ (k : Fin 44) (s : State),
    exec (.lakeInterfaceRetraining k true) s = .next s ∧
    (k.val ∈ s.slots → (s.stack k).failed = false →
      ∃ t, exec (.lakeInterfaceRetraining k false) s = .next t ∧ (t.stack k).failed = true ∧ t.lkSelf = false ∧
        s.Wrote t 0x5303 ∧ (t.bar (56 + k / 11)).poison = true ∧ (∀ j, t.job = some j → j.needCkpt = true) ∧
        s.SameMemOutside t (2 ^ 56) (2 ^ 41)))

/-- R403 to R407, R402, R409, Table 12.8: a doorbell sets its queue's tail; a command at a queue's head that its queue may give, whose
channels run and serve nothing of higher priority, reads, writes, trims or tees its blocks and ends with its status, the head moving on; one
whose data the mesh does not carry, or whose block or Lake source cannot be read, ends with status 0x02; one that is refused with 0x01; its
completion record follows; garbage collection waits behind commands; a checkpoint whose shards are sealed at its step gets its manifest,
valid and the newest, and becomes the current slot with code 0x5402. -/
def Obligations.FlashCommandsComplete : Prop :=
  (∀ (q : Fin 63) (tail : Fin 64) (s : State),
    ∃ t, exec (.flashDoorbell q tail) s = .next t ∧ t.flq q = { s.flq q with tail := tail } ∧ t.mem = s.mem ∧
      ∀ x, x ≠ q.val → t.flq x = s.flq x) ∧
  (∀ (q : Fin 63) (s : State) (c : FlCmd) (key : BitVec 512), s.flFront q = some c → s.safety.fence = false → s.polderOn 56 = true →
    key = s.jobKey.getD 0 →
    ∀ fin : Nat → Nat → FlQueue, (∀ st n, fin st n = { s.flq q with
      head := ((s.flq q).head + 1) % 64, done := (s.flq q).done ++ [⟨c.ctag, st, n, c.done⟩] }) →
    (s.flOk q c = false → ∃ t, exec (.flashRead q false) s = .next t ∧ t.flq q = fin 1 0 ∧ t.mem = s.mem ∧
      (c.opc ≠ 3 → s.flAddrOk q c (c.opc == 1) = false → s.Wrote t 0x7101)) ∧
    (s.flReady q c = true → s.flYields q c = false →
    (c.opc = 1 →
      (s.flServed q c = true → s.Clean → ∃ t, exec (.flashRead q false) s = .next t ∧ t.flq q = fin 0 c.len ∧
        t.bytesAt (flDataKey q c.addr) c.len = s.flRead key c.part c.loff c.len ∧
        s.SameMemOutside t (flDataKey q c.addr) c.len) ∧
      (s.flServed q c = false → ∃ t, exec (.flashRead q false) s = .next t ∧ t.flq q = fin 2 0 ∧ s.Wrote t 0x4105 ∧ t.mem = s.mem) ∧
      (∃ t, exec (.flashRead q true) s = .next t ∧ t.flq q = fin 2 0 ∧ s.Wrote t 0x5401 ∧ t.mem = s.mem)) ∧
    (c.opc = 2 → s.Clean → s.flServed q c = true →
      (∀ lost, (lost = true → flPartial c = none) → ∃ t, exec (.flashWrite q false lost) s = .next t ∧ t.flq q = fin 0 c.len ∧
        t.flRead key c.part c.loff c.len = s.bytesAt (flDataKey q c.addr) c.len ∧
        ∀ a < 2 ^ 72, memByte t.mem a = memByte s.mem a) ∧
      (flPartial c ≠ none → ∃ t, exec (.flashWrite q false true) s = .next t ∧ t.flq q = fin 2 0 ∧ s.Wrote t 0x5401 ∧ t.mem = s.mem) ∧
      (∀ lost, ∃ t, exec (.flashWrite q true lost) s = .next t ∧ t.flq q = fin 3 0 ∧ t.mem = s.mem)) ∧
    (c.opc = 3 →
      ∃ t, exec (.flashTrim q) s = .next t ∧ t.flq q = fin 0 c.len ∧ t.mem = s.mem ∧
        ∀ b, c.loff ≤ 4096 * b → 4096 * (b + 1) ≤ c.loff + c.len → t.flash.trimmed.contains (blkKey c.part b) = true) ∧
    (c.opc = 4 → s.Clean → s.flServed q c = true →
      ∀ lost, (lost = true → flPartial c = none) → ∃ t, exec (.flashTeeWrite q false lost) s = .next t ∧ t.flq q = fin 0 c.len ∧
        t.flash.teeBegun = true ∧ t.flRead key c.part c.loff c.len = s.bytesAt (flDataKey q c.addr) c.len)) ∧
    (s.flOk q c = true → s.flYields q c = true → exec (.flashRead q false) s = .next s ∧ exec (.flashWrite q false false) s = .next s ∧
      exec (.flashTrim q) s = .next s)) ∧
  (∀ (q : Fin 63) (s : State) (d : FlDone) (r : List FlDone) (off : Nat), (s.flq q).done = d :: r → s.Clean →
    place d.addr = .lake off →
    (s.refuses (flWho q) d.addr 16 true = none →
      ∃ t, exec (.flashCommandComplete q) s = .next t ∧ t.flq q = { s.flq q with done := r } ∧
        t.bytesAt d.addr.toNat 16 = leBytes 4 d.ctag ++ leBytes 1 d.status ++ leBytes 3 0 ++ leBytes 8 d.bytes ∧
        s.SameMemOutside t d.addr.toNat 16) ∧
    (∀ sub, s.refuses (flWho q) d.addr 16 true = some sub →
      ∃ t, exec (.flashCommandComplete q) s = .next t ∧ t.flq q = { s.flq q with done := r } ∧ s.Wrote t 0x7101 ∧ t.mem = s.mem)) ∧
  (∀ (ch : Fin 16) (moved erased life free : Nat) (s : State),
    (s.gcWaits ch = true → exec (.garbageCollection ch moved erased life free) s = .next s) ∧
    (s.gcWaits ch = false →
    ∃ t, exec (.garbageCollection ch moved erased life free) s = .next t ∧ t.flash.life = min life 255 ∧ t.flash.freeBlk = free % 2 ^ 32 ∧
      t.mem = s.mem ∧ (s.flash.life < 80 → 80 ≤ life → life < 100 → s.Wrote t 0x5404) ∧
      (life < 80 → t.evrec = s.evrec))) ∧
  (∀ (s s0 s1 : State) (n : Nat) (key : BitVec 512) (j : JobSt) (tail : List Byte), s.flash.teeStep = some n → s.jobKey = some key →
    s.job = some j → s.Clean → s.safety.fence = false → s.flash.teeBegun = true → s.sealedAll n = (s1, true) →
    s1.slotTail = (s0, some tail) →
    ∃ t, exec .checkpointComplete s = .next t ∧ t.flash.curSlot = s.teeSlot ∧ t.flash.curValid = true ∧ t.flash.curStep = n ∧
      t.flash.seq = s.flash.seq + 1 ∧ t.flash.teeStep = none ∧ s.Wrote t 0x5402 ∧
      (n < 2 ^ 48 → s.flash.seq + 1 < 2 ^ 64 → s.flash.dead.contains (s.flash.seq + 1) = false →
        (t.manifest s.teeSlot).map (·.step) = some n))

/-! ## Ngahorn links -/

/-- R420 to R424, R427: a group that arrives good and in order is delivered, and its trailer's credits and acknowledgement are taken; any
other is asked for again. A group leaves against its channels' credits and is kept until it is acknowledged; an acknowledgement that does
not come sends it again with code 0x4201, and the fourth time fails the port. -/
def Obligations.GroupsDeliveredInOrderOrResent : Prop :=
  ∀ (p : Fin 56) (s : State) (x : LPort), x = s.port p → x.state = 2 → s.portOn p = true →
    (∀ (tr : Trailer) (msgs : List Message), tr.nak = false → tr.cnak = false →
      (tr.gseq = x.rxNext →
        ∃ t y, exec (.groupTrailerReceive p tr msgs 0 true) s = .next t ∧ y = t.port p ∧ y.rxQ = x.rxQ ++ msgs ∧
          y.rxNext = x.rxNext + 1 ∧ y.nak = false ∧ y.cr0 = tr.cr0 ∧ y.cr1 = tr.cr1 ∧ y.ctlCr = tr.crc ∧
          y.unacked = (ackGroups x.unacked tr.ackseq.toNat).1 ∧ y.egress = x.egress ∧ t.mem = s.mem) ∧
      (tr.gseq ≠ x.rxNext →
        ∃ t y, exec (.groupTrailerReceive p tr msgs 0 true) s = .next t ∧ y = t.port p ∧ y.rxQ = x.rxQ ∧ y.rxNext = x.rxNext ∧
          y.nak = true) ∧
      (∀ (lost : Nat) (good : Bool), (0 < lost ∨ good = false) →
        ∃ t y, exec (.groupTrailerReceive p tr msgs lost good) s = .next t ∧ y = t.port p ∧ y.rxQ = x.rxQ ∧ y.rxNext = x.rxNext ∧
          y.nak = true ∧ y.unacked = x.unacked ∧ y.uncorr = min (x.uncorr + lost) 65535)) ∧
    (x.unacked.length < 256 →
      ∃ t y g, exec (.groupTrailerSend p) s = .next t ∧ y = t.port p ∧ x.egress = g ++ y.egress ∧ y.gseq = x.gseq + 1 ∧
        y.unacked = x.unacked ++ [(x.gseq.toNat, g)] ∧ cellSum g + y.sent ≤ x.sent + 31 ∧
        (x.sent = 0 → cellSum (g.filter (fun m => !m.vc)) ≤ 1024 - (x.used0 - x.cr0).toNat ∧
          cellSum (g.filter (fun m => m.vc)) ≤ 1024 - (x.used1 - x.cr1).toNat) ∧ t.mem = s.mem) ∧
    (x.unacked ≠ [] →
      (x.resends + 1 < 4 →
        ∃ t y, exec (.groupRetryTimeout p) s = .next t ∧ y = t.port p ∧ y.resends = x.resends + 1 ∧ y.state = 2 ∧
          y.retries = min (x.retries + x.unacked.length) (2 ^ 32 - 1) ∧ y.unacked = x.unacked ∧ s.Wrote t 0x4201) ∧
      (4 ≤ x.resends + 1 →
        ∃ t y, exec (.groupRetryTimeout p) s = .next t ∧ y = t.port p ∧ y.state = 3 ∧ y.unacked = [] ∧
          t.safety.queue.length = s.safety.queue.length + 1 ∧ (t.bar p).poison = true)) ∧
    (x.ctlOut ≠ [] →
      ∃ t, exec (.controlRetryTimeout p) s = .next t ∧ t.port p = { x with ctlResends := x.ctlResends + 1 } ∧ t.evrec = s.evrec)

/-- R431, R433 to R438, Table 13.6: the oldest message of a port for this engine becomes the packets of its kind, answered later under its
own identifier; one whose MCRC fails is dropped and detected; a write that its sender may not make is detected and poisons the step; one for
another engine goes on to the port that leads there, or is dropped with code 0x420A. -/
def Obligations.MessagesBecomePackets : Prop :=
  ∀ (p : Fin 56) (s : State) (m : Message) (q : List Message), (s.port p).rxQ = m :: q → s.portOn p = true →
    (m.dst = s.group.coord →
      (m.kind = .blk →
        (∃ t, exec (.blkMessage p false) s = .next t ∧ (t.port p).rxQ = q ∧ t.mem = s.mem ∧
          t.mesh = s.mesh ++ (List.range m.ncell).map (fun i => gradPacket p .gblk m s.nextId i) ∧
          t.xfers = s.xfers ++ [⟨s.nextId, portKey p, .message p m.src.toNat (nodeOfUnit m.sunit) m.sunit m.msgid.toNat 0, m.ncell, 0,
            false, false, []⟩]) ∧
        (∃ t, exec (.blkMessage p true) s = .next t ∧ (t.port p).rxQ = q ∧ t.mesh = s.mesh ∧ s.Wrote t 0x4208 ∧
          t.xfers = s.xfers)) ∧
      (m.kind = .run →
        ∃ t, exec (.runMessage p false) s = .next t ∧ (t.port p).rxQ = q ∧ t.mem = s.mem ∧
          t.mesh = s.mesh ++ [gradPacket p .grun m s.nextId 0]) ∧
      (∀ bs, m.kind = .write → bs = m.payload.take (64 * m.ncell) →
        (s.writeOk m.addr bs.length m.src = true → bs ≠ [] → m.addr.toNat % 2048 + bs.length ≤ 2048 →
          ∃ t z, exec (.writeMessage p false) s = .next t ∧ (t.port p).rxQ = q ∧ t.mem = s.mem ∧
            t.reqs = s.reqs ++ [⟨s.nextId + 1, portKey p, nodeOfPort p, m.addr, .msgWr s.nextId⟩] ∧
            t.mesh = s.mesh ++ [z] ∧ z.kind = .wr ∧ z.addr = m.addr ∧ z.data = bs ∧ z.tid = s.nextId + 1 ∧
            z.dst = s.targetNode m.addr) ∧
        (s.writeOk m.addr bs.length m.src = false →
          ∃ t, exec (.writeMessage p false) s = .next t ∧ (t.port p).rxQ = q ∧ t.mem = s.mem ∧ t.reqs = s.reqs ∧
            t.safety.queue.length = s.safety.queue.length + 1 ∧ (t.bar p).poison = true)) ∧
      (m.kind = .ack →
        ∃ t, exec (.ackMessage p false) s = .next t ∧ (t.port p).rxQ = q ∧ t.mem = s.mem ∧
          t.mesh = s.mesh ++ [{ mkPacket .ctl 0 (nodeOfPort p) (nodeOfCode m.dnode.toNat) 0 with ctl := .message m }]) ∧
      (m.kind = .unit →
        ∃ t, exec (.unitMessage p false) s = .next t ∧ (t.port p).rxQ = q ∧ t.mem = s.mem ∧
          t.mesh = s.mesh ++ [{ mkPacket .ctl 0 (nodeOfPort p) (nodeOfCode m.dnode.toNat) 0 with ctl := .message m }])) ∧
    (m.dst ≠ s.group.coord →
      (∀ d r vc, inTorus s.group.extm1 m.dst = true → torusDir s.group.extm1 s.group.coord m.dst = some d →
        s.transitPort p d m = some r → r ≠ p.val →
        vc = ((((s.port p).bind - 1) / 2 == (d - 1) / 2 && m.vc) || wraps s.group.extm1 s.group.coord d) →
        (if vc then (s.port r).transit1 else (s.port r).transit0) + msgCells m ≤ 1024 →
        ∃ t, exec (.transitMessage p) s = .next t ∧ (t.port p).rxQ = q ∧ t.mem = s.mem ∧
          t.mesh = s.mesh ++ [{ mkPacket .xt 5 (nodeOfPort p) (nodeOfPort r) 0 with ctl := .message { m with vc := vc } }] ∧
          (t.port r).transit0 = (s.port r).transit0 + (if vc then 0 else msgCells m) ∧
          (t.port r).transit1 = (s.port r).transit1 + (if vc then msgCells m else 0)) ∧
      (inTorus s.group.extm1 m.dst = false →
        ∃ t, exec (.transitMessage p) s = .next t ∧ (t.port p).rxQ = q ∧ t.mesh = s.mesh ∧ s.Wrote t 0x420A ∧
          (t.port p).drops = min ((s.port p).drops + 1) 65535))

/-- R439, R440, R442 to R449: a port that fails discards what it held, writes code 0x4202 and poisons; a weak lane is marked; a port that
trains and faces its neighbour comes up bound to its direction, one that faces another stays unbound with code 0x4205, one that does not
train stays failed with code 0x4209; a laser module that fails darkens its ports and its spare takes over; the latch, `LPCTL` and
`LMCTL` act on their port or bay alone. -/
def Obligations.PortsAndLasersChangeState : Prop :=
  (∀ (p : Fin 56) (s : State) (x : LPort), x = s.port p → s.portOn p = true →
    (x.state = 2 →
      (∀ why, ∃ t y, exec (.portFail p why) s = .next t ∧ y = t.port p ∧ y.state = 3 ∧ y.egress = [] ∧ y.unacked = [] ∧
        y.ctlOut = [] ∧ s.Wrote t 0x4202 ∧ (t.bar p).poison = true ∧ t.mem = s.mem ∧ (∀ r, r ≠ p.val → t.port r = s.port r)) ∧
      (∀ lane : Fin 9, x.degraded.getLsbD lane = false →
        ∃ t, exec (.laneDegraded p lane) s = .next t ∧ t.port p = { x with degraded := x.degraded ||| (1#9 <<< lane.val) } ∧
          s.Wrote t 0x4203) ∧
      (∀ ser, ∃ t, exec (.opticalCalibration p ser) s = .next t ∧ t.port p = { x with ser := ser } ∧ t.evrec = s.evrec)) ∧
    (s.mayTrain p = true →
      (∃ t y, exec (.portTrainingFail p) s = .next t ∧ y = t.port p ∧ y.state = 3 ∧ y.retrain = false ∧ s.Wrote t 0x4209) ∧
      (∀ b i tx peer, s.lightOf p = some b → s.placeOf p = some i → x.degraded = 0 →
        (Tbl.get s.surr.nbr 0 i).getLsbD 54 = true →
        ((Tbl.get s.surr.nbr 0 i).toNat % 2 ^ 54 = peer.toNat % 2 ^ 54 →
          ∃ t y, exec (.portTraining p (BitVec.allOnes 9) tx peer) s = .next t ∧ y = t.port p ∧ y.state = 2 ∧ y.bind = i / 8 + 1 ∧
            y.txSpare = tx ∧ y.lock = BitVec.allOnes 9 ∧ y.retrain = false ∧ (t.bay b).state = 1 ∧ t.evrec = s.evrec) ∧
        ((Tbl.get s.surr.nbr 0 i).toNat % 2 ^ 54 ≠ peer.toNat % 2 ^ 54 →
          ∃ t y, exec (.portTraining p (BitVec.allOnes 9) tx peer) s = .next t ∧ y = t.port p ∧ y.state = 0 ∧ s.Wrote t 0x4205)) ∧
      (∀ lock tx peer, s.lightOf p = none →
        ∃ t y, exec (.portTraining p lock tx peer) s = .next t ∧ y = t.port p ∧ y.state = 3 ∧ s.Wrote t 0x4209)) ∧
    (∀ v : Word, s.devUp = true → v.getLsbD 0 = true →
      ∃ t, exec (.lpctlRetrain p v) s = .next t ∧ t.port p = { x with retrain := true } ∧ t.mem = s.mem)) ∧
  (∀ (b : Fin 16) (s : State) (y : Bay), y = s.bay b →
    (s.powered = true → y.usable = true → y.state = 1 → b.val < 14 → (s.bay (coverBay b)).state = 2 →
      (s.bay (coverBay b)).usable = true →
      ∃ t, exec (.laserModuleFail b) s = .next t ∧ (t.bay b).state = 3 ∧ (t.bay (coverBay b)).state = 1 ∧
        (t.bay (coverBay b)).serves = b ∧ (∀ i < 4, (t.port (4 * b + i)).retrain = true) ∧
        (∀ r ∈ s.litBy b, (s.port r).state = 2 → (t.port r).state = 3)) ∧
    (∃ t, exec (.bayLatchOpen b) s = .next t ∧ (t.bay b).present = false ∧ (t.bay b).opened = true ∧ (t.bay b).state = 0 ∧
      ∀ r ∈ s.litBy b, (s.port r).state = 2 → (t.port r).state = 3) ∧
    (∃ t, exec (.bayLatchClose b) s = .next t ∧ (t.bay b).opened = false ∧ (t.bay b).present = s.powered ∧
      (s.powered = true → y.off = false → (t.bay b).state = 2) ∧ t.ports = s.ports) ∧
    (s.devUp = true →
      (∀ v : Word, v.getLsbD 0 = true → y.state ≠ 1 →
        ∃ t, exec (.lmctlBayoff b v) s = .next t ∧ t.bay b = { y with off := true, state := 0, power := 0 } ∧ t.ports = s.ports) ∧
      (∀ v : Word, v.getLsbD 0 = true → y.state = 1 → exec (.lmctlBayoff b v) s = .next s) ∧
      (∀ v : Word, v.getLsbD 0 = false →
        ∃ t, exec (.lmctlBayoff b v) s = .next t ∧ (t.bay b).off = false ∧ t.ports = s.ports)))

/-! ## Control cells, votes and restarts -/

/-- R427, R429, R455, R458 to R465: a cell out of order is asked for again, one for another engine is not acted on; arrivals are counted, and
the last releases the group's barrier; votes are kept; a result commits, or poisons and fences; poison and fence cells raise the fence,
and a fence for a job's end ends it; a cell that only a manager sends is refused from any other source with code 0x4404. -/
def Obligations.GroupCellsAct : Prop :=
  ∀ (p : Fin 56) (c : CtlCell) (s : State), s.TakesCell p c →
    (∀ a b d, c.body = .faultReport a b d →
      (∃ t, exec (.faultReport p c false) s = .next t ∧ t = s.setPort p { s.port p with
        rxCseq := (s.port p).rxCseq + 1, ctlFreed := (s.port p).ctlFreed + 1, cnak := false }) ∧
      exec (.faultReport p c true) s = .next (s.setPort p { s.port p with cnak := true })) ∧
    (∀ bid gen n l, c.body = .arrival bid gen n → s.isMgr = true → s.safety.fence = false → l = Tbl.get s.group.arrived [] bid →
      (gen ≠ s.genOf bid → ∃ t, exec (.barrierArrivalCell p c false) s = .next t ∧ s.Wrote t 0x4405 ∧ t.group = s.group) ∧
      (gen = s.genOf bid → l.contains c.src.toNat = false →
        (s.allIn (l ++ [c.src.toNat]) = false → ∃ t, exec (.barrierArrivalCell p c false) s = .next t ∧
          Tbl.get t.group.arrived [] bid = l ++ [c.src.toNat] ∧ t.bars = s.bars) ∧
        (s.allIn (l ++ [c.src.toNat]) = true → s.superior = none → bid.val ≠ 0 →
          ∃ t, exec (.barrierArrivalCell p c false) s = .next t ∧ t.genOf bid = gen + 1 ∧ (t.bar 56).rel.getLsbD bid = true))) ∧
    (∀ bid gen, c.body = .release bid gen →
      (s.superior = some c.src → s.isMgr = false → s.safety.fence = false → gen = s.genOf bid → bid.val ≠ 0 →
        ∃ t, exec (.barrierReleaseCell p c false) s = .next t ∧ t.genOf bid = gen + 1 ∧ (t.bar 56).rel.getLsbD bid = true ∧
          t.mem = s.mem) ∧
      (s.superior ≠ some c.src →
        ∃ t, exec (.barrierReleaseCell p c false) s = .next t ∧ s.Wrote t 0x4404 ∧ t.bars = s.bars ∧
          t.group = { s.group with badsrc := min (s.group.badsrc + 1) 15 })) ∧
    (∀ (n len : Nat) (crc : BitVec 32) (j : JobSt) (keep vs : List Vote), c.body = .vote n len crc → s.isMgr = true → s.job = some j → n = j.step → s.safety.fence = false →
      keep = s.group.votes.filter (fun w => w.step == j.step && w.coord != c.src) →
      vs = keep ++ [⟨c.src, n, len, crc⟩] → s.allIn ((vs.filter (·.step == n)).map (·.coord.toNat)) = false →
      ∃ t, exec (.commitVoteCell p c false) s = .next t ∧ t.group = { s.group with votes := vs }) ∧
    (∀ n v nrep crc j, c.body = .result n v nrep crc → s.superior = some c.src → s.isMgr = false → s.job = some j → j.step = n →
      (v = 1 → s.stopped = false → ∃ t, exec (.commitResultCell p c false) s = .next t ∧ t.safety.fence = true ∧
        t.group.verdict = 1 ∧ ∀ k < 44, (t.ue k).vpoison = true ∧ (t.ue k).commit = (s.ue k).commit) ∧
      (∀ blk, (s.resultBlock nrep).2 = some blk → v = 0 → crc32 blk = crc.toNat → ∃ t, exec (.commitResultCell p c false) s = .next t ∧
        t.group.last = BitVec.ofNat 48 n ∧ t.group.verdict = 0 ∧ (t.job.map (·.lastCommit)) = some (some n) ∧
        t.safety.fence = s.safety.fence ∧ ∀ k < 44, (t.ue k).commit = BitVec.ofNat 48 n ∧ (t.ue k).valid = true) ∧
      (∀ blk, (s.resultBlock nrep).2 = some blk → v = 0 → crc32 blk ≠ crc.toNat → ∃ t, exec (.commitResultCell p c false) s = .next t ∧
        t.safety.queue.length = s.safety.queue.length + 1 ∧ t.ues = s.ues)) ∧
    (∀ n code src j, c.body = .poison n code src → s.isMgr = true → s.job = some j → j.lastCommit = none →
      s.group.fencedStep ≠ some n → s.stopped = false →
      ∃ t, exec (.poisonCell p c false) s = .next t ∧ t.safety.fence = true ∧ t.group.fencedStep = some n) ∧
    (∀ n reason, c.body = .fence n reason → s.superior = some c.src → s.isMgr = false → s.stopped = false →
      ∃ t, exec (.fenceCell p c false) s = .next t ∧ t.safety.fence = true ∧ (reason = 2 → t.job = none) ∧
        (reason ≠ 2 → t.job.isSome = s.job.isSome))

/-- R411, R468 to R473: restart reports, recoveries and checkpoint answers are kept until every engine's is in; a decision to end ends the
job, and one for a sealed restart lets an engine whose seals the Warden reaches and which all stand at V run again at once with the fence lowered; a designation is
taken or refused with code 0x7304; the timeouts fence the step or end the job; and a worker that restarts reports. -/
def Obligations.RestartsAndCheckpointsDecided : Prop :=
  (∀ (p : Fin 56) (c : CtlCell) (s : State), s.TakesCell p c →
    (∀ (v : Nat) (need sub ready : Bool) (man : Nat) (j : JobSt) (keep rs : List RestartRep), c.body = .restartReport v need sub ready man → s.isMgr = true → s.job = some j →
      (sub = true → j.desc.spareok ≠ 0) → keep = s.group.reports.filter (fun x => x.coord != c.src) →
      rs = keep ++ [⟨c.src, v, need, sub, ready, man⟩] → s.allIn (rs.map (·.coord.toNat)) = false →
      ∃ t, exec (.restartReport p c false) s = .next t ∧ t.group.reports = rs ∧
        t.group.votes = [] ∧ t.job = s.job) ∧
    (∀ mode v first j, c.body = .restartDecision mode v first → s.superior = some c.src → s.isMgr = false → s.job = some j →
      (mode = 2 → ∃ t, exec (.restartDecision p c false) s = .next t ∧ t.job = none ∧ t.mem = s.mem) ∧
      (mode = 1 → j.desc.keyid = 0 → ∃ t, exec (.restartDecision p c false) s = .next t ∧ t.job = none ∧ s.Wrote t 0x6303) ∧
      (∀ s1, mode = 0 → j.subst = false → s.group.nrepair = 0 → s.Clean → s.slots.length ≤ 40 → (∀ e ∈ j.desc.stages, e.1 < 56) →
        scaleAt j.desc = none → s1 = (s.takeCell p c false).1.beginRestart j v first false →
        (∀ e ∈ j.desc.shards, s1.spanServed nodeN16 (sealAddr s e.shard) 64 = true) →
        (∀ e ∈ j.desc.shards, ∃ q, s.SealIs e.shard q ∧ q.job = j.desc.jobid.toNat ∧ q.shard = e.shard ∧ q.sstep = v ∧ q.hstep = v ∧
          q.cstep = v ∧ q.pass = false) →
        ∃ t, exec (.restartDecision p c false) s = .next t ∧ t.safety.fence = false ∧ (t.job.map (·.state)) = some 2 ∧
          (t.job.map (·.nextStep)) = some first ∧ t.group.recover = none)) ∧
    (∀ v, c.body = .recoveryDone v → s.isMgr = true → s.group.dones.contains c.src.toNat = false →
      s.allIn (s.group.dones ++ [c.src.toNat]) = false →
      ∃ t, exec (.recoveryDone p c false) s = .next t ∧ t.group = { s.group with dones := s.group.dones ++ [c.src.toNat] }) ∧
    (∀ n, c.body = .designation n → s.isMgr = false → c.src = s.group.mgr →
      (n = 0 → ∃ t, exec (.checkpointDesignation p c false) s = .next t ∧ t.flash.teeStep = none) ∧
      (n ≠ 0 → s.mayTee n = true → ∃ t, exec (.checkpointDesignation p c false) s = .next t ∧ t.flash.teeStep = some n ∧
        t.evrec = s.evrec) ∧
      (n ≠ 0 → s.mayTee n = false → ∃ t, exec (.checkpointDesignation p c false) s = .next t ∧ t.flash = s.flash ∧
        s.Wrote t 0x7304)) ∧
    (∀ n ok, c.body = .designationReply n ok → s.isMgr = true → s.group.desig = some n →
      (ok = false → ∃ t, exec (.designationReply p c false) s = .next t ∧ t.group.desig = none ∧ t.flash.teeStep = none) ∧
      (ok = true → s.allIn (s.group.accepts ++ [c.src.toNat]) = false →
        ∃ t, exec (.designationReply p c false) s = .next t ∧ t.group.accepts = s.group.accepts ++ [c.src.toNat] ∧
          t.group.desig = some n)) ∧
    (∀ serial x, c.body = .substitution serial x → s.isMgr = true →
      ∃ t, exec (.substitutionNotice p c false) s = .next t ∧ s.Wrote t 0x7401 ∧ t.group = s.group)) ∧
  (∀ s : State, s.safety.fence = false → s.job.isSome →
    (∀ bid : Fin 16, s.isMgr = true → Tbl.get s.group.arrived [] bid.val ≠ [] → s.allIn (Tbl.get s.group.arrived [] bid.val) = false →
      ∃ t, exec (.groupBarrierTimeout bid) s = .next t ∧ t.safety.fence = true ∧ t.group.fencedStep = some s.jobStep ∧
        ∃ e ∈ t.evrec.queue, e.code = 0x4402) ∧
    (s.isMgr = true → s.group.voted s.jobStep ≠ [] → s.allIn (s.group.voted s.jobStep) = false →
      ∃ t, exec .voteTimeoutManager s = .next t ∧ t.safety.fence = true ∧ t.group.fencedStep = some s.jobStep ∧
        ∃ e ∈ t.evrec.queue, e.code = 0x4401) ∧
    (s.group.waiting = true → s.superior.isSome →
      ∃ t, exec .resultTimeoutWorker s = .next t ∧ t.safety.fence = true ∧ t.job = none ∧ ∃ e ∈ t.evrec.queue, e.code = 0x4403)) ∧
  (∀ (s : State) (j : JobSt), s.job = some j → j.parked = false → j.state = 3 → s.devUp = true → s.orderly = none → s.isMgr = false →
    ∃ t need, exec .workerRestart s = .next t ∧
      t.job = some { j with state := if s.bringReserves.2 then 5 else 4, needCkpt := need } ∧
      (j.needCkpt = true → j.subst = false → need = true))

/-! ## Result integrity, polders and feeds -/

/-- R189, R480, R482, R486 to R495: a detection is counted, the first since the fence was lowered is kept, a failure record is written, and the
fence is raised; under a fence that is raised nothing more follows. A core whose residue or register-file parity check fails,
that is stuck, or whose sequencers differ halts and is detected; the Warden's divergence raises the fence and `WARDENFAIL`; a self-test runs from its request to its end. -/
def Obligations.DetectionsRaiseTheFence : Prop :=
  (∀ (s : State) (d : Det) (r : List Det), s.safety.queue = d :: r →
    ∃ t, exec (.detectionLatch none) s = .next t ∧ t.safety.fence = true ∧ t.safety.queue = r ∧
      t.safety.dets = min (s.safety.dets + 1) (2 ^ 32 - 1) ∧ t.safety.detSet = true ∧
      (s.safety.detSet = false → t.safety.detCode = d.code ∧ t.safety.detMech = d.mech ∧
        t.safety.detSrc = if d.src < 60 then d.src else 63) ∧
      (s.safety.detSet = true → t.safety.detCode = s.safety.detCode ∧ t.safety.detSrc = s.safety.detSrc) ∧
      (∃ f ∈ t.safety.recs, f.code = d.code ∧ f.unit = d.unit ∧ f.addr = d.addr) ∧
      (s.safety.fence = false → t.safety.fences = min (s.safety.fences + 1) 65535) ∧
      (s.stopped = true → t.job = s.job ∧ t.group = s.group ∧ t.ports = s.ports)) ∧
  (∀ (c : CoreId) (s : State), s.coreLive (coreKey c) = true →
    (s.safety.queue = [] → ∃ t, exec (.detectionLatch (some c)) s = .next t ∧ t.safety.fence = true ∧
      (t.proc (coreKey c)).halted = true ∧ (t.bar c.site).poison = true ∧ t.safety.queue = [] ∧
      ∃ f ∈ t.safety.recs, f.code = 0x2502) ∧
    (s.safety.fence = false → (s.proc (coreKey c)).inBar = none →
      ∃ t, exec (.sequencerWatchdog c) s = .next t ∧ t.proc (coreKey c) = { s.proc (coreKey c) with halted := true } ∧
        (t.bar c.site).poison = true ∧ s.Wrote t 0x2503 ∧ t.safety.queue.length = s.safety.queue.length + 1 ∧ t.mem = s.mem) ∧
    (∃ t, exec (.spanSignatureCompare c true) s = .next t ∧ t.proc (coreKey c) = { s.proc (coreKey c) with halted := true } ∧
      (t.bar c.site).poison = true ∧ s.Wrote t 0x2503 ∧ t.safety.queue.length = s.safety.queue.length + 1 ∧ t.mem = s.mem) ∧
    exec (.spanSignatureCompare c false) s = .next s) ∧
  (∀ s : State, s.powered = true → s.safety.wfail = false → s.safety.fence = false →
    ∀ i code, i = .wardenLockstepFail ∧ code = 0x2505 ∨ i = .supplyExcursion 60 ∧ code = 0x2506 →
    ∃ t, exec i s = .next t ∧ t.safety.wfail = true ∧ t.safety.fence = true ∧
      t.safety.dets = min (s.safety.dets + 1) (2 ^ 32 - 1) ∧ ∃ e ∈ t.evrec.queue, e.code = code) ∧
  (∀ (s : State) (v : Word), s.powered = true → v.getLsbD 0 = true →
    (s.safety.tbusy = false → s.devUp = true → ∃ t, exec (.sftestReq v) s = .next t ∧ t.safety.tbusy = true ∧
      t.safety.stesting = true ∧ t.safety.tfailed = false ∧ t.safety.treq = false ∧ t.safety.tleft = s.waitingParts) ∧
    (s.safety.tbusy = true → ∃ t, exec (.sftestReq v) s = .next t ∧ t.safety.treq = true ∧ t.safety.tbusy = true)) ∧
  (∀ s : State, s.safety.tbusy = true → s.safety.treq = false → s.job = none →
    (∃ t, exec (.selfTestComplete []) s = .next t ∧ t.safety.tbusy = false ∧ t.safety.tdone = true ∧ t.safety.stesting = false ∧
      t.safety.tfailed = s.safety.tfailed ∧ t.evrec = s.evrec) ∧
    (∀ p, ∃ t, exec (.selfTestComplete [p]) s = .next t ∧ t.safety.tbusy = false ∧ t.safety.tdone = true ∧
      t.safety.tfailed = true ∧ s.Wrote t 0x2509 ∧ t.safety.recs.length = s.safety.recs.length + 1))

/-- R504 to R512, R517 to R520: overcurrent, an excursion of the supply, a lost lock, a clock outside its window and two samples at
105 degrees trip a polder; a hot one steps its clock down, a cool one up once its supply has slewed; a clamp that closes and a pointer
slip fail their links and poison. -/
def Obligations.PoldersProtectThemselves : Prop :=
  (∀ (p : Fin 60) (s : State) (x : Polder), x = s.polder p → x.state = 2 →
    (∃ t, exec (.railOvercurrent p) s = .next t ∧ s.Tripped t p 1 0x3201) ∧
    (∃ t, exec (.supplyExcursion p.castSucc) s = .next t ∧ s.Tripped t p 3 0x2506) ∧
    (∃ t, exec (.pllLockLoss p) s = .next t ∧ s.Tripped t p 3 0x2507) ∧
    (∀ n, clockOk n x.div = false → ∃ t, exec (.clockMonitorWindow p n) s = .next t ∧ s.Tripped t p 3 0x2507) ∧
    (∀ n, clockOk n x.div = true → exec (.clockMonitorWindow p n) s = .next s) ∧
    (∀ tm : Int, 840 ≤ tm → 1 ≤ x.vhot → ∃ t, exec (.thermalSample p tm) s = .next t ∧ s.Tripped t p 2 0x3202) ∧
    (∀ tm : Int, 736 ≤ tm → tm < 840 → x.hot = 1 → x.div < 8 →
      ∃ t, exec (.thermalSample p tm) s = .next t ∧ (t.polder p).div = stepDown x.div ∧ (t.polder p).vtarget = vcoreOf (stepDown x.div) ∧
        (t.polder p).state = 2 ∧ s.Wrote t 0x3101) ∧
    (∀ tm : Int, tm ≤ 704 → 999 ≤ x.cool → 999 ≤ x.held → 4 < x.div → x.stepUp = none →
      ∃ t, exec (.thermalSample p tm) s = .next t ∧ (t.polder p).stepUp = some (stepUpOf x.div) ∧ (t.polder p).div = x.div ∧
        (t.polder p).vtarget = vcoreOf (stepUpOf x.div) ∧ t.evrec = s.evrec) ∧
    (x.stepUp = none → ∃ t, exec (.vcoreSlewComplete p) s = .next t ∧ t.polder p = { x with vout := x.vtarget }) ∧
    (∀ d, x.stepUp = some d → ∃ t, exec (.vcoreSlewComplete p) s = .next t ∧ (t.polder p).div = d ∧ (t.polder p).vout = x.vtarget ∧
      (t.polder p).stepUp = none ∧ s.Wrote t 0x3102) ∧
    (∀ far : Fin 60, far.val ∈ polNbrs p → far.val ∉ x.clamps →
      ∃ t, exec (.dikeClampClose p far) s = .next t ∧ t.polder p = { x with clamps := x.clamps ++ [far.val] } ∧
        (t.bar p).poison = true ∧ t.safety.queue.length = s.safety.queue.length + (dikeLinks p far).length ∧ t.mem = s.mem)) ∧
  (∀ (n : Fin 662) (port : Fin 8) (lane : Fin 4) (m : Nat) (s : State), meshNext n port = some m → polderOfNode m ≠ polderOfNode n →
    s.polderOn (polderOfNode n) = true → s.outDown n port = none →
    ∃ t, exec (.dikePointerSlip n port lane) s = .next t ∧ (t.node n).dead.getLsbD port = true ∧
      (t.node m).dead.getLsbD (portBack n m) = true ∧ t.safety.queue.length = s.safety.queue.length + 2 ∧ t.mem = s.mem)

/-- R515, R516, R519, R521 to R523: a feed that is lost lowers the ceiling, one that returns leaves it; an orderly stop raises the fence,
makes its record durable and shuts every polder down, and without power the Lake's content is lost; a write of `PDCTL` sets its request; a planned shutdown is
refused with code 0x3206 or takes the polder off with code 0x3205; a polder wakes with its ponds cleared, or is marked lost. -/
def Obligations.FeedsStopsAndPlannedShutdown : Prop :=
  (∀ (n : Fin 4) (s : State), s.powered = true →
    (n.val ∈ s.power.feeds → ∃ t fs, exec (.feedLoss n) s = .next t ∧ fs = s.power.feeds.filter (· != n.val) ∧ t.power.feeds = fs ∧
      t.power.limit = min s.power.limit (6000 * fs.length) ∧ s.Wrote t 0x3203) ∧
    (n.val ∉ s.power.feeds → ∃ t, exec (.feedRestore n) s = .next t ∧ t.power = { s.power with feeds := s.power.feeds ++ [n.val] } ∧
      s.Wrote t 0x3203)) ∧
  (∀ (why : StopCause) (s : State), s.powered = true → s.orderly = none →
    ∃ t, ∃ u : State, exec (.orderlyStop why) s = .next t ∧ t.safety.fence = true ∧ t.orderly = some why ∧
      (∀ p < 60, (t.polder p).state ≠ 2) ∧ (∃ e ∈ u.evrec.queue, e.code = 0x3204) ∧ u.evrec.recs = s.evrec.recs ∧
      t.evrec = u.allDurable.evrec ∧
      (why = .converter → t.powered = true) ∧
      (why ≠ .converter → t.powered = false ∧ ∀ off < 2 ^ 41, memByte t.mem (2 ^ 56 + off) = 0)) ∧
  (∀ (p : Fin 60) (v : Word) (s : State), s.powered = true →
    (v.getLsbD 0 = true → ∃ t, exec (.pdctlShut p v) s = .next t ∧ t.polder p = { s.polder p with shutReq := true }) ∧
    (v.getLsbD 1 = true → ∃ t, exec (.pdctlWake p v) s = .next t ∧ t.polder p = { s.polder p with wakeReq := true }) ∧
    (v.getLsbD 2 = true → ∃ t, exec (.pdctlRestore p v) s = .next t ∧ t.polder p = { s.polder p with restReq := true })) ∧
  (∀ (p : Fin 60) (s : State) (x : Polder), x = s.polder p → s.mayPower = true → s.devUp = true →
    (x.shutReq = true →
      (∀ why, (s.setPolder p { x with shutReq := false }).shutRefused p = some why →
        ∃ t, exec (.plannedShutdown p) s = .next t ∧ t.polder p = { x with shutReq := false } ∧ s.Wrote t 0x3206) ∧
      ((s.setPolder p { x with shutReq := false }).shutRefused p = none → x.state = 2 →
        ∃ t, exec (.plannedShutdown p) s = .next t ∧ (t.polder p).state = 0 ∧ (t.polder p).vout = 0 ∧ (t.polder p).lost = x.lost ∧
          (∀ q ∈ polNbrs p, p.val ∈ (t.polder q).clamps) ∧ s.Wrote t 0x3205)) ∧
    (x.wakeReq = true → x.state = 0 → x.lost = false → s.orderly = none →
      (∃ t, exec (.polderWake p true) s = .next t ∧ (t.polder p).state = 2 ∧ (t.polder p).div = 4 ∧ (t.polder p).wakeReq = false ∧
        s.Wrote t 0x3207 ∧ (∀ q ∈ polNbrs p, p.val ∉ (t.polder q).clamps) ∧
        (p.val < 56 → ∀ i < 2 ^ 30, memByte t.mem (p * 2 ^ 30 + i) = 0)) ∧
      (∃ t, exec (.polderWake p false) s = .next t ∧ t.polder p = { x with wakeReq := false, lost := true } ∧ t.mem = s.mem)))

/-! ## Power -/

/-- R528, R530, R532, R538, R540 to R545, R574: an estimate is taken of every polder that runs, and a total over the limit cuts every
site's grant by a quarter, not below its floor; the allocation counts energy and sets envelope, limit and floor; trim, caps, stale coolant
data, `PWCTL`, the heat fields and the wall clock change as their rules say. -/
def Obligations.PowerEstimatedAndAllocated : Prop :=
  (∀ s : State, s.powered = true →
    (∃ t, exec .powerEstimateInterval s = .next t ∧
      (∀ p < 60, (t.polder p).est = if (s.polder p).state = 2 then Config.polderEst p s.ref else (s.polder p).est) ∧
      t.power.est = (t.estTotal + Config.carrierLoads s.ref) * s.power.trim / 0x8000 ∧
      t.power.sumEst = s.power.sumEst + t.power.est ∧ t.power.nEst = s.power.nEst + 1 ∧ t.power.limit = s.power.limit ∧
      (∀ p < 56, (s.polder p).state = 2 → (t.polder p).k =
        if 100 * t.power.est > 102 * s.power.limit then max (s.kfloor (t.polder p).phase) ((s.polder p).k - ((s.polder p).k + 3) / 4)
        else (s.polder p).k) ∧ t.mem = s.mem ∧ t.procs = s.procs) ∧
    (∀ meter, ∃ t, exec (.powerAllocation meter) s = .next t ∧ t.power.meter = meter % 65536 ∧
      t.power.life = s.power.life + meter ∧ (s.job = none → t.power.jobe = s.power.jobe) ∧
      (∀ j, s.job = some j → 2 ≤ j.state → t.power.jobe = s.power.jobe + meter) ∧ t.power.nEst = 0 ∧ t.power.sumEst = 0 ∧
      (∀ l up floor bind, (s.power.takeHeat s.surr).limits
          (1000 * (if s.power.nEst = 0 then s.power.est else s.power.sumEst / s.power.nEst)) = (l, up, floor, bind) →
        t.power.env = l ∧ t.power.limit = up / 1000 ∧ t.power.floor = floor / 1000 ∧ t.power.bind = bind) ∧
      (∀ p < 56, (s.polder p).state = 2 → 1 ≤ (t.polder p).k ∧ (t.polder p).k ≤ 64) ∧ t.mem = s.mem) ∧
    (∀ est meter, est ≠ 0 → ∃ t, exec (.trimUpdate est meter) s = .next t ∧
      t.power = { s.power with trim := max 31130 (min 34406 (meter * 0x8000 / est)) } ∧
      (100 * ((meter : Int) - est).natAbs > 5 * est → s.Wrote t 0x3302) ∧
      (100 * ((meter : Int) - est).natAbs ≤ 5 * est → t.evrec = s.evrec)) ∧
    (s.power.atFloor = true → s.power.limit < s.power.est →
      ∃ t, exec .capNotMet s = .next t ∧ s.Wrote t 0x3301 ∧ t.power = s.power) ∧
    (s.power.stale = false → ∃ t, exec .coolantStale s = .next t ∧ s.Wrote t 0x3303 ∧ t.power = { s.power with stale := true })) ∧
  (∀ (port : Fin 2) (v : Word) (s : State),
    (s.regServed port 0x300000 = true → ∃ t c, exec (.pwctlWrite port v) s = .next t ∧ c = max 8000 (min 24000 (v.toNat % 65536)) ∧
      t.power = { s.power with cap := c } ∧ (c < s.power.cap ∧ c < s.power.est → s.Wrote t 0x3304) ∧
      (¬ (c < s.power.cap ∧ c < s.power.est) → t.evrec = s.evrec)) ∧
    (∀ reg : Fin 2, s.regServed port 0x200010 = true →
      ∃ t, exec (.surroundingsHeatWrite port reg v) s = .next t ∧
        (∀ f ∈ heatFields reg, fieldOf (if reg = 0 then t.surr.heat1 else t.surr.heat2) f =
          if inRange v f then fieldOf v f else fieldOf (if reg = 0 then s.surr.heat1 else s.surr.heat2) f) ∧
        (if reg = 0 then t.surr.heat2 = s.surr.heat2 ∧ t.power.stale = false else t.surr.heat1 = s.surr.heat1 ∧ t.power = s.power) ∧
        (reg = 1 → t.evrec.queue.length = s.evrec.queue.length + ((heatFields 1).filter (fun f => !inRange v f)).length)) ∧
    (s.regServed port 0x200020 = true → ∃ t, exec (.srtimeWrite port v) s = .next t ∧ t.wall = v.toNat ∧ t.mem = s.mem ∧
      t.surr = { s.surr with timeBase := v, timeRef := s.ref }))

/-! ## The control space -/

/-- R549, R551, R560 to R564, R574, R625 to R631: a register reads its value, a read clears the fields it covers, an access with another
size or alignment is unsupported and one that no block serves reads zero; writes change the fields that software writes; windows, queue
configuration and doorbells act on their queue alone, and a bad doorbell stops its queue with code 0x7102. -/
def Obligations.HostRegistersReadAndWritten : Prop :=
  (∀ (port : Fin 2) (off size : Nat) (s : State),
    (s.hostOk port = false ∨ bar0Ok off size = false →
      exec (.rcRead port off size) s = .next { s with hostTx := s.hostTx ++ [.unsupported port] } ∧
      ∀ v, exec (.registerWrite port off size v) s = .next { s with hostTx := s.hostTx ++ [.unsupported port] }) ∧
    (s.hostOk port = true → bar0Ok off size = true → s.regServed port off = false → s.safety.wfail = false →
      exec (.rcRead port off size) s = .next { s with hostTx := s.hostTx ++ [.rdata port (leBytes size 0)] } ∧
      ∀ v, exec (.registerWrite port off size v) s = .next s) ∧
    (bar0Ok off size = true → s.regServed port off = true →
      (∃ t, exec (.rcRead port off size) s = .next t ∧
        t.hostTx = s.hostTx ++ [.rdata port (leBytes size (s.reg port (off / 8 * 8) / 2 ^ (8 * (off % 8))))] ∧ t.mem = s.mem ∧
        t.procs = s.procs ∧ (off = 0x600010 → size = 8 → t.safety = { s.safety with dets := 0, fences := 0 }) ∧
        (off = 0x1000040 → size = 4 → t.lkCorr = 0 ∧ t.lkUnc = s.lkUnc) ∧
        (off = 0x1000044 → size = 4 → t.lkCorr = s.lkCorr ∧ t.lkUnc = 0) ∧
        (off = 0x200800 → size = 8 → t.group = { s.group with badsrc := 0 })) ∧
      (∀ v, off < 0x100 ∨ 0x2000000 ≤ off → exec (.registerWrite port off size v) s = .next s) ∧
      (∀ v : Word, off = 0x200000 → size = 8 → ∃ t, exec (.registerWrite port off size v) s = .next t ∧
        t.surr = { s.surr with topo := BitVec.ofNat 64 (v.toNat % 2 ^ 55) } ∧ t.group = s.group ∧ t.mem = s.mem) ∧
      (∀ (q : Fin 16) (v : Word) (x : HQueue), off = 0x100000 + 0x100 * q → size = 8 → x = (s.hport port).queue q →
        ∃ t, exec (.registerWrite port off size v) s = .next t ∧
          ((t.hport port).queue q).sqbase = if x.enabled then x.sqbase else BitVec.ofNat 64 (v.toNat / 4096 * 4096)) ∧
      (∀ v : Word, off = 0x5E0000 → size = 8 → exec (.registerWrite port off size v) s = .next { s with freeze := v.getLsbD 0 }))) ∧
  (∀ (port : Fin 2) (seg : Fin 16) (v : Word) (s : State) (base : Nat), s.regServed port (0x10E000 + 8 * seg) = true →
    base = v.toNat / 2 ^ 26 * 2 ^ 26 →
    (base < 2 ^ 57 → base % ((s.hport port).bar2 / 16) = 0 →
      ∃ t, exec (.hwinWrite port seg v) s = .next t ∧ t.mem = s.mem ∧
        t.hport port = { s.hport port with hwin := Tbl.put (s.hport port).hwin seg (BitVec.ofNat 64 (base + v.toNat % 2)) }) ∧
    (2 ^ 57 ≤ base ∨ base % ((s.hport port).bar2 / 16) ≠ 0 → exec (.hwinWrite port seg v) s = .next s)) ∧
  (∀ (port : Fin 2) (q : Fin 16) (v : Word) (s : State) (x : HQueue), x = (s.hport port).queue q →
    (s.regServed port (0x100010 + 0x100 * q) = true →
      (x.enabled = false → v.getLsbD 19 = true → ∃ t y, exec (.hqcfgWrite port q v) s = .next t ∧ y = (t.hport port).queue q ∧
        y.enabled = true ∧ y.sqhead = 0 ∧ y.cqtail = 0 ∧ y.phase = true ∧ y.error = false ∧ y.cmds = [] ∧ y.sqbase = x.sqbase ∧
        y.cqbase = x.cqbase ∧ y.ien = v.getLsbD 18 ∧ y.vector = v.toNat / 256 % 1024) ∧
      (v.getLsbD 19 = false → ∃ t y, exec (.hqcfgWrite port q v) s = .next t ∧ y = (t.hport port).queue q ∧ y.enabled = false ∧
        y.error = false ∧ y.cmds = [] ∧ y.ring = [])) ∧
    (s.qServed port q = true →
      (∀ cmds t', t' = v.toNat % 4096 → x.sqsize ≤ t' →
        ∃ t, exec (.hqsqdbWrite port q v cmds) s = .next t ∧ (t.hport port).queue q = { x with error := true } ∧ s.Wrote t 0x7102) ∧
      (∀ cmds t', t' = v.toNat % 4096 → t' < x.sqsize → x.sqhead < x.sqsize → x.cqFull = false →
        cmds.length = (t' + x.sqsize - x.sqhead) % x.sqsize →
        (∀ c ∈ cmds, HostCmd.bad c (s.sec.stage == 14) = false) →
        ∃ t, exec (.hqsqdbWrite port q v cmds) s = .next t ∧
          (t.hport port).queue q = { x with sqtail := t', sqhead := t', ring := [], cmds := x.cmds ++ cmds } ∧
          (t.hport port).compl = (s.hport port).compl) ∧
      (∀ c t', t' = v.toNat % 4096 → t' < x.sqsize → x.sqhead < x.sqsize → x.cqFull = false →
        t' = (x.sqhead + 1) % x.sqsize → HostCmd.bad c (s.sec.stage == 14) = true →
        ∃ t, exec (.hqsqdbWrite port q v [c]) s = .next t ∧ ((t.hport port).queue q).cmds = x.cmds ∧
          (t.hport port).compl = (s.hport port).compl ++ [⟨q, c.cid, 1, none, none, none⟩]) ∧
      (∀ t', t' = v.toNat % 4096 → t' < x.cqsize → x.ring = [] →
        ∃ t, exec (.hqcqdbWrite port q v) s = .next t ∧
          (t.hport port).queue q = { x with cqused := (x.cqtail + x.cqsize - t') % x.cqsize }) ∧
      (∀ t', t' = v.toNat % 4096 → x.cqsize ≤ t' →
        ∃ t, exec (.hqcqdbWrite port q v) s = .next t ∧ ((t.hport port).queue q).error = true ∧ s.Wrote t 0x7102)))

/-! ## Transfers between host and device -/

/-- R551, R552, R557, R563, R564, R566, R568 to R572: BAR2 and the copies read and write the device memory that the host reaches, a refused
access is aborted with code 0x7101; intake frames go to their slots and PROD counts them; heads are exported once every owned shard is
sealed; failure records are copied; a completion entry is posted at the ring's tail with its phase. -/
def Obligations.HostTransfersMoveBytes : Prop :=
  (∀ (port : Fin 2) (off len : Nat) (a : Word) (s : State), s.bar2Ok port = true → off + len ≤ (s.hport port).bar2 →
    (s.hport port).bar2Addr off = some a →
    (s.hostRefuses port a len false = false → s.Clean →
      ∃ t, exec (.bar2Read port off len) s = .next t ∧ t.hostTx = s.hostTx ++ [.rdata port (s.bytesAt a.toNat len)] ∧ s.SameMem t) ∧
    (s.hostRefuses port a len false = true →
      ∃ t, exec (.bar2Read port off len) s = .next t ∧ t.hostTx = s.hostTx ++ [.abort port] ∧ s.Wrote t 0x7101 ∧ s.SameMem t)) ∧
  (∀ (port : Fin 2) (off : Nat) (a : Word) (bytes : List Byte) (s : State), s.bar2Ok port = true →
    off + bytes.length ≤ (s.hport port).bar2 → (s.hport port).bar2Addr off = some a →
    (s.hostRefuses port a bytes.length true = false → s.Clean →
      ∃ t, exec (.bar2Write port off bytes) s = .next t ∧ t.bytesAt a.toNat bytes.length = bytes ∧
        s.SameMemOutside t a.toNat bytes.length ∧ t.evrec = s.evrec) ∧
    (s.hostRefuses port a bytes.length true = true →
      ∃ t, exec (.bar2Write port off bytes) s = .next t ∧ s.Wrote t 0x7101 ∧ s.SameMem t)) ∧
  (∀ (port : Fin 2) (off : Nat) (s : State), s.hostOk port = true →
    ∃ t, exec (.poisonedWrite port off) s = .next t ∧ s.Wrote t 0x7104 ∧ t.mem = s.mem ∧ t.hports = s.hports) ∧
  (∀ (port : Fin 2) (q : Fin 16) (c : HostCmd) (rest : List HostCmd) (s : State), s.safety.fence = false →
    (s.Begins port q 0x10 c rest →
      (∀ data, c.len.toNat ≤ data.length → s.Reaches port c.daddr c.len.toNat true → s.Clean →
        ∃ t, exec (.copyIn port q data) s = .next t ∧ t.bytesAt c.daddr.toNat c.len.toNat = data.take c.len.toNat ∧
          s.SameMemOutside t c.daddr.toNat c.len.toNat ∧ s.Ended t port q c rest 0 (some c.len.toNat) none none) ∧
      ((∀ x ∈ (s.hport port).running, x.q = q.val → x.cmd.opc.toNat ≠ 0x12) →
        ∃ t, exec (.hostReadError port q) s = .next t ∧ s.Ended t port q c rest 4 (some 0) none none ∧ s.Wrote t 0x7104 ∧
          t.mem = s.mem)) ∧
    (s.Begins port q 0x11 c rest → s.Reaches port c.daddr c.len.toNat false → s.Clean →
      ∃ t, exec (.copyOut port q) s = .next t ∧
        t.hostTx = s.hostTx ++ [.write port c.haddr (s.bytesAt c.daddr.toNat c.len.toNat)] ∧ s.SameMem t ∧
        s.Ended t port q c rest 0 (some c.len.toNat) none none) ∧
    (∀ (n f cons slots sb : Nat) (records : List (List Byte)), s.Begins port q 0x12 c rest → s.Clean → f = c.arg 0 64 → n = c.arg 64 32 →
      cons = s.natAt (c.daddr.toNat + 64) 8 → slots = s.natAt (c.daddr.toNat + 132) 4 → sb = s.slotBytes c.daddr →
      (∀ p : Fin 2, ∀ x ∈ (s.hport p).running, x.cmd.opc.toNat ≠ 0x12) →
      256 ≤ sb → n ≤ slots → f + n ≤ cons + slots → f + n < 2 ^ 64 → s.natAt c.daddr.toNat 8 = f → 0 < n →
      s.Reaches port c.daddr (256 + slots * sb) true → records.length = n →
      (∀ i r, records[i]? = some r → leNat (r.take 8) = f + i ∧ leNat ((r.drop 8).take 4) + 64 ≤ sb ∧
        64 + leNat ((r.drop 8).take 4) ≤ r.length) →
      ∃ t, exec (.intakeDelivery port q records) s = .next t ∧ s.Ended t port q c rest 0 (some n) (some (f + n)) none ∧
        t.natAt c.daddr.toNat 8 = f + n ∧
        (∀ i r m, records[i]? = some r → m = 64 + leNat ((r.drop 8).take 4) →
          t.bytesAt (c.daddr.toNat + 256 + (f + i) % slots * sb) m = r.take m) ∧
        s.SameMemOutside t c.daddr.toNat (256 + slots * sb)) ∧
    (s.Begins port q 0x31 c rest →
      (s.exportPlan (exportShards c) = none →
        ∃ t, exec (.exportHeads port q) s = .next t ∧ s.Ended t port q c rest 2 none none none ∧ s.SameMem t) ∧
      (∀ plan, s.exportPlan (exportShards c) = some plan → (s.oneStep (exportShards c)).2 = none → s.Clean →
        ∃ t, exec (.exportHeads port q) s = .next t ∧ s.SameMem t ∧ t.hostTx = s.hostTx ∧
          (t.hport port).running = (s.hport port).running ++ [⟨q, c, 0⟩] ∧ (t.hport port).compl = (s.hport port).compl ∧
          (t.job.map (·.exporting)) = s.job.map (fun _ => true)) ∧
      (∀ plan n, s.exportPlan (exportShards c) = some plan → (s.oneStep (exportShards c)).2 = some n → s.Clean →
        (∀ e ∈ plan, s.Reaches port (lakeAddr e.1) e.2 false) →
        ∃ t, exec (.exportHeads port q) s = .next t ∧ s.Ended t port q c rest 0 (some n) none none ∧ s.SameMem t ∧
          t.hostTx = s.hostTx ++ [.write port c.haddr (plan.flatMap (fun e => s.bytesAt (lakeAddr e.1).toNat e.2))] ∧
          (t.job.map (·.exporting)) = s.job.map (fun _ => false))) ∧
    (s.Begins port q 0x42 c rest → (∀ f ∈ s.safety.recs, f.seq = none ∨ f.seq = some 0) →
      ∃ t, exec (.errorRecords port q) s = .next t ∧ t.hostTx = s.hostTx ++ [.write port c.haddr []] ∧
        s.Ended t port q c rest 0 none none none ∧ t.mem = s.mem) ∧
    (∀ f n, s.Begins port q 0x42 c rest → s.safety.recs = [f] → f.seq = some n → n ≠ 0 → c.arg 0 64 ≤ n → 328 ≤ c.len.toNat →
      ∃ t, exec (.errorRecords port q) s = .next t ∧ t.hostTx = s.hostTx ++ [.write port c.haddr (f.bytes s)] ∧
        s.Ended t port q c rest 0 none none none ∧ t.mem = s.mem)) ∧
  (∀ (port : Fin 2) (q : Fin 16) (r : RunCmd) (s : State), s.safety.wfail = false →
    (s.hport port).running.find? (fun x => x.q == q.val && x.cmd.opc == 0x12) = some r →
    s.natAt (r.cmd.daddr.toNat + 64) 8 + s.natAt (r.cmd.daddr.toNat + 132) 4 ≤ r.cmd.arg 0 64 + r.done →
    ∃ t, exec (.intakeWaitTimeout port q) s = .next t ∧ t.mem = s.mem ∧
      t.hport port = { s.hport port with
        running := (s.hport port).running.erase r,
        compl := (s.hport port).compl ++ [⟨r.q, r.cmd.cid, 8, some r.done, some ((r.cmd.arg 0 64 + r.done) % 2 ^ 64), none⟩] }) ∧
  (∀ (port : Fin 2) (q : Fin 16) (c : Compl) (s : State) (x : HQueue), x = (s.hport port).queue q →
    (s.hport port).compl.find? (·.q == q.val) = some c → x.enabled = true → s.hostOk port = true → s.safety.wfail = false →
    x.cqFull = false →
    ∃ t y, exec (.commandCompletion port q) s = .next t ∧ y = (t.hport port).queue q ∧ t.mem = s.mem ∧
      (t.hport port).compl = (s.hport port).compl.erase c ∧ y.cqtail = (x.cqtail + 1) % x.cqsize ∧
      y.phase = (if (x.cqtail + 1) % x.cqsize = 0 then !x.phase else x.phase) ∧ y.cqused = x.cqused + 1 ∧ y.sqhead = x.sqhead ∧
      ∃ post, post = HostTx.write port (BitVec.ofNat 64 (x.cqbase.toNat + 32 * x.cqtail)) (entryBytes port x c) ∧
        (x.ien = false → t.hostTx = s.hostTx ++ [post]) ∧
        (x.ien = true → (Tbl.get (s.hport port).msix (BitVec.ofNat 64 (2 ^ 32)) (2 * x.vector + 1)).getLsbD 32 = false →
          t.hostTx = s.hostTx ++ [post, .irq port x.vector]))

/-! ## The host's commands on jobs -/

/-- R473, R525, R566, R567, R584, R591: a job that breaks no rule is loaded, one that breaks a rule is refused with the rule's number, and
one more is refused while a job is loaded; a job starts under its identifier, is amended while it awaits sites, and ends; a checkpoint
is designated where it may be; ports are asked to train again, and a self-test starts. -/
def Obligations.JobCommandsActOnTheJob : Prop :=
  ∀ (port : Fin 2) (q : Fin 16) (c : HostCmd) (rest : List HostCmd) (s : State),
    (∀ d : JobDesc, s.Begins port q 0x20 c rest →
      (s.job = none → s.takeTopo.jobRefusal d = none →
        ∃ t, exec (.jobSubmit port q d) s = .next t ∧ t.job = some (newJob d) ∧ t.mem = s.mem ∧ t.group = s.takeTopo.group ∧
          s.Ended t port q c rest 0 none none none) ∧
      (∀ rule, s.job = none → s.takeTopo.jobRefusal d = some rule →
        ∃ t, exec (.jobSubmit port q d) s = .next t ∧ t.job = none ∧ t.mem = s.mem ∧ t.group = s.group ∧
          s.Ended t port q c rest 6 (some (Config.descOffset d.jobid rule)) none (some rule)) ∧
      (s.job.isSome → ∃ t, exec (.jobSubmit port q d) s = .next t ∧ t.job = s.job ∧ s.Ended t port q c rest 9 none none none)) ∧
    (s.Begins port q 0x21 c rest →
      (s.job = none → ∃ t, exec (.jobStart port q) s = .next t ∧ t.job = none ∧ s.Ended t port q c rest 9 none none none) ∧
      (∀ j, s.job = some j → j.start = none → j.state = 1 → j.subst = false → c.arg 0 32 = j.desc.jobid.toNat →
        ∃ t, exec (.jobStart port q) s = .next t ∧ (t.job.map (·.state)) = some (if s.safety.fence then 3 else 2) ∧
          (t.job.map (·.start)) = some (some (port.val, q.val, c.cid)) ∧ (t.job.map (·.desc)) = some j.desc ∧
          (t.job.map (·.nextStep)) = some j.desc.firstStep ∧ t.power.jobe = 0 ∧
          (t.hport port).compl = (s.hport port).compl ∧ ((t.hport port).queue q).cmds = rest) ∧
      (∀ j, s.job = some j → j.desc.jobid.toNat ≠ c.arg 0 32 →
        ∃ t, exec (.jobStart port q) s = .next t ∧ t.job = s.job ∧ s.Ended t port q c rest 9 none none none)) ∧
    (∀ m, s.Begins port q 0x22 c rest → ∀ j, s.job = some j →
      (j.state = 5 → s.stagesBad m = false → s.isMgr = false →
        ∃ t, exec (.jobAmend port q m) s = .next t ∧ t.job = some { j with state := 4, desc := amendDesc j.desc m } ∧
          s.Ended t port q c rest 0 none none none ∧ t.mem = s.mem) ∧
      (j.state = 5 → s.stagesBad m = true →
        ∃ t, exec (.jobAmend port q m) s = .next t ∧ t.job = s.job ∧ s.Ended t port q c rest 6 none none (some 1)) ∧
      (j.state ≠ 5 → ∃ t, exec (.jobAmend port q m) s = .next t ∧ t.job = s.job ∧ s.Ended t port q c rest 9 none none none)) ∧
    (s.Begins port q 0x23 c rest →
      (∀ j, s.job = some j → j.desc.jobid.toNat = c.arg 0 32 →
        ∃ t, exec (.jobEnd port q) s = .next t ∧ t.job = none ∧ t.safety.fence = true ∧
          (⟨q, c.cid, 0, none, none, none⟩ : Compl) ∈ (t.hport port).compl ∧
          (∀ p' q' cid, j.start = some (p', q', cid) → ∃ e ∈ (t.hport p').compl, e.q = q' ∧ e.cid = cid ∧ e.status = 5) ∧
          (j.start = none → (t.held.map (·.status)) = some 5)) ∧
      (∀ j, s.job = some j → j.desc.jobid.toNat ≠ c.arg 0 32 →
        ∃ t, exec (.jobEnd port q) s = .next t ∧ t.job = s.job ∧ s.Ended t port q c rest 9 none none none) ∧
      (s.job = none → ∃ t, exec (.jobEnd port q) s = .next t ∧ s.Ended t port q c rest 9 none none none)) ∧
    (s.Begins port q 0x24 c rest → ∃ t bs, exec (.jobStatus port q) s = .next t ∧ bs.length = 256 ∧
      t.hostTx = s.hostTx ++ [.write port c.haddr bs] ∧ s.Ended t port q c rest 0 none none none ∧ t.job = s.job ∧ t.mem = s.mem) ∧
    (s.Begins port q 0x30 c rest →
      (s.isMgr = false ∨ s.jobKey = none ∨ s.safety.fence = true ∨ s.group.desig.isSome →
        ∃ t, exec (.checkpoint port q) s = .next t ∧ s.Ended t port q c rest 9 none none none ∧ t.flash = s.flash) ∧
      (∀ j, s.isMgr = true → s.superior = none → s.jobKey.isSome → s.safety.fence = false → s.group.desig = none → s.job = some j →
        j.state = 2 → s.flash.teeStep = none →
        ∃ t, exec (.checkpoint port q) s = .next t ∧ t.flash.teeStep = some (j.step + 2) ∧ t.job = s.job ∧
          (s.allIn [s.group.coord.toNat] = false → t.group.desig = some (j.step + 2) ∧ (t.hport port).compl = (s.hport port).compl) ∧
          (s.allIn [s.group.coord.toNat] = true → t.group.desig = none ∧
            (⟨q, c.cid, 0, some (j.step + 2), none, none⟩ : Compl) ∈ (t.hport port).compl))) ∧
    (s.Begins port q 0x40 c rest →
      ∃ t, exec (.retrain port q) s = .next t ∧ s.Ended t port q c rest 0 none none none ∧ t.mem = s.mem ∧
        ∀ i < 56, t.port i = if c.args.getLsbD i && s.portOn i then { s.port i with retrain := true } else s.port i) ∧
    (s.Begins port q 0x41 c rest → s.safety.tbusy = false →
      ∃ t, exec (.selfTest port q) s = .next t ∧ t.safety.tbusy = true ∧ t.safety.stesting = true ∧ t.safety.tfailed = false ∧
        t.safety.tleft = s.waitingParts ∧ (t.hport port).compl = (s.hport port).compl ∧
        (t.hport port).running = (s.hport port).running ++ [⟨q, c, 0⟩])

/-! ## Resets -/

/-- R558 to R560, R580 to R586, R639: power good boots the module to ready where an image is accepted and to recovery where none is; a
module reset keeps the Lake and the loaded job and clears the rest; a job reset clears the compute state and lowers the fence; a polder
reset clears one polder; a port's reset returns its own registers to their reset values; D3hot stops a port and lets it go on. -/
def Obligations.ResetsClearWhatTheyName : Prop :=
  (∀ (feeds : List (Fin 4)) (s : State), s.powered = false → 2 ≤ ((feeds.map (·.val)).eraseDups).length →
    (s.slotRefusal s.sec.active = none →
      ∃ t, exec (.powerGood feeds []) s = .next t ∧ t.powered = true ∧ t.sec.stage = 9 ∧ t.sec.slot = s.sec.active ∧ t.job = none ∧
        t.idgen = 2 ∧ t.safety.fence = false ∧ t.mesh = [] ∧ (∀ a < 2 ^ 72, memByte t.mem a = 0) ∧
        (∀ a, 2 ^ 72 ≤ a → memByte t.mem a = memByte s.mem a) ∧ t.power.feeds = (feeds.map (·.val)).eraseDups ∧
        (∀ p < 60, (p < 56 ∧ (s.polder p).lost = true ∧ (s.polder p).cause = 1 ∧ (s.polder p).restReq = false) ∨
          (t.polder p).state = 2)) ∧
    (∀ v w, s.slotRefusal s.sec.active = some v → s.slotRefusal (1 - s.sec.active) = some w →
      ∃ t, exec (.powerGood feeds []) s = .next t ∧ t.powered = true ∧ t.sec.stage = 14 ∧ t.sec.fail = 4 ∧
        ∀ p < 60, (t.polder p).state ≠ 2) ∧
    (∃ t, exec (.powerGood feeds [.warden]) s = .next t ∧ t.powered = true ∧ t.sec.stage = 15 ∧ t.safety.wfail = true)) ∧
  (∀ (port : Fin 2) (q : Fin 16) (c : HostCmd) (rest : List HostCmd) (s : State), s.Begins port q 0x50 c rest →
    (c.arg 0 8 = 1 → s.orderly = none → s.slotRefusal s.sec.active = none →
      ∃ t, exec (.moduleReset port q) s = .next t ∧ t.sec.kind = 2 ∧ t.sec.stage = 9 ∧ t.hports = [] ∧ t.safety.fence = false ∧
        (t.job.map (·.desc)) = s.job.map (·.desc) ∧ (∀ j, s.job = some j → j.state ≠ 1 → (t.job.map (·.parked)) = some true) ∧
        (∀ a < 2 ^ 56, memByte t.mem a = 0) ∧
        (∀ a, 2 ^ 56 ≤ a → a < 2 ^ 57 → memByte t.mem a = if s.lakeHeld then memByte s.mem a else 0) ∧
        (∀ p < 60, (s.polder p).lost = false → (t.polder p).state = 2)) ∧
    (c.arg 0 8 = 2 → ∃ t, exec (.jobReset port q) s = .next t ∧ t.safety.fence = false ∧ t.mesh = [] ∧ t.springs = [] ∧ t.ues = [] ∧
      (⟨q, c.cid, 0, none, none, none⟩ : Compl) ∈ (t.hport port).compl ∧
      (s.safety.fence = true → (t.job.map (·.state)) = s.job.map (fun j => if j.state = 1 then 1 else 3)) ∧
      ∀ a, 2 ^ 64 ≤ a → a < 2 ^ 71 → memByte t.mem a = 0) ∧
    (∀ p, c.arg 0 8 = 3 → p = c.arg 8 8 → p < 60 →
      (p = 56 → ∃ t, exec (.polderReset port q) s = .next t ∧ s.Ended t port q c rest 9 none none none ∧ t.polders = s.polders) ∧
      (p ≠ 56 → s.mayPower = false → ∃ t, exec (.polderReset port q) s = .next t ∧ (t.hport port).compl = (s.hport port).compl ∧
        t.polder p = { s.polder p with resetReq := true } ∧ t.mem = s.mem) ∧
      (p ≠ 56 → s.mayPower = true → ∃ t, exec (.polderReset port q) s = .next t ∧
        (port = 0 ∨ p ≠ 58 → s.Ended t port q c rest 0 none none none) ∧ ((s.polder p).lost = false → (t.polder p).state = 2) ∧
        (t.polder p).trips = (s.polder p).trips ∧ (t.polder p).lost = (s.polder p).lost ∧
        (∀ k ∈ t.mesh, polderOfNode k.loc ≠ p) ∧ (p < 56 → ∀ i < 2 ^ 30, memByte t.mem (p * 2 ^ 30 + i) = 0) ∧
        s.SameMemOutside t (p * 2 ^ 30) (if p < 56 then 2 ^ 30 else 0)))) ∧
  (∀ s : State, s.powered = true → s.safety.wfail = false → s.orderly = none → s.slotRefusal s.sec.active = none →
    ∃ t, exec .perstPortA s = .next t ∧ t.sec.kind = 1 ∧ t.sec.stage = 9 ∧ t.hports = [] ∧ (∀ a < 2 ^ 56, memByte t.mem a = 0) ∧
      (∀ a, 2 ^ 56 ≤ a → a < 2 ^ 57 → memByte t.mem a = if s.lakeHeld then memByte s.mem a else 0)) ∧
  (∀ (port : Fin 2) (s : State),
    (∀ why, s.powered = true → port = 0 ∨ s.polderOn 58 = true → portResetHere (s.hport port) port why = true →
      ∃ t, exec (.portReset port why) s = .next t ∧ t.hport port = HPort.reset ∧ s.Wrote t 0x7105 ∧ t.mem = s.mem ∧
        (∀ p, p ≠ port.val → t.hport p = s.hport p)) ∧
    (s.hostOk port = true → ∃ t, exec (.d3hotEntry port) s = .next t ∧ t.hport port = { s.hport port with d3 := true } ∧
      t.mem = s.mem) ∧
    (s.powered = true → (s.hport port).d3 = true →
      ∃ t, exec (.d3hotExit port) s = .next t ∧ (t.hport port).d3 = false ∧ t.mem = s.mem ∧
        ((∀ q < 16, ((s.hport port).queue q).ring = []) → t.hport port = { s.hport port with d3 := false })))

/-! ## Security -/

/-- R578, R579, R587, R589, R592 to R595, R598: an image is staged in the slot that is not active, one that fails a check leaves that slot
invalid; activation names a verified slot, and the rollback floor rises to the running image's version; certificates are read, job keys
installed and erased; observation opens once, without a job, and clears every key; attestation answers under the next index, and not
while a key is generated. -/
def Obligations.SecurityCommandsKeepTheirRules : Prop :=
  (∀ (port : Fin 2) (q : Fin 16) (c : HostCmd) (rest : List HostCmd) (s : State),
    (∀ f : FwImage, s.Begins port q 0x60 c rest →
      (f.refusal s.fuse.vkey s.fuse.revoke s.fuse.floor = none →
        ∃ t, exec (.firmwareStage port q f) s = .next t ∧ Tbl.get t.sec.slots FwImage.empty (1 - s.sec.active) = f ∧
          Tbl.get t.sec.okSlot false (1 - s.sec.active) = true ∧ t.sec.active = s.sec.active ∧
          s.Ended t port q c rest 0 (some f.svn) none none) ∧
      (∀ w, f.refusal s.fuse.vkey s.fuse.revoke s.fuse.floor = some w →
        ∃ t, exec (.firmwareStage port q f) s = .next t ∧ Tbl.get t.sec.okSlot false (1 - s.sec.active) = false ∧
          s.Ended t port q c rest 1 none none (some (0x0100 + w)))) ∧
    (s.Begins port q 0x61 c rest →
      (Tbl.get s.sec.okSlot false (c.arg 0 1) = true →
        ∃ t, exec (.firmwareActivate port q) s = .next t ∧ t.sec = { s.sec with active := c.arg 0 1 } ∧ s.Wrote t 0x6105 ∧
          s.Ended t port q c rest 0 none none none) ∧
      (Tbl.get s.sec.okSlot false (c.arg 0 1) = false →
        ∃ t, exec (.firmwareActivate port q) s = .next t ∧ t.sec = s.sec ∧ s.Ended t port q c rest 9 none none (some 0x0104))) ∧
    (s.Begins port q 0x62 c rest →
      (∀ f fl, s.sec.active = s.sec.slot → s.sec.running = some f → fl = min 64 (max s.fuse.floor f.svn) →
        ∃ t, exec (.rollbackCommit port q) s = .next t ∧ t.fuse = { s.fuse with floor := fl } ∧ s.Wrote t 0x6104 ∧
          s.Ended t port q c rest 0 (some fl) none none) ∧
      (s.sec.active ≠ s.sec.slot → ∃ t, exec (.rollbackCommit port q) s = .next t ∧ t.fuse = s.fuse ∧
        s.Ended t port q c rest 9 none none (some 0x0104))) ∧
    (s.Begins port q 0x63 c rest → ∃ t, exec (.certificateRead port q) s = .next t ∧
      t.hostTx = s.hostTx ++ [.write port c.haddr ((Config.certificate (if s.sec.observed then 0xFF else s.sec.gen)).take c.len.toNat)] ∧
      s.Ended t port q c rest 0 none none none ∧ t.sec = s.sec) ∧
    (∀ key id, s.Begins port q 0x64 c rest → id = c.arg 0 32 →
      (id ≠ 0 → s.sec.keys.length < 8 → (∀ e ∈ s.sec.keys, e.1 ≠ id) →
        ∃ t, exec (.jobKeyInstall port q key) s = .next t ∧ t.sec = { s.sec with keys := s.sec.keys ++ [(id, key)] } ∧
          s.Wrote t 0x6301 ∧ s.Ended t port q c rest 0 none none none) ∧
      (id = 0 ∨ 8 ≤ s.sec.keys.length ∨ (∃ e ∈ s.sec.keys, e.1 = id) →
        ∃ t, exec (.jobKeyInstall port q key) s = .next t ∧ t.sec = s.sec ∧ s.Ended t port q c rest 9 none none (some 0x0105))) ∧
    (∀ id, s.Begins port q 0x65 c rest → id = c.arg 0 32 →
      (c.arg 32 1 = 0 → (∀ j, s.job = some j → j.desc.keyid.toNat ≠ id) → id ≠ 0 →
        ∃ t, exec (.jobKeyErase port q) s = .next t ∧ t.sec = { s.sec with keys := s.sec.keys.filter (fun e => e.1 != id) } ∧
          s.Wrote t 0x6302 ∧ s.Ended t port q c rest 0 none none none) ∧
      (∀ j, s.job = some j → j.desc.keyid.toNat = id → (∃ e ∈ s.sec.keys, e.1 = id) →
        ∃ t, exec (.jobKeyErase port q) s = .next t ∧ t.sec = s.sec ∧ s.Ended t port q c rest 9 none none (some 0x0105))) ∧
    (s.Begins port q 0x66 c rest →
      (s.job = none → s.fuse.rekey < 64 →
        ∃ t, exec (.openObservation port q) s = .next t ∧ t.sec.observed = true ∧ t.sec.keys = [] ∧ t.trace.openT = true ∧
          s.Wrote t 0x6401 ∧ s.Ended t port q c rest 0 none none none ∧
          (∀ i < 2 ^ 30, memByte t.mem (lakeKey (traceBase s) + i) = 0) ∧ s.SameMemOutside t (lakeKey (traceBase s)) (2 ^ 30)) ∧
      (s.job.isSome → ∃ t, exec (.openObservation port q) s = .next t ∧ t.sec = s.sec ∧ t.trace = s.trace ∧
        s.Ended t port q c rest 9 none none (some 0x0106)) ∧
      (s.job = none → 64 ≤ s.fuse.rekey → ∃ t, exec (.openObservation port q) s = .next t ∧ t.sec = s.sec ∧ s.Wrote t 0x6403 ∧
        s.Ended t port q c rest 9 none none (some 0x0106)))) ∧
  (∀ (port : Fin 2) (flags : BitVec 8) (nonce : BitVec 256) (s : State), s.hostOk port = true → s.devUp = true →
    (s.sec.busy = false → s.sec.exhausted = false →
      ∃ t bs, exec (.doeAttestationRequest port flags nonce) s = .next t ∧ t.hostTx = s.hostTx ++ [.doe port bs] ∧
        bs.length = 3108 ∧ (bs.drop 4).take 32 = leBytes 32 nonce.toNat ∧
        (bs.drop 288).take 4 = (leBytes 4 s.sec.nextIdx).reverse ∧ t.sec.nextIdx = s.sec.nextIdx + 1 ∧ t.mem = s.mem) ∧
    (s.sec.busy = true → ∃ t bs, exec (.doeAttestationRequest port flags nonce) s = .next t ∧
      t.hostTx = s.hostTx ++ [.doe port bs] ∧ bs.length = 56 ∧ t.sec = s.sec)) ∧
  (∀ s : State, s.sec.busy = true → s.devUp = true →
    exec .keyGenerationComplete s = .next { s with sec := { s.sec with busy := false, cache := true } })

/-! ## Observation -/

/-- R602, R603, R606 to R608, R614 to R620: selects, freeze and trace controls take their values, a reserved encoding is not taken and
trace registers are not written while trace is closed; an event is stored under the next number, merges with the newest record of its
code and source, or is dropped and counted; the event window shows a record of the buffer at once and one of the mirror after its fetch;
the mirror takes records in blocks of P1. -/
def Obligations.EventsRecordedAndMirrored : Prop :=
  (∀ (port : Fin 2) (k : ClusterId) (n : Fin 64) (v : Word) (s : State),
    s.regServed port (0x500000 + 0x400 * clKey k + 0x200 + 8 * n) = true → s.polderOn k.site = true →
    (v.toNat % 256 < 0x20 → ¬ (8 ≤ v.toNat / 256 % 16 ∧ v.toNat / 256 % 16 ≤ 14) → v.toNat / 4096 % 4 ≠ 3 →
      ∃ t, exec (.cselWrite port k n v) s = .next t ∧ (t.cluster (clKey k)).csel n = v &&& 0x3FFF ∧
        Tbl.get (t.cluster (clKey k)).cnt 0 n = 0 ∧ (∀ c, c ≠ clKey k → t.cluster c = s.cluster c) ∧ t.mem = s.mem) ∧
    (v.toNat / 4096 % 4 = 3 → exec (.cselWrite port k n v) s = .next s)) ∧
  (∀ (port : Fin 2) (v : Word) (s : State),
    (s.regServed port 0x5E0000 = true → exec (.cntctlWrite port v) s = .next { s with freeze := v.getLsbD 0 }) ∧
    (s.regServed port 0x5F0000 = true →
      (s.trace.openT = false → exec (.trctlWrite port v) s = .next s) ∧
      (s.trace.openT = true → ∃ t, exec (.trctlWrite port v) s = .next t ∧ t.mem = s.mem ∧ t.trace.ctl.getLsbD 0 = true ∧
        (∀ r < 3, t.trace.ctl.getLsbD (r + 1) = (s.ringsOn v).contains r) ∧
        (∀ r < 3, t.trace.ctl.getLsbD (r + 1) = true → v.getLsbD (r + 1) = true) ∧
        t.trace.ctl.getLsbD 4 = v.getLsbD 4 ∧
        (v.toNat / 32 % 32 ≤ 20 → t.trace.ctl.toNat / 32 = v.toNat / 32 % 32) ∧
        (20 < v.toNat / 32 % 32 → t.trace.ctl.toNat / 32 = s.trace.ctl.toNat / 32))) ∧
    (s.regServed port 0x400010 = true →
      (∀ r ∈ s.evrec.recs, r.seq = v.toNat →
        ∃ t, exec (.evselWrite port v) s = .next t ∧ t.evValid port = true ∧ (t.hport port).evBusy = false ∧ t.evrec = s.evrec) ∧
      ((∀ r ∈ s.evrec.recs, r.seq ≠ v.toNat) → (s.evrec.mirrored v.toNat).isSome →
        ∃ t, exec (.evselWrite port v) s = .next t ∧ t.evValid port = false ∧ (t.hport port).evBusy = true) ∧
      ((∀ r ∈ s.evrec.recs, r.seq ≠ v.toNat) → s.evrec.mirrored v.toNat = none →
        ∃ t, exec (.evselWrite port v) s = .next t ∧ t.evValid port = false ∧ (t.hport port).evBusy = false)) ∧
    (∀ r, (s.hport port).evBusy = true → s.safety.wfail = false → s.powered = true →
      s.evrec.mirrored (s.hport port).evsel.toNat = some r →
      ∃ t, exec (.mirrorFetchComplete port) s = .next t ∧ t.aperture port = r.bytes ∧ t.evValid port = true ∧
        (t.hport port).evBusy = false)) ∧
  (∀ (s : State) (e : Event) (rest : List Event), s.evrec.queue = e :: rest → s.safety.wfail = false →
    ((∀ x ∈ s.evrec.recs, ¬ (x.code = e.code ∧ x.src = e.src)) →
      usedGranules s.evrec.recs + (95 + e.payload.length) / 64 ≤ 131072 →
      ∃ t r, exec .eventRecordArrival s = .next t ∧ t.evrec.queue = rest ∧ t.evrec.recs = s.evrec.recs ++ [r] ∧
        r.seq = s.evrec.next ∧ r.code = e.code ∧ r.sev = sevOf s e.code ∧ r.src = e.src ∧ r.rep = 1 ∧ r.first = e.time ∧
        r.last = e.time ∧ r.pay = e.payload ∧ t.evrec.next = s.evrec.next + 1 ∧ t.evrec.newest = s.evrec.next ∧
        t.evrec.lost = s.evrec.lost ∧ t.mem = s.mem) ∧
    (∀ x, s.evrec.recs = [x] → x.code = e.code → x.src = e.src → samePay x.pay e.payload = true →
      ∃ t, exec .eventRecordArrival s = .next t ∧ t.evrec.queue = rest ∧
        t.evrec.recs = [{ x with last := e.time, rep := min (x.rep + 1) 65535 }] ∧ t.evrec.next = s.evrec.next)) ∧
  (∀ (s : State) (r : Rec) (n : Nat), n = s.evrec.blkNum → s.safety.wfail = false → s.evrec.toMir = [r] → s.evrec.toNote = [] →
    Rec.len r ≤ 4032 → r.bytes.length = Rec.len r →
    (∃ t, exec (.mirrorBlockWrite 0) s = .next t ∧ t.evrec.toMir = [] ∧ t.evrec.blkNum = n + 1 ∧
      t.evrec.evmir = max s.evrec.evmir r.seq ∧
      t.bytesAt (flashKey 1 (n % 262144 * 4096) + 64) (Rec.len r) = r.bytes ∧
      s.SameMemOutside t (flashKey 1 (n % 262144 * 4096)) 4096) ∧
    (∀ status, status ≠ 0 → ∃ t, exec (.mirrorBlockWrite status) s = .next t ∧ t.evrec.toMir = [r] ∧ t.evrec.blkNum = n + 1 ∧
      s.Wrote t 0x5501 ∧ t.mem = s.mem)) ∧
  (∀ (s : State) (b size : Nat), s.trace.openT = true → s.trace.ctl.getLsbD 3 = true → s.powered = true → s.safety.wfail = false →
    size = s.ringSize 2 → b = lakeKey (traceBase s + s.ringBase 2 + Tbl.get s.trace.wpOff 0 2) →
    Tbl.get s.trace.wpOff 0 2 + 192 < size → Tbl.get s.trace.gaps 0 2 = 0 → s.ringTakes 2 = true →
    ∃ t, exec .tracePowerLines s = .next t ∧ Tbl.get t.trace.wpOff 0 2 = Tbl.get s.trace.wpOff 0 2 + 192 ∧
      (∀ i < 24, t.natAt (b + 16 + 2 * i) 2 = (s.polder i).est % 65536 ∧ t.natAt (b + 80 + 2 * i) 2 = (s.polder (24 + i)).est % 65536) ∧
      (∀ i < 12, t.natAt (b + 144 + 2 * i) 2 = (s.polder (48 + i)).est % 65536) ∧
      t.natAt (b + 168) 2 = s.power.est % 65536 ∧ t.natAt (b + 170) 2 = s.power.limit % 65536 ∧ s.SameMemOutside t b 192)

/-! ## Invariants -/

/-- Every step keeps the memory in its canonical form: keys strictly rising and no byte listed that an unlisted key reads as. -/
def Obligations.StepKeepsMemoryCanonical : Prop :=
  ∀ s t : State, Memory.wf s.mem = true → step s = .next t → Memory.wf t.mem = true

/-- Reset leaves memory canonical and no command waiting. -/
def Obligations.ResetMemoryCanonical : Prop :=
  Memory.wf State.reset.mem = true ∧ State.reset.pending = []

/-- Every command completes: a step with a command in front goes on, and takes that command and no other from the queue. -/
def Obligations.EveryCommandLeavesTheQueue : Prop :=
  ∀ (s : State) (c : Instr) (rest : List Instr), s.pending = c :: rest → ∃ t, step s = .next t ∧ t.pending = rest
end

