-- ==== Sys2Proof/Laws/Crc.lean ====
section
/-! SUPPORT. The range of the checksums (R273, R355, R357). -/

namespace Sys2Proof.Machine

open Sys2Proof

theorem crcBit_lt (w poly reg bit : Nat) (hp : poly < 2 ^ w) : crcBit w poly reg bit < 2 ^ w := by
  have hs : reg * 2 % 2 ^ w < 2 ^ w := Nat.mod_lt _ (Nat.two_pow_pos w)
  unfold crcBit
  dsimp only
  split
  · exact Nat.xor_lt_two_pow hs hp
  · exact hs

theorem crc_bits_lt (w poly : Nat) (b : Byte) (hp : poly < 2 ^ w) (l : List Nat) :
    ∀ reg, reg < 2 ^ w → l.foldl (fun r i => crcBit w poly r (b.toNat / 2 ^ (7 - i) % 2)) reg < 2 ^ w := by
  induction l with
  | nil => exact fun _ h => h
  | cons i r ih => exact fun reg _ => ih _ (crcBit_lt w poly reg _ hp)

theorem crcOf_lt (w poly init : Nat) (hp : poly < 2 ^ w) (hi : init < 2 ^ w) (bs : List Byte) : crcOf w poly init bs < 2 ^ w := by
  unfold crcOf
  induction bs generalizing init with
  | nil => exact hi
  | cons b r ih => exact ih _ (crc_bits_lt w poly b hp _ init hi)

theorem crc32_lt (bs : List Byte) : crc32 bs < 2 ^ 32 := crcOf_lt 32 _ _ (by decide) (by decide) bs
theorem crc64_lt (bs : List Byte) : crc64 bs < 2 ^ 64 := crcOf_lt 64 _ _ (by decide) (by decide) bs

end Sys2Proof.Machine
end

