-- ==== Sys2Proof/Laws/Tbl.lean ====
section
/-! SUPPORT. What a sparse table reads after an entry is set or entries are dropped. -/

namespace Sys2Proof

variable {α : Type}

@[simp] theorem Tbl.get_nil (d : α) (k : Nat) : Tbl.get ([] : Tbl α) d k = d := rfl

@[simp] theorem Tbl.get_put_same (t : Tbl α) (d : α) (k : Nat) (v : α) : Tbl.get (Tbl.put t k v) d k = v := by
  induction t with
  | nil => simp [Tbl.put, Tbl.get]
  | cons e r ih =>
    obtain ⟨j, w⟩ := e
    simp only [Tbl.put]
    split
    · simp [Tbl.get]
    · split
      · simp [Tbl.get]
      · simp_all [Tbl.get]

theorem Tbl.get_put_other (t : Tbl α) (d : α) (k : Nat) (v : α) (j : Nat) (h : j ≠ k) :
    Tbl.get (Tbl.put t k v) d j = Tbl.get t d j := by
  induction t with
  | nil => simp [Tbl.put, Tbl.get, Ne.symm h]
  | cons e r ih =>
    obtain ⟨i, w⟩ := e
    simp only [Tbl.put]
    split
    · rename_i hi
      subst hi
      simp [Tbl.get, Ne.symm h]
    · split
      · simp [Tbl.get, Ne.symm h]
      · simp only [Tbl.get, ih]

/-- Reading any key after an entry is set. -/
theorem Tbl.get_put (t : Tbl α) (d : α) (k : Nat) (v : α) (j : Nat) :
    Tbl.get (Tbl.put t k v) d j = if j = k then v else Tbl.get t d j := by
  split
  · next h => rw [h, Tbl.get_put_same]
  · next h => exact Tbl.get_put_other t d k v j h

end Sys2Proof
end

