-- ==== Sys2Proof/Laws/State.lean ====
section
/-! SUPPORT. What each update of the state leaves in each field: one lemma per field per update, true by `rfl`, and what the
accessors read after it. -/

namespace Sys2Proof.Machine

open Sys2Proof

variable (s : State)

/-! ### `setProc` -/

@[simp] theorem State.setProc_pending (k : Nat) (x : Proc) : (s.setProc k x).pending = s.pending := rfl
@[simp] theorem State.setProc_mem (k : Nat) (x : Proc) : (s.setProc k x).mem = s.mem := rfl
@[simp] theorem State.setProc_pondMark (k : Nat) (x : Proc) : (s.setProc k x).pondMark = s.pondMark := rfl
@[simp] theorem State.setProc_lakeMark (k : Nat) (x : Proc) : (s.setProc k x).lakeMark = s.lakeMark := rfl
@[simp] theorem State.setProc_procs (k : Nat) (x : Proc) : (s.setProc k x).procs = Tbl.put s.procs k x := rfl
@[simp] theorem State.setProc_seedRest (k : Nat) (x : Proc) : (s.setProc k x).seedRest = s.seedRest := rfl
@[simp] theorem State.setProc_clusters (k : Nat) (x : Proc) : (s.setProc k x).clusters = s.clusters := rfl
@[simp] theorem State.setProc_nodes (k : Nat) (x : Proc) : (s.setProc k x).nodes = s.nodes := rfl
@[simp] theorem State.setProc_mesh (k : Nat) (x : Proc) : (s.setProc k x).mesh = s.mesh := rfl
@[simp] theorem State.setProc_reqs (k : Nat) (x : Proc) : (s.setProc k x).reqs = s.reqs := rfl
@[simp] theorem State.setProc_xfers (k : Nat) (x : Proc) : (s.setProc k x).xfers = s.xfers := rfl
@[simp] theorem State.setProc_mcnodes (k : Nat) (x : Proc) : (s.setProc k x).mcnodes = s.mcnodes := rfl
@[simp] theorem State.setProc_mcasts (k : Nat) (x : Proc) : (s.setProc k x).mcasts = s.mcasts := rfl
@[simp] theorem State.setProc_nextId (k : Nat) (x : Proc) : (s.setProc k x).nextId = s.nextId := rfl
@[simp] theorem State.setProc_springs (k : Nat) (x : Proc) : (s.setProc k x).springs = s.springs := rfl
@[simp] theorem State.setProc_sluices (k : Nat) (x : Proc) : (s.setProc k x).sluices = s.sluices := rfl
@[simp] theorem State.setProc_ues (k : Nat) (x : Proc) : (s.setProc k x).ues = s.ues := rfl
@[simp] theorem State.setProc_stackCtl (k : Nat) (x : Proc) : (s.setProc k x).stackCtl = s.stackCtl := rfl
@[simp] theorem State.setProc_bars (k : Nat) (x : Proc) : (s.setProc k x).bars = s.bars := rfl
@[simp] theorem State.setProc_barOver (k : Nat) (x : Proc) : (s.setProc k x).barOver = s.barOver := rfl
@[simp] theorem State.setProc_bid0Step (k : Nat) (x : Proc) : (s.setProc k x).bid0Step = s.bid0Step := rfl
@[simp] theorem State.setProc_flash (k : Nat) (x : Proc) : (s.setProc k x).flash = s.flash := rfl
@[simp] theorem State.setProc_polders (k : Nat) (x : Proc) : (s.setProc k x).polders = s.polders := rfl
@[simp] theorem State.setProc_sites (k : Nat) (x : Proc) : (s.setProc k x).sites = s.sites := rfl
@[simp] theorem State.setProc_resv (k : Nat) (x : Proc) : (s.setProc k x).resv = s.resv := rfl
@[simp] theorem State.setProc_tileOut (k : Nat) (x : Proc) : (s.setProc k x).tileOut = s.tileOut := rfl
@[simp] theorem State.setProc_stackSvc (k : Nat) (x : Proc) : (s.setProc k x).stackSvc = s.stackSvc := rfl
@[simp] theorem State.setProc_stackRes (k : Nat) (x : Proc) : (s.setProc k x).stackRes = s.stackRes := rfl
@[simp] theorem State.setProc_slots (k : Nat) (x : Proc) : (s.setProc k x).slots = s.slots := rfl
@[simp] theorem State.setProc_unitOut (k : Nat) (x : Proc) : (s.setProc k x).unitOut = s.unitOut := rfl
@[simp] theorem State.setProc_arrMap (k : Nat) (x : Proc) : (s.setProc k x).arrMap = s.arrMap := rfl
@[simp] theorem State.setProc_rowFails (k : Nat) (x : Proc) : (s.setProc k x).rowFails = s.rowFails := rfl
@[simp] theorem State.setProc_suspects (k : Nat) (x : Proc) : (s.setProc k x).suspects = s.suspects := rfl
@[simp] theorem State.setProc_lkSelf (k : Nat) (x : Proc) : (s.setProc k x).lkSelf = s.lkSelf := rfl
@[simp] theorem State.setProc_lkSuspect (k : Nat) (x : Proc) : (s.setProc k x).lkSuspect = s.lkSuspect := rfl
@[simp] theorem State.setProc_lkPatrols (k : Nat) (x : Proc) : (s.setProc k x).lkPatrols = s.lkPatrols := rfl
@[simp] theorem State.setProc_lkCorr (k : Nat) (x : Proc) : (s.setProc k x).lkCorr = s.lkCorr := rfl
@[simp] theorem State.setProc_lkUnc (k : Nat) (x : Proc) : (s.setProc k x).lkUnc = s.lkUnc := rfl
@[simp] theorem State.setProc_lkLast (k : Nat) (x : Proc) : (s.setProc k x).lkLast = s.lkLast := rfl
@[simp] theorem State.setProc_ports (k : Nat) (x : Proc) : (s.setProc k x).ports = s.ports := rfl
@[simp] theorem State.setProc_bays (k : Nat) (x : Proc) : (s.setProc k x).bays = s.bays := rfl
@[simp] theorem State.setProc_pmap (k : Nat) (x : Proc) : (s.setProc k x).pmap = s.pmap := rfl
@[simp] theorem State.setProc_group (k : Nat) (x : Proc) : (s.setProc k x).group = s.group := rfl
@[simp] theorem State.setProc_safety (k : Nat) (x : Proc) : (s.setProc k x).safety = s.safety := rfl
@[simp] theorem State.setProc_power (k : Nat) (x : Proc) : (s.setProc k x).power = s.power := rfl
@[simp] theorem State.setProc_surr (k : Nat) (x : Proc) : (s.setProc k x).surr = s.surr := rfl
@[simp] theorem State.setProc_hports (k : Nat) (x : Proc) : (s.setProc k x).hports = s.hports := rfl
@[simp] theorem State.setProc_hostTx (k : Nat) (x : Proc) : (s.setProc k x).hostTx = s.hostTx := rfl
@[simp] theorem State.setProc_job (k : Nat) (x : Proc) : (s.setProc k x).job = s.job := rfl
@[simp] theorem State.setProc_held (k : Nat) (x : Proc) : (s.setProc k x).held = s.held := rfl
@[simp] theorem State.setProc_quiet (k : Nat) (x : Proc) : (s.setProc k x).quiet = s.quiet := rfl
@[simp] theorem State.setProc_layerSum (k : Nat) (x : Proc) : (s.setProc k x).layerSum = s.layerSum := rfl
@[simp] theorem State.setProc_evrec (k : Nat) (x : Proc) : (s.setProc k x).evrec = s.evrec := rfl
@[simp] theorem State.setProc_trace (k : Nat) (x : Proc) : (s.setProc k x).trace = s.trace := rfl
@[simp] theorem State.setProc_ecnt (k : Nat) (x : Proc) : (s.setProc k x).ecnt = s.ecnt := rfl
@[simp] theorem State.setProc_freeze (k : Nat) (x : Proc) : (s.setProc k x).freeze = s.freeze := rfl
@[simp] theorem State.setProc_fuse (k : Nat) (x : Proc) : (s.setProc k x).fuse = s.fuse := rfl
@[simp] theorem State.setProc_sec (k : Nat) (x : Proc) : (s.setProc k x).sec = s.sec := rfl
@[simp] theorem State.setProc_idgen (k : Nat) (x : Proc) : (s.setProc k x).idgen = s.idgen := rfl
@[simp] theorem State.setProc_orderly (k : Nat) (x : Proc) : (s.setProc k x).orderly = s.orderly := rfl
@[simp] theorem State.setProc_ref (k : Nat) (x : Proc) : (s.setProc k x).ref = s.ref := rfl
@[simp] theorem State.setProc_powered (k : Nat) (x : Proc) : (s.setProc k x).powered = s.powered := rfl
@[simp] theorem State.setProc_proc_same (k : Nat) (x : Proc) : (s.setProc k x).proc k = x := Tbl.get_put_same ..
theorem State.setProc_proc_other (k : Nat) (x : Proc) (j : Nat) (h : j ≠ k) : (s.setProc k x).proc j = s.proc j := Tbl.get_put_other _ _ _ _ _ h
@[simp] theorem State.setProc_cluster (k : Nat) (x : Proc) (j : Nat) : (s.setProc k x).cluster j = s.cluster j := rfl
@[simp] theorem State.setProc_node (k : Nat) (x : Proc) (j : Nat) : (s.setProc k x).node j = s.node j := rfl
@[simp] theorem State.setProc_spring (k : Nat) (x : Proc) (j : Nat) : (s.setProc k x).spring j = s.spring j := rfl
@[simp] theorem State.setProc_sluice (k : Nat) (x : Proc) (j : Nat) : (s.setProc k x).sluice j = s.sluice j := rfl
@[simp] theorem State.setProc_ue (k : Nat) (x : Proc) (j : Nat) : (s.setProc k x).ue j = s.ue j := rfl
@[simp] theorem State.setProc_stack (k : Nat) (x : Proc) (j : Nat) : (s.setProc k x).stack j = s.stack j := rfl
@[simp] theorem State.setProc_bar (k : Nat) (x : Proc) (j : Nat) : (s.setProc k x).bar j = s.bar j := rfl
@[simp] theorem State.setProc_polder (k : Nat) (x : Proc) (j : Nat) : (s.setProc k x).polder j = s.polder j := rfl
@[simp] theorem State.setProc_port (k : Nat) (x : Proc) (j : Nat) : (s.setProc k x).port j = s.port j := rfl
@[simp] theorem State.setProc_bay (k : Nat) (x : Proc) (j : Nat) : (s.setProc k x).bay j = s.bay j := rfl
@[simp] theorem State.setProc_hport (k : Nat) (x : Proc) (j : Nat) : (s.setProc k x).hport j = s.hport j := rfl

/-! ### `setCluster` -/

@[simp] theorem State.setCluster_pending (k : Nat) (x : Cluster) : (s.setCluster k x).pending = s.pending := rfl
@[simp] theorem State.setCluster_mem (k : Nat) (x : Cluster) : (s.setCluster k x).mem = s.mem := rfl
@[simp] theorem State.setCluster_pondMark (k : Nat) (x : Cluster) : (s.setCluster k x).pondMark = s.pondMark := rfl
@[simp] theorem State.setCluster_lakeMark (k : Nat) (x : Cluster) : (s.setCluster k x).lakeMark = s.lakeMark := rfl
@[simp] theorem State.setCluster_procs (k : Nat) (x : Cluster) : (s.setCluster k x).procs = s.procs := rfl
@[simp] theorem State.setCluster_seedRest (k : Nat) (x : Cluster) : (s.setCluster k x).seedRest = s.seedRest := rfl
@[simp] theorem State.setCluster_clusters (k : Nat) (x : Cluster) : (s.setCluster k x).clusters = Tbl.put s.clusters k x := rfl
@[simp] theorem State.setCluster_nodes (k : Nat) (x : Cluster) : (s.setCluster k x).nodes = s.nodes := rfl
@[simp] theorem State.setCluster_mesh (k : Nat) (x : Cluster) : (s.setCluster k x).mesh = s.mesh := rfl
@[simp] theorem State.setCluster_reqs (k : Nat) (x : Cluster) : (s.setCluster k x).reqs = s.reqs := rfl
@[simp] theorem State.setCluster_xfers (k : Nat) (x : Cluster) : (s.setCluster k x).xfers = s.xfers := rfl
@[simp] theorem State.setCluster_mcnodes (k : Nat) (x : Cluster) : (s.setCluster k x).mcnodes = s.mcnodes := rfl
@[simp] theorem State.setCluster_mcasts (k : Nat) (x : Cluster) : (s.setCluster k x).mcasts = s.mcasts := rfl
@[simp] theorem State.setCluster_nextId (k : Nat) (x : Cluster) : (s.setCluster k x).nextId = s.nextId := rfl
@[simp] theorem State.setCluster_springs (k : Nat) (x : Cluster) : (s.setCluster k x).springs = s.springs := rfl
@[simp] theorem State.setCluster_sluices (k : Nat) (x : Cluster) : (s.setCluster k x).sluices = s.sluices := rfl
@[simp] theorem State.setCluster_ues (k : Nat) (x : Cluster) : (s.setCluster k x).ues = s.ues := rfl
@[simp] theorem State.setCluster_stackCtl (k : Nat) (x : Cluster) : (s.setCluster k x).stackCtl = s.stackCtl := rfl
@[simp] theorem State.setCluster_bars (k : Nat) (x : Cluster) : (s.setCluster k x).bars = s.bars := rfl
@[simp] theorem State.setCluster_barOver (k : Nat) (x : Cluster) : (s.setCluster k x).barOver = s.barOver := rfl
@[simp] theorem State.setCluster_bid0Step (k : Nat) (x : Cluster) : (s.setCluster k x).bid0Step = s.bid0Step := rfl
@[simp] theorem State.setCluster_flash (k : Nat) (x : Cluster) : (s.setCluster k x).flash = s.flash := rfl
@[simp] theorem State.setCluster_polders (k : Nat) (x : Cluster) : (s.setCluster k x).polders = s.polders := rfl
@[simp] theorem State.setCluster_sites (k : Nat) (x : Cluster) : (s.setCluster k x).sites = s.sites := rfl
@[simp] theorem State.setCluster_resv (k : Nat) (x : Cluster) : (s.setCluster k x).resv = s.resv := rfl
@[simp] theorem State.setCluster_tileOut (k : Nat) (x : Cluster) : (s.setCluster k x).tileOut = s.tileOut := rfl
@[simp] theorem State.setCluster_stackSvc (k : Nat) (x : Cluster) : (s.setCluster k x).stackSvc = s.stackSvc := rfl
@[simp] theorem State.setCluster_stackRes (k : Nat) (x : Cluster) : (s.setCluster k x).stackRes = s.stackRes := rfl
@[simp] theorem State.setCluster_slots (k : Nat) (x : Cluster) : (s.setCluster k x).slots = s.slots := rfl
@[simp] theorem State.setCluster_unitOut (k : Nat) (x : Cluster) : (s.setCluster k x).unitOut = s.unitOut := rfl
@[simp] theorem State.setCluster_arrMap (k : Nat) (x : Cluster) : (s.setCluster k x).arrMap = s.arrMap := rfl
@[simp] theorem State.setCluster_rowFails (k : Nat) (x : Cluster) : (s.setCluster k x).rowFails = s.rowFails := rfl
@[simp] theorem State.setCluster_suspects (k : Nat) (x : Cluster) : (s.setCluster k x).suspects = s.suspects := rfl
@[simp] theorem State.setCluster_lkSelf (k : Nat) (x : Cluster) : (s.setCluster k x).lkSelf = s.lkSelf := rfl
@[simp] theorem State.setCluster_lkSuspect (k : Nat) (x : Cluster) : (s.setCluster k x).lkSuspect = s.lkSuspect := rfl
@[simp] theorem State.setCluster_lkPatrols (k : Nat) (x : Cluster) : (s.setCluster k x).lkPatrols = s.lkPatrols := rfl
@[simp] theorem State.setCluster_lkCorr (k : Nat) (x : Cluster) : (s.setCluster k x).lkCorr = s.lkCorr := rfl
@[simp] theorem State.setCluster_lkUnc (k : Nat) (x : Cluster) : (s.setCluster k x).lkUnc = s.lkUnc := rfl
@[simp] theorem State.setCluster_lkLast (k : Nat) (x : Cluster) : (s.setCluster k x).lkLast = s.lkLast := rfl
@[simp] theorem State.setCluster_ports (k : Nat) (x : Cluster) : (s.setCluster k x).ports = s.ports := rfl
@[simp] theorem State.setCluster_bays (k : Nat) (x : Cluster) : (s.setCluster k x).bays = s.bays := rfl
@[simp] theorem State.setCluster_pmap (k : Nat) (x : Cluster) : (s.setCluster k x).pmap = s.pmap := rfl
@[simp] theorem State.setCluster_group (k : Nat) (x : Cluster) : (s.setCluster k x).group = s.group := rfl
@[simp] theorem State.setCluster_safety (k : Nat) (x : Cluster) : (s.setCluster k x).safety = s.safety := rfl
@[simp] theorem State.setCluster_power (k : Nat) (x : Cluster) : (s.setCluster k x).power = s.power := rfl
@[simp] theorem State.setCluster_surr (k : Nat) (x : Cluster) : (s.setCluster k x).surr = s.surr := rfl
@[simp] theorem State.setCluster_hports (k : Nat) (x : Cluster) : (s.setCluster k x).hports = s.hports := rfl
@[simp] theorem State.setCluster_hostTx (k : Nat) (x : Cluster) : (s.setCluster k x).hostTx = s.hostTx := rfl
@[simp] theorem State.setCluster_job (k : Nat) (x : Cluster) : (s.setCluster k x).job = s.job := rfl
@[simp] theorem State.setCluster_held (k : Nat) (x : Cluster) : (s.setCluster k x).held = s.held := rfl
@[simp] theorem State.setCluster_quiet (k : Nat) (x : Cluster) : (s.setCluster k x).quiet = s.quiet := rfl
@[simp] theorem State.setCluster_layerSum (k : Nat) (x : Cluster) : (s.setCluster k x).layerSum = s.layerSum := rfl
@[simp] theorem State.setCluster_evrec (k : Nat) (x : Cluster) : (s.setCluster k x).evrec = s.evrec := rfl
@[simp] theorem State.setCluster_trace (k : Nat) (x : Cluster) : (s.setCluster k x).trace = s.trace := rfl
@[simp] theorem State.setCluster_ecnt (k : Nat) (x : Cluster) : (s.setCluster k x).ecnt = s.ecnt := rfl
@[simp] theorem State.setCluster_freeze (k : Nat) (x : Cluster) : (s.setCluster k x).freeze = s.freeze := rfl
@[simp] theorem State.setCluster_fuse (k : Nat) (x : Cluster) : (s.setCluster k x).fuse = s.fuse := rfl
@[simp] theorem State.setCluster_sec (k : Nat) (x : Cluster) : (s.setCluster k x).sec = s.sec := rfl
@[simp] theorem State.setCluster_idgen (k : Nat) (x : Cluster) : (s.setCluster k x).idgen = s.idgen := rfl
@[simp] theorem State.setCluster_orderly (k : Nat) (x : Cluster) : (s.setCluster k x).orderly = s.orderly := rfl
@[simp] theorem State.setCluster_ref (k : Nat) (x : Cluster) : (s.setCluster k x).ref = s.ref := rfl
@[simp] theorem State.setCluster_powered (k : Nat) (x : Cluster) : (s.setCluster k x).powered = s.powered := rfl
@[simp] theorem State.setCluster_proc (k : Nat) (x : Cluster) (j : Nat) : (s.setCluster k x).proc j = s.proc j := rfl
@[simp] theorem State.setCluster_cluster_same (k : Nat) (x : Cluster) : (s.setCluster k x).cluster k = x := Tbl.get_put_same ..
theorem State.setCluster_cluster_other (k : Nat) (x : Cluster) (j : Nat) (h : j ≠ k) : (s.setCluster k x).cluster j = s.cluster j := Tbl.get_put_other _ _ _ _ _ h
@[simp] theorem State.setCluster_node (k : Nat) (x : Cluster) (j : Nat) : (s.setCluster k x).node j = s.node j := rfl
@[simp] theorem State.setCluster_spring (k : Nat) (x : Cluster) (j : Nat) : (s.setCluster k x).spring j = s.spring j := rfl
@[simp] theorem State.setCluster_sluice (k : Nat) (x : Cluster) (j : Nat) : (s.setCluster k x).sluice j = s.sluice j := rfl
@[simp] theorem State.setCluster_ue (k : Nat) (x : Cluster) (j : Nat) : (s.setCluster k x).ue j = s.ue j := rfl
@[simp] theorem State.setCluster_stack (k : Nat) (x : Cluster) (j : Nat) : (s.setCluster k x).stack j = s.stack j := rfl
@[simp] theorem State.setCluster_bar (k : Nat) (x : Cluster) (j : Nat) : (s.setCluster k x).bar j = s.bar j := rfl
@[simp] theorem State.setCluster_polder (k : Nat) (x : Cluster) (j : Nat) : (s.setCluster k x).polder j = s.polder j := rfl
@[simp] theorem State.setCluster_port (k : Nat) (x : Cluster) (j : Nat) : (s.setCluster k x).port j = s.port j := rfl
@[simp] theorem State.setCluster_bay (k : Nat) (x : Cluster) (j : Nat) : (s.setCluster k x).bay j = s.bay j := rfl
@[simp] theorem State.setCluster_hport (k : Nat) (x : Cluster) (j : Nat) : (s.setCluster k x).hport j = s.hport j := rfl

/-! ### `setNode` -/

@[simp] theorem State.setNode_pending (k : Nat) (x : Node) : (s.setNode k x).pending = s.pending := rfl
@[simp] theorem State.setNode_mem (k : Nat) (x : Node) : (s.setNode k x).mem = s.mem := rfl
@[simp] theorem State.setNode_pondMark (k : Nat) (x : Node) : (s.setNode k x).pondMark = s.pondMark := rfl
@[simp] theorem State.setNode_lakeMark (k : Nat) (x : Node) : (s.setNode k x).lakeMark = s.lakeMark := rfl
@[simp] theorem State.setNode_procs (k : Nat) (x : Node) : (s.setNode k x).procs = s.procs := rfl
@[simp] theorem State.setNode_seedRest (k : Nat) (x : Node) : (s.setNode k x).seedRest = s.seedRest := rfl
@[simp] theorem State.setNode_clusters (k : Nat) (x : Node) : (s.setNode k x).clusters = s.clusters := rfl
@[simp] theorem State.setNode_nodes (k : Nat) (x : Node) : (s.setNode k x).nodes = Tbl.put s.nodes k x := rfl
@[simp] theorem State.setNode_mesh (k : Nat) (x : Node) : (s.setNode k x).mesh = s.mesh := rfl
@[simp] theorem State.setNode_reqs (k : Nat) (x : Node) : (s.setNode k x).reqs = s.reqs := rfl
@[simp] theorem State.setNode_xfers (k : Nat) (x : Node) : (s.setNode k x).xfers = s.xfers := rfl
@[simp] theorem State.setNode_mcnodes (k : Nat) (x : Node) : (s.setNode k x).mcnodes = s.mcnodes := rfl
@[simp] theorem State.setNode_mcasts (k : Nat) (x : Node) : (s.setNode k x).mcasts = s.mcasts := rfl
@[simp] theorem State.setNode_nextId (k : Nat) (x : Node) : (s.setNode k x).nextId = s.nextId := rfl
@[simp] theorem State.setNode_springs (k : Nat) (x : Node) : (s.setNode k x).springs = s.springs := rfl
@[simp] theorem State.setNode_sluices (k : Nat) (x : Node) : (s.setNode k x).sluices = s.sluices := rfl
@[simp] theorem State.setNode_ues (k : Nat) (x : Node) : (s.setNode k x).ues = s.ues := rfl
@[simp] theorem State.setNode_stackCtl (k : Nat) (x : Node) : (s.setNode k x).stackCtl = s.stackCtl := rfl
@[simp] theorem State.setNode_bars (k : Nat) (x : Node) : (s.setNode k x).bars = s.bars := rfl
@[simp] theorem State.setNode_barOver (k : Nat) (x : Node) : (s.setNode k x).barOver = s.barOver := rfl
@[simp] theorem State.setNode_bid0Step (k : Nat) (x : Node) : (s.setNode k x).bid0Step = s.bid0Step := rfl
@[simp] theorem State.setNode_flash (k : Nat) (x : Node) : (s.setNode k x).flash = s.flash := rfl
@[simp] theorem State.setNode_polders (k : Nat) (x : Node) : (s.setNode k x).polders = s.polders := rfl
@[simp] theorem State.setNode_sites (k : Nat) (x : Node) : (s.setNode k x).sites = s.sites := rfl
@[simp] theorem State.setNode_resv (k : Nat) (x : Node) : (s.setNode k x).resv = s.resv := rfl
@[simp] theorem State.setNode_tileOut (k : Nat) (x : Node) : (s.setNode k x).tileOut = s.tileOut := rfl
@[simp] theorem State.setNode_stackSvc (k : Nat) (x : Node) : (s.setNode k x).stackSvc = s.stackSvc := rfl
@[simp] theorem State.setNode_stackRes (k : Nat) (x : Node) : (s.setNode k x).stackRes = s.stackRes := rfl
@[simp] theorem State.setNode_slots (k : Nat) (x : Node) : (s.setNode k x).slots = s.slots := rfl
@[simp] theorem State.setNode_unitOut (k : Nat) (x : Node) : (s.setNode k x).unitOut = s.unitOut := rfl
@[simp] theorem State.setNode_arrMap (k : Nat) (x : Node) : (s.setNode k x).arrMap = s.arrMap := rfl
@[simp] theorem State.setNode_rowFails (k : Nat) (x : Node) : (s.setNode k x).rowFails = s.rowFails := rfl
@[simp] theorem State.setNode_suspects (k : Nat) (x : Node) : (s.setNode k x).suspects = s.suspects := rfl
@[simp] theorem State.setNode_lkSelf (k : Nat) (x : Node) : (s.setNode k x).lkSelf = s.lkSelf := rfl
@[simp] theorem State.setNode_lkSuspect (k : Nat) (x : Node) : (s.setNode k x).lkSuspect = s.lkSuspect := rfl
@[simp] theorem State.setNode_lkPatrols (k : Nat) (x : Node) : (s.setNode k x).lkPatrols = s.lkPatrols := rfl
@[simp] theorem State.setNode_lkCorr (k : Nat) (x : Node) : (s.setNode k x).lkCorr = s.lkCorr := rfl
@[simp] theorem State.setNode_lkUnc (k : Nat) (x : Node) : (s.setNode k x).lkUnc = s.lkUnc := rfl
@[simp] theorem State.setNode_lkLast (k : Nat) (x : Node) : (s.setNode k x).lkLast = s.lkLast := rfl
@[simp] theorem State.setNode_ports (k : Nat) (x : Node) : (s.setNode k x).ports = s.ports := rfl
@[simp] theorem State.setNode_bays (k : Nat) (x : Node) : (s.setNode k x).bays = s.bays := rfl
@[simp] theorem State.setNode_pmap (k : Nat) (x : Node) : (s.setNode k x).pmap = s.pmap := rfl
@[simp] theorem State.setNode_group (k : Nat) (x : Node) : (s.setNode k x).group = s.group := rfl
@[simp] theorem State.setNode_safety (k : Nat) (x : Node) : (s.setNode k x).safety = s.safety := rfl
@[simp] theorem State.setNode_power (k : Nat) (x : Node) : (s.setNode k x).power = s.power := rfl
@[simp] theorem State.setNode_surr (k : Nat) (x : Node) : (s.setNode k x).surr = s.surr := rfl
@[simp] theorem State.setNode_hports (k : Nat) (x : Node) : (s.setNode k x).hports = s.hports := rfl
@[simp] theorem State.setNode_hostTx (k : Nat) (x : Node) : (s.setNode k x).hostTx = s.hostTx := rfl
@[simp] theorem State.setNode_job (k : Nat) (x : Node) : (s.setNode k x).job = s.job := rfl
@[simp] theorem State.setNode_held (k : Nat) (x : Node) : (s.setNode k x).held = s.held := rfl
@[simp] theorem State.setNode_quiet (k : Nat) (x : Node) : (s.setNode k x).quiet = s.quiet := rfl
@[simp] theorem State.setNode_layerSum (k : Nat) (x : Node) : (s.setNode k x).layerSum = s.layerSum := rfl
@[simp] theorem State.setNode_evrec (k : Nat) (x : Node) : (s.setNode k x).evrec = s.evrec := rfl
@[simp] theorem State.setNode_trace (k : Nat) (x : Node) : (s.setNode k x).trace = s.trace := rfl
@[simp] theorem State.setNode_ecnt (k : Nat) (x : Node) : (s.setNode k x).ecnt = s.ecnt := rfl
@[simp] theorem State.setNode_freeze (k : Nat) (x : Node) : (s.setNode k x).freeze = s.freeze := rfl
@[simp] theorem State.setNode_fuse (k : Nat) (x : Node) : (s.setNode k x).fuse = s.fuse := rfl
@[simp] theorem State.setNode_sec (k : Nat) (x : Node) : (s.setNode k x).sec = s.sec := rfl
@[simp] theorem State.setNode_idgen (k : Nat) (x : Node) : (s.setNode k x).idgen = s.idgen := rfl
@[simp] theorem State.setNode_orderly (k : Nat) (x : Node) : (s.setNode k x).orderly = s.orderly := rfl
@[simp] theorem State.setNode_ref (k : Nat) (x : Node) : (s.setNode k x).ref = s.ref := rfl
@[simp] theorem State.setNode_powered (k : Nat) (x : Node) : (s.setNode k x).powered = s.powered := rfl
@[simp] theorem State.setNode_proc (k : Nat) (x : Node) (j : Nat) : (s.setNode k x).proc j = s.proc j := rfl
@[simp] theorem State.setNode_cluster (k : Nat) (x : Node) (j : Nat) : (s.setNode k x).cluster j = s.cluster j := rfl
@[simp] theorem State.setNode_node_same (k : Nat) (x : Node) : (s.setNode k x).node k = x := Tbl.get_put_same ..
theorem State.setNode_node_other (k : Nat) (x : Node) (j : Nat) (h : j ≠ k) : (s.setNode k x).node j = s.node j := Tbl.get_put_other _ _ _ _ _ h
@[simp] theorem State.setNode_spring (k : Nat) (x : Node) (j : Nat) : (s.setNode k x).spring j = s.spring j := rfl
@[simp] theorem State.setNode_sluice (k : Nat) (x : Node) (j : Nat) : (s.setNode k x).sluice j = s.sluice j := rfl
@[simp] theorem State.setNode_ue (k : Nat) (x : Node) (j : Nat) : (s.setNode k x).ue j = s.ue j := rfl
@[simp] theorem State.setNode_stack (k : Nat) (x : Node) (j : Nat) : (s.setNode k x).stack j = s.stack j := rfl
@[simp] theorem State.setNode_bar (k : Nat) (x : Node) (j : Nat) : (s.setNode k x).bar j = s.bar j := rfl
@[simp] theorem State.setNode_polder (k : Nat) (x : Node) (j : Nat) : (s.setNode k x).polder j = s.polder j := rfl
@[simp] theorem State.setNode_port (k : Nat) (x : Node) (j : Nat) : (s.setNode k x).port j = s.port j := rfl
@[simp] theorem State.setNode_bay (k : Nat) (x : Node) (j : Nat) : (s.setNode k x).bay j = s.bay j := rfl
@[simp] theorem State.setNode_hport (k : Nat) (x : Node) (j : Nat) : (s.setNode k x).hport j = s.hport j := rfl

/-! ### `setSpring` -/

@[simp] theorem State.setSpring_pending (k : Nat) (x : Spring) : (s.setSpring k x).pending = s.pending := rfl
@[simp] theorem State.setSpring_mem (k : Nat) (x : Spring) : (s.setSpring k x).mem = s.mem := rfl
@[simp] theorem State.setSpring_pondMark (k : Nat) (x : Spring) : (s.setSpring k x).pondMark = s.pondMark := rfl
@[simp] theorem State.setSpring_lakeMark (k : Nat) (x : Spring) : (s.setSpring k x).lakeMark = s.lakeMark := rfl
@[simp] theorem State.setSpring_procs (k : Nat) (x : Spring) : (s.setSpring k x).procs = s.procs := rfl
@[simp] theorem State.setSpring_seedRest (k : Nat) (x : Spring) : (s.setSpring k x).seedRest = s.seedRest := rfl
@[simp] theorem State.setSpring_clusters (k : Nat) (x : Spring) : (s.setSpring k x).clusters = s.clusters := rfl
@[simp] theorem State.setSpring_nodes (k : Nat) (x : Spring) : (s.setSpring k x).nodes = s.nodes := rfl
@[simp] theorem State.setSpring_mesh (k : Nat) (x : Spring) : (s.setSpring k x).mesh = s.mesh := rfl
@[simp] theorem State.setSpring_reqs (k : Nat) (x : Spring) : (s.setSpring k x).reqs = s.reqs := rfl
@[simp] theorem State.setSpring_xfers (k : Nat) (x : Spring) : (s.setSpring k x).xfers = s.xfers := rfl
@[simp] theorem State.setSpring_mcnodes (k : Nat) (x : Spring) : (s.setSpring k x).mcnodes = s.mcnodes := rfl
@[simp] theorem State.setSpring_mcasts (k : Nat) (x : Spring) : (s.setSpring k x).mcasts = s.mcasts := rfl
@[simp] theorem State.setSpring_nextId (k : Nat) (x : Spring) : (s.setSpring k x).nextId = s.nextId := rfl
@[simp] theorem State.setSpring_springs (k : Nat) (x : Spring) : (s.setSpring k x).springs = Tbl.put s.springs k x := rfl
@[simp] theorem State.setSpring_sluices (k : Nat) (x : Spring) : (s.setSpring k x).sluices = s.sluices := rfl
@[simp] theorem State.setSpring_ues (k : Nat) (x : Spring) : (s.setSpring k x).ues = s.ues := rfl
@[simp] theorem State.setSpring_stackCtl (k : Nat) (x : Spring) : (s.setSpring k x).stackCtl = s.stackCtl := rfl
@[simp] theorem State.setSpring_bars (k : Nat) (x : Spring) : (s.setSpring k x).bars = s.bars := rfl
@[simp] theorem State.setSpring_barOver (k : Nat) (x : Spring) : (s.setSpring k x).barOver = s.barOver := rfl
@[simp] theorem State.setSpring_bid0Step (k : Nat) (x : Spring) : (s.setSpring k x).bid0Step = s.bid0Step := rfl
@[simp] theorem State.setSpring_flash (k : Nat) (x : Spring) : (s.setSpring k x).flash = s.flash := rfl
@[simp] theorem State.setSpring_polders (k : Nat) (x : Spring) : (s.setSpring k x).polders = s.polders := rfl
@[simp] theorem State.setSpring_sites (k : Nat) (x : Spring) : (s.setSpring k x).sites = s.sites := rfl
@[simp] theorem State.setSpring_resv (k : Nat) (x : Spring) : (s.setSpring k x).resv = s.resv := rfl
@[simp] theorem State.setSpring_tileOut (k : Nat) (x : Spring) : (s.setSpring k x).tileOut = s.tileOut := rfl
@[simp] theorem State.setSpring_stackSvc (k : Nat) (x : Spring) : (s.setSpring k x).stackSvc = s.stackSvc := rfl
@[simp] theorem State.setSpring_stackRes (k : Nat) (x : Spring) : (s.setSpring k x).stackRes = s.stackRes := rfl
@[simp] theorem State.setSpring_slots (k : Nat) (x : Spring) : (s.setSpring k x).slots = s.slots := rfl
@[simp] theorem State.setSpring_unitOut (k : Nat) (x : Spring) : (s.setSpring k x).unitOut = s.unitOut := rfl
@[simp] theorem State.setSpring_arrMap (k : Nat) (x : Spring) : (s.setSpring k x).arrMap = s.arrMap := rfl
@[simp] theorem State.setSpring_rowFails (k : Nat) (x : Spring) : (s.setSpring k x).rowFails = s.rowFails := rfl
@[simp] theorem State.setSpring_suspects (k : Nat) (x : Spring) : (s.setSpring k x).suspects = s.suspects := rfl
@[simp] theorem State.setSpring_lkSelf (k : Nat) (x : Spring) : (s.setSpring k x).lkSelf = s.lkSelf := rfl
@[simp] theorem State.setSpring_lkSuspect (k : Nat) (x : Spring) : (s.setSpring k x).lkSuspect = s.lkSuspect := rfl
@[simp] theorem State.setSpring_lkPatrols (k : Nat) (x : Spring) : (s.setSpring k x).lkPatrols = s.lkPatrols := rfl
@[simp] theorem State.setSpring_lkCorr (k : Nat) (x : Spring) : (s.setSpring k x).lkCorr = s.lkCorr := rfl
@[simp] theorem State.setSpring_lkUnc (k : Nat) (x : Spring) : (s.setSpring k x).lkUnc = s.lkUnc := rfl
@[simp] theorem State.setSpring_lkLast (k : Nat) (x : Spring) : (s.setSpring k x).lkLast = s.lkLast := rfl
@[simp] theorem State.setSpring_ports (k : Nat) (x : Spring) : (s.setSpring k x).ports = s.ports := rfl
@[simp] theorem State.setSpring_bays (k : Nat) (x : Spring) : (s.setSpring k x).bays = s.bays := rfl
@[simp] theorem State.setSpring_pmap (k : Nat) (x : Spring) : (s.setSpring k x).pmap = s.pmap := rfl
@[simp] theorem State.setSpring_group (k : Nat) (x : Spring) : (s.setSpring k x).group = s.group := rfl
@[simp] theorem State.setSpring_safety (k : Nat) (x : Spring) : (s.setSpring k x).safety = s.safety := rfl
@[simp] theorem State.setSpring_power (k : Nat) (x : Spring) : (s.setSpring k x).power = s.power := rfl
@[simp] theorem State.setSpring_surr (k : Nat) (x : Spring) : (s.setSpring k x).surr = s.surr := rfl
@[simp] theorem State.setSpring_hports (k : Nat) (x : Spring) : (s.setSpring k x).hports = s.hports := rfl
@[simp] theorem State.setSpring_hostTx (k : Nat) (x : Spring) : (s.setSpring k x).hostTx = s.hostTx := rfl
@[simp] theorem State.setSpring_job (k : Nat) (x : Spring) : (s.setSpring k x).job = s.job := rfl
@[simp] theorem State.setSpring_held (k : Nat) (x : Spring) : (s.setSpring k x).held = s.held := rfl
@[simp] theorem State.setSpring_quiet (k : Nat) (x : Spring) : (s.setSpring k x).quiet = s.quiet := rfl
@[simp] theorem State.setSpring_layerSum (k : Nat) (x : Spring) : (s.setSpring k x).layerSum = s.layerSum := rfl
@[simp] theorem State.setSpring_evrec (k : Nat) (x : Spring) : (s.setSpring k x).evrec = s.evrec := rfl
@[simp] theorem State.setSpring_trace (k : Nat) (x : Spring) : (s.setSpring k x).trace = s.trace := rfl
@[simp] theorem State.setSpring_ecnt (k : Nat) (x : Spring) : (s.setSpring k x).ecnt = s.ecnt := rfl
@[simp] theorem State.setSpring_freeze (k : Nat) (x : Spring) : (s.setSpring k x).freeze = s.freeze := rfl
@[simp] theorem State.setSpring_fuse (k : Nat) (x : Spring) : (s.setSpring k x).fuse = s.fuse := rfl
@[simp] theorem State.setSpring_sec (k : Nat) (x : Spring) : (s.setSpring k x).sec = s.sec := rfl
@[simp] theorem State.setSpring_idgen (k : Nat) (x : Spring) : (s.setSpring k x).idgen = s.idgen := rfl
@[simp] theorem State.setSpring_orderly (k : Nat) (x : Spring) : (s.setSpring k x).orderly = s.orderly := rfl
@[simp] theorem State.setSpring_ref (k : Nat) (x : Spring) : (s.setSpring k x).ref = s.ref := rfl
@[simp] theorem State.setSpring_powered (k : Nat) (x : Spring) : (s.setSpring k x).powered = s.powered := rfl
@[simp] theorem State.setSpring_proc (k : Nat) (x : Spring) (j : Nat) : (s.setSpring k x).proc j = s.proc j := rfl
@[simp] theorem State.setSpring_cluster (k : Nat) (x : Spring) (j : Nat) : (s.setSpring k x).cluster j = s.cluster j := rfl
@[simp] theorem State.setSpring_node (k : Nat) (x : Spring) (j : Nat) : (s.setSpring k x).node j = s.node j := rfl
@[simp] theorem State.setSpring_spring_same (k : Nat) (x : Spring) : (s.setSpring k x).spring k = x := Tbl.get_put_same ..
theorem State.setSpring_spring_other (k : Nat) (x : Spring) (j : Nat) (h : j ≠ k) : (s.setSpring k x).spring j = s.spring j := Tbl.get_put_other _ _ _ _ _ h
@[simp] theorem State.setSpring_sluice (k : Nat) (x : Spring) (j : Nat) : (s.setSpring k x).sluice j = s.sluice j := rfl
@[simp] theorem State.setSpring_ue (k : Nat) (x : Spring) (j : Nat) : (s.setSpring k x).ue j = s.ue j := rfl
@[simp] theorem State.setSpring_stack (k : Nat) (x : Spring) (j : Nat) : (s.setSpring k x).stack j = s.stack j := rfl
@[simp] theorem State.setSpring_bar (k : Nat) (x : Spring) (j : Nat) : (s.setSpring k x).bar j = s.bar j := rfl
@[simp] theorem State.setSpring_polder (k : Nat) (x : Spring) (j : Nat) : (s.setSpring k x).polder j = s.polder j := rfl
@[simp] theorem State.setSpring_port (k : Nat) (x : Spring) (j : Nat) : (s.setSpring k x).port j = s.port j := rfl
@[simp] theorem State.setSpring_bay (k : Nat) (x : Spring) (j : Nat) : (s.setSpring k x).bay j = s.bay j := rfl
@[simp] theorem State.setSpring_hport (k : Nat) (x : Spring) (j : Nat) : (s.setSpring k x).hport j = s.hport j := rfl

/-! ### `setSluice` -/

@[simp] theorem State.setSluice_pending (k : Nat) (x : Sluice) : (s.setSluice k x).pending = s.pending := rfl
@[simp] theorem State.setSluice_mem (k : Nat) (x : Sluice) : (s.setSluice k x).mem = s.mem := rfl
@[simp] theorem State.setSluice_pondMark (k : Nat) (x : Sluice) : (s.setSluice k x).pondMark = s.pondMark := rfl
@[simp] theorem State.setSluice_lakeMark (k : Nat) (x : Sluice) : (s.setSluice k x).lakeMark = s.lakeMark := rfl
@[simp] theorem State.setSluice_procs (k : Nat) (x : Sluice) : (s.setSluice k x).procs = s.procs := rfl
@[simp] theorem State.setSluice_seedRest (k : Nat) (x : Sluice) : (s.setSluice k x).seedRest = s.seedRest := rfl
@[simp] theorem State.setSluice_clusters (k : Nat) (x : Sluice) : (s.setSluice k x).clusters = s.clusters := rfl
@[simp] theorem State.setSluice_nodes (k : Nat) (x : Sluice) : (s.setSluice k x).nodes = s.nodes := rfl
@[simp] theorem State.setSluice_mesh (k : Nat) (x : Sluice) : (s.setSluice k x).mesh = s.mesh := rfl
@[simp] theorem State.setSluice_reqs (k : Nat) (x : Sluice) : (s.setSluice k x).reqs = s.reqs := rfl
@[simp] theorem State.setSluice_xfers (k : Nat) (x : Sluice) : (s.setSluice k x).xfers = s.xfers := rfl
@[simp] theorem State.setSluice_mcnodes (k : Nat) (x : Sluice) : (s.setSluice k x).mcnodes = s.mcnodes := rfl
@[simp] theorem State.setSluice_mcasts (k : Nat) (x : Sluice) : (s.setSluice k x).mcasts = s.mcasts := rfl
@[simp] theorem State.setSluice_nextId (k : Nat) (x : Sluice) : (s.setSluice k x).nextId = s.nextId := rfl
@[simp] theorem State.setSluice_springs (k : Nat) (x : Sluice) : (s.setSluice k x).springs = s.springs := rfl
@[simp] theorem State.setSluice_sluices (k : Nat) (x : Sluice) : (s.setSluice k x).sluices = Tbl.put s.sluices k x := rfl
@[simp] theorem State.setSluice_ues (k : Nat) (x : Sluice) : (s.setSluice k x).ues = s.ues := rfl
@[simp] theorem State.setSluice_stackCtl (k : Nat) (x : Sluice) : (s.setSluice k x).stackCtl = s.stackCtl := rfl
@[simp] theorem State.setSluice_bars (k : Nat) (x : Sluice) : (s.setSluice k x).bars = s.bars := rfl
@[simp] theorem State.setSluice_barOver (k : Nat) (x : Sluice) : (s.setSluice k x).barOver = s.barOver := rfl
@[simp] theorem State.setSluice_bid0Step (k : Nat) (x : Sluice) : (s.setSluice k x).bid0Step = s.bid0Step := rfl
@[simp] theorem State.setSluice_flash (k : Nat) (x : Sluice) : (s.setSluice k x).flash = s.flash := rfl
@[simp] theorem State.setSluice_polders (k : Nat) (x : Sluice) : (s.setSluice k x).polders = s.polders := rfl
@[simp] theorem State.setSluice_sites (k : Nat) (x : Sluice) : (s.setSluice k x).sites = s.sites := rfl
@[simp] theorem State.setSluice_resv (k : Nat) (x : Sluice) : (s.setSluice k x).resv = s.resv := rfl
@[simp] theorem State.setSluice_tileOut (k : Nat) (x : Sluice) : (s.setSluice k x).tileOut = s.tileOut := rfl
@[simp] theorem State.setSluice_stackSvc (k : Nat) (x : Sluice) : (s.setSluice k x).stackSvc = s.stackSvc := rfl
@[simp] theorem State.setSluice_stackRes (k : Nat) (x : Sluice) : (s.setSluice k x).stackRes = s.stackRes := rfl
@[simp] theorem State.setSluice_slots (k : Nat) (x : Sluice) : (s.setSluice k x).slots = s.slots := rfl
@[simp] theorem State.setSluice_unitOut (k : Nat) (x : Sluice) : (s.setSluice k x).unitOut = s.unitOut := rfl
@[simp] theorem State.setSluice_arrMap (k : Nat) (x : Sluice) : (s.setSluice k x).arrMap = s.arrMap := rfl
@[simp] theorem State.setSluice_rowFails (k : Nat) (x : Sluice) : (s.setSluice k x).rowFails = s.rowFails := rfl
@[simp] theorem State.setSluice_suspects (k : Nat) (x : Sluice) : (s.setSluice k x).suspects = s.suspects := rfl
@[simp] theorem State.setSluice_lkSelf (k : Nat) (x : Sluice) : (s.setSluice k x).lkSelf = s.lkSelf := rfl
@[simp] theorem State.setSluice_lkSuspect (k : Nat) (x : Sluice) : (s.setSluice k x).lkSuspect = s.lkSuspect := rfl
@[simp] theorem State.setSluice_lkPatrols (k : Nat) (x : Sluice) : (s.setSluice k x).lkPatrols = s.lkPatrols := rfl
@[simp] theorem State.setSluice_lkCorr (k : Nat) (x : Sluice) : (s.setSluice k x).lkCorr = s.lkCorr := rfl
@[simp] theorem State.setSluice_lkUnc (k : Nat) (x : Sluice) : (s.setSluice k x).lkUnc = s.lkUnc := rfl
@[simp] theorem State.setSluice_lkLast (k : Nat) (x : Sluice) : (s.setSluice k x).lkLast = s.lkLast := rfl
@[simp] theorem State.setSluice_ports (k : Nat) (x : Sluice) : (s.setSluice k x).ports = s.ports := rfl
@[simp] theorem State.setSluice_bays (k : Nat) (x : Sluice) : (s.setSluice k x).bays = s.bays := rfl
@[simp] theorem State.setSluice_pmap (k : Nat) (x : Sluice) : (s.setSluice k x).pmap = s.pmap := rfl
@[simp] theorem State.setSluice_group (k : Nat) (x : Sluice) : (s.setSluice k x).group = s.group := rfl
@[simp] theorem State.setSluice_safety (k : Nat) (x : Sluice) : (s.setSluice k x).safety = s.safety := rfl
@[simp] theorem State.setSluice_power (k : Nat) (x : Sluice) : (s.setSluice k x).power = s.power := rfl
@[simp] theorem State.setSluice_surr (k : Nat) (x : Sluice) : (s.setSluice k x).surr = s.surr := rfl
@[simp] theorem State.setSluice_hports (k : Nat) (x : Sluice) : (s.setSluice k x).hports = s.hports := rfl
@[simp] theorem State.setSluice_hostTx (k : Nat) (x : Sluice) : (s.setSluice k x).hostTx = s.hostTx := rfl
@[simp] theorem State.setSluice_job (k : Nat) (x : Sluice) : (s.setSluice k x).job = s.job := rfl
@[simp] theorem State.setSluice_held (k : Nat) (x : Sluice) : (s.setSluice k x).held = s.held := rfl
@[simp] theorem State.setSluice_quiet (k : Nat) (x : Sluice) : (s.setSluice k x).quiet = s.quiet := rfl
@[simp] theorem State.setSluice_layerSum (k : Nat) (x : Sluice) : (s.setSluice k x).layerSum = s.layerSum := rfl
@[simp] theorem State.setSluice_evrec (k : Nat) (x : Sluice) : (s.setSluice k x).evrec = s.evrec := rfl
@[simp] theorem State.setSluice_trace (k : Nat) (x : Sluice) : (s.setSluice k x).trace = s.trace := rfl
@[simp] theorem State.setSluice_ecnt (k : Nat) (x : Sluice) : (s.setSluice k x).ecnt = s.ecnt := rfl
@[simp] theorem State.setSluice_freeze (k : Nat) (x : Sluice) : (s.setSluice k x).freeze = s.freeze := rfl
@[simp] theorem State.setSluice_fuse (k : Nat) (x : Sluice) : (s.setSluice k x).fuse = s.fuse := rfl
@[simp] theorem State.setSluice_sec (k : Nat) (x : Sluice) : (s.setSluice k x).sec = s.sec := rfl
@[simp] theorem State.setSluice_idgen (k : Nat) (x : Sluice) : (s.setSluice k x).idgen = s.idgen := rfl
@[simp] theorem State.setSluice_orderly (k : Nat) (x : Sluice) : (s.setSluice k x).orderly = s.orderly := rfl
@[simp] theorem State.setSluice_ref (k : Nat) (x : Sluice) : (s.setSluice k x).ref = s.ref := rfl
@[simp] theorem State.setSluice_powered (k : Nat) (x : Sluice) : (s.setSluice k x).powered = s.powered := rfl
@[simp] theorem State.setSluice_proc (k : Nat) (x : Sluice) (j : Nat) : (s.setSluice k x).proc j = s.proc j := rfl
@[simp] theorem State.setSluice_cluster (k : Nat) (x : Sluice) (j : Nat) : (s.setSluice k x).cluster j = s.cluster j := rfl
@[simp] theorem State.setSluice_node (k : Nat) (x : Sluice) (j : Nat) : (s.setSluice k x).node j = s.node j := rfl
@[simp] theorem State.setSluice_spring (k : Nat) (x : Sluice) (j : Nat) : (s.setSluice k x).spring j = s.spring j := rfl
@[simp] theorem State.setSluice_sluice_same (k : Nat) (x : Sluice) : (s.setSluice k x).sluice k = x := Tbl.get_put_same ..
theorem State.setSluice_sluice_other (k : Nat) (x : Sluice) (j : Nat) (h : j ≠ k) : (s.setSluice k x).sluice j = s.sluice j := Tbl.get_put_other _ _ _ _ _ h
@[simp] theorem State.setSluice_ue (k : Nat) (x : Sluice) (j : Nat) : (s.setSluice k x).ue j = s.ue j := rfl
@[simp] theorem State.setSluice_stack (k : Nat) (x : Sluice) (j : Nat) : (s.setSluice k x).stack j = s.stack j := rfl
@[simp] theorem State.setSluice_bar (k : Nat) (x : Sluice) (j : Nat) : (s.setSluice k x).bar j = s.bar j := rfl
@[simp] theorem State.setSluice_polder (k : Nat) (x : Sluice) (j : Nat) : (s.setSluice k x).polder j = s.polder j := rfl
@[simp] theorem State.setSluice_port (k : Nat) (x : Sluice) (j : Nat) : (s.setSluice k x).port j = s.port j := rfl
@[simp] theorem State.setSluice_bay (k : Nat) (x : Sluice) (j : Nat) : (s.setSluice k x).bay j = s.bay j := rfl
@[simp] theorem State.setSluice_hport (k : Nat) (x : Sluice) (j : Nat) : (s.setSluice k x).hport j = s.hport j := rfl

/-! ### `setUe` -/

@[simp] theorem State.setUe_pending (k : Nat) (x : UpEng) : (s.setUe k x).pending = s.pending := rfl
@[simp] theorem State.setUe_mem (k : Nat) (x : UpEng) : (s.setUe k x).mem = s.mem := rfl
@[simp] theorem State.setUe_pondMark (k : Nat) (x : UpEng) : (s.setUe k x).pondMark = s.pondMark := rfl
@[simp] theorem State.setUe_lakeMark (k : Nat) (x : UpEng) : (s.setUe k x).lakeMark = s.lakeMark := rfl
@[simp] theorem State.setUe_procs (k : Nat) (x : UpEng) : (s.setUe k x).procs = s.procs := rfl
@[simp] theorem State.setUe_seedRest (k : Nat) (x : UpEng) : (s.setUe k x).seedRest = s.seedRest := rfl
@[simp] theorem State.setUe_clusters (k : Nat) (x : UpEng) : (s.setUe k x).clusters = s.clusters := rfl
@[simp] theorem State.setUe_nodes (k : Nat) (x : UpEng) : (s.setUe k x).nodes = s.nodes := rfl
@[simp] theorem State.setUe_mesh (k : Nat) (x : UpEng) : (s.setUe k x).mesh = s.mesh := rfl
@[simp] theorem State.setUe_reqs (k : Nat) (x : UpEng) : (s.setUe k x).reqs = s.reqs := rfl
@[simp] theorem State.setUe_xfers (k : Nat) (x : UpEng) : (s.setUe k x).xfers = s.xfers := rfl
@[simp] theorem State.setUe_mcnodes (k : Nat) (x : UpEng) : (s.setUe k x).mcnodes = s.mcnodes := rfl
@[simp] theorem State.setUe_mcasts (k : Nat) (x : UpEng) : (s.setUe k x).mcasts = s.mcasts := rfl
@[simp] theorem State.setUe_nextId (k : Nat) (x : UpEng) : (s.setUe k x).nextId = s.nextId := rfl
@[simp] theorem State.setUe_springs (k : Nat) (x : UpEng) : (s.setUe k x).springs = s.springs := rfl
@[simp] theorem State.setUe_sluices (k : Nat) (x : UpEng) : (s.setUe k x).sluices = s.sluices := rfl
@[simp] theorem State.setUe_ues (k : Nat) (x : UpEng) : (s.setUe k x).ues = Tbl.put s.ues k x := rfl
@[simp] theorem State.setUe_stackCtl (k : Nat) (x : UpEng) : (s.setUe k x).stackCtl = s.stackCtl := rfl
@[simp] theorem State.setUe_bars (k : Nat) (x : UpEng) : (s.setUe k x).bars = s.bars := rfl
@[simp] theorem State.setUe_barOver (k : Nat) (x : UpEng) : (s.setUe k x).barOver = s.barOver := rfl
@[simp] theorem State.setUe_bid0Step (k : Nat) (x : UpEng) : (s.setUe k x).bid0Step = s.bid0Step := rfl
@[simp] theorem State.setUe_flash (k : Nat) (x : UpEng) : (s.setUe k x).flash = s.flash := rfl
@[simp] theorem State.setUe_polders (k : Nat) (x : UpEng) : (s.setUe k x).polders = s.polders := rfl
@[simp] theorem State.setUe_sites (k : Nat) (x : UpEng) : (s.setUe k x).sites = s.sites := rfl
@[simp] theorem State.setUe_resv (k : Nat) (x : UpEng) : (s.setUe k x).resv = s.resv := rfl
@[simp] theorem State.setUe_tileOut (k : Nat) (x : UpEng) : (s.setUe k x).tileOut = s.tileOut := rfl
@[simp] theorem State.setUe_stackSvc (k : Nat) (x : UpEng) : (s.setUe k x).stackSvc = s.stackSvc := rfl
@[simp] theorem State.setUe_stackRes (k : Nat) (x : UpEng) : (s.setUe k x).stackRes = s.stackRes := rfl
@[simp] theorem State.setUe_slots (k : Nat) (x : UpEng) : (s.setUe k x).slots = s.slots := rfl
@[simp] theorem State.setUe_unitOut (k : Nat) (x : UpEng) : (s.setUe k x).unitOut = s.unitOut := rfl
@[simp] theorem State.setUe_arrMap (k : Nat) (x : UpEng) : (s.setUe k x).arrMap = s.arrMap := rfl
@[simp] theorem State.setUe_rowFails (k : Nat) (x : UpEng) : (s.setUe k x).rowFails = s.rowFails := rfl
@[simp] theorem State.setUe_suspects (k : Nat) (x : UpEng) : (s.setUe k x).suspects = s.suspects := rfl
@[simp] theorem State.setUe_lkSelf (k : Nat) (x : UpEng) : (s.setUe k x).lkSelf = s.lkSelf := rfl
@[simp] theorem State.setUe_lkSuspect (k : Nat) (x : UpEng) : (s.setUe k x).lkSuspect = s.lkSuspect := rfl
@[simp] theorem State.setUe_lkPatrols (k : Nat) (x : UpEng) : (s.setUe k x).lkPatrols = s.lkPatrols := rfl
@[simp] theorem State.setUe_lkCorr (k : Nat) (x : UpEng) : (s.setUe k x).lkCorr = s.lkCorr := rfl
@[simp] theorem State.setUe_lkUnc (k : Nat) (x : UpEng) : (s.setUe k x).lkUnc = s.lkUnc := rfl
@[simp] theorem State.setUe_lkLast (k : Nat) (x : UpEng) : (s.setUe k x).lkLast = s.lkLast := rfl
@[simp] theorem State.setUe_ports (k : Nat) (x : UpEng) : (s.setUe k x).ports = s.ports := rfl
@[simp] theorem State.setUe_bays (k : Nat) (x : UpEng) : (s.setUe k x).bays = s.bays := rfl
@[simp] theorem State.setUe_pmap (k : Nat) (x : UpEng) : (s.setUe k x).pmap = s.pmap := rfl
@[simp] theorem State.setUe_group (k : Nat) (x : UpEng) : (s.setUe k x).group = s.group := rfl
@[simp] theorem State.setUe_safety (k : Nat) (x : UpEng) : (s.setUe k x).safety = s.safety := rfl
@[simp] theorem State.setUe_power (k : Nat) (x : UpEng) : (s.setUe k x).power = s.power := rfl
@[simp] theorem State.setUe_surr (k : Nat) (x : UpEng) : (s.setUe k x).surr = s.surr := rfl
@[simp] theorem State.setUe_hports (k : Nat) (x : UpEng) : (s.setUe k x).hports = s.hports := rfl
@[simp] theorem State.setUe_hostTx (k : Nat) (x : UpEng) : (s.setUe k x).hostTx = s.hostTx := rfl
@[simp] theorem State.setUe_job (k : Nat) (x : UpEng) : (s.setUe k x).job = s.job := rfl
@[simp] theorem State.setUe_held (k : Nat) (x : UpEng) : (s.setUe k x).held = s.held := rfl
@[simp] theorem State.setUe_quiet (k : Nat) (x : UpEng) : (s.setUe k x).quiet = s.quiet := rfl
@[simp] theorem State.setUe_layerSum (k : Nat) (x : UpEng) : (s.setUe k x).layerSum = s.layerSum := rfl
@[simp] theorem State.setUe_evrec (k : Nat) (x : UpEng) : (s.setUe k x).evrec = s.evrec := rfl
@[simp] theorem State.setUe_trace (k : Nat) (x : UpEng) : (s.setUe k x).trace = s.trace := rfl
@[simp] theorem State.setUe_ecnt (k : Nat) (x : UpEng) : (s.setUe k x).ecnt = s.ecnt := rfl
@[simp] theorem State.setUe_freeze (k : Nat) (x : UpEng) : (s.setUe k x).freeze = s.freeze := rfl
@[simp] theorem State.setUe_fuse (k : Nat) (x : UpEng) : (s.setUe k x).fuse = s.fuse := rfl
@[simp] theorem State.setUe_sec (k : Nat) (x : UpEng) : (s.setUe k x).sec = s.sec := rfl
@[simp] theorem State.setUe_idgen (k : Nat) (x : UpEng) : (s.setUe k x).idgen = s.idgen := rfl
@[simp] theorem State.setUe_orderly (k : Nat) (x : UpEng) : (s.setUe k x).orderly = s.orderly := rfl
@[simp] theorem State.setUe_ref (k : Nat) (x : UpEng) : (s.setUe k x).ref = s.ref := rfl
@[simp] theorem State.setUe_powered (k : Nat) (x : UpEng) : (s.setUe k x).powered = s.powered := rfl
@[simp] theorem State.setUe_proc (k : Nat) (x : UpEng) (j : Nat) : (s.setUe k x).proc j = s.proc j := rfl
@[simp] theorem State.setUe_cluster (k : Nat) (x : UpEng) (j : Nat) : (s.setUe k x).cluster j = s.cluster j := rfl
@[simp] theorem State.setUe_node (k : Nat) (x : UpEng) (j : Nat) : (s.setUe k x).node j = s.node j := rfl
@[simp] theorem State.setUe_spring (k : Nat) (x : UpEng) (j : Nat) : (s.setUe k x).spring j = s.spring j := rfl
@[simp] theorem State.setUe_sluice (k : Nat) (x : UpEng) (j : Nat) : (s.setUe k x).sluice j = s.sluice j := rfl
@[simp] theorem State.setUe_ue_same (k : Nat) (x : UpEng) : (s.setUe k x).ue k = x := Tbl.get_put_same ..
theorem State.setUe_ue_other (k : Nat) (x : UpEng) (j : Nat) (h : j ≠ k) : (s.setUe k x).ue j = s.ue j := Tbl.get_put_other _ _ _ _ _ h
@[simp] theorem State.setUe_stack (k : Nat) (x : UpEng) (j : Nat) : (s.setUe k x).stack j = s.stack j := rfl
@[simp] theorem State.setUe_bar (k : Nat) (x : UpEng) (j : Nat) : (s.setUe k x).bar j = s.bar j := rfl
@[simp] theorem State.setUe_polder (k : Nat) (x : UpEng) (j : Nat) : (s.setUe k x).polder j = s.polder j := rfl
@[simp] theorem State.setUe_port (k : Nat) (x : UpEng) (j : Nat) : (s.setUe k x).port j = s.port j := rfl
@[simp] theorem State.setUe_bay (k : Nat) (x : UpEng) (j : Nat) : (s.setUe k x).bay j = s.bay j := rfl
@[simp] theorem State.setUe_hport (k : Nat) (x : UpEng) (j : Nat) : (s.setUe k x).hport j = s.hport j := rfl

/-! ### `setStack` -/

@[simp] theorem State.setStack_pending (k : Nat) (x : Stack) : (s.setStack k x).pending = s.pending := rfl
@[simp] theorem State.setStack_mem (k : Nat) (x : Stack) : (s.setStack k x).mem = s.mem := rfl
@[simp] theorem State.setStack_pondMark (k : Nat) (x : Stack) : (s.setStack k x).pondMark = s.pondMark := rfl
@[simp] theorem State.setStack_lakeMark (k : Nat) (x : Stack) : (s.setStack k x).lakeMark = s.lakeMark := rfl
@[simp] theorem State.setStack_procs (k : Nat) (x : Stack) : (s.setStack k x).procs = s.procs := rfl
@[simp] theorem State.setStack_seedRest (k : Nat) (x : Stack) : (s.setStack k x).seedRest = s.seedRest := rfl
@[simp] theorem State.setStack_clusters (k : Nat) (x : Stack) : (s.setStack k x).clusters = s.clusters := rfl
@[simp] theorem State.setStack_nodes (k : Nat) (x : Stack) : (s.setStack k x).nodes = s.nodes := rfl
@[simp] theorem State.setStack_mesh (k : Nat) (x : Stack) : (s.setStack k x).mesh = s.mesh := rfl
@[simp] theorem State.setStack_reqs (k : Nat) (x : Stack) : (s.setStack k x).reqs = s.reqs := rfl
@[simp] theorem State.setStack_xfers (k : Nat) (x : Stack) : (s.setStack k x).xfers = s.xfers := rfl
@[simp] theorem State.setStack_mcnodes (k : Nat) (x : Stack) : (s.setStack k x).mcnodes = s.mcnodes := rfl
@[simp] theorem State.setStack_mcasts (k : Nat) (x : Stack) : (s.setStack k x).mcasts = s.mcasts := rfl
@[simp] theorem State.setStack_nextId (k : Nat) (x : Stack) : (s.setStack k x).nextId = s.nextId := rfl
@[simp] theorem State.setStack_springs (k : Nat) (x : Stack) : (s.setStack k x).springs = s.springs := rfl
@[simp] theorem State.setStack_sluices (k : Nat) (x : Stack) : (s.setStack k x).sluices = s.sluices := rfl
@[simp] theorem State.setStack_ues (k : Nat) (x : Stack) : (s.setStack k x).ues = s.ues := rfl
@[simp] theorem State.setStack_stackCtl (k : Nat) (x : Stack) : (s.setStack k x).stackCtl = Tbl.put s.stackCtl k x := rfl
@[simp] theorem State.setStack_bars (k : Nat) (x : Stack) : (s.setStack k x).bars = s.bars := rfl
@[simp] theorem State.setStack_barOver (k : Nat) (x : Stack) : (s.setStack k x).barOver = s.barOver := rfl
@[simp] theorem State.setStack_bid0Step (k : Nat) (x : Stack) : (s.setStack k x).bid0Step = s.bid0Step := rfl
@[simp] theorem State.setStack_flash (k : Nat) (x : Stack) : (s.setStack k x).flash = s.flash := rfl
@[simp] theorem State.setStack_polders (k : Nat) (x : Stack) : (s.setStack k x).polders = s.polders := rfl
@[simp] theorem State.setStack_sites (k : Nat) (x : Stack) : (s.setStack k x).sites = s.sites := rfl
@[simp] theorem State.setStack_resv (k : Nat) (x : Stack) : (s.setStack k x).resv = s.resv := rfl
@[simp] theorem State.setStack_tileOut (k : Nat) (x : Stack) : (s.setStack k x).tileOut = s.tileOut := rfl
@[simp] theorem State.setStack_stackSvc (k : Nat) (x : Stack) : (s.setStack k x).stackSvc = s.stackSvc := rfl
@[simp] theorem State.setStack_stackRes (k : Nat) (x : Stack) : (s.setStack k x).stackRes = s.stackRes := rfl
@[simp] theorem State.setStack_slots (k : Nat) (x : Stack) : (s.setStack k x).slots = s.slots := rfl
@[simp] theorem State.setStack_unitOut (k : Nat) (x : Stack) : (s.setStack k x).unitOut = s.unitOut := rfl
@[simp] theorem State.setStack_arrMap (k : Nat) (x : Stack) : (s.setStack k x).arrMap = s.arrMap := rfl
@[simp] theorem State.setStack_rowFails (k : Nat) (x : Stack) : (s.setStack k x).rowFails = s.rowFails := rfl
@[simp] theorem State.setStack_suspects (k : Nat) (x : Stack) : (s.setStack k x).suspects = s.suspects := rfl
@[simp] theorem State.setStack_lkSelf (k : Nat) (x : Stack) : (s.setStack k x).lkSelf = s.lkSelf := rfl
@[simp] theorem State.setStack_lkSuspect (k : Nat) (x : Stack) : (s.setStack k x).lkSuspect = s.lkSuspect := rfl
@[simp] theorem State.setStack_lkPatrols (k : Nat) (x : Stack) : (s.setStack k x).lkPatrols = s.lkPatrols := rfl
@[simp] theorem State.setStack_lkCorr (k : Nat) (x : Stack) : (s.setStack k x).lkCorr = s.lkCorr := rfl
@[simp] theorem State.setStack_lkUnc (k : Nat) (x : Stack) : (s.setStack k x).lkUnc = s.lkUnc := rfl
@[simp] theorem State.setStack_lkLast (k : Nat) (x : Stack) : (s.setStack k x).lkLast = s.lkLast := rfl
@[simp] theorem State.setStack_ports (k : Nat) (x : Stack) : (s.setStack k x).ports = s.ports := rfl
@[simp] theorem State.setStack_bays (k : Nat) (x : Stack) : (s.setStack k x).bays = s.bays := rfl
@[simp] theorem State.setStack_pmap (k : Nat) (x : Stack) : (s.setStack k x).pmap = s.pmap := rfl
@[simp] theorem State.setStack_group (k : Nat) (x : Stack) : (s.setStack k x).group = s.group := rfl
@[simp] theorem State.setStack_safety (k : Nat) (x : Stack) : (s.setStack k x).safety = s.safety := rfl
@[simp] theorem State.setStack_power (k : Nat) (x : Stack) : (s.setStack k x).power = s.power := rfl
@[simp] theorem State.setStack_surr (k : Nat) (x : Stack) : (s.setStack k x).surr = s.surr := rfl
@[simp] theorem State.setStack_hports (k : Nat) (x : Stack) : (s.setStack k x).hports = s.hports := rfl
@[simp] theorem State.setStack_hostTx (k : Nat) (x : Stack) : (s.setStack k x).hostTx = s.hostTx := rfl
@[simp] theorem State.setStack_job (k : Nat) (x : Stack) : (s.setStack k x).job = s.job := rfl
@[simp] theorem State.setStack_held (k : Nat) (x : Stack) : (s.setStack k x).held = s.held := rfl
@[simp] theorem State.setStack_quiet (k : Nat) (x : Stack) : (s.setStack k x).quiet = s.quiet := rfl
@[simp] theorem State.setStack_layerSum (k : Nat) (x : Stack) : (s.setStack k x).layerSum = s.layerSum := rfl
@[simp] theorem State.setStack_evrec (k : Nat) (x : Stack) : (s.setStack k x).evrec = s.evrec := rfl
@[simp] theorem State.setStack_trace (k : Nat) (x : Stack) : (s.setStack k x).trace = s.trace := rfl
@[simp] theorem State.setStack_ecnt (k : Nat) (x : Stack) : (s.setStack k x).ecnt = s.ecnt := rfl
@[simp] theorem State.setStack_freeze (k : Nat) (x : Stack) : (s.setStack k x).freeze = s.freeze := rfl
@[simp] theorem State.setStack_fuse (k : Nat) (x : Stack) : (s.setStack k x).fuse = s.fuse := rfl
@[simp] theorem State.setStack_sec (k : Nat) (x : Stack) : (s.setStack k x).sec = s.sec := rfl
@[simp] theorem State.setStack_idgen (k : Nat) (x : Stack) : (s.setStack k x).idgen = s.idgen := rfl
@[simp] theorem State.setStack_orderly (k : Nat) (x : Stack) : (s.setStack k x).orderly = s.orderly := rfl
@[simp] theorem State.setStack_ref (k : Nat) (x : Stack) : (s.setStack k x).ref = s.ref := rfl
@[simp] theorem State.setStack_powered (k : Nat) (x : Stack) : (s.setStack k x).powered = s.powered := rfl
@[simp] theorem State.setStack_proc (k : Nat) (x : Stack) (j : Nat) : (s.setStack k x).proc j = s.proc j := rfl
@[simp] theorem State.setStack_cluster (k : Nat) (x : Stack) (j : Nat) : (s.setStack k x).cluster j = s.cluster j := rfl
@[simp] theorem State.setStack_node (k : Nat) (x : Stack) (j : Nat) : (s.setStack k x).node j = s.node j := rfl
@[simp] theorem State.setStack_spring (k : Nat) (x : Stack) (j : Nat) : (s.setStack k x).spring j = s.spring j := rfl
@[simp] theorem State.setStack_sluice (k : Nat) (x : Stack) (j : Nat) : (s.setStack k x).sluice j = s.sluice j := rfl
@[simp] theorem State.setStack_ue (k : Nat) (x : Stack) (j : Nat) : (s.setStack k x).ue j = s.ue j := rfl
@[simp] theorem State.setStack_stack_same (k : Nat) (x : Stack) : (s.setStack k x).stack k = x := Tbl.get_put_same ..
theorem State.setStack_stack_other (k : Nat) (x : Stack) (j : Nat) (h : j ≠ k) : (s.setStack k x).stack j = s.stack j := Tbl.get_put_other _ _ _ _ _ h
@[simp] theorem State.setStack_bar (k : Nat) (x : Stack) (j : Nat) : (s.setStack k x).bar j = s.bar j := rfl
@[simp] theorem State.setStack_polder (k : Nat) (x : Stack) (j : Nat) : (s.setStack k x).polder j = s.polder j := rfl
@[simp] theorem State.setStack_port (k : Nat) (x : Stack) (j : Nat) : (s.setStack k x).port j = s.port j := rfl
@[simp] theorem State.setStack_bay (k : Nat) (x : Stack) (j : Nat) : (s.setStack k x).bay j = s.bay j := rfl
@[simp] theorem State.setStack_hport (k : Nat) (x : Stack) (j : Nat) : (s.setStack k x).hport j = s.hport j := rfl

/-! ### `setBar` -/

@[simp] theorem State.setBar_pending (k : Nat) (x : BarNode) : (s.setBar k x).pending = s.pending := rfl
@[simp] theorem State.setBar_mem (k : Nat) (x : BarNode) : (s.setBar k x).mem = s.mem := rfl
@[simp] theorem State.setBar_pondMark (k : Nat) (x : BarNode) : (s.setBar k x).pondMark = s.pondMark := rfl
@[simp] theorem State.setBar_lakeMark (k : Nat) (x : BarNode) : (s.setBar k x).lakeMark = s.lakeMark := rfl
@[simp] theorem State.setBar_procs (k : Nat) (x : BarNode) : (s.setBar k x).procs = s.procs := rfl
@[simp] theorem State.setBar_seedRest (k : Nat) (x : BarNode) : (s.setBar k x).seedRest = s.seedRest := rfl
@[simp] theorem State.setBar_clusters (k : Nat) (x : BarNode) : (s.setBar k x).clusters = s.clusters := rfl
@[simp] theorem State.setBar_nodes (k : Nat) (x : BarNode) : (s.setBar k x).nodes = s.nodes := rfl
@[simp] theorem State.setBar_mesh (k : Nat) (x : BarNode) : (s.setBar k x).mesh = s.mesh := rfl
@[simp] theorem State.setBar_reqs (k : Nat) (x : BarNode) : (s.setBar k x).reqs = s.reqs := rfl
@[simp] theorem State.setBar_xfers (k : Nat) (x : BarNode) : (s.setBar k x).xfers = s.xfers := rfl
@[simp] theorem State.setBar_mcnodes (k : Nat) (x : BarNode) : (s.setBar k x).mcnodes = s.mcnodes := rfl
@[simp] theorem State.setBar_mcasts (k : Nat) (x : BarNode) : (s.setBar k x).mcasts = s.mcasts := rfl
@[simp] theorem State.setBar_nextId (k : Nat) (x : BarNode) : (s.setBar k x).nextId = s.nextId := rfl
@[simp] theorem State.setBar_springs (k : Nat) (x : BarNode) : (s.setBar k x).springs = s.springs := rfl
@[simp] theorem State.setBar_sluices (k : Nat) (x : BarNode) : (s.setBar k x).sluices = s.sluices := rfl
@[simp] theorem State.setBar_ues (k : Nat) (x : BarNode) : (s.setBar k x).ues = s.ues := rfl
@[simp] theorem State.setBar_stackCtl (k : Nat) (x : BarNode) : (s.setBar k x).stackCtl = s.stackCtl := rfl
@[simp] theorem State.setBar_bars (k : Nat) (x : BarNode) : (s.setBar k x).bars = Tbl.put s.bars k x := rfl
@[simp] theorem State.setBar_barOver (k : Nat) (x : BarNode) : (s.setBar k x).barOver = s.barOver := rfl
@[simp] theorem State.setBar_bid0Step (k : Nat) (x : BarNode) : (s.setBar k x).bid0Step = s.bid0Step := rfl
@[simp] theorem State.setBar_flash (k : Nat) (x : BarNode) : (s.setBar k x).flash = s.flash := rfl
@[simp] theorem State.setBar_polders (k : Nat) (x : BarNode) : (s.setBar k x).polders = s.polders := rfl
@[simp] theorem State.setBar_sites (k : Nat) (x : BarNode) : (s.setBar k x).sites = s.sites := rfl
@[simp] theorem State.setBar_resv (k : Nat) (x : BarNode) : (s.setBar k x).resv = s.resv := rfl
@[simp] theorem State.setBar_tileOut (k : Nat) (x : BarNode) : (s.setBar k x).tileOut = s.tileOut := rfl
@[simp] theorem State.setBar_stackSvc (k : Nat) (x : BarNode) : (s.setBar k x).stackSvc = s.stackSvc := rfl
@[simp] theorem State.setBar_stackRes (k : Nat) (x : BarNode) : (s.setBar k x).stackRes = s.stackRes := rfl
@[simp] theorem State.setBar_slots (k : Nat) (x : BarNode) : (s.setBar k x).slots = s.slots := rfl
@[simp] theorem State.setBar_unitOut (k : Nat) (x : BarNode) : (s.setBar k x).unitOut = s.unitOut := rfl
@[simp] theorem State.setBar_arrMap (k : Nat) (x : BarNode) : (s.setBar k x).arrMap = s.arrMap := rfl
@[simp] theorem State.setBar_rowFails (k : Nat) (x : BarNode) : (s.setBar k x).rowFails = s.rowFails := rfl
@[simp] theorem State.setBar_suspects (k : Nat) (x : BarNode) : (s.setBar k x).suspects = s.suspects := rfl
@[simp] theorem State.setBar_lkSelf (k : Nat) (x : BarNode) : (s.setBar k x).lkSelf = s.lkSelf := rfl
@[simp] theorem State.setBar_lkSuspect (k : Nat) (x : BarNode) : (s.setBar k x).lkSuspect = s.lkSuspect := rfl
@[simp] theorem State.setBar_lkPatrols (k : Nat) (x : BarNode) : (s.setBar k x).lkPatrols = s.lkPatrols := rfl
@[simp] theorem State.setBar_lkCorr (k : Nat) (x : BarNode) : (s.setBar k x).lkCorr = s.lkCorr := rfl
@[simp] theorem State.setBar_lkUnc (k : Nat) (x : BarNode) : (s.setBar k x).lkUnc = s.lkUnc := rfl
@[simp] theorem State.setBar_lkLast (k : Nat) (x : BarNode) : (s.setBar k x).lkLast = s.lkLast := rfl
@[simp] theorem State.setBar_ports (k : Nat) (x : BarNode) : (s.setBar k x).ports = s.ports := rfl
@[simp] theorem State.setBar_bays (k : Nat) (x : BarNode) : (s.setBar k x).bays = s.bays := rfl
@[simp] theorem State.setBar_pmap (k : Nat) (x : BarNode) : (s.setBar k x).pmap = s.pmap := rfl
@[simp] theorem State.setBar_group (k : Nat) (x : BarNode) : (s.setBar k x).group = s.group := rfl
@[simp] theorem State.setBar_safety (k : Nat) (x : BarNode) : (s.setBar k x).safety = s.safety := rfl
@[simp] theorem State.setBar_power (k : Nat) (x : BarNode) : (s.setBar k x).power = s.power := rfl
@[simp] theorem State.setBar_surr (k : Nat) (x : BarNode) : (s.setBar k x).surr = s.surr := rfl
@[simp] theorem State.setBar_hports (k : Nat) (x : BarNode) : (s.setBar k x).hports = s.hports := rfl
@[simp] theorem State.setBar_hostTx (k : Nat) (x : BarNode) : (s.setBar k x).hostTx = s.hostTx := rfl
@[simp] theorem State.setBar_job (k : Nat) (x : BarNode) : (s.setBar k x).job = s.job := rfl
@[simp] theorem State.setBar_held (k : Nat) (x : BarNode) : (s.setBar k x).held = s.held := rfl
@[simp] theorem State.setBar_quiet (k : Nat) (x : BarNode) : (s.setBar k x).quiet = s.quiet := rfl
@[simp] theorem State.setBar_layerSum (k : Nat) (x : BarNode) : (s.setBar k x).layerSum = s.layerSum := rfl
@[simp] theorem State.setBar_evrec (k : Nat) (x : BarNode) : (s.setBar k x).evrec = s.evrec := rfl
@[simp] theorem State.setBar_trace (k : Nat) (x : BarNode) : (s.setBar k x).trace = s.trace := rfl
@[simp] theorem State.setBar_ecnt (k : Nat) (x : BarNode) : (s.setBar k x).ecnt = s.ecnt := rfl
@[simp] theorem State.setBar_freeze (k : Nat) (x : BarNode) : (s.setBar k x).freeze = s.freeze := rfl
@[simp] theorem State.setBar_fuse (k : Nat) (x : BarNode) : (s.setBar k x).fuse = s.fuse := rfl
@[simp] theorem State.setBar_sec (k : Nat) (x : BarNode) : (s.setBar k x).sec = s.sec := rfl
@[simp] theorem State.setBar_idgen (k : Nat) (x : BarNode) : (s.setBar k x).idgen = s.idgen := rfl
@[simp] theorem State.setBar_orderly (k : Nat) (x : BarNode) : (s.setBar k x).orderly = s.orderly := rfl
@[simp] theorem State.setBar_ref (k : Nat) (x : BarNode) : (s.setBar k x).ref = s.ref := rfl
@[simp] theorem State.setBar_powered (k : Nat) (x : BarNode) : (s.setBar k x).powered = s.powered := rfl
@[simp] theorem State.setBar_proc (k : Nat) (x : BarNode) (j : Nat) : (s.setBar k x).proc j = s.proc j := rfl
@[simp] theorem State.setBar_cluster (k : Nat) (x : BarNode) (j : Nat) : (s.setBar k x).cluster j = s.cluster j := rfl
@[simp] theorem State.setBar_node (k : Nat) (x : BarNode) (j : Nat) : (s.setBar k x).node j = s.node j := rfl
@[simp] theorem State.setBar_spring (k : Nat) (x : BarNode) (j : Nat) : (s.setBar k x).spring j = s.spring j := rfl
@[simp] theorem State.setBar_sluice (k : Nat) (x : BarNode) (j : Nat) : (s.setBar k x).sluice j = s.sluice j := rfl
@[simp] theorem State.setBar_ue (k : Nat) (x : BarNode) (j : Nat) : (s.setBar k x).ue j = s.ue j := rfl
@[simp] theorem State.setBar_stack (k : Nat) (x : BarNode) (j : Nat) : (s.setBar k x).stack j = s.stack j := rfl
@[simp] theorem State.setBar_bar_same (k : Nat) (x : BarNode) : (s.setBar k x).bar k = x := Tbl.get_put_same ..
theorem State.setBar_bar_other (k : Nat) (x : BarNode) (j : Nat) (h : j ≠ k) : (s.setBar k x).bar j = s.bar j := Tbl.get_put_other _ _ _ _ _ h
@[simp] theorem State.setBar_polder (k : Nat) (x : BarNode) (j : Nat) : (s.setBar k x).polder j = s.polder j := rfl
@[simp] theorem State.setBar_port (k : Nat) (x : BarNode) (j : Nat) : (s.setBar k x).port j = s.port j := rfl
@[simp] theorem State.setBar_bay (k : Nat) (x : BarNode) (j : Nat) : (s.setBar k x).bay j = s.bay j := rfl
@[simp] theorem State.setBar_hport (k : Nat) (x : BarNode) (j : Nat) : (s.setBar k x).hport j = s.hport j := rfl

/-! ### `setPolder` -/

@[simp] theorem State.setPolder_pending (k : Nat) (x : Polder) : (s.setPolder k x).pending = s.pending := rfl
@[simp] theorem State.setPolder_mem (k : Nat) (x : Polder) : (s.setPolder k x).mem = s.mem := rfl
@[simp] theorem State.setPolder_pondMark (k : Nat) (x : Polder) : (s.setPolder k x).pondMark = s.pondMark := rfl
@[simp] theorem State.setPolder_lakeMark (k : Nat) (x : Polder) : (s.setPolder k x).lakeMark = s.lakeMark := rfl
@[simp] theorem State.setPolder_procs (k : Nat) (x : Polder) : (s.setPolder k x).procs = s.procs := rfl
@[simp] theorem State.setPolder_seedRest (k : Nat) (x : Polder) : (s.setPolder k x).seedRest = s.seedRest := rfl
@[simp] theorem State.setPolder_clusters (k : Nat) (x : Polder) : (s.setPolder k x).clusters = s.clusters := rfl
@[simp] theorem State.setPolder_nodes (k : Nat) (x : Polder) : (s.setPolder k x).nodes = s.nodes := rfl
@[simp] theorem State.setPolder_mesh (k : Nat) (x : Polder) : (s.setPolder k x).mesh = s.mesh := rfl
@[simp] theorem State.setPolder_reqs (k : Nat) (x : Polder) : (s.setPolder k x).reqs = s.reqs := rfl
@[simp] theorem State.setPolder_xfers (k : Nat) (x : Polder) : (s.setPolder k x).xfers = s.xfers := rfl
@[simp] theorem State.setPolder_mcnodes (k : Nat) (x : Polder) : (s.setPolder k x).mcnodes = s.mcnodes := rfl
@[simp] theorem State.setPolder_mcasts (k : Nat) (x : Polder) : (s.setPolder k x).mcasts = s.mcasts := rfl
@[simp] theorem State.setPolder_nextId (k : Nat) (x : Polder) : (s.setPolder k x).nextId = s.nextId := rfl
@[simp] theorem State.setPolder_springs (k : Nat) (x : Polder) : (s.setPolder k x).springs = s.springs := rfl
@[simp] theorem State.setPolder_sluices (k : Nat) (x : Polder) : (s.setPolder k x).sluices = s.sluices := rfl
@[simp] theorem State.setPolder_ues (k : Nat) (x : Polder) : (s.setPolder k x).ues = s.ues := rfl
@[simp] theorem State.setPolder_stackCtl (k : Nat) (x : Polder) : (s.setPolder k x).stackCtl = s.stackCtl := rfl
@[simp] theorem State.setPolder_bars (k : Nat) (x : Polder) : (s.setPolder k x).bars = s.bars := rfl
@[simp] theorem State.setPolder_barOver (k : Nat) (x : Polder) : (s.setPolder k x).barOver = s.barOver := rfl
@[simp] theorem State.setPolder_bid0Step (k : Nat) (x : Polder) : (s.setPolder k x).bid0Step = s.bid0Step := rfl
@[simp] theorem State.setPolder_flash (k : Nat) (x : Polder) : (s.setPolder k x).flash = s.flash := rfl
@[simp] theorem State.setPolder_polders (k : Nat) (x : Polder) : (s.setPolder k x).polders = Tbl.put s.polders k x := rfl
@[simp] theorem State.setPolder_sites (k : Nat) (x : Polder) : (s.setPolder k x).sites = s.sites := rfl
@[simp] theorem State.setPolder_resv (k : Nat) (x : Polder) : (s.setPolder k x).resv = s.resv := rfl
@[simp] theorem State.setPolder_tileOut (k : Nat) (x : Polder) : (s.setPolder k x).tileOut = s.tileOut := rfl
@[simp] theorem State.setPolder_stackSvc (k : Nat) (x : Polder) : (s.setPolder k x).stackSvc = s.stackSvc := rfl
@[simp] theorem State.setPolder_stackRes (k : Nat) (x : Polder) : (s.setPolder k x).stackRes = s.stackRes := rfl
@[simp] theorem State.setPolder_slots (k : Nat) (x : Polder) : (s.setPolder k x).slots = s.slots := rfl
@[simp] theorem State.setPolder_unitOut (k : Nat) (x : Polder) : (s.setPolder k x).unitOut = s.unitOut := rfl
@[simp] theorem State.setPolder_arrMap (k : Nat) (x : Polder) : (s.setPolder k x).arrMap = s.arrMap := rfl
@[simp] theorem State.setPolder_rowFails (k : Nat) (x : Polder) : (s.setPolder k x).rowFails = s.rowFails := rfl
@[simp] theorem State.setPolder_suspects (k : Nat) (x : Polder) : (s.setPolder k x).suspects = s.suspects := rfl
@[simp] theorem State.setPolder_lkSelf (k : Nat) (x : Polder) : (s.setPolder k x).lkSelf = s.lkSelf := rfl
@[simp] theorem State.setPolder_lkSuspect (k : Nat) (x : Polder) : (s.setPolder k x).lkSuspect = s.lkSuspect := rfl
@[simp] theorem State.setPolder_lkPatrols (k : Nat) (x : Polder) : (s.setPolder k x).lkPatrols = s.lkPatrols := rfl
@[simp] theorem State.setPolder_lkCorr (k : Nat) (x : Polder) : (s.setPolder k x).lkCorr = s.lkCorr := rfl
@[simp] theorem State.setPolder_lkUnc (k : Nat) (x : Polder) : (s.setPolder k x).lkUnc = s.lkUnc := rfl
@[simp] theorem State.setPolder_lkLast (k : Nat) (x : Polder) : (s.setPolder k x).lkLast = s.lkLast := rfl
@[simp] theorem State.setPolder_ports (k : Nat) (x : Polder) : (s.setPolder k x).ports = s.ports := rfl
@[simp] theorem State.setPolder_bays (k : Nat) (x : Polder) : (s.setPolder k x).bays = s.bays := rfl
@[simp] theorem State.setPolder_pmap (k : Nat) (x : Polder) : (s.setPolder k x).pmap = s.pmap := rfl
@[simp] theorem State.setPolder_group (k : Nat) (x : Polder) : (s.setPolder k x).group = s.group := rfl
@[simp] theorem State.setPolder_safety (k : Nat) (x : Polder) : (s.setPolder k x).safety = s.safety := rfl
@[simp] theorem State.setPolder_power (k : Nat) (x : Polder) : (s.setPolder k x).power = s.power := rfl
@[simp] theorem State.setPolder_surr (k : Nat) (x : Polder) : (s.setPolder k x).surr = s.surr := rfl
@[simp] theorem State.setPolder_hports (k : Nat) (x : Polder) : (s.setPolder k x).hports = s.hports := rfl
@[simp] theorem State.setPolder_hostTx (k : Nat) (x : Polder) : (s.setPolder k x).hostTx = s.hostTx := rfl
@[simp] theorem State.setPolder_job (k : Nat) (x : Polder) : (s.setPolder k x).job = s.job := rfl
@[simp] theorem State.setPolder_held (k : Nat) (x : Polder) : (s.setPolder k x).held = s.held := rfl
@[simp] theorem State.setPolder_quiet (k : Nat) (x : Polder) : (s.setPolder k x).quiet = s.quiet := rfl
@[simp] theorem State.setPolder_layerSum (k : Nat) (x : Polder) : (s.setPolder k x).layerSum = s.layerSum := rfl
@[simp] theorem State.setPolder_evrec (k : Nat) (x : Polder) : (s.setPolder k x).evrec = s.evrec := rfl
@[simp] theorem State.setPolder_trace (k : Nat) (x : Polder) : (s.setPolder k x).trace = s.trace := rfl
@[simp] theorem State.setPolder_ecnt (k : Nat) (x : Polder) : (s.setPolder k x).ecnt = s.ecnt := rfl
@[simp] theorem State.setPolder_freeze (k : Nat) (x : Polder) : (s.setPolder k x).freeze = s.freeze := rfl
@[simp] theorem State.setPolder_fuse (k : Nat) (x : Polder) : (s.setPolder k x).fuse = s.fuse := rfl
@[simp] theorem State.setPolder_sec (k : Nat) (x : Polder) : (s.setPolder k x).sec = s.sec := rfl
@[simp] theorem State.setPolder_idgen (k : Nat) (x : Polder) : (s.setPolder k x).idgen = s.idgen := rfl
@[simp] theorem State.setPolder_orderly (k : Nat) (x : Polder) : (s.setPolder k x).orderly = s.orderly := rfl
@[simp] theorem State.setPolder_ref (k : Nat) (x : Polder) : (s.setPolder k x).ref = s.ref := rfl
@[simp] theorem State.setPolder_powered (k : Nat) (x : Polder) : (s.setPolder k x).powered = s.powered := rfl
@[simp] theorem State.setPolder_proc (k : Nat) (x : Polder) (j : Nat) : (s.setPolder k x).proc j = s.proc j := rfl
@[simp] theorem State.setPolder_cluster (k : Nat) (x : Polder) (j : Nat) : (s.setPolder k x).cluster j = s.cluster j := rfl
@[simp] theorem State.setPolder_node (k : Nat) (x : Polder) (j : Nat) : (s.setPolder k x).node j = s.node j := rfl
@[simp] theorem State.setPolder_spring (k : Nat) (x : Polder) (j : Nat) : (s.setPolder k x).spring j = s.spring j := rfl
@[simp] theorem State.setPolder_sluice (k : Nat) (x : Polder) (j : Nat) : (s.setPolder k x).sluice j = s.sluice j := rfl
@[simp] theorem State.setPolder_ue (k : Nat) (x : Polder) (j : Nat) : (s.setPolder k x).ue j = s.ue j := rfl
@[simp] theorem State.setPolder_stack (k : Nat) (x : Polder) (j : Nat) : (s.setPolder k x).stack j = s.stack j := rfl
@[simp] theorem State.setPolder_bar (k : Nat) (x : Polder) (j : Nat) : (s.setPolder k x).bar j = s.bar j := rfl
@[simp] theorem State.setPolder_polder_same (k : Nat) (x : Polder) : (s.setPolder k x).polder k = x := Tbl.get_put_same ..
theorem State.setPolder_polder_other (k : Nat) (x : Polder) (j : Nat) (h : j ≠ k) : (s.setPolder k x).polder j = s.polder j := Tbl.get_put_other _ _ _ _ _ h
@[simp] theorem State.setPolder_port (k : Nat) (x : Polder) (j : Nat) : (s.setPolder k x).port j = s.port j := rfl
@[simp] theorem State.setPolder_bay (k : Nat) (x : Polder) (j : Nat) : (s.setPolder k x).bay j = s.bay j := rfl
@[simp] theorem State.setPolder_hport (k : Nat) (x : Polder) (j : Nat) : (s.setPolder k x).hport j = s.hport j := rfl

/-! ### `setPort` -/

@[simp] theorem State.setPort_pending (k : Nat) (x : LPort) : (s.setPort k x).pending = s.pending := rfl
@[simp] theorem State.setPort_mem (k : Nat) (x : LPort) : (s.setPort k x).mem = s.mem := rfl
@[simp] theorem State.setPort_pondMark (k : Nat) (x : LPort) : (s.setPort k x).pondMark = s.pondMark := rfl
@[simp] theorem State.setPort_lakeMark (k : Nat) (x : LPort) : (s.setPort k x).lakeMark = s.lakeMark := rfl
@[simp] theorem State.setPort_procs (k : Nat) (x : LPort) : (s.setPort k x).procs = s.procs := rfl
@[simp] theorem State.setPort_seedRest (k : Nat) (x : LPort) : (s.setPort k x).seedRest = s.seedRest := rfl
@[simp] theorem State.setPort_clusters (k : Nat) (x : LPort) : (s.setPort k x).clusters = s.clusters := rfl
@[simp] theorem State.setPort_nodes (k : Nat) (x : LPort) : (s.setPort k x).nodes = s.nodes := rfl
@[simp] theorem State.setPort_mesh (k : Nat) (x : LPort) : (s.setPort k x).mesh = s.mesh := rfl
@[simp] theorem State.setPort_reqs (k : Nat) (x : LPort) : (s.setPort k x).reqs = s.reqs := rfl
@[simp] theorem State.setPort_xfers (k : Nat) (x : LPort) : (s.setPort k x).xfers = s.xfers := rfl
@[simp] theorem State.setPort_mcnodes (k : Nat) (x : LPort) : (s.setPort k x).mcnodes = s.mcnodes := rfl
@[simp] theorem State.setPort_mcasts (k : Nat) (x : LPort) : (s.setPort k x).mcasts = s.mcasts := rfl
@[simp] theorem State.setPort_nextId (k : Nat) (x : LPort) : (s.setPort k x).nextId = s.nextId := rfl
@[simp] theorem State.setPort_springs (k : Nat) (x : LPort) : (s.setPort k x).springs = s.springs := rfl
@[simp] theorem State.setPort_sluices (k : Nat) (x : LPort) : (s.setPort k x).sluices = s.sluices := rfl
@[simp] theorem State.setPort_ues (k : Nat) (x : LPort) : (s.setPort k x).ues = s.ues := rfl
@[simp] theorem State.setPort_stackCtl (k : Nat) (x : LPort) : (s.setPort k x).stackCtl = s.stackCtl := rfl
@[simp] theorem State.setPort_bars (k : Nat) (x : LPort) : (s.setPort k x).bars = s.bars := rfl
@[simp] theorem State.setPort_barOver (k : Nat) (x : LPort) : (s.setPort k x).barOver = s.barOver := rfl
@[simp] theorem State.setPort_bid0Step (k : Nat) (x : LPort) : (s.setPort k x).bid0Step = s.bid0Step := rfl
@[simp] theorem State.setPort_flash (k : Nat) (x : LPort) : (s.setPort k x).flash = s.flash := rfl
@[simp] theorem State.setPort_polders (k : Nat) (x : LPort) : (s.setPort k x).polders = s.polders := rfl
@[simp] theorem State.setPort_sites (k : Nat) (x : LPort) : (s.setPort k x).sites = s.sites := rfl
@[simp] theorem State.setPort_resv (k : Nat) (x : LPort) : (s.setPort k x).resv = s.resv := rfl
@[simp] theorem State.setPort_tileOut (k : Nat) (x : LPort) : (s.setPort k x).tileOut = s.tileOut := rfl
@[simp] theorem State.setPort_stackSvc (k : Nat) (x : LPort) : (s.setPort k x).stackSvc = s.stackSvc := rfl
@[simp] theorem State.setPort_stackRes (k : Nat) (x : LPort) : (s.setPort k x).stackRes = s.stackRes := rfl
@[simp] theorem State.setPort_slots (k : Nat) (x : LPort) : (s.setPort k x).slots = s.slots := rfl
@[simp] theorem State.setPort_unitOut (k : Nat) (x : LPort) : (s.setPort k x).unitOut = s.unitOut := rfl
@[simp] theorem State.setPort_arrMap (k : Nat) (x : LPort) : (s.setPort k x).arrMap = s.arrMap := rfl
@[simp] theorem State.setPort_rowFails (k : Nat) (x : LPort) : (s.setPort k x).rowFails = s.rowFails := rfl
@[simp] theorem State.setPort_suspects (k : Nat) (x : LPort) : (s.setPort k x).suspects = s.suspects := rfl
@[simp] theorem State.setPort_lkSelf (k : Nat) (x : LPort) : (s.setPort k x).lkSelf = s.lkSelf := rfl
@[simp] theorem State.setPort_lkSuspect (k : Nat) (x : LPort) : (s.setPort k x).lkSuspect = s.lkSuspect := rfl
@[simp] theorem State.setPort_lkPatrols (k : Nat) (x : LPort) : (s.setPort k x).lkPatrols = s.lkPatrols := rfl
@[simp] theorem State.setPort_lkCorr (k : Nat) (x : LPort) : (s.setPort k x).lkCorr = s.lkCorr := rfl
@[simp] theorem State.setPort_lkUnc (k : Nat) (x : LPort) : (s.setPort k x).lkUnc = s.lkUnc := rfl
@[simp] theorem State.setPort_lkLast (k : Nat) (x : LPort) : (s.setPort k x).lkLast = s.lkLast := rfl
@[simp] theorem State.setPort_ports (k : Nat) (x : LPort) : (s.setPort k x).ports = Tbl.put s.ports k x := rfl
@[simp] theorem State.setPort_bays (k : Nat) (x : LPort) : (s.setPort k x).bays = s.bays := rfl
@[simp] theorem State.setPort_pmap (k : Nat) (x : LPort) : (s.setPort k x).pmap = s.pmap := rfl
@[simp] theorem State.setPort_group (k : Nat) (x : LPort) : (s.setPort k x).group = s.group := rfl
@[simp] theorem State.setPort_safety (k : Nat) (x : LPort) : (s.setPort k x).safety = s.safety := rfl
@[simp] theorem State.setPort_power (k : Nat) (x : LPort) : (s.setPort k x).power = s.power := rfl
@[simp] theorem State.setPort_surr (k : Nat) (x : LPort) : (s.setPort k x).surr = s.surr := rfl
@[simp] theorem State.setPort_hports (k : Nat) (x : LPort) : (s.setPort k x).hports = s.hports := rfl
@[simp] theorem State.setPort_hostTx (k : Nat) (x : LPort) : (s.setPort k x).hostTx = s.hostTx := rfl
@[simp] theorem State.setPort_job (k : Nat) (x : LPort) : (s.setPort k x).job = s.job := rfl
@[simp] theorem State.setPort_held (k : Nat) (x : LPort) : (s.setPort k x).held = s.held := rfl
@[simp] theorem State.setPort_quiet (k : Nat) (x : LPort) : (s.setPort k x).quiet = s.quiet := rfl
@[simp] theorem State.setPort_layerSum (k : Nat) (x : LPort) : (s.setPort k x).layerSum = s.layerSum := rfl
@[simp] theorem State.setPort_evrec (k : Nat) (x : LPort) : (s.setPort k x).evrec = s.evrec := rfl
@[simp] theorem State.setPort_trace (k : Nat) (x : LPort) : (s.setPort k x).trace = s.trace := rfl
@[simp] theorem State.setPort_ecnt (k : Nat) (x : LPort) : (s.setPort k x).ecnt = s.ecnt := rfl
@[simp] theorem State.setPort_freeze (k : Nat) (x : LPort) : (s.setPort k x).freeze = s.freeze := rfl
@[simp] theorem State.setPort_fuse (k : Nat) (x : LPort) : (s.setPort k x).fuse = s.fuse := rfl
@[simp] theorem State.setPort_sec (k : Nat) (x : LPort) : (s.setPort k x).sec = s.sec := rfl
@[simp] theorem State.setPort_idgen (k : Nat) (x : LPort) : (s.setPort k x).idgen = s.idgen := rfl
@[simp] theorem State.setPort_orderly (k : Nat) (x : LPort) : (s.setPort k x).orderly = s.orderly := rfl
@[simp] theorem State.setPort_ref (k : Nat) (x : LPort) : (s.setPort k x).ref = s.ref := rfl
@[simp] theorem State.setPort_powered (k : Nat) (x : LPort) : (s.setPort k x).powered = s.powered := rfl
@[simp] theorem State.setPort_proc (k : Nat) (x : LPort) (j : Nat) : (s.setPort k x).proc j = s.proc j := rfl
@[simp] theorem State.setPort_cluster (k : Nat) (x : LPort) (j : Nat) : (s.setPort k x).cluster j = s.cluster j := rfl
@[simp] theorem State.setPort_node (k : Nat) (x : LPort) (j : Nat) : (s.setPort k x).node j = s.node j := rfl
@[simp] theorem State.setPort_spring (k : Nat) (x : LPort) (j : Nat) : (s.setPort k x).spring j = s.spring j := rfl
@[simp] theorem State.setPort_sluice (k : Nat) (x : LPort) (j : Nat) : (s.setPort k x).sluice j = s.sluice j := rfl
@[simp] theorem State.setPort_ue (k : Nat) (x : LPort) (j : Nat) : (s.setPort k x).ue j = s.ue j := rfl
@[simp] theorem State.setPort_stack (k : Nat) (x : LPort) (j : Nat) : (s.setPort k x).stack j = s.stack j := rfl
@[simp] theorem State.setPort_bar (k : Nat) (x : LPort) (j : Nat) : (s.setPort k x).bar j = s.bar j := rfl
@[simp] theorem State.setPort_polder (k : Nat) (x : LPort) (j : Nat) : (s.setPort k x).polder j = s.polder j := rfl
@[simp] theorem State.setPort_port_same (k : Nat) (x : LPort) : (s.setPort k x).port k = x := Tbl.get_put_same ..
theorem State.setPort_port_other (k : Nat) (x : LPort) (j : Nat) (h : j ≠ k) : (s.setPort k x).port j = s.port j := Tbl.get_put_other _ _ _ _ _ h
@[simp] theorem State.setPort_bay (k : Nat) (x : LPort) (j : Nat) : (s.setPort k x).bay j = s.bay j := rfl
@[simp] theorem State.setPort_hport (k : Nat) (x : LPort) (j : Nat) : (s.setPort k x).hport j = s.hport j := rfl

/-! ### `setBay` -/

@[simp] theorem State.setBay_pending (k : Nat) (x : Bay) : (s.setBay k x).pending = s.pending := rfl
@[simp] theorem State.setBay_mem (k : Nat) (x : Bay) : (s.setBay k x).mem = s.mem := rfl
@[simp] theorem State.setBay_pondMark (k : Nat) (x : Bay) : (s.setBay k x).pondMark = s.pondMark := rfl
@[simp] theorem State.setBay_lakeMark (k : Nat) (x : Bay) : (s.setBay k x).lakeMark = s.lakeMark := rfl
@[simp] theorem State.setBay_procs (k : Nat) (x : Bay) : (s.setBay k x).procs = s.procs := rfl
@[simp] theorem State.setBay_seedRest (k : Nat) (x : Bay) : (s.setBay k x).seedRest = s.seedRest := rfl
@[simp] theorem State.setBay_clusters (k : Nat) (x : Bay) : (s.setBay k x).clusters = s.clusters := rfl
@[simp] theorem State.setBay_nodes (k : Nat) (x : Bay) : (s.setBay k x).nodes = s.nodes := rfl
@[simp] theorem State.setBay_mesh (k : Nat) (x : Bay) : (s.setBay k x).mesh = s.mesh := rfl
@[simp] theorem State.setBay_reqs (k : Nat) (x : Bay) : (s.setBay k x).reqs = s.reqs := rfl
@[simp] theorem State.setBay_xfers (k : Nat) (x : Bay) : (s.setBay k x).xfers = s.xfers := rfl
@[simp] theorem State.setBay_mcnodes (k : Nat) (x : Bay) : (s.setBay k x).mcnodes = s.mcnodes := rfl
@[simp] theorem State.setBay_mcasts (k : Nat) (x : Bay) : (s.setBay k x).mcasts = s.mcasts := rfl
@[simp] theorem State.setBay_nextId (k : Nat) (x : Bay) : (s.setBay k x).nextId = s.nextId := rfl
@[simp] theorem State.setBay_springs (k : Nat) (x : Bay) : (s.setBay k x).springs = s.springs := rfl
@[simp] theorem State.setBay_sluices (k : Nat) (x : Bay) : (s.setBay k x).sluices = s.sluices := rfl
@[simp] theorem State.setBay_ues (k : Nat) (x : Bay) : (s.setBay k x).ues = s.ues := rfl
@[simp] theorem State.setBay_stackCtl (k : Nat) (x : Bay) : (s.setBay k x).stackCtl = s.stackCtl := rfl
@[simp] theorem State.setBay_bars (k : Nat) (x : Bay) : (s.setBay k x).bars = s.bars := rfl
@[simp] theorem State.setBay_barOver (k : Nat) (x : Bay) : (s.setBay k x).barOver = s.barOver := rfl
@[simp] theorem State.setBay_bid0Step (k : Nat) (x : Bay) : (s.setBay k x).bid0Step = s.bid0Step := rfl
@[simp] theorem State.setBay_flash (k : Nat) (x : Bay) : (s.setBay k x).flash = s.flash := rfl
@[simp] theorem State.setBay_polders (k : Nat) (x : Bay) : (s.setBay k x).polders = s.polders := rfl
@[simp] theorem State.setBay_sites (k : Nat) (x : Bay) : (s.setBay k x).sites = s.sites := rfl
@[simp] theorem State.setBay_resv (k : Nat) (x : Bay) : (s.setBay k x).resv = s.resv := rfl
@[simp] theorem State.setBay_tileOut (k : Nat) (x : Bay) : (s.setBay k x).tileOut = s.tileOut := rfl
@[simp] theorem State.setBay_stackSvc (k : Nat) (x : Bay) : (s.setBay k x).stackSvc = s.stackSvc := rfl
@[simp] theorem State.setBay_stackRes (k : Nat) (x : Bay) : (s.setBay k x).stackRes = s.stackRes := rfl
@[simp] theorem State.setBay_slots (k : Nat) (x : Bay) : (s.setBay k x).slots = s.slots := rfl
@[simp] theorem State.setBay_unitOut (k : Nat) (x : Bay) : (s.setBay k x).unitOut = s.unitOut := rfl
@[simp] theorem State.setBay_arrMap (k : Nat) (x : Bay) : (s.setBay k x).arrMap = s.arrMap := rfl
@[simp] theorem State.setBay_rowFails (k : Nat) (x : Bay) : (s.setBay k x).rowFails = s.rowFails := rfl
@[simp] theorem State.setBay_suspects (k : Nat) (x : Bay) : (s.setBay k x).suspects = s.suspects := rfl
@[simp] theorem State.setBay_lkSelf (k : Nat) (x : Bay) : (s.setBay k x).lkSelf = s.lkSelf := rfl
@[simp] theorem State.setBay_lkSuspect (k : Nat) (x : Bay) : (s.setBay k x).lkSuspect = s.lkSuspect := rfl
@[simp] theorem State.setBay_lkPatrols (k : Nat) (x : Bay) : (s.setBay k x).lkPatrols = s.lkPatrols := rfl
@[simp] theorem State.setBay_lkCorr (k : Nat) (x : Bay) : (s.setBay k x).lkCorr = s.lkCorr := rfl
@[simp] theorem State.setBay_lkUnc (k : Nat) (x : Bay) : (s.setBay k x).lkUnc = s.lkUnc := rfl
@[simp] theorem State.setBay_lkLast (k : Nat) (x : Bay) : (s.setBay k x).lkLast = s.lkLast := rfl
@[simp] theorem State.setBay_ports (k : Nat) (x : Bay) : (s.setBay k x).ports = s.ports := rfl
@[simp] theorem State.setBay_bays (k : Nat) (x : Bay) : (s.setBay k x).bays = Tbl.put s.bays k x := rfl
@[simp] theorem State.setBay_pmap (k : Nat) (x : Bay) : (s.setBay k x).pmap = s.pmap := rfl
@[simp] theorem State.setBay_group (k : Nat) (x : Bay) : (s.setBay k x).group = s.group := rfl
@[simp] theorem State.setBay_safety (k : Nat) (x : Bay) : (s.setBay k x).safety = s.safety := rfl
@[simp] theorem State.setBay_power (k : Nat) (x : Bay) : (s.setBay k x).power = s.power := rfl
@[simp] theorem State.setBay_surr (k : Nat) (x : Bay) : (s.setBay k x).surr = s.surr := rfl
@[simp] theorem State.setBay_hports (k : Nat) (x : Bay) : (s.setBay k x).hports = s.hports := rfl
@[simp] theorem State.setBay_hostTx (k : Nat) (x : Bay) : (s.setBay k x).hostTx = s.hostTx := rfl
@[simp] theorem State.setBay_job (k : Nat) (x : Bay) : (s.setBay k x).job = s.job := rfl
@[simp] theorem State.setBay_held (k : Nat) (x : Bay) : (s.setBay k x).held = s.held := rfl
@[simp] theorem State.setBay_quiet (k : Nat) (x : Bay) : (s.setBay k x).quiet = s.quiet := rfl
@[simp] theorem State.setBay_layerSum (k : Nat) (x : Bay) : (s.setBay k x).layerSum = s.layerSum := rfl
@[simp] theorem State.setBay_evrec (k : Nat) (x : Bay) : (s.setBay k x).evrec = s.evrec := rfl
@[simp] theorem State.setBay_trace (k : Nat) (x : Bay) : (s.setBay k x).trace = s.trace := rfl
@[simp] theorem State.setBay_ecnt (k : Nat) (x : Bay) : (s.setBay k x).ecnt = s.ecnt := rfl
@[simp] theorem State.setBay_freeze (k : Nat) (x : Bay) : (s.setBay k x).freeze = s.freeze := rfl
@[simp] theorem State.setBay_fuse (k : Nat) (x : Bay) : (s.setBay k x).fuse = s.fuse := rfl
@[simp] theorem State.setBay_sec (k : Nat) (x : Bay) : (s.setBay k x).sec = s.sec := rfl
@[simp] theorem State.setBay_idgen (k : Nat) (x : Bay) : (s.setBay k x).idgen = s.idgen := rfl
@[simp] theorem State.setBay_orderly (k : Nat) (x : Bay) : (s.setBay k x).orderly = s.orderly := rfl
@[simp] theorem State.setBay_ref (k : Nat) (x : Bay) : (s.setBay k x).ref = s.ref := rfl
@[simp] theorem State.setBay_powered (k : Nat) (x : Bay) : (s.setBay k x).powered = s.powered := rfl
@[simp] theorem State.setBay_proc (k : Nat) (x : Bay) (j : Nat) : (s.setBay k x).proc j = s.proc j := rfl
@[simp] theorem State.setBay_cluster (k : Nat) (x : Bay) (j : Nat) : (s.setBay k x).cluster j = s.cluster j := rfl
@[simp] theorem State.setBay_node (k : Nat) (x : Bay) (j : Nat) : (s.setBay k x).node j = s.node j := rfl
@[simp] theorem State.setBay_spring (k : Nat) (x : Bay) (j : Nat) : (s.setBay k x).spring j = s.spring j := rfl
@[simp] theorem State.setBay_sluice (k : Nat) (x : Bay) (j : Nat) : (s.setBay k x).sluice j = s.sluice j := rfl
@[simp] theorem State.setBay_ue (k : Nat) (x : Bay) (j : Nat) : (s.setBay k x).ue j = s.ue j := rfl
@[simp] theorem State.setBay_stack (k : Nat) (x : Bay) (j : Nat) : (s.setBay k x).stack j = s.stack j := rfl
@[simp] theorem State.setBay_bar (k : Nat) (x : Bay) (j : Nat) : (s.setBay k x).bar j = s.bar j := rfl
@[simp] theorem State.setBay_polder (k : Nat) (x : Bay) (j : Nat) : (s.setBay k x).polder j = s.polder j := rfl
@[simp] theorem State.setBay_port (k : Nat) (x : Bay) (j : Nat) : (s.setBay k x).port j = s.port j := rfl
@[simp] theorem State.setBay_bay_same (k : Nat) (x : Bay) : (s.setBay k x).bay k = x := Tbl.get_put_same ..
theorem State.setBay_bay_other (k : Nat) (x : Bay) (j : Nat) (h : j ≠ k) : (s.setBay k x).bay j = s.bay j := Tbl.get_put_other _ _ _ _ _ h
@[simp] theorem State.setBay_hport (k : Nat) (x : Bay) (j : Nat) : (s.setBay k x).hport j = s.hport j := rfl

/-! ### `setHport` -/

@[simp] theorem State.setHport_pending (k : Nat) (x : HPort) : (s.setHport k x).pending = s.pending := rfl
@[simp] theorem State.setHport_mem (k : Nat) (x : HPort) : (s.setHport k x).mem = s.mem := rfl
@[simp] theorem State.setHport_pondMark (k : Nat) (x : HPort) : (s.setHport k x).pondMark = s.pondMark := rfl
@[simp] theorem State.setHport_lakeMark (k : Nat) (x : HPort) : (s.setHport k x).lakeMark = s.lakeMark := rfl
@[simp] theorem State.setHport_procs (k : Nat) (x : HPort) : (s.setHport k x).procs = s.procs := rfl
@[simp] theorem State.setHport_seedRest (k : Nat) (x : HPort) : (s.setHport k x).seedRest = s.seedRest := rfl
@[simp] theorem State.setHport_clusters (k : Nat) (x : HPort) : (s.setHport k x).clusters = s.clusters := rfl
@[simp] theorem State.setHport_nodes (k : Nat) (x : HPort) : (s.setHport k x).nodes = s.nodes := rfl
@[simp] theorem State.setHport_mesh (k : Nat) (x : HPort) : (s.setHport k x).mesh = s.mesh := rfl
@[simp] theorem State.setHport_reqs (k : Nat) (x : HPort) : (s.setHport k x).reqs = s.reqs := rfl
@[simp] theorem State.setHport_xfers (k : Nat) (x : HPort) : (s.setHport k x).xfers = s.xfers := rfl
@[simp] theorem State.setHport_mcnodes (k : Nat) (x : HPort) : (s.setHport k x).mcnodes = s.mcnodes := rfl
@[simp] theorem State.setHport_mcasts (k : Nat) (x : HPort) : (s.setHport k x).mcasts = s.mcasts := rfl
@[simp] theorem State.setHport_nextId (k : Nat) (x : HPort) : (s.setHport k x).nextId = s.nextId := rfl
@[simp] theorem State.setHport_springs (k : Nat) (x : HPort) : (s.setHport k x).springs = s.springs := rfl
@[simp] theorem State.setHport_sluices (k : Nat) (x : HPort) : (s.setHport k x).sluices = s.sluices := rfl
@[simp] theorem State.setHport_ues (k : Nat) (x : HPort) : (s.setHport k x).ues = s.ues := rfl
@[simp] theorem State.setHport_stackCtl (k : Nat) (x : HPort) : (s.setHport k x).stackCtl = s.stackCtl := rfl
@[simp] theorem State.setHport_bars (k : Nat) (x : HPort) : (s.setHport k x).bars = s.bars := rfl
@[simp] theorem State.setHport_barOver (k : Nat) (x : HPort) : (s.setHport k x).barOver = s.barOver := rfl
@[simp] theorem State.setHport_bid0Step (k : Nat) (x : HPort) : (s.setHport k x).bid0Step = s.bid0Step := rfl
@[simp] theorem State.setHport_flash (k : Nat) (x : HPort) : (s.setHport k x).flash = s.flash := rfl
@[simp] theorem State.setHport_polders (k : Nat) (x : HPort) : (s.setHport k x).polders = s.polders := rfl
@[simp] theorem State.setHport_sites (k : Nat) (x : HPort) : (s.setHport k x).sites = s.sites := rfl
@[simp] theorem State.setHport_resv (k : Nat) (x : HPort) : (s.setHport k x).resv = s.resv := rfl
@[simp] theorem State.setHport_tileOut (k : Nat) (x : HPort) : (s.setHport k x).tileOut = s.tileOut := rfl
@[simp] theorem State.setHport_stackSvc (k : Nat) (x : HPort) : (s.setHport k x).stackSvc = s.stackSvc := rfl
@[simp] theorem State.setHport_stackRes (k : Nat) (x : HPort) : (s.setHport k x).stackRes = s.stackRes := rfl
@[simp] theorem State.setHport_slots (k : Nat) (x : HPort) : (s.setHport k x).slots = s.slots := rfl
@[simp] theorem State.setHport_unitOut (k : Nat) (x : HPort) : (s.setHport k x).unitOut = s.unitOut := rfl
@[simp] theorem State.setHport_arrMap (k : Nat) (x : HPort) : (s.setHport k x).arrMap = s.arrMap := rfl
@[simp] theorem State.setHport_rowFails (k : Nat) (x : HPort) : (s.setHport k x).rowFails = s.rowFails := rfl
@[simp] theorem State.setHport_suspects (k : Nat) (x : HPort) : (s.setHport k x).suspects = s.suspects := rfl
@[simp] theorem State.setHport_lkSelf (k : Nat) (x : HPort) : (s.setHport k x).lkSelf = s.lkSelf := rfl
@[simp] theorem State.setHport_lkSuspect (k : Nat) (x : HPort) : (s.setHport k x).lkSuspect = s.lkSuspect := rfl
@[simp] theorem State.setHport_lkPatrols (k : Nat) (x : HPort) : (s.setHport k x).lkPatrols = s.lkPatrols := rfl
@[simp] theorem State.setHport_lkCorr (k : Nat) (x : HPort) : (s.setHport k x).lkCorr = s.lkCorr := rfl
@[simp] theorem State.setHport_lkUnc (k : Nat) (x : HPort) : (s.setHport k x).lkUnc = s.lkUnc := rfl
@[simp] theorem State.setHport_lkLast (k : Nat) (x : HPort) : (s.setHport k x).lkLast = s.lkLast := rfl
@[simp] theorem State.setHport_ports (k : Nat) (x : HPort) : (s.setHport k x).ports = s.ports := rfl
@[simp] theorem State.setHport_bays (k : Nat) (x : HPort) : (s.setHport k x).bays = s.bays := rfl
@[simp] theorem State.setHport_pmap (k : Nat) (x : HPort) : (s.setHport k x).pmap = s.pmap := rfl
@[simp] theorem State.setHport_group (k : Nat) (x : HPort) : (s.setHport k x).group = s.group := rfl
@[simp] theorem State.setHport_safety (k : Nat) (x : HPort) : (s.setHport k x).safety = s.safety := rfl
@[simp] theorem State.setHport_power (k : Nat) (x : HPort) : (s.setHport k x).power = s.power := rfl
@[simp] theorem State.setHport_surr (k : Nat) (x : HPort) : (s.setHport k x).surr = s.surr := rfl
@[simp] theorem State.setHport_hports (k : Nat) (x : HPort) : (s.setHport k x).hports = Tbl.put s.hports k x := rfl
@[simp] theorem State.setHport_hostTx (k : Nat) (x : HPort) : (s.setHport k x).hostTx = s.hostTx := rfl
@[simp] theorem State.setHport_job (k : Nat) (x : HPort) : (s.setHport k x).job = s.job := rfl
@[simp] theorem State.setHport_held (k : Nat) (x : HPort) : (s.setHport k x).held = s.held := rfl
@[simp] theorem State.setHport_quiet (k : Nat) (x : HPort) : (s.setHport k x).quiet = s.quiet := rfl
@[simp] theorem State.setHport_layerSum (k : Nat) (x : HPort) : (s.setHport k x).layerSum = s.layerSum := rfl
@[simp] theorem State.setHport_evrec (k : Nat) (x : HPort) : (s.setHport k x).evrec = s.evrec := rfl
@[simp] theorem State.setHport_trace (k : Nat) (x : HPort) : (s.setHport k x).trace = s.trace := rfl
@[simp] theorem State.setHport_ecnt (k : Nat) (x : HPort) : (s.setHport k x).ecnt = s.ecnt := rfl
@[simp] theorem State.setHport_freeze (k : Nat) (x : HPort) : (s.setHport k x).freeze = s.freeze := rfl
@[simp] theorem State.setHport_fuse (k : Nat) (x : HPort) : (s.setHport k x).fuse = s.fuse := rfl
@[simp] theorem State.setHport_sec (k : Nat) (x : HPort) : (s.setHport k x).sec = s.sec := rfl
@[simp] theorem State.setHport_idgen (k : Nat) (x : HPort) : (s.setHport k x).idgen = s.idgen := rfl
@[simp] theorem State.setHport_orderly (k : Nat) (x : HPort) : (s.setHport k x).orderly = s.orderly := rfl
@[simp] theorem State.setHport_ref (k : Nat) (x : HPort) : (s.setHport k x).ref = s.ref := rfl
@[simp] theorem State.setHport_powered (k : Nat) (x : HPort) : (s.setHport k x).powered = s.powered := rfl
@[simp] theorem State.setHport_proc (k : Nat) (x : HPort) (j : Nat) : (s.setHport k x).proc j = s.proc j := rfl
@[simp] theorem State.setHport_cluster (k : Nat) (x : HPort) (j : Nat) : (s.setHport k x).cluster j = s.cluster j := rfl
@[simp] theorem State.setHport_node (k : Nat) (x : HPort) (j : Nat) : (s.setHport k x).node j = s.node j := rfl
@[simp] theorem State.setHport_spring (k : Nat) (x : HPort) (j : Nat) : (s.setHport k x).spring j = s.spring j := rfl
@[simp] theorem State.setHport_sluice (k : Nat) (x : HPort) (j : Nat) : (s.setHport k x).sluice j = s.sluice j := rfl
@[simp] theorem State.setHport_ue (k : Nat) (x : HPort) (j : Nat) : (s.setHport k x).ue j = s.ue j := rfl
@[simp] theorem State.setHport_stack (k : Nat) (x : HPort) (j : Nat) : (s.setHport k x).stack j = s.stack j := rfl
@[simp] theorem State.setHport_bar (k : Nat) (x : HPort) (j : Nat) : (s.setHport k x).bar j = s.bar j := rfl
@[simp] theorem State.setHport_polder (k : Nat) (x : HPort) (j : Nat) : (s.setHport k x).polder j = s.polder j := rfl
@[simp] theorem State.setHport_port (k : Nat) (x : HPort) (j : Nat) : (s.setHport k x).port j = s.port j := rfl
@[simp] theorem State.setHport_bay (k : Nat) (x : HPort) (j : Nat) : (s.setHport k x).bay j = s.bay j := rfl
@[simp] theorem State.setHport_hport_same (k : Nat) (x : HPort) : (s.setHport k x).hport k = x := Tbl.get_put_same ..
theorem State.setHport_hport_other (k : Nat) (x : HPort) (j : Nat) (h : j ≠ k) : (s.setHport k x).hport j = s.hport j := Tbl.get_put_other _ _ _ _ _ h

/-! ### `withPending` -/

@[simp] theorem State.withPending_pending (q : List Instr) : (s.withPending q).pending = q := rfl
@[simp] theorem State.withPending_mem (q : List Instr) : (s.withPending q).mem = s.mem := rfl
@[simp] theorem State.withPending_pondMark (q : List Instr) : (s.withPending q).pondMark = s.pondMark := rfl
@[simp] theorem State.withPending_lakeMark (q : List Instr) : (s.withPending q).lakeMark = s.lakeMark := rfl
@[simp] theorem State.withPending_procs (q : List Instr) : (s.withPending q).procs = s.procs := rfl
@[simp] theorem State.withPending_seedRest (q : List Instr) : (s.withPending q).seedRest = s.seedRest := rfl
@[simp] theorem State.withPending_clusters (q : List Instr) : (s.withPending q).clusters = s.clusters := rfl
@[simp] theorem State.withPending_nodes (q : List Instr) : (s.withPending q).nodes = s.nodes := rfl
@[simp] theorem State.withPending_mesh (q : List Instr) : (s.withPending q).mesh = s.mesh := rfl
@[simp] theorem State.withPending_reqs (q : List Instr) : (s.withPending q).reqs = s.reqs := rfl
@[simp] theorem State.withPending_xfers (q : List Instr) : (s.withPending q).xfers = s.xfers := rfl
@[simp] theorem State.withPending_mcnodes (q : List Instr) : (s.withPending q).mcnodes = s.mcnodes := rfl
@[simp] theorem State.withPending_mcasts (q : List Instr) : (s.withPending q).mcasts = s.mcasts := rfl
@[simp] theorem State.withPending_nextId (q : List Instr) : (s.withPending q).nextId = s.nextId := rfl
@[simp] theorem State.withPending_springs (q : List Instr) : (s.withPending q).springs = s.springs := rfl
@[simp] theorem State.withPending_sluices (q : List Instr) : (s.withPending q).sluices = s.sluices := rfl
@[simp] theorem State.withPending_ues (q : List Instr) : (s.withPending q).ues = s.ues := rfl
@[simp] theorem State.withPending_stackCtl (q : List Instr) : (s.withPending q).stackCtl = s.stackCtl := rfl
@[simp] theorem State.withPending_bars (q : List Instr) : (s.withPending q).bars = s.bars := rfl
@[simp] theorem State.withPending_barOver (q : List Instr) : (s.withPending q).barOver = s.barOver := rfl
@[simp] theorem State.withPending_bid0Step (q : List Instr) : (s.withPending q).bid0Step = s.bid0Step := rfl
@[simp] theorem State.withPending_flash (q : List Instr) : (s.withPending q).flash = s.flash := rfl
@[simp] theorem State.withPending_polders (q : List Instr) : (s.withPending q).polders = s.polders := rfl
@[simp] theorem State.withPending_sites (q : List Instr) : (s.withPending q).sites = s.sites := rfl
@[simp] theorem State.withPending_resv (q : List Instr) : (s.withPending q).resv = s.resv := rfl
@[simp] theorem State.withPending_tileOut (q : List Instr) : (s.withPending q).tileOut = s.tileOut := rfl
@[simp] theorem State.withPending_stackSvc (q : List Instr) : (s.withPending q).stackSvc = s.stackSvc := rfl
@[simp] theorem State.withPending_stackRes (q : List Instr) : (s.withPending q).stackRes = s.stackRes := rfl
@[simp] theorem State.withPending_slots (q : List Instr) : (s.withPending q).slots = s.slots := rfl
@[simp] theorem State.withPending_unitOut (q : List Instr) : (s.withPending q).unitOut = s.unitOut := rfl
@[simp] theorem State.withPending_arrMap (q : List Instr) : (s.withPending q).arrMap = s.arrMap := rfl
@[simp] theorem State.withPending_rowFails (q : List Instr) : (s.withPending q).rowFails = s.rowFails := rfl
@[simp] theorem State.withPending_suspects (q : List Instr) : (s.withPending q).suspects = s.suspects := rfl
@[simp] theorem State.withPending_lkSelf (q : List Instr) : (s.withPending q).lkSelf = s.lkSelf := rfl
@[simp] theorem State.withPending_lkSuspect (q : List Instr) : (s.withPending q).lkSuspect = s.lkSuspect := rfl
@[simp] theorem State.withPending_lkPatrols (q : List Instr) : (s.withPending q).lkPatrols = s.lkPatrols := rfl
@[simp] theorem State.withPending_lkCorr (q : List Instr) : (s.withPending q).lkCorr = s.lkCorr := rfl
@[simp] theorem State.withPending_lkUnc (q : List Instr) : (s.withPending q).lkUnc = s.lkUnc := rfl
@[simp] theorem State.withPending_lkLast (q : List Instr) : (s.withPending q).lkLast = s.lkLast := rfl
@[simp] theorem State.withPending_ports (q : List Instr) : (s.withPending q).ports = s.ports := rfl
@[simp] theorem State.withPending_bays (q : List Instr) : (s.withPending q).bays = s.bays := rfl
@[simp] theorem State.withPending_pmap (q : List Instr) : (s.withPending q).pmap = s.pmap := rfl
@[simp] theorem State.withPending_group (q : List Instr) : (s.withPending q).group = s.group := rfl
@[simp] theorem State.withPending_safety (q : List Instr) : (s.withPending q).safety = s.safety := rfl
@[simp] theorem State.withPending_power (q : List Instr) : (s.withPending q).power = s.power := rfl
@[simp] theorem State.withPending_surr (q : List Instr) : (s.withPending q).surr = s.surr := rfl
@[simp] theorem State.withPending_hports (q : List Instr) : (s.withPending q).hports = s.hports := rfl
@[simp] theorem State.withPending_hostTx (q : List Instr) : (s.withPending q).hostTx = s.hostTx := rfl
@[simp] theorem State.withPending_job (q : List Instr) : (s.withPending q).job = s.job := rfl
@[simp] theorem State.withPending_held (q : List Instr) : (s.withPending q).held = s.held := rfl
@[simp] theorem State.withPending_quiet (q : List Instr) : (s.withPending q).quiet = s.quiet := rfl
@[simp] theorem State.withPending_layerSum (q : List Instr) : (s.withPending q).layerSum = s.layerSum := rfl
@[simp] theorem State.withPending_evrec (q : List Instr) : (s.withPending q).evrec = s.evrec := rfl
@[simp] theorem State.withPending_trace (q : List Instr) : (s.withPending q).trace = s.trace := rfl
@[simp] theorem State.withPending_ecnt (q : List Instr) : (s.withPending q).ecnt = s.ecnt := rfl
@[simp] theorem State.withPending_freeze (q : List Instr) : (s.withPending q).freeze = s.freeze := rfl
@[simp] theorem State.withPending_fuse (q : List Instr) : (s.withPending q).fuse = s.fuse := rfl
@[simp] theorem State.withPending_sec (q : List Instr) : (s.withPending q).sec = s.sec := rfl
@[simp] theorem State.withPending_idgen (q : List Instr) : (s.withPending q).idgen = s.idgen := rfl
@[simp] theorem State.withPending_orderly (q : List Instr) : (s.withPending q).orderly = s.orderly := rfl
@[simp] theorem State.withPending_ref (q : List Instr) : (s.withPending q).ref = s.ref := rfl
@[simp] theorem State.withPending_powered (q : List Instr) : (s.withPending q).powered = s.powered := rfl
@[simp] theorem State.withPending_proc (q : List Instr) (j : Nat) : (s.withPending q).proc j = s.proc j := rfl
@[simp] theorem State.withPending_cluster (q : List Instr) (j : Nat) : (s.withPending q).cluster j = s.cluster j := rfl
@[simp] theorem State.withPending_node (q : List Instr) (j : Nat) : (s.withPending q).node j = s.node j := rfl
@[simp] theorem State.withPending_spring (q : List Instr) (j : Nat) : (s.withPending q).spring j = s.spring j := rfl
@[simp] theorem State.withPending_sluice (q : List Instr) (j : Nat) : (s.withPending q).sluice j = s.sluice j := rfl
@[simp] theorem State.withPending_ue (q : List Instr) (j : Nat) : (s.withPending q).ue j = s.ue j := rfl
@[simp] theorem State.withPending_stack (q : List Instr) (j : Nat) : (s.withPending q).stack j = s.stack j := rfl
@[simp] theorem State.withPending_bar (q : List Instr) (j : Nat) : (s.withPending q).bar j = s.bar j := rfl
@[simp] theorem State.withPending_polder (q : List Instr) (j : Nat) : (s.withPending q).polder j = s.polder j := rfl
@[simp] theorem State.withPending_port (q : List Instr) (j : Nat) : (s.withPending q).port j = s.port j := rfl
@[simp] theorem State.withPending_bay (q : List Instr) (j : Nat) : (s.withPending q).bay j = s.bay j := rfl
@[simp] theorem State.withPending_hport (q : List Instr) (j : Nat) : (s.withPending q).hport j = s.hport j := rfl

/-! ### `tell` -/

@[simp] theorem State.tell_pending (x : HostTx) : (s.tell x).pending = s.pending := rfl
@[simp] theorem State.tell_mem (x : HostTx) : (s.tell x).mem = s.mem := rfl
@[simp] theorem State.tell_pondMark (x : HostTx) : (s.tell x).pondMark = s.pondMark := rfl
@[simp] theorem State.tell_lakeMark (x : HostTx) : (s.tell x).lakeMark = s.lakeMark := rfl
@[simp] theorem State.tell_procs (x : HostTx) : (s.tell x).procs = s.procs := rfl
@[simp] theorem State.tell_seedRest (x : HostTx) : (s.tell x).seedRest = s.seedRest := rfl
@[simp] theorem State.tell_clusters (x : HostTx) : (s.tell x).clusters = s.clusters := rfl
@[simp] theorem State.tell_nodes (x : HostTx) : (s.tell x).nodes = s.nodes := rfl
@[simp] theorem State.tell_mesh (x : HostTx) : (s.tell x).mesh = s.mesh := rfl
@[simp] theorem State.tell_reqs (x : HostTx) : (s.tell x).reqs = s.reqs := rfl
@[simp] theorem State.tell_xfers (x : HostTx) : (s.tell x).xfers = s.xfers := rfl
@[simp] theorem State.tell_mcnodes (x : HostTx) : (s.tell x).mcnodes = s.mcnodes := rfl
@[simp] theorem State.tell_mcasts (x : HostTx) : (s.tell x).mcasts = s.mcasts := rfl
@[simp] theorem State.tell_nextId (x : HostTx) : (s.tell x).nextId = s.nextId := rfl
@[simp] theorem State.tell_springs (x : HostTx) : (s.tell x).springs = s.springs := rfl
@[simp] theorem State.tell_sluices (x : HostTx) : (s.tell x).sluices = s.sluices := rfl
@[simp] theorem State.tell_ues (x : HostTx) : (s.tell x).ues = s.ues := rfl
@[simp] theorem State.tell_stackCtl (x : HostTx) : (s.tell x).stackCtl = s.stackCtl := rfl
@[simp] theorem State.tell_bars (x : HostTx) : (s.tell x).bars = s.bars := rfl
@[simp] theorem State.tell_barOver (x : HostTx) : (s.tell x).barOver = s.barOver := rfl
@[simp] theorem State.tell_bid0Step (x : HostTx) : (s.tell x).bid0Step = s.bid0Step := rfl
@[simp] theorem State.tell_flash (x : HostTx) : (s.tell x).flash = s.flash := rfl
@[simp] theorem State.tell_polders (x : HostTx) : (s.tell x).polders = s.polders := rfl
@[simp] theorem State.tell_sites (x : HostTx) : (s.tell x).sites = s.sites := rfl
@[simp] theorem State.tell_resv (x : HostTx) : (s.tell x).resv = s.resv := rfl
@[simp] theorem State.tell_tileOut (x : HostTx) : (s.tell x).tileOut = s.tileOut := rfl
@[simp] theorem State.tell_stackSvc (x : HostTx) : (s.tell x).stackSvc = s.stackSvc := rfl
@[simp] theorem State.tell_stackRes (x : HostTx) : (s.tell x).stackRes = s.stackRes := rfl
@[simp] theorem State.tell_slots (x : HostTx) : (s.tell x).slots = s.slots := rfl
@[simp] theorem State.tell_unitOut (x : HostTx) : (s.tell x).unitOut = s.unitOut := rfl
@[simp] theorem State.tell_arrMap (x : HostTx) : (s.tell x).arrMap = s.arrMap := rfl
@[simp] theorem State.tell_rowFails (x : HostTx) : (s.tell x).rowFails = s.rowFails := rfl
@[simp] theorem State.tell_suspects (x : HostTx) : (s.tell x).suspects = s.suspects := rfl
@[simp] theorem State.tell_lkSelf (x : HostTx) : (s.tell x).lkSelf = s.lkSelf := rfl
@[simp] theorem State.tell_lkSuspect (x : HostTx) : (s.tell x).lkSuspect = s.lkSuspect := rfl
@[simp] theorem State.tell_lkPatrols (x : HostTx) : (s.tell x).lkPatrols = s.lkPatrols := rfl
@[simp] theorem State.tell_lkCorr (x : HostTx) : (s.tell x).lkCorr = s.lkCorr := rfl
@[simp] theorem State.tell_lkUnc (x : HostTx) : (s.tell x).lkUnc = s.lkUnc := rfl
@[simp] theorem State.tell_lkLast (x : HostTx) : (s.tell x).lkLast = s.lkLast := rfl
@[simp] theorem State.tell_ports (x : HostTx) : (s.tell x).ports = s.ports := rfl
@[simp] theorem State.tell_bays (x : HostTx) : (s.tell x).bays = s.bays := rfl
@[simp] theorem State.tell_pmap (x : HostTx) : (s.tell x).pmap = s.pmap := rfl
@[simp] theorem State.tell_group (x : HostTx) : (s.tell x).group = s.group := rfl
@[simp] theorem State.tell_safety (x : HostTx) : (s.tell x).safety = s.safety := rfl
@[simp] theorem State.tell_power (x : HostTx) : (s.tell x).power = s.power := rfl
@[simp] theorem State.tell_surr (x : HostTx) : (s.tell x).surr = s.surr := rfl
@[simp] theorem State.tell_hports (x : HostTx) : (s.tell x).hports = s.hports := rfl
@[simp] theorem State.tell_hostTx (x : HostTx) : (s.tell x).hostTx = s.hostTx ++ [x] := rfl
@[simp] theorem State.tell_job (x : HostTx) : (s.tell x).job = s.job := rfl
@[simp] theorem State.tell_held (x : HostTx) : (s.tell x).held = s.held := rfl
@[simp] theorem State.tell_quiet (x : HostTx) : (s.tell x).quiet = s.quiet := rfl
@[simp] theorem State.tell_layerSum (x : HostTx) : (s.tell x).layerSum = s.layerSum := rfl
@[simp] theorem State.tell_evrec (x : HostTx) : (s.tell x).evrec = s.evrec := rfl
@[simp] theorem State.tell_trace (x : HostTx) : (s.tell x).trace = s.trace := rfl
@[simp] theorem State.tell_ecnt (x : HostTx) : (s.tell x).ecnt = s.ecnt := rfl
@[simp] theorem State.tell_freeze (x : HostTx) : (s.tell x).freeze = s.freeze := rfl
@[simp] theorem State.tell_fuse (x : HostTx) : (s.tell x).fuse = s.fuse := rfl
@[simp] theorem State.tell_sec (x : HostTx) : (s.tell x).sec = s.sec := rfl
@[simp] theorem State.tell_idgen (x : HostTx) : (s.tell x).idgen = s.idgen := rfl
@[simp] theorem State.tell_orderly (x : HostTx) : (s.tell x).orderly = s.orderly := rfl
@[simp] theorem State.tell_ref (x : HostTx) : (s.tell x).ref = s.ref := rfl
@[simp] theorem State.tell_powered (x : HostTx) : (s.tell x).powered = s.powered := rfl
@[simp] theorem State.tell_proc (x : HostTx) (j : Nat) : (s.tell x).proc j = s.proc j := rfl
@[simp] theorem State.tell_cluster (x : HostTx) (j : Nat) : (s.tell x).cluster j = s.cluster j := rfl
@[simp] theorem State.tell_node (x : HostTx) (j : Nat) : (s.tell x).node j = s.node j := rfl
@[simp] theorem State.tell_spring (x : HostTx) (j : Nat) : (s.tell x).spring j = s.spring j := rfl
@[simp] theorem State.tell_sluice (x : HostTx) (j : Nat) : (s.tell x).sluice j = s.sluice j := rfl
@[simp] theorem State.tell_ue (x : HostTx) (j : Nat) : (s.tell x).ue j = s.ue j := rfl
@[simp] theorem State.tell_stack (x : HostTx) (j : Nat) : (s.tell x).stack j = s.stack j := rfl
@[simp] theorem State.tell_bar (x : HostTx) (j : Nat) : (s.tell x).bar j = s.bar j := rfl
@[simp] theorem State.tell_polder (x : HostTx) (j : Nat) : (s.tell x).polder j = s.polder j := rfl
@[simp] theorem State.tell_port (x : HostTx) (j : Nat) : (s.tell x).port j = s.port j := rfl
@[simp] theorem State.tell_bay (x : HostTx) (j : Nat) : (s.tell x).bay j = s.bay j := rfl
@[simp] theorem State.tell_hport (x : HostTx) (j : Nat) : (s.tell x).hport j = s.hport j := rfl

/-! ### `send` -/

@[simp] theorem State.send_pending (x : Packet) : (s.send x).pending = s.pending := rfl
@[simp] theorem State.send_mem (x : Packet) : (s.send x).mem = s.mem := rfl
@[simp] theorem State.send_pondMark (x : Packet) : (s.send x).pondMark = s.pondMark := rfl
@[simp] theorem State.send_lakeMark (x : Packet) : (s.send x).lakeMark = s.lakeMark := rfl
@[simp] theorem State.send_procs (x : Packet) : (s.send x).procs = s.procs := rfl
@[simp] theorem State.send_seedRest (x : Packet) : (s.send x).seedRest = s.seedRest := rfl
@[simp] theorem State.send_clusters (x : Packet) : (s.send x).clusters = s.clusters := rfl
@[simp] theorem State.send_nodes (x : Packet) : (s.send x).nodes = s.nodes := rfl
@[simp] theorem State.send_mesh (x : Packet) : (s.send x).mesh = s.mesh ++ [x] := rfl
@[simp] theorem State.send_reqs (x : Packet) : (s.send x).reqs = s.reqs := rfl
@[simp] theorem State.send_xfers (x : Packet) : (s.send x).xfers = s.xfers := rfl
@[simp] theorem State.send_mcnodes (x : Packet) : (s.send x).mcnodes = s.mcnodes := rfl
@[simp] theorem State.send_mcasts (x : Packet) : (s.send x).mcasts = s.mcasts := rfl
@[simp] theorem State.send_nextId (x : Packet) : (s.send x).nextId = s.nextId := rfl
@[simp] theorem State.send_springs (x : Packet) : (s.send x).springs = s.springs := rfl
@[simp] theorem State.send_sluices (x : Packet) : (s.send x).sluices = s.sluices := rfl
@[simp] theorem State.send_ues (x : Packet) : (s.send x).ues = s.ues := rfl
@[simp] theorem State.send_stackCtl (x : Packet) : (s.send x).stackCtl = s.stackCtl := rfl
@[simp] theorem State.send_bars (x : Packet) : (s.send x).bars = s.bars := rfl
@[simp] theorem State.send_barOver (x : Packet) : (s.send x).barOver = s.barOver := rfl
@[simp] theorem State.send_bid0Step (x : Packet) : (s.send x).bid0Step = s.bid0Step := rfl
@[simp] theorem State.send_flash (x : Packet) : (s.send x).flash = s.flash := rfl
@[simp] theorem State.send_polders (x : Packet) : (s.send x).polders = s.polders := rfl
@[simp] theorem State.send_sites (x : Packet) : (s.send x).sites = s.sites := rfl
@[simp] theorem State.send_resv (x : Packet) : (s.send x).resv = s.resv := rfl
@[simp] theorem State.send_tileOut (x : Packet) : (s.send x).tileOut = s.tileOut := rfl
@[simp] theorem State.send_stackSvc (x : Packet) : (s.send x).stackSvc = s.stackSvc := rfl
@[simp] theorem State.send_stackRes (x : Packet) : (s.send x).stackRes = s.stackRes := rfl
@[simp] theorem State.send_slots (x : Packet) : (s.send x).slots = s.slots := rfl
@[simp] theorem State.send_unitOut (x : Packet) : (s.send x).unitOut = s.unitOut := rfl
@[simp] theorem State.send_arrMap (x : Packet) : (s.send x).arrMap = s.arrMap := rfl
@[simp] theorem State.send_rowFails (x : Packet) : (s.send x).rowFails = s.rowFails := rfl
@[simp] theorem State.send_suspects (x : Packet) : (s.send x).suspects = s.suspects := rfl
@[simp] theorem State.send_lkSelf (x : Packet) : (s.send x).lkSelf = s.lkSelf := rfl
@[simp] theorem State.send_lkSuspect (x : Packet) : (s.send x).lkSuspect = s.lkSuspect := rfl
@[simp] theorem State.send_lkPatrols (x : Packet) : (s.send x).lkPatrols = s.lkPatrols := rfl
@[simp] theorem State.send_lkCorr (x : Packet) : (s.send x).lkCorr = s.lkCorr := rfl
@[simp] theorem State.send_lkUnc (x : Packet) : (s.send x).lkUnc = s.lkUnc := rfl
@[simp] theorem State.send_lkLast (x : Packet) : (s.send x).lkLast = s.lkLast := rfl
@[simp] theorem State.send_ports (x : Packet) : (s.send x).ports = s.ports := rfl
@[simp] theorem State.send_bays (x : Packet) : (s.send x).bays = s.bays := rfl
@[simp] theorem State.send_pmap (x : Packet) : (s.send x).pmap = s.pmap := rfl
@[simp] theorem State.send_group (x : Packet) : (s.send x).group = s.group := rfl
@[simp] theorem State.send_safety (x : Packet) : (s.send x).safety = s.safety := rfl
@[simp] theorem State.send_power (x : Packet) : (s.send x).power = s.power := rfl
@[simp] theorem State.send_surr (x : Packet) : (s.send x).surr = s.surr := rfl
@[simp] theorem State.send_hports (x : Packet) : (s.send x).hports = s.hports := rfl
@[simp] theorem State.send_hostTx (x : Packet) : (s.send x).hostTx = s.hostTx := rfl
@[simp] theorem State.send_job (x : Packet) : (s.send x).job = s.job := rfl
@[simp] theorem State.send_held (x : Packet) : (s.send x).held = s.held := rfl
@[simp] theorem State.send_quiet (x : Packet) : (s.send x).quiet = s.quiet := rfl
@[simp] theorem State.send_layerSum (x : Packet) : (s.send x).layerSum = s.layerSum := rfl
@[simp] theorem State.send_evrec (x : Packet) : (s.send x).evrec = s.evrec := rfl
@[simp] theorem State.send_trace (x : Packet) : (s.send x).trace = s.trace := rfl
@[simp] theorem State.send_ecnt (x : Packet) : (s.send x).ecnt = s.ecnt := rfl
@[simp] theorem State.send_freeze (x : Packet) : (s.send x).freeze = s.freeze := rfl
@[simp] theorem State.send_fuse (x : Packet) : (s.send x).fuse = s.fuse := rfl
@[simp] theorem State.send_sec (x : Packet) : (s.send x).sec = s.sec := rfl
@[simp] theorem State.send_idgen (x : Packet) : (s.send x).idgen = s.idgen := rfl
@[simp] theorem State.send_orderly (x : Packet) : (s.send x).orderly = s.orderly := rfl
@[simp] theorem State.send_ref (x : Packet) : (s.send x).ref = s.ref := rfl
@[simp] theorem State.send_powered (x : Packet) : (s.send x).powered = s.powered := rfl
@[simp] theorem State.send_proc (x : Packet) (j : Nat) : (s.send x).proc j = s.proc j := rfl
@[simp] theorem State.send_cluster (x : Packet) (j : Nat) : (s.send x).cluster j = s.cluster j := rfl
@[simp] theorem State.send_node (x : Packet) (j : Nat) : (s.send x).node j = s.node j := rfl
@[simp] theorem State.send_spring (x : Packet) (j : Nat) : (s.send x).spring j = s.spring j := rfl
@[simp] theorem State.send_sluice (x : Packet) (j : Nat) : (s.send x).sluice j = s.sluice j := rfl
@[simp] theorem State.send_ue (x : Packet) (j : Nat) : (s.send x).ue j = s.ue j := rfl
@[simp] theorem State.send_stack (x : Packet) (j : Nat) : (s.send x).stack j = s.stack j := rfl
@[simp] theorem State.send_bar (x : Packet) (j : Nat) : (s.send x).bar j = s.bar j := rfl
@[simp] theorem State.send_polder (x : Packet) (j : Nat) : (s.send x).polder j = s.polder j := rfl
@[simp] theorem State.send_port (x : Packet) (j : Nat) : (s.send x).port j = s.port j := rfl
@[simp] theorem State.send_bay (x : Packet) (j : Nat) : (s.send x).bay j = s.bay j := rfl
@[simp] theorem State.send_hport (x : Packet) (j : Nat) : (s.send x).hport j = s.hport j := rfl

/-! ### `emit` -/

@[simp] theorem State.emit_pending (c a u : Nat) (y : List (Nat × Nat)) : (s.emit c a u y).pending = s.pending := rfl
@[simp] theorem State.emit_mem (c a u : Nat) (y : List (Nat × Nat)) : (s.emit c a u y).mem = s.mem := rfl
@[simp] theorem State.emit_pondMark (c a u : Nat) (y : List (Nat × Nat)) : (s.emit c a u y).pondMark = s.pondMark := rfl
@[simp] theorem State.emit_lakeMark (c a u : Nat) (y : List (Nat × Nat)) : (s.emit c a u y).lakeMark = s.lakeMark := rfl
@[simp] theorem State.emit_procs (c a u : Nat) (y : List (Nat × Nat)) : (s.emit c a u y).procs = s.procs := rfl
@[simp] theorem State.emit_seedRest (c a u : Nat) (y : List (Nat × Nat)) : (s.emit c a u y).seedRest = s.seedRest := rfl
@[simp] theorem State.emit_clusters (c a u : Nat) (y : List (Nat × Nat)) : (s.emit c a u y).clusters = s.clusters := rfl
@[simp] theorem State.emit_nodes (c a u : Nat) (y : List (Nat × Nat)) : (s.emit c a u y).nodes = s.nodes := rfl
@[simp] theorem State.emit_mesh (c a u : Nat) (y : List (Nat × Nat)) : (s.emit c a u y).mesh = s.mesh := rfl
@[simp] theorem State.emit_reqs (c a u : Nat) (y : List (Nat × Nat)) : (s.emit c a u y).reqs = s.reqs := rfl
@[simp] theorem State.emit_xfers (c a u : Nat) (y : List (Nat × Nat)) : (s.emit c a u y).xfers = s.xfers := rfl
@[simp] theorem State.emit_mcnodes (c a u : Nat) (y : List (Nat × Nat)) : (s.emit c a u y).mcnodes = s.mcnodes := rfl
@[simp] theorem State.emit_mcasts (c a u : Nat) (y : List (Nat × Nat)) : (s.emit c a u y).mcasts = s.mcasts := rfl
@[simp] theorem State.emit_nextId (c a u : Nat) (y : List (Nat × Nat)) : (s.emit c a u y).nextId = s.nextId := rfl
@[simp] theorem State.emit_springs (c a u : Nat) (y : List (Nat × Nat)) : (s.emit c a u y).springs = s.springs := rfl
@[simp] theorem State.emit_sluices (c a u : Nat) (y : List (Nat × Nat)) : (s.emit c a u y).sluices = s.sluices := rfl
@[simp] theorem State.emit_ues (c a u : Nat) (y : List (Nat × Nat)) : (s.emit c a u y).ues = s.ues := rfl
@[simp] theorem State.emit_stackCtl (c a u : Nat) (y : List (Nat × Nat)) : (s.emit c a u y).stackCtl = s.stackCtl := rfl
@[simp] theorem State.emit_bars (c a u : Nat) (y : List (Nat × Nat)) : (s.emit c a u y).bars = s.bars := rfl
@[simp] theorem State.emit_barOver (c a u : Nat) (y : List (Nat × Nat)) : (s.emit c a u y).barOver = s.barOver := rfl
@[simp] theorem State.emit_bid0Step (c a u : Nat) (y : List (Nat × Nat)) : (s.emit c a u y).bid0Step = s.bid0Step := rfl
@[simp] theorem State.emit_flash (c a u : Nat) (y : List (Nat × Nat)) : (s.emit c a u y).flash = s.flash := rfl
@[simp] theorem State.emit_polders (c a u : Nat) (y : List (Nat × Nat)) : (s.emit c a u y).polders = s.polders := rfl
@[simp] theorem State.emit_sites (c a u : Nat) (y : List (Nat × Nat)) : (s.emit c a u y).sites = s.sites := rfl
@[simp] theorem State.emit_resv (c a u : Nat) (y : List (Nat × Nat)) : (s.emit c a u y).resv = s.resv := rfl
@[simp] theorem State.emit_tileOut (c a u : Nat) (y : List (Nat × Nat)) : (s.emit c a u y).tileOut = s.tileOut := rfl
@[simp] theorem State.emit_stackSvc (c a u : Nat) (y : List (Nat × Nat)) : (s.emit c a u y).stackSvc = s.stackSvc := rfl
@[simp] theorem State.emit_stackRes (c a u : Nat) (y : List (Nat × Nat)) : (s.emit c a u y).stackRes = s.stackRes := rfl
@[simp] theorem State.emit_slots (c a u : Nat) (y : List (Nat × Nat)) : (s.emit c a u y).slots = s.slots := rfl
@[simp] theorem State.emit_unitOut (c a u : Nat) (y : List (Nat × Nat)) : (s.emit c a u y).unitOut = s.unitOut := rfl
@[simp] theorem State.emit_arrMap (c a u : Nat) (y : List (Nat × Nat)) : (s.emit c a u y).arrMap = s.arrMap := rfl
@[simp] theorem State.emit_rowFails (c a u : Nat) (y : List (Nat × Nat)) : (s.emit c a u y).rowFails = s.rowFails := rfl
@[simp] theorem State.emit_suspects (c a u : Nat) (y : List (Nat × Nat)) : (s.emit c a u y).suspects = s.suspects := rfl
@[simp] theorem State.emit_lkSelf (c a u : Nat) (y : List (Nat × Nat)) : (s.emit c a u y).lkSelf = s.lkSelf := rfl
@[simp] theorem State.emit_lkSuspect (c a u : Nat) (y : List (Nat × Nat)) : (s.emit c a u y).lkSuspect = s.lkSuspect := rfl
@[simp] theorem State.emit_lkPatrols (c a u : Nat) (y : List (Nat × Nat)) : (s.emit c a u y).lkPatrols = s.lkPatrols := rfl
@[simp] theorem State.emit_lkCorr (c a u : Nat) (y : List (Nat × Nat)) : (s.emit c a u y).lkCorr = s.lkCorr := rfl
@[simp] theorem State.emit_lkUnc (c a u : Nat) (y : List (Nat × Nat)) : (s.emit c a u y).lkUnc = s.lkUnc := rfl
@[simp] theorem State.emit_lkLast (c a u : Nat) (y : List (Nat × Nat)) : (s.emit c a u y).lkLast = s.lkLast := rfl
@[simp] theorem State.emit_ports (c a u : Nat) (y : List (Nat × Nat)) : (s.emit c a u y).ports = s.ports := rfl
@[simp] theorem State.emit_bays (c a u : Nat) (y : List (Nat × Nat)) : (s.emit c a u y).bays = s.bays := rfl
@[simp] theorem State.emit_pmap (c a u : Nat) (y : List (Nat × Nat)) : (s.emit c a u y).pmap = s.pmap := rfl
@[simp] theorem State.emit_group (c a u : Nat) (y : List (Nat × Nat)) : (s.emit c a u y).group = s.group := rfl
@[simp] theorem State.emit_safety (c a u : Nat) (y : List (Nat × Nat)) : (s.emit c a u y).safety = s.safety := rfl
@[simp] theorem State.emit_power (c a u : Nat) (y : List (Nat × Nat)) : (s.emit c a u y).power = s.power := rfl
@[simp] theorem State.emit_surr (c a u : Nat) (y : List (Nat × Nat)) : (s.emit c a u y).surr = s.surr := rfl
@[simp] theorem State.emit_hports (c a u : Nat) (y : List (Nat × Nat)) : (s.emit c a u y).hports = s.hports := rfl
@[simp] theorem State.emit_hostTx (c a u : Nat) (y : List (Nat × Nat)) : (s.emit c a u y).hostTx = s.hostTx := rfl
@[simp] theorem State.emit_job (c a u : Nat) (y : List (Nat × Nat)) : (s.emit c a u y).job = s.job := rfl
@[simp] theorem State.emit_held (c a u : Nat) (y : List (Nat × Nat)) : (s.emit c a u y).held = s.held := rfl
@[simp] theorem State.emit_quiet (c a u : Nat) (y : List (Nat × Nat)) : (s.emit c a u y).quiet = s.quiet := rfl
@[simp] theorem State.emit_layerSum (c a u : Nat) (y : List (Nat × Nat)) : (s.emit c a u y).layerSum = s.layerSum := rfl
@[simp] theorem State.emit_evrec (c a u : Nat) (y : List (Nat × Nat)) : (s.emit c a u y).evrec = { s.evrec with queue := s.evrec.queue ++ [⟨c, a, u, y, s.jobId, s.jobStep, s.wall⟩] } := rfl
@[simp] theorem State.emit_trace (c a u : Nat) (y : List (Nat × Nat)) : (s.emit c a u y).trace = s.trace := rfl
@[simp] theorem State.emit_ecnt (c a u : Nat) (y : List (Nat × Nat)) : (s.emit c a u y).ecnt = s.ecnt := rfl
@[simp] theorem State.emit_freeze (c a u : Nat) (y : List (Nat × Nat)) : (s.emit c a u y).freeze = s.freeze := rfl
@[simp] theorem State.emit_fuse (c a u : Nat) (y : List (Nat × Nat)) : (s.emit c a u y).fuse = s.fuse := rfl
@[simp] theorem State.emit_sec (c a u : Nat) (y : List (Nat × Nat)) : (s.emit c a u y).sec = s.sec := rfl
@[simp] theorem State.emit_idgen (c a u : Nat) (y : List (Nat × Nat)) : (s.emit c a u y).idgen = s.idgen := rfl
@[simp] theorem State.emit_orderly (c a u : Nat) (y : List (Nat × Nat)) : (s.emit c a u y).orderly = s.orderly := rfl
@[simp] theorem State.emit_ref (c a u : Nat) (y : List (Nat × Nat)) : (s.emit c a u y).ref = s.ref := rfl
@[simp] theorem State.emit_powered (c a u : Nat) (y : List (Nat × Nat)) : (s.emit c a u y).powered = s.powered := rfl
@[simp] theorem State.emit_proc (c a u : Nat) (y : List (Nat × Nat)) (j : Nat) : (s.emit c a u y).proc j = s.proc j := rfl
@[simp] theorem State.emit_cluster (c a u : Nat) (y : List (Nat × Nat)) (j : Nat) : (s.emit c a u y).cluster j = s.cluster j := rfl
@[simp] theorem State.emit_node (c a u : Nat) (y : List (Nat × Nat)) (j : Nat) : (s.emit c a u y).node j = s.node j := rfl
@[simp] theorem State.emit_spring (c a u : Nat) (y : List (Nat × Nat)) (j : Nat) : (s.emit c a u y).spring j = s.spring j := rfl
@[simp] theorem State.emit_sluice (c a u : Nat) (y : List (Nat × Nat)) (j : Nat) : (s.emit c a u y).sluice j = s.sluice j := rfl
@[simp] theorem State.emit_ue (c a u : Nat) (y : List (Nat × Nat)) (j : Nat) : (s.emit c a u y).ue j = s.ue j := rfl
@[simp] theorem State.emit_stack (c a u : Nat) (y : List (Nat × Nat)) (j : Nat) : (s.emit c a u y).stack j = s.stack j := rfl
@[simp] theorem State.emit_bar (c a u : Nat) (y : List (Nat × Nat)) (j : Nat) : (s.emit c a u y).bar j = s.bar j := rfl
@[simp] theorem State.emit_polder (c a u : Nat) (y : List (Nat × Nat)) (j : Nat) : (s.emit c a u y).polder j = s.polder j := rfl
@[simp] theorem State.emit_port (c a u : Nat) (y : List (Nat × Nat)) (j : Nat) : (s.emit c a u y).port j = s.port j := rfl
@[simp] theorem State.emit_bay (c a u : Nat) (y : List (Nat × Nat)) (j : Nat) : (s.emit c a u y).bay j = s.bay j := rfl
@[simp] theorem State.emit_hport (c a u : Nat) (y : List (Nat × Nat)) (j : Nat) : (s.emit c a u y).hport j = s.hport j := rfl

/-! ### `setMem` -/

@[simp] theorem setMem_pending (m : List Host.Cell) : (setMem s m).pending = s.pending := rfl
@[simp] theorem setMem_mem (m : List Host.Cell) : (setMem s m).mem = m := rfl
@[simp] theorem setMem_pondMark (m : List Host.Cell) : (setMem s m).pondMark = s.pondMark := rfl
@[simp] theorem setMem_lakeMark (m : List Host.Cell) : (setMem s m).lakeMark = s.lakeMark := rfl
@[simp] theorem setMem_procs (m : List Host.Cell) : (setMem s m).procs = s.procs := rfl
@[simp] theorem setMem_seedRest (m : List Host.Cell) : (setMem s m).seedRest = s.seedRest := rfl
@[simp] theorem setMem_clusters (m : List Host.Cell) : (setMem s m).clusters = s.clusters := rfl
@[simp] theorem setMem_nodes (m : List Host.Cell) : (setMem s m).nodes = s.nodes := rfl
@[simp] theorem setMem_mesh (m : List Host.Cell) : (setMem s m).mesh = s.mesh := rfl
@[simp] theorem setMem_reqs (m : List Host.Cell) : (setMem s m).reqs = s.reqs := rfl
@[simp] theorem setMem_xfers (m : List Host.Cell) : (setMem s m).xfers = s.xfers := rfl
@[simp] theorem setMem_mcnodes (m : List Host.Cell) : (setMem s m).mcnodes = s.mcnodes := rfl
@[simp] theorem setMem_mcasts (m : List Host.Cell) : (setMem s m).mcasts = s.mcasts := rfl
@[simp] theorem setMem_nextId (m : List Host.Cell) : (setMem s m).nextId = s.nextId := rfl
@[simp] theorem setMem_springs (m : List Host.Cell) : (setMem s m).springs = s.springs := rfl
@[simp] theorem setMem_sluices (m : List Host.Cell) : (setMem s m).sluices = s.sluices := rfl
@[simp] theorem setMem_ues (m : List Host.Cell) : (setMem s m).ues = s.ues := rfl
@[simp] theorem setMem_stackCtl (m : List Host.Cell) : (setMem s m).stackCtl = s.stackCtl := rfl
@[simp] theorem setMem_bars (m : List Host.Cell) : (setMem s m).bars = s.bars := rfl
@[simp] theorem setMem_barOver (m : List Host.Cell) : (setMem s m).barOver = s.barOver := rfl
@[simp] theorem setMem_bid0Step (m : List Host.Cell) : (setMem s m).bid0Step = s.bid0Step := rfl
@[simp] theorem setMem_flash (m : List Host.Cell) : (setMem s m).flash = s.flash := rfl
@[simp] theorem setMem_polders (m : List Host.Cell) : (setMem s m).polders = s.polders := rfl
@[simp] theorem setMem_sites (m : List Host.Cell) : (setMem s m).sites = s.sites := rfl
@[simp] theorem setMem_resv (m : List Host.Cell) : (setMem s m).resv = s.resv := rfl
@[simp] theorem setMem_tileOut (m : List Host.Cell) : (setMem s m).tileOut = s.tileOut := rfl
@[simp] theorem setMem_stackSvc (m : List Host.Cell) : (setMem s m).stackSvc = s.stackSvc := rfl
@[simp] theorem setMem_stackRes (m : List Host.Cell) : (setMem s m).stackRes = s.stackRes := rfl
@[simp] theorem setMem_slots (m : List Host.Cell) : (setMem s m).slots = s.slots := rfl
@[simp] theorem setMem_unitOut (m : List Host.Cell) : (setMem s m).unitOut = s.unitOut := rfl
@[simp] theorem setMem_arrMap (m : List Host.Cell) : (setMem s m).arrMap = s.arrMap := rfl
@[simp] theorem setMem_rowFails (m : List Host.Cell) : (setMem s m).rowFails = s.rowFails := rfl
@[simp] theorem setMem_suspects (m : List Host.Cell) : (setMem s m).suspects = s.suspects := rfl
@[simp] theorem setMem_lkSelf (m : List Host.Cell) : (setMem s m).lkSelf = s.lkSelf := rfl
@[simp] theorem setMem_lkSuspect (m : List Host.Cell) : (setMem s m).lkSuspect = s.lkSuspect := rfl
@[simp] theorem setMem_lkPatrols (m : List Host.Cell) : (setMem s m).lkPatrols = s.lkPatrols := rfl
@[simp] theorem setMem_lkCorr (m : List Host.Cell) : (setMem s m).lkCorr = s.lkCorr := rfl
@[simp] theorem setMem_lkUnc (m : List Host.Cell) : (setMem s m).lkUnc = s.lkUnc := rfl
@[simp] theorem setMem_lkLast (m : List Host.Cell) : (setMem s m).lkLast = s.lkLast := rfl
@[simp] theorem setMem_ports (m : List Host.Cell) : (setMem s m).ports = s.ports := rfl
@[simp] theorem setMem_bays (m : List Host.Cell) : (setMem s m).bays = s.bays := rfl
@[simp] theorem setMem_pmap (m : List Host.Cell) : (setMem s m).pmap = s.pmap := rfl
@[simp] theorem setMem_group (m : List Host.Cell) : (setMem s m).group = s.group := rfl
@[simp] theorem setMem_safety (m : List Host.Cell) : (setMem s m).safety = s.safety := rfl
@[simp] theorem setMem_power (m : List Host.Cell) : (setMem s m).power = s.power := rfl
@[simp] theorem setMem_surr (m : List Host.Cell) : (setMem s m).surr = s.surr := rfl
@[simp] theorem setMem_hports (m : List Host.Cell) : (setMem s m).hports = s.hports := rfl
@[simp] theorem setMem_hostTx (m : List Host.Cell) : (setMem s m).hostTx = s.hostTx := rfl
@[simp] theorem setMem_job (m : List Host.Cell) : (setMem s m).job = s.job := rfl
@[simp] theorem setMem_held (m : List Host.Cell) : (setMem s m).held = s.held := rfl
@[simp] theorem setMem_quiet (m : List Host.Cell) : (setMem s m).quiet = s.quiet := rfl
@[simp] theorem setMem_layerSum (m : List Host.Cell) : (setMem s m).layerSum = s.layerSum := rfl
@[simp] theorem setMem_evrec (m : List Host.Cell) : (setMem s m).evrec = s.evrec := rfl
@[simp] theorem setMem_trace (m : List Host.Cell) : (setMem s m).trace = s.trace := rfl
@[simp] theorem setMem_ecnt (m : List Host.Cell) : (setMem s m).ecnt = s.ecnt := rfl
@[simp] theorem setMem_freeze (m : List Host.Cell) : (setMem s m).freeze = s.freeze := rfl
@[simp] theorem setMem_fuse (m : List Host.Cell) : (setMem s m).fuse = s.fuse := rfl
@[simp] theorem setMem_sec (m : List Host.Cell) : (setMem s m).sec = s.sec := rfl
@[simp] theorem setMem_idgen (m : List Host.Cell) : (setMem s m).idgen = s.idgen := rfl
@[simp] theorem setMem_orderly (m : List Host.Cell) : (setMem s m).orderly = s.orderly := rfl
@[simp] theorem setMem_ref (m : List Host.Cell) : (setMem s m).ref = s.ref := rfl
@[simp] theorem setMem_powered (m : List Host.Cell) : (setMem s m).powered = s.powered := rfl
@[simp] theorem setMem_proc (m : List Host.Cell) (j : Nat) : (setMem s m).proc j = s.proc j := rfl
@[simp] theorem setMem_cluster (m : List Host.Cell) (j : Nat) : (setMem s m).cluster j = s.cluster j := rfl
@[simp] theorem setMem_node (m : List Host.Cell) (j : Nat) : (setMem s m).node j = s.node j := rfl
@[simp] theorem setMem_spring (m : List Host.Cell) (j : Nat) : (setMem s m).spring j = s.spring j := rfl
@[simp] theorem setMem_sluice (m : List Host.Cell) (j : Nat) : (setMem s m).sluice j = s.sluice j := rfl
@[simp] theorem setMem_ue (m : List Host.Cell) (j : Nat) : (setMem s m).ue j = s.ue j := rfl
@[simp] theorem setMem_stack (m : List Host.Cell) (j : Nat) : (setMem s m).stack j = s.stack j := rfl
@[simp] theorem setMem_bar (m : List Host.Cell) (j : Nat) : (setMem s m).bar j = s.bar j := rfl
@[simp] theorem setMem_polder (m : List Host.Cell) (j : Nat) : (setMem s m).polder j = s.polder j := rfl
@[simp] theorem setMem_port (m : List Host.Cell) (j : Nat) : (setMem s m).port j = s.port j := rfl
@[simp] theorem setMem_bay (m : List Host.Cell) (j : Nat) : (setMem s m).bay j = s.bay j := rfl
@[simp] theorem setMem_hport (m : List Host.Cell) (j : Nat) : (setMem s m).hport j = s.hport j := rfl

/-! ### `setSafety` -/

@[simp] theorem setSafety_pending (x : Safety) : (setSafety s x).pending = s.pending := rfl
@[simp] theorem setSafety_mem (x : Safety) : (setSafety s x).mem = s.mem := rfl
@[simp] theorem setSafety_pondMark (x : Safety) : (setSafety s x).pondMark = s.pondMark := rfl
@[simp] theorem setSafety_lakeMark (x : Safety) : (setSafety s x).lakeMark = s.lakeMark := rfl
@[simp] theorem setSafety_procs (x : Safety) : (setSafety s x).procs = s.procs := rfl
@[simp] theorem setSafety_seedRest (x : Safety) : (setSafety s x).seedRest = s.seedRest := rfl
@[simp] theorem setSafety_clusters (x : Safety) : (setSafety s x).clusters = s.clusters := rfl
@[simp] theorem setSafety_nodes (x : Safety) : (setSafety s x).nodes = s.nodes := rfl
@[simp] theorem setSafety_mesh (x : Safety) : (setSafety s x).mesh = s.mesh := rfl
@[simp] theorem setSafety_reqs (x : Safety) : (setSafety s x).reqs = s.reqs := rfl
@[simp] theorem setSafety_xfers (x : Safety) : (setSafety s x).xfers = s.xfers := rfl
@[simp] theorem setSafety_mcnodes (x : Safety) : (setSafety s x).mcnodes = s.mcnodes := rfl
@[simp] theorem setSafety_mcasts (x : Safety) : (setSafety s x).mcasts = s.mcasts := rfl
@[simp] theorem setSafety_nextId (x : Safety) : (setSafety s x).nextId = s.nextId := rfl
@[simp] theorem setSafety_springs (x : Safety) : (setSafety s x).springs = s.springs := rfl
@[simp] theorem setSafety_sluices (x : Safety) : (setSafety s x).sluices = s.sluices := rfl
@[simp] theorem setSafety_ues (x : Safety) : (setSafety s x).ues = s.ues := rfl
@[simp] theorem setSafety_stackCtl (x : Safety) : (setSafety s x).stackCtl = s.stackCtl := rfl
@[simp] theorem setSafety_bars (x : Safety) : (setSafety s x).bars = s.bars := rfl
@[simp] theorem setSafety_barOver (x : Safety) : (setSafety s x).barOver = s.barOver := rfl
@[simp] theorem setSafety_bid0Step (x : Safety) : (setSafety s x).bid0Step = s.bid0Step := rfl
@[simp] theorem setSafety_flash (x : Safety) : (setSafety s x).flash = s.flash := rfl
@[simp] theorem setSafety_polders (x : Safety) : (setSafety s x).polders = s.polders := rfl
@[simp] theorem setSafety_sites (x : Safety) : (setSafety s x).sites = s.sites := rfl
@[simp] theorem setSafety_resv (x : Safety) : (setSafety s x).resv = s.resv := rfl
@[simp] theorem setSafety_tileOut (x : Safety) : (setSafety s x).tileOut = s.tileOut := rfl
@[simp] theorem setSafety_stackSvc (x : Safety) : (setSafety s x).stackSvc = s.stackSvc := rfl
@[simp] theorem setSafety_stackRes (x : Safety) : (setSafety s x).stackRes = s.stackRes := rfl
@[simp] theorem setSafety_slots (x : Safety) : (setSafety s x).slots = s.slots := rfl
@[simp] theorem setSafety_unitOut (x : Safety) : (setSafety s x).unitOut = s.unitOut := rfl
@[simp] theorem setSafety_arrMap (x : Safety) : (setSafety s x).arrMap = s.arrMap := rfl
@[simp] theorem setSafety_rowFails (x : Safety) : (setSafety s x).rowFails = s.rowFails := rfl
@[simp] theorem setSafety_suspects (x : Safety) : (setSafety s x).suspects = s.suspects := rfl
@[simp] theorem setSafety_lkSelf (x : Safety) : (setSafety s x).lkSelf = s.lkSelf := rfl
@[simp] theorem setSafety_lkSuspect (x : Safety) : (setSafety s x).lkSuspect = s.lkSuspect := rfl
@[simp] theorem setSafety_lkPatrols (x : Safety) : (setSafety s x).lkPatrols = s.lkPatrols := rfl
@[simp] theorem setSafety_lkCorr (x : Safety) : (setSafety s x).lkCorr = s.lkCorr := rfl
@[simp] theorem setSafety_lkUnc (x : Safety) : (setSafety s x).lkUnc = s.lkUnc := rfl
@[simp] theorem setSafety_lkLast (x : Safety) : (setSafety s x).lkLast = s.lkLast := rfl
@[simp] theorem setSafety_ports (x : Safety) : (setSafety s x).ports = s.ports := rfl
@[simp] theorem setSafety_bays (x : Safety) : (setSafety s x).bays = s.bays := rfl
@[simp] theorem setSafety_pmap (x : Safety) : (setSafety s x).pmap = s.pmap := rfl
@[simp] theorem setSafety_group (x : Safety) : (setSafety s x).group = s.group := rfl
@[simp] theorem setSafety_safety (x : Safety) : (setSafety s x).safety = x := rfl
@[simp] theorem setSafety_power (x : Safety) : (setSafety s x).power = s.power := rfl
@[simp] theorem setSafety_surr (x : Safety) : (setSafety s x).surr = s.surr := rfl
@[simp] theorem setSafety_hports (x : Safety) : (setSafety s x).hports = s.hports := rfl
@[simp] theorem setSafety_hostTx (x : Safety) : (setSafety s x).hostTx = s.hostTx := rfl
@[simp] theorem setSafety_job (x : Safety) : (setSafety s x).job = s.job := rfl
@[simp] theorem setSafety_held (x : Safety) : (setSafety s x).held = s.held := rfl
@[simp] theorem setSafety_quiet (x : Safety) : (setSafety s x).quiet = s.quiet := rfl
@[simp] theorem setSafety_layerSum (x : Safety) : (setSafety s x).layerSum = s.layerSum := rfl
@[simp] theorem setSafety_evrec (x : Safety) : (setSafety s x).evrec = s.evrec := rfl
@[simp] theorem setSafety_trace (x : Safety) : (setSafety s x).trace = s.trace := rfl
@[simp] theorem setSafety_ecnt (x : Safety) : (setSafety s x).ecnt = s.ecnt := rfl
@[simp] theorem setSafety_freeze (x : Safety) : (setSafety s x).freeze = s.freeze := rfl
@[simp] theorem setSafety_fuse (x : Safety) : (setSafety s x).fuse = s.fuse := rfl
@[simp] theorem setSafety_sec (x : Safety) : (setSafety s x).sec = s.sec := rfl
@[simp] theorem setSafety_idgen (x : Safety) : (setSafety s x).idgen = s.idgen := rfl
@[simp] theorem setSafety_orderly (x : Safety) : (setSafety s x).orderly = s.orderly := rfl
@[simp] theorem setSafety_ref (x : Safety) : (setSafety s x).ref = s.ref := rfl
@[simp] theorem setSafety_powered (x : Safety) : (setSafety s x).powered = s.powered := rfl
@[simp] theorem setSafety_proc (x : Safety) (j : Nat) : (setSafety s x).proc j = s.proc j := rfl
@[simp] theorem setSafety_cluster (x : Safety) (j : Nat) : (setSafety s x).cluster j = s.cluster j := rfl
@[simp] theorem setSafety_node (x : Safety) (j : Nat) : (setSafety s x).node j = s.node j := rfl
@[simp] theorem setSafety_spring (x : Safety) (j : Nat) : (setSafety s x).spring j = s.spring j := rfl
@[simp] theorem setSafety_sluice (x : Safety) (j : Nat) : (setSafety s x).sluice j = s.sluice j := rfl
@[simp] theorem setSafety_ue (x : Safety) (j : Nat) : (setSafety s x).ue j = s.ue j := rfl
@[simp] theorem setSafety_stack (x : Safety) (j : Nat) : (setSafety s x).stack j = s.stack j := rfl
@[simp] theorem setSafety_bar (x : Safety) (j : Nat) : (setSafety s x).bar j = s.bar j := rfl
@[simp] theorem setSafety_polder (x : Safety) (j : Nat) : (setSafety s x).polder j = s.polder j := rfl
@[simp] theorem setSafety_port (x : Safety) (j : Nat) : (setSafety s x).port j = s.port j := rfl
@[simp] theorem setSafety_bay (x : Safety) (j : Nat) : (setSafety s x).bay j = s.bay j := rfl
@[simp] theorem setSafety_hport (x : Safety) (j : Nat) : (setSafety s x).hport j = s.hport j := rfl

end Sys2Proof.Machine
end

