-- ==== Sys2Proof/Laws/Issue.lean ====
section
/-! SUPPORT. What issuing, retiring, transferring and trapping do: the shared operations of every Buine instruction. -/

namespace Sys2Proof.Machine

open Sys2Proof

/-- Under `Issues`, issue runs the instruction on the state after the fetch. -/
theorem issue_eq {s s' : State} {k : Nat} {regs : List Reg} {len : Nat} (h : Issues s s' k regs len) (w : Word)
    (g : State → State) : s.issue k regs len w g = g s' := by
  unfold State.issue
  simp only [h.runs, h.free, h.fetch]
  by_cases hl : len = 8
  · have hp := h.place hl
    simp_all
  · simp [hl]

theorem runInstr_eq {s s' : State} {k : Nat} {regs : List Reg} (h : Issues s s' k regs 4) (b : Bool) (f : Proc → IRes) :
    s.runInstr k regs b f = s'.finish k 4 b false (f (s'.proc k)) := by
  unfold State.runInstr
  rw [issue_eq h]

/-! ## Counters -/

/-- Counting changes nothing but the counters of one cluster. -/
theorem countCl_cases (s : State) (c ev core arr n : Nat) :
    s.countCl c ev core arr n = s ∨ ∃ cnt, s.countCl c ev core arr n = s.setCluster c { s.cluster c with cnt := cnt } := by
  unfold State.countCl
  dsimp only
  split
  · exact .inl rfl
  · exact .inr ⟨_, rfl⟩

theorem countEv_cases (s : State) (k ev arr n : Nat) :
    s.countEv k ev arr n = s ∨ ∃ c cnt, s.countEv k ev arr n = s.setCluster c { s.cluster c with cnt := cnt } := by
  unfold State.countEv
  split
  · exact (countCl_cases ..).imp id (fun ⟨x, h⟩ => ⟨_, x, h⟩)
  · exact .inl rfl

/-! ## Trace -/

/-- `t` is `s` but for memory and the trace. -/
def TraceOnly (s t : State) : Prop := ∃ m tr, t = { s with mem := m, trace := tr }

theorem TraceOnly.refl (s : State) : TraceOnly s s := ⟨s.mem, s.trace, rfl⟩

theorem TraceOnly.trans {s t u : State} (h : TraceOnly s t) (g : TraceOnly t u) : TraceOnly s u := by
  obtain ⟨m, tr, rfl⟩ := h
  obtain ⟨m', tr', rfl⟩ := g
  exact ⟨m', tr', rfl⟩

theorem TraceOnly.trace (s : State) (tr : Trace) : TraceOnly s { s with trace := tr } := ⟨s.mem, tr, rfl⟩

theorem putLine_only (s : State) (r : Nat) (line : List Byte) : TraceOnly s (s.putLine r line) := ⟨_, _, rfl⟩

theorem dropLine_only (s : State) (r : Nat) : TraceOnly s (s.dropLine r) := ⟨_, _, rfl⟩

/-- A trace line changes nothing but the trace and memory. -/
theorem traceLine_only (s : State) (r : Nat) (line : List Byte) : TraceOnly s (s.traceLine r line) := by
  unfold State.traceLine
  split
  · exact dropLine_only ..
  · extract_lets g
    split
    · exact putLine_only ..
    · rename_i s1 _ s2 _
      have h : TraceOnly s s2 := (putLine_only ..).trans (.trace ..)
      split
      · exact h.trans (putLine_only ..)
      · exact h.trans (dropLine_only ..)

/-- An atom changes nothing but the trace and memory; of a core that is not traced, nothing. -/
theorem traceAtom_only (s : State) (k : Nat) (pc : Word) (atom : Nat) : TraceOnly s (s.traceAtom k pc atom) := by
  unfold State.traceAtom
  split
  · exact .refl s
  · extract_lets l l1 src line s1
    split
    · exact (TraceOnly.trace s _).trans (traceLine_only ..)
    · exact .trace ..

theorem traceAtom_off (s : State) (k : Nat) (pc : Word) (atom : Nat) (h : s.traced k = false) :
    s.traceAtom k pc atom = s := by
  unfold State.traceAtom
  rw [h]
  rfl

/-! ## Retirement -/

/-- What an update of unit `k`'s registers, counting and an atom leave, whatever is counted and traced. -/
theorem retired_of (s : State) (k : Nat) (p : Proc) (pc at' : Word) (ev arr n atom : Nat) :
    Retired s (((s.setProc k (p.pcAt pc)).countEv k ev arr n).traceAtom k at' atom) k p pc := by
  have h1 : ∃ cs, (s.setProc k (p.pcAt pc)).countEv k ev arr n = { s.setProc k (p.pcAt pc) with clusters := cs } ∧
      ∀ c, { Tbl.get cs Cluster.reset c with cnt := (s.cluster c).cnt } = s.cluster c := by
    rcases countEv_cases (s.setProc k (p.pcAt pc)) k ev arr n with h | ⟨c, cnt, h⟩
    · exact ⟨s.clusters, by rw [h]; rfl, fun c => rfl⟩
    · refine ⟨Tbl.put s.clusters c { s.cluster c with cnt := cnt }, by rw [h]; rfl, fun d => ?_⟩
      rw [Tbl.get_put]
      split
      · next hd => rw [hd]
      · rfl
  obtain ⟨cs, h1, hc⟩ := h1
  generalize (s.setProc k (p.pcAt pc)).countEv k ev arr n = s1 at h1 ⊢
  obtain ⟨m, tr, h2⟩ := traceAtom_only s1 k at' atom
  have hoff (ht : s1.traced k = false) : tr = s1.trace ∧ m = s1.mem := by
    have h := h2.symm.trans (traceAtom_off s1 k at' atom ht)
    exact ⟨congrArg State.trace h, congrArg State.mem h⟩
  subst h1
  rw [h2]
  exact
    { regs := Tbl.get_put_same ..
      others := fun j hj => Tbl.get_put_other _ _ _ _ _ hj
      rest := ⟨_, _, _, _, rfl⟩
      counts := hc
      mem := hoff }

/-- Retirement: the registers, the pc past the instruction, the counters, the trace, and nothing else. -/
theorem retire_retired (s : State) (k : Nat) (p : Proc) (len : Nat) (slot0 : Bool) (atom : Nat) :
    Retired s (s.retire k p len slot0 atom) k p ((s.proc k).pc + BitVec.ofNat 64 len) :=
  retired_of ..

/-! ## Transfers and traps -/

/-- Which addresses a unit may fetch does not depend on registers, counters, trace or memory. -/
theorem fetchFault_coreSide (s : State) (ps : Tbl Proc) (cs : Tbl Cluster) (tr : Trace) (m : List Host.Cell) (k : Nat) (pc : Word) :
    (s.coreSide ps cs tr m).fetchFault k pc = s.fetchFault k pc := by
  unfold State.fetchFault State.accessFault State.refuses
  rfl

/-- A transfer to an address that can be fetched. -/
theorem transfer_retired (s : State) (k : Nat) (p : Proc) (target : Word) (slot0 : Bool) (atom : Nat)
    (h : s.fetchFault k target = none) : Retired s (s.transfer k p target slot0 atom) k p target := by
  unfold State.transfer
  extract_lets pc s1
  have hr : Retired s s1 k p target := retired_of ..
  obtain ⟨ps, cs, tr, m, hs⟩ := hr.rest
  have : s1.fetchFault k target = none := by rw [hs, fetchFault_coreSide, h]
  rw [this]
  exact hr

/-- A trap with a usable handler. -/
theorem trap_trapped (s : State) (k cause sub : Nat) (tval : Word) (slot1 : Bool) (h : CanTrap s k) :
    Trapped s (s.trap k cause sub tval slot1) k cause sub tval slot1 := by
  unfold State.trap
  extract_lets p handler s1
  have h1 : (!isCore k) = false := by simp [h.core]
  have h2 : (p.intrap || decide (handler = 0)) = false := by
    have := h.vector
    simp_all [State.handler, h.outside, p, handler]
  have hr : Trapped s s1 k cause sub tval slot1 := by
    have := retired_of s k { p with tepc := p.pc, cause := cause, sub := sub, slot := slot1, tval := tval, intrap := true }
      handler p.pc 0x06 2 1 0xB
    exact this
  obtain ⟨ps, cs, tr, m, hs⟩ := hr.rest
  have hf : s1.fetchFault k handler = none := by rw [hs, fetchFault_coreSide]; exact h.fetch
  rw [h1, hf]
  simp only [Bool.false_eq_true, if_false]
  rw [if_neg]
  · exact hr
  · intro hc
    simp_all

end Sys2Proof.Machine
end

