-- ==== Sys2Proof/Laws/Mem.lean ====
section
/-! SUPPORT. What memory reads after a write, and that every memory operation keeps the canonical form. -/

namespace Sys2Proof.Machine

open Sys2Proof

/-! ## Reading after writing -/

theorem memByte_filter (m : List Host.Cell) (f : Nat → Bool) (k : Nat) :
    memByte (m.filter (fun e => f e.1)) k = if f k then memByte m k else 0 := by
  induction m with
  | nil => simp [memByte]
  | cons e r ih =>
    obtain ⟨j, v⟩ := e
    by_cases hj : j = k
    · subst hj
      by_cases hf : f j <;> simp_all [memByte, List.filter]
    · by_cases hf : f j <;> simp_all [memByte, List.filter]

theorem memByte_ins_same (m : List Host.Cell) (k : Nat) (v : Byte) (h : ∀ e ∈ m, e.1 ≠ k) :
    memByte (memIns m k v) k = v := by
  induction m with
  | nil => simp [memIns, memByte]
  | cons e r ih =>
    obtain ⟨j, w⟩ := e
    have hj : j ≠ k := h (j, w) (by simp)
    simp only [memIns]
    split
    · simp [memByte]
    · simp only [memByte, hj, if_false]
      exact ih (fun e he => h e (by simp [he]))

theorem memByte_ins_other (m : List Host.Cell) (k : Nat) (v : Byte) (a : Nat) (h : a ≠ k) :
    memByte (memIns m k v) a = memByte m a := by
  induction m with
  | nil => simp [memIns, memByte, Ne.symm h]
  | cons e r ih =>
    obtain ⟨j, w⟩ := e
    simp only [memIns]
    split
    · simp [memByte, Ne.symm h]
    · simp only [memByte, ih]

/-- One byte after one byte is written. -/
theorem memByte_put (m : List Host.Cell) (k : Nat) (v : Byte) (a : Nat) :
    memByte (memPut m k v) a = if a = k then v else memByte m a := by
  have hf := memByte_filter m (· != k) a
  have hk : ∀ e ∈ m.filter (fun e => e.1 != k), e.1 ≠ k := by simp
  by_cases ha : a = k
  · subst ha
    by_cases hv : v = 0
    · simp_all [memPut]
    · simp only [memPut, if_neg hv, if_true]
      exact memByte_ins_same _ _ _ hk
  · by_cases hv : v = 0
    · simp_all [memPut]
    · simp_all [memPut, memByte_ins_other _ _ _ _ ha]

/-- One byte after bytes are written at ascending keys. -/
theorem memByte_write (m : List Host.Cell) (k : Nat) (bs : List Byte) (a : Nat) :
    memByte (memWrite m k bs) a = if k ≤ a ∧ a < k + bs.length then bs.getD (a - k) 0 else memByte m a := by
  induction bs generalizing m k with
  | nil => simp [memWrite]
  | cons b r ih =>
    simp only [memWrite, ih, memByte_put, List.length_cons]
    by_cases h1 : a = k
    · subst h1
      simp
    · by_cases h2 : k + 1 ≤ a ∧ a < k + 1 + r.length
      · have e : a - k = (a - (k + 1)) + 1 := by omega
        rw [if_pos h2, if_pos (by omega), e, List.getD_cons_succ]
      · rw [if_neg h2, if_neg h1, if_neg (by omega)]

/-- Outside the bytes written, memory reads as before. -/
theorem memByte_write_outside (m : List Host.Cell) (k : Nat) (bs : List Byte) (a : Nat) (h : a < k ∨ k + bs.length ≤ a) :
    memByte (memWrite m k bs) a = memByte m a := by
  rw [memByte_write, if_neg (by omega)]

/-- One byte after a masked write: the byte present at its place, else the byte before. -/
theorem memByte_writeMask (m : List Host.Cell) (k : Nat) (bs : List (Option Byte)) (a : Nat) :
    memByte (memWriteMask m k bs) a =
      if k ≤ a then ((bs[a - k]?).getD none).getD (memByte m a) else memByte m a := by
  induction bs generalizing m k with
  | nil => simp [memWriteMask]
  | cons b r ih =>
    by_cases h1 : a = k
    · subst h1
      cases b <;> simp [memWriteMask, ih, memByte_put]
    · by_cases h2 : k ≤ a
      · have e : a - k = (a - (k + 1)) + 1 := by omega
        have h3 : k + 1 ≤ a := by omega
        cases b <;> simp [memWriteMask, ih, memByte_put, h1, h2, h3, e]
      · have h3 : ¬ k + 1 ≤ a := by omega
        cases b <;> simp [memWriteMask, ih, memByte_put, h1, h2, h3]

theorem memByte_clear (m : List Host.Cell) (k n a : Nat) :
    memByte (memClear m k n) a = if k ≤ a ∧ a < k + n then 0 else memByte m a := by
  have h := memByte_filter m (fun j => !(decide (k ≤ j) && decide (j < k + n))) a
  simp only [memClear, h]
  by_cases h1 : k ≤ a <;> by_cases h2 : a < k + n <;> simp [h1, h2]

/-! ## The canonical form -/

/-- The canonical form, said of pairs: keys rise strictly, and every listed byte is not zero. -/
theorem Memory.wf_iff (m : List Host.Cell) :
    Memory.wf m = true ↔ m.Pairwise (fun a b => a.1 < b.1) ∧ ∀ e ∈ m, e.2 ≠ 0 := by
  induction m with
  | nil => simp [Memory.wf]
  | cons e r ih =>
    obtain ⟨k, v⟩ := e
    cases r with
    | nil => simp [Memory.wf]
    | cons e2 r2 =>
      obtain ⟨j, w⟩ := e2
      simp only [Memory.wf, Bool.and_eq_true, bne_iff_ne, decide_eq_true_eq, ih]
      constructor
      · rintro ⟨⟨hv, hk⟩, hp, hn⟩
        refine ⟨List.pairwise_cons.mpr ⟨?_, hp⟩, ?_⟩
        · intro e he
          rcases List.mem_cons.mp he with rfl | he
          · exact hk
          · exact Nat.lt_trans hk ((List.pairwise_cons.mp hp).1 e he)
        · intro e he
          rcases List.mem_cons.mp he with rfl | he
          · exact hv
          · exact hn e he
      · rintro ⟨hp, hn⟩
        obtain ⟨h1, h2⟩ := List.pairwise_cons.mp hp
        exact ⟨⟨hn (k, v) (by simp), h1 (j, w) (by simp)⟩, h2, fun e he => hn e (by simp [he])⟩

theorem Memory.wf_filter (m : List Host.Cell) (f : Host.Cell → Bool) (h : Memory.wf m = true) :
    Memory.wf (m.filter f) = true := by
  rw [Memory.wf_iff] at *
  exact ⟨h.1.filter f, fun e he => h.2 e (List.mem_filter.mp he).1⟩

theorem memIns_mem (m : List Host.Cell) (k : Nat) (v : Byte) (e : Host.Cell) (h : e ∈ memIns m k v) :
    e = (k, v) ∨ e ∈ m := by
  induction m with
  | nil => simpa [memIns] using h
  | cons d r ih =>
    obtain ⟨j, w⟩ := d
    simp only [memIns] at h
    split at h
    · simpa using h
    · rcases List.mem_cons.mp h with rfl | h
      · simp
      · rcases ih h with h | h <;> simp [h]

theorem Memory.wf_ins (m : List Host.Cell) (k : Nat) (v : Byte) (h : Memory.wf m = true) (hk : ∀ e ∈ m, e.1 ≠ k) (hv : v ≠ 0) :
    Memory.wf (memIns m k v) = true := by
  rw [Memory.wf_iff] at *
  obtain ⟨hp, hn⟩ := h
  refine ⟨?_, fun e he => (memIns_mem m k v e he).elim (fun h => h ▸ hv) (hn e)⟩
  clear hn
  induction m with
  | nil => simp [memIns]
  | cons d r ih =>
    obtain ⟨j, w⟩ := d
    obtain ⟨h1, h2⟩ := List.pairwise_cons.mp hp
    have hj : j ≠ k := hk (j, w) (by simp)
    simp only [memIns]
    split
    · next hlt =>
      refine List.pairwise_cons.mpr ⟨?_, hp⟩
      intro e he
      rcases List.mem_cons.mp he with rfl | he
      · exact hlt
      · exact Nat.lt_trans hlt (h1 e he)
    · refine List.pairwise_cons.mpr ⟨?_, ih (fun e he => hk e (by simp [he])) h2⟩
      intro e he
      rcases memIns_mem r k v e he with rfl | he
      · show j < k
        omega
      · exact h1 e he

/-- Every memory operation keeps the canonical form. -/
theorem Memory.wf_put (m : List Host.Cell) (k : Nat) (v : Byte) (h : Memory.wf m = true) : Memory.wf (memPut m k v) = true := by
  have hf := Memory.wf_filter m (fun e => e.1 != k) h
  unfold memPut
  split
  · exact hf
  · next hv => exact Memory.wf_ins _ k v hf (by simp) hv

theorem Memory.wf_write (m : List Host.Cell) (k : Nat) (bs : List Byte) (h : Memory.wf m = true) :
    Memory.wf (memWrite m k bs) = true := by
  induction bs generalizing m k with
  | nil => exact h
  | cons b r ih => exact ih _ _ (Memory.wf_put m k b h)

theorem Memory.wf_writeMask (m : List Host.Cell) (k : Nat) (bs : List (Option Byte)) (h : Memory.wf m = true) :
    Memory.wf (memWriteMask m k bs) = true := by
  induction bs generalizing m k with
  | nil => exact h
  | cons b r ih =>
    cases b with
    | none => exact ih _ _ h
    | some b => exact ih _ _ (Memory.wf_put m k b h)

theorem Memory.wf_clear (m : List Host.Cell) (k n : Nat) (h : Memory.wf m = true) : Memory.wf (memClear m k n) = true :=
  Memory.wf_filter m _ h

/-! ## Bytes and numbers -/

@[simp] theorem memRead_length (m : List Host.Cell) (k n : Nat) : (memRead m k n).length = n := by
  induction n generalizing k with
  | zero => rfl
  | succ n ih => simp [memRead, ih]

@[simp] theorem leBytes_length (n v : Nat) : (leBytes n v).length = n := by
  induction n generalizing v with
  | zero => rfl
  | succ n ih => simp [leBytes, ih]

/-- A number's bytes give the number back, as far as they reach. -/
theorem leNat_leBytes (n v : Nat) : leNat (leBytes n v) = v % 256 ^ n := by
  induction n generalizing v with
  | zero => simp [leBytes, leNat, Nat.mod_one]
  | succ n ih =>
    rw [leBytes, leNat, ih, BitVec.toNat_ofNat, Nat.pow_succ' (n := n), Nat.mod_mul (x := v) (a := 256)]

/-- Bytes just written are read back. -/
theorem memRead_write (m : List Host.Cell) (k : Nat) (bs : List Byte) : memRead (memWrite m k bs) k bs.length = bs := by
  have h : ∀ (n j : Nat), j + n = bs.length → memRead (memWrite m k bs) (k + j) n = bs.drop j := by
    intro n
    induction n with
    | zero => intro j hj; simp [memRead, ← hj]
    | succ n ih =>
      intro j hj
      have hl : j < bs.length := by omega
      rw [memRead, show k + j + 1 = k + (j + 1) from by omega, ih (j + 1) (by omega), memByte_write, if_pos (by omega),
        Nat.add_sub_cancel_left, List.drop_eq_getElem_cons hl]
      simp [List.getD, hl]
  simpa using h bs.length 0 (by omega)

end Sys2Proof.Machine
end

