-- ==== Sys2Proof/Tests/Slice0.lean ====
section
/-! SUPPORT. Tests: ill-formed commands, words and worked examples of the spec, single steps on small states. -/

namespace Sys2Proof.Tests

open Sys2Proof Sys2Proof.Machine

/-! ## Small states -/

/-- What a command leads to. -/
def after (i : Instr) (s : State) : State := match exec i s with | .next t => t | _ => s

/-- A module that is ready: every polder runs. -/
def up : State := { State.reset with
  powered := true, sec := { Sec.reset with stage := 9 },
  polders := (List.range 60).map (fun p => (p, { Polder.reset with state := 2 })) }

/-- Core 0 of cluster 0 of site 0. -/
def c0 : CoreId := ⟨0, 0, 0⟩

/-- Unit `k` runs with the registers `p`. -/
def runs (k : Nat) (p : Proc) : State := { up with procs := [(k, { p with run := true })] }

/-- A core at address 0x1000 of its pond. -/
def at1000 : Proc := { Proc.reset with pc := 0x1000, tvec := 0x2000 }

/-- Core 0 with scalar registers. -/
def coreS (s : Tbl Word) : State := runs 0 { at1000 with s := s }

/-- Field vectors of 32-bit words: OP R-type, and with a 12-bit immediate. -/
def rType (rd ra rb fn : Nat) : BitVec 25 := BitVec.ofNat 25 (rd + 32 * ra + 1024 * rb + 32768 * fn)
def iType (rd ra fn3 imm : Nat) : BitVec 25 := BitVec.ofNat 25 (rd + 32 * ra + 1024 * fn3 + 8192 * imm)

/-- What a Buine word does on core 0. -/
def word (w : BitVec 32) (s : State) : State := after (decodeBuine32 (.core c0) w) s

/-! ## Well-formed commands: a smoke test with an ill-formed term for each check -/

def cell0 (b : CellBody) : CtlCell := ⟨0, none, 0, b⟩
def trailer0 : Trailer := ⟨0, 0, false, false, 0, 0, 0, 0, 0⟩
def fw0 : FwImage := ⟨true, 0, 0, 0, 0, true, 0, true⟩
def job0 : JobDesc := {
  jobid := 1, seed := 0, firstStep := 1, keyid := 0, stages := [], sitesNeeded := 0, cores := [], springs := [], sluices := [],
  ues := [], barriers := [], groups := [], shards := [], lakeMap := [], period := 0, intake := none, wlimit := 0, cancelpol := 0,
  wscalebase := 0, clearwin := 100, votewait := 100, gbarwait := 100, spareok := 0, mgrcluster := none, groupNo := 0, sluStall := 0,
  hold := 0, escwait := 0, phaseen := 0, phaseoff := 0, kfloor := [], testlend := 0, lendmax := 0, adopt := false }

theorem test_wf_opcode : (Instr.integerRegisterRegister (.core c0) 2 0).wf = false ∧
    (Instr.integerRegisterRegister (.core c0) 0x7F 0).wf = true := by decide
theorem test_wf_atomics : (Instr.amoadd (.core c0) (BitVec.ofNat 25 (1 * 2 ^ 15))).wf = false ∧ (Instr.amoswap (.core c0) 0).wf = false ∧
    (Instr.amocas (.core c0) 0).wf = false := by decide
theorem test_wf_sparse : (Instr.smaskPrune (.core c0) (BitVec.ofNat 57 (2 ^ 47))).wf = false ∧ (Instr.smaskKeep (.core c0) 0).wf = false ∧
    (Instr.smaskBitmap (.core c0) 0).wf = false ∧ (Instr.smergeMatch (.core c0) (BitVec.ofNat 57 (2 ^ 48))).wf = false ∧
    (Instr.smergeCoalesce (.core c0) 0).wf = false ∧ (Instr.smergeUnion (.core c0) 0).wf = false := by decide
theorem test_wf_flip : (Instr.aloadCaptureComplete c0 0 (some (128, 0, 0))).wf = false := by decide
theorem test_wf_collection : (Instr.garbageCollection 3 0 0 256 0).wf = false := by decide
theorem test_wf_trailer : (Instr.groupTrailerReceive 0 { trailer0 with ncell := 32 } [] 0 true).wf = false := by decide
theorem test_wf_calibration : (Instr.opticalCalibration 0 [0, 0]).wf = false := by decide
theorem test_wf_arrival : (Instr.barrierArrivalCell 0 (cell0 (.release 0 0)) false).wf = false := by decide
theorem test_wf_release : (Instr.barrierReleaseCell 0 (cell0 (.release 0 (2 ^ 32))) false).wf = false := by decide
theorem test_wf_vote : (Instr.commitVoteCell 0 (cell0 (.vote (2 ^ 48) 0 0)) false).wf = false := by decide
theorem test_wf_result : (Instr.commitResultCell 0 (cell0 (.result 0 0 65536 0)) false).wf = false := by decide
theorem test_wf_poison : (Instr.poisonCell 0 (cell0 (.poison 0 0 65536)) false).wf = false := by decide
theorem test_wf_fence : (Instr.fenceCell 0 (cell0 (.fence 0 256)) false).wf = false := by decide
theorem test_wf_report : (Instr.faultReport 0 (cell0 (.faultReport 0 256 0)) false).wf = false := by decide
theorem test_wf_restart : (Instr.restartReport 0 (cell0 (.recoveryDone 0)) false).wf = false := by decide
theorem test_wf_decision : (Instr.restartDecision 0 (cell0 (.restartDecision 0 (2 ^ 48) 0)) false).wf = false := by decide
theorem test_wf_done : (Instr.recoveryDone 0 (cell0 (.recoveryDone (2 ^ 48))) false).wf = false := by decide
theorem test_wf_designation : (Instr.checkpointDesignation 0 (cell0 (.designationReply 0 true)) false).wf = false := by decide
theorem test_wf_reply : (Instr.designationReply 0 (cell0 (.designation 0)) false).wf = false := by decide
theorem test_wf_substitution : (Instr.substitutionNotice 0 (cell0 (.substitution (2 ^ 48) 0)) false).wf = false := by decide
theorem test_wf_allocation : (Instr.powerAllocation 65536).wf = false := by decide
theorem test_wf_trim : (Instr.trimUpdate 65536 0).wf = false := by decide
theorem test_wf_write : (Instr.registerWrite 0 0 16 0).wf = false := by decide
theorem test_wf_read : (Instr.rcRead 0 (2 ^ 26) 4).wf = false := by decide
theorem test_wf_bar2_read : (Instr.bar2Read 0 0 0).wf = false := by decide
theorem test_wf_bar2_write : (Instr.bar2Write 0 0 []).wf = false := by decide
theorem test_wf_doorbell : (Instr.hqsqdbWrite 0 0 0 (List.replicate 4096 ⟨0, 0, 0, 0, 0, 0, 0⟩)).wf = false := by
  rw [show (Instr.hqsqdbWrite 0 0 0 (List.replicate 4096 ⟨0, 0, 0, 0, 0, 0, 0⟩)).wf =
    decide ((List.replicate 4096 (⟨0, 0, 0, 0, 0, 0, 0⟩ : HostCmd)).length < 4096) from rfl, List.length_replicate]
  decide
theorem test_wf_records : (Instr.intakeDelivery 0 0 [[]]).wf = false := by decide
theorem test_wf_job : (Instr.jobSubmit 0 0 { job0 with firstStep := 2 ^ 48 }).wf = false := by decide
theorem test_wf_image : (Instr.firmwareStage 0 0 { fw0 with svn := 256 }).wf = false := by decide
theorem test_wf_feeds : (Instr.powerGood [1, 1] []).wf = false := by decide
theorem test_wf_mirror : (Instr.mirrorBlockWrite 256).wf = false := by decide
theorem test_wf_good : (Instr.trimUpdate 1000 1000).wf = true ∧ (Instr.registerWrite 0 0x300000 8 0).wf = true ∧
    (Instr.powerGood [0, 3] []).wf = true ∧ (Instr.jobSubmit 0 0 job0).wf = true := by decide

/-! ## Words and worked examples of the spec -/

/-- The example after R200: three `lic` words build a pond address. -/
theorem test_lic_builds_address :
    ((word 0x0002E283 (word 0x0E91D283 (word 0x22B00283 (coreS [(5, 0xFFFF)])))).proc 0).getS 5 = 0x51D234560 := by decide

/-- The `lic` words decode. -/
theorem test_decode_lic : decodeBuine32 (.core c0) 0x22B00283 = .lic (.core c0) 0x456005 := by decide

/-- The words of the example after R227. -/
theorem test_decode_vector :
    decodeBuine32 (.core c0) 0x04002336 = .vcvt (.core c0) 0x080046 ∧
    decodeBuine32 (.core c0) 0x840023B6 = .vcvt (.core c0) 0x1080047 ∧
    decodeBuine32 (.core c0) 0x04106327 = .vectorFloatingPoint (.core c0) 7 0x820C6 ∧
    decodeBuine32 (.core c0) 0x40106136 = .vcvt (.core c0) 0x8020C2 := by decide

/-- The `astream` word of the example of chapter 7: D1 2, D3 4, TAG 1, RA s20, RB s21, RAW set. -/
theorem test_decode_astream :
    decodeBuine64 (.core c0) 0x01015A7F01040261 false false = .astream (.core c0) 0x202B4FE020804 ∧
    lD1 0x202B4FE020804 = 2 ∧ lD3 0x202B4FE020804 = 4 ∧ lTag 0x202B4FE020804 = 1 ∧ lRa 0x202B4FE020804 = 20 ∧
    lRb 0x202B4FE020804 = 21 ∧ lFlags 0x202B4FE020804 = 4 := by decide

/-- The pond address of the example in chapter 1. -/
theorem test_pond_address : place 0x51D234560 = .pond 20 7 0x1234560 := by decide

/-- The example after R388. -/
theorem test_lake_offset :
    lakeLoc ((List.range 44).filter (fun k => State.reset.stackSvc.getLsbD k)) 17050176 = (31, 426560) := by decide

/-- The window-walk example after R112: 3 by 3, 64 channels, stride 2, padding 1; row group 1, element 100, position (5, 7). -/
def walkDesc : Desc := BitVec.ofNat 256 (64 * 2 ^ 128 + 56 * 2 ^ 144 + 56 * 2 ^ 160 + 2 * 2 ^ 176 + 2 * 2 ^ 179 + 2 ^ 182 + 2 ^ 184 +
  2 ^ 190 + 2 ^ 195 + 2 ^ 200 + 28 * 2 ^ 239)
theorem test_window_walk : wwValid walkDesc = true ∧ wwOffset walkDesc 2 (5 * 28 + 7) 100 = some 73416 := by decide

/-- The carry across a binade after R78, in units of 2^-26. -/
theorem test_split_carry : splitMaster 134254113 (-26) = some (0x4000, 18192) := by decide

/-- The first SSB-32 example of chapter 2. -/
def ssb (e : Nat) (x y : Int) : Block := ⟨e, x :: y :: List.replicate 30 0, false, false, ((x + y) % 65535).toNat⟩
theorem test_ssb_sum :
    (normalise (fun c => if c = 0 then 0x4411 else 0x9A3C) 0 (addBlock (fun _ => 0) 0
      (addBlock (fun _ => 0) 0 Accum.empty (ssb 130 12000 (-3000))).1 (ssb 130 9000 499)).1).1 =
    ⟨131, 10500 :: -1251 :: List.replicate 30 0, false, true, 9249⟩ := by decide

/-- A dominant element flushes the block. -/
theorem test_ssb_flush :
    (let a := addBlock (fun c => if c = 0 then 12048 else 65504) 0
      (addBlock (fun _ => 0) 0 Accum.empty (ssb 140 16000 0)).1 (ssb 124 9000 (-40))
     (a.1.e, a.1.s.take 2)) = (140, [16000, -1]) := by decide

/-- Poison wins whatever the order. -/
theorem test_ssb_poison :
    ((addBlock (fun _ => 0) 0 (addBlock (fun _ => 0) 0 (addBlock (fun _ => 0) 0 Accum.empty (poisonBlock false false)).1 zeroBlock).1
      (ssb 133 4100 0)).1).e = 255 := by decide

/-- Sluice E2 attaches at node E11: DNODE 0x044B. -/
theorem test_node_code : nodeCode (nodeOfSluice 6) = 0x44B := by decide

/-- IDPMAP1 at power-up (Table 1.4). -/
theorem test_pmap : ({ up with ref := 0 }).idReg 0x88 = 0x3736353433323130 := by decide

/-- The reservation example of R592: record 17 ends at 4,352, and the index after 4,319 has record 18 written. -/
theorem test_reservation :
    (let x := { Sec.reset with nextIdx := 4319, resEnd := 4352, resSeq := 17 }.takeIndex
     (x.nextIdx, x.resEnd, x.resSeq, x.nextBlock.nextIdx, x.nextBlock.resEnd)) = (4320, 4608, 18, 4608, 4864) := by decide

/-- A sink slower than the sensor (R328): the schedule keeps its points while the release is less than a period late, and starts
anew where it is a whole period late. -/
theorem test_schedule : nextSched 1000 (some 50) 100 = some 100050 ∧ nextSched 1000 (some 50) 100050 = some 200050 ∧
    nextSched 0 (some 50) 100 = none := by decide

/-- The cipher of R402: the example vector C.3 of FIPS 197, both ways. -/
def fipsKey : List Byte := (List.range 32).map (BitVec.ofNat 8)
def fipsText : List Byte := (List.range 16).map (fun i => BitVec.ofNat 8 (17 * i))
theorem test_aes : aesEncrypt (aesKeys fipsKey) fipsText =
    [0x8E, 0xA2, 0xB7, 0xCA, 0x51, 0x67, 0x45, 0xBF, 0xEA, 0xFC, 0x49, 0x90, 0x4B, 0x49, 0x60, 0x89] := by decide +kernel
theorem test_aes_inverse : aesDecrypt (aesKeys fipsKey)
    [0x8E, 0xA2, 0xB7, 0xCA, 0x51, 0x67, 0x45, 0xBF, 0xEA, 0xFC, 0x49, 0x90, 0x4B, 0x49, 0x60, 0x89] = fipsText := by decide +kernel

/-! ## Single steps -/

/-- Register `r` of core 0 after a command. -/
def regAfter (i : Instr) (s : State) (r : Nat) : Word := ((after i s).proc 0).getS r

/-- Division by zero, the remainder with it, and the most negative quotient (Table 6.3). -/
theorem test_division_corners :
    regAfter (.multiplyDivide (.core c0) (rType 3 1 0 3)) (coreS [(1, 7)]) 3 = 0xFFFFFFFFFFFFFFFF ∧
    regAfter (.multiplyDivide (.core c0) (rType 3 1 0 5)) (coreS [(1, 7)]) 3 = 7 ∧
    regAfter (.multiplyDivide (.core c0) (rType 3 1 2 3)) (coreS [(1, 0x8000000000000000), (2, 0xFFFFFFFFFFFFFFFF)]) 3 =
      0x8000000000000000 := by decide

/-- An arithmetic shift keeps the sign and takes the amount modulo 64; a source may be the destination. -/
theorem test_shift_right : regAfter (.integerRegisterRegister (.core c0) 1 (rType 1 1 2 8)) (coreS [(1, 0x8000000000000000), (2, 68)]) 1 =
    0xF800000000000000 := by decide

/-- A byte is loaded with its sign; a load of a misaligned word traps. -/
theorem test_load_byte : regAfter (.scalarLoad (.core c0) (iType 3 1 0 5)) { coreS [(1, 0x100)] with mem := [(0x105, 0x80)] } 3 =
    0xFFFFFFFFFFFFFF80 := by decide
theorem test_load_misaligned :
    (let p := (after (.scalarLoad (.core c0) (iType 3 1 3 1)) (coreS [(1, 0x100)])).proc 0
     (p.intrap, p.pc, p.tepc, p.tval)) = (true, 0x2000, 0x1000, 0x101) := by decide

/-- A branch that is taken moves by four times its offset, backward here; one that is not goes on. -/
theorem test_branch : ((after (.conditionalBranch (.core c0) (iType 2 1 0 0xFFF)) (coreS [])).proc 0).pc = 0xFFC ∧
    ((after (.conditionalBranch (.core c0) (iType 2 1 1 0xFFF)) (coreS [])).proc 0).pc = 0x1004 := by decide

/-- `tret` leaves the handler and goes on at TEPC (R188). -/
theorem test_trap_return :
    (let p := (after (.tret (.core c0) 0) (runs 0 { at1000 with intrap := true, tepc := 0x3000 })).proc 0
     (p.intrap, p.pc)) = (false, 0x3000) := by decide

/-- With no command waiting the reference counts; a counter that counts work-clock cycles moves by 42 / DIV of them (R502, R601). -/
theorem test_tick_counts :
    (match step { coreS [] with clusters := [(0, { Cluster.reset with sel := [(5, 0x0F01)] })] } with
     | .next t => (t.ref - (coreS []).ref, Tbl.get (t.cluster 0).cnt 0 5)
     | _ => (0, 0)) = (1, 10) := by decide

end Sys2Proof.Tests
end

