-- ==== Sys2Proof/Tests/Witness.lean ====
section
/-! SUPPORT. For every statement with hypotheses, a state and operands that meet them together. -/

namespace Sys2Proof.Tests

open Sys2Proof Sys2Proof.Machine

/-! ## Scalar instructions -/

theorem core_issues (p : Proc) (regs : List Reg) (len : Nat) (h : p.halted = false) (hb : p.inBar = none) (hpc : p.pc = 0x1000) :
    Issues (runs 0 p) (runs 0 p) 0 regs len := by
  have hp : (runs 0 p).proc 0 = { p with run := true } := rfl
  refine ⟨?_, rfl, ?_, fun _ => by rw [hp]; simp [hpc]⟩
  · simp only [State.canRun, hp, h, hb]; rfl
  · simp only [State.fetch, hp, hpc]; rfl

/-- Core 0 with descriptors beside its scalar registers. -/
def coreD (s : Tbl Word) (d : Tbl Desc) : Proc := { at1000 with s := s, d := d }

theorem test_step_runs : ({ up with pending := [.capNotMet] }).pending = Instr.capNotMet :: [] ∧ up.pending = [] := by decide

theorem test_integer_completes : Issues (coreS []) (coreS []) 0 (regs3 (rType 3 1 2 0)) 4 ∧ intCode (rType 3 1 2 0) ∧
    (fld (iType 3 1 6 0xC5) 17 3 = 6 ∧ fld (iType 3 1 6 0xC5) 20 12 < 256) ∧ fld (rType 3 1 2 6) 22 10 ≤ 6 :=
  ⟨core_issues _ _ _ rfl rfl rfl, Or.inl (by decide), by decide, by decide⟩

theorem test_lic_completes : Issues (coreS []) (coreS []) 0 [.s 5] 4 ∧ fld (0x456005 : BitVec 25) 31 1 = 0 :=
  ⟨core_issues _ _ _ rfl rfl rfl, by decide⟩

/-- A branch word: rb in the rd field, COND in bits [19:17], OFF12 above. -/
def branch (cond : Nat) : BitVec 25 := iType 2 1 cond 4

theorem test_branch_completes : Issues (coreS [(1, 5)]) (coreS [(1, 5)]) 0 [.s 2, .s 1] 4 ∧
    BranchHolds 1 ((coreS [(1, 5)]).ra 0 (branch 1)) ((coreS [(1, 5)]).rd 0 (branch 1)) ∧
    (coreS [(1, 5)]).fetchFault 0 (0x1000 + sxt 12 (fld (branch 1) 20 12) * 4) = none ∧
    ¬ BranchHolds 0 ((coreS [(1, 5)]).ra 0 (branch 0)) ((coreS [(1, 5)]).rd 0 (branch 0)) ∧ 6 ≤ fld (branch 6) 17 3 :=
  ⟨core_issues _ _ _ rfl rfl rfl, (show _ ≠ _ by decide), by decide, (show ¬ (_ = _) by decide), by decide⟩

theorem test_can_trap : CanTrap (coreS []) 0 := ⟨rfl, rfl, by decide, by decide⟩

theorem test_jump_completes : (coreS []).fetchFault 0 (0x1000 + sxt 20 (fld (rType 1 0 0 1) 12 20) * 4) = none ∧
    ((coreS [(1, 0x3000)]).ra 0 (iType 3 1 0 8) + sxt 12 (fld (iType 3 1 0 8) 20 12)).toNat % 4 = 0 ∧
    (coreS [(1, 0x3000)]).fetchFault 0 ((coreS [(1, 0x3000)]).ra 0 (iType 3 1 0 8) + sxt 12 (fld (iType 3 1 0 8) 20 12)) = none ∧
    Issues (runs 0 { at1000 with intrap := true, tepc := 0x3000 }) (runs 0 { at1000 with intrap := true, tepc := 0x3000 }) 0 [] 4 ∧
    (runs 0 { at1000 with intrap := true, tepc := 0x3000 }).fetchFault 0 0x3000 = none ∧ fld (iType 3 1 1 0) 17 3 ≠ 0 :=
  ⟨by decide, by decide, by decide, core_issues _ _ _ rfl rfl rfl, by decide, by decide⟩

theorem test_trap_hypotheses : ¬ intCode (rType 3 1 2 15) ∧ 7 ≤ fld (rType 3 1 2 7) 22 10 ∧
    ((coreS [(1, 2)]).ra 0 (iType 3 1 0 0) + sxt 12 (fld (iType 3 1 0 0) 20 12)).toNat % 4 ≠ 0 ∧
    (coreS []).coreReg 0 (fld (iType 3 0 0 0x7FF) 20 12) = none ∧ (coreS []).member (syImm (rType 0 0 0 1) % 16) 0 = false ∧
    syImm (rType 3 0 0 7) = 7 ∧ 2 ^ 48 ≤ ((coreS [(1, 0x1000000000000)]).ra 0 (rType 0 1 0 0)).toNat ∧
    1 < ((coreS [(1, 2)]).ra 0 (rType 3 1 0 0)).toNat :=
  ⟨by unfold intCode; decide, by decide, by decide, by decide, by decide, by decide, by decide, by decide⟩

theorem test_local_access (w : Bool) : LocalAccess (coreS [(1, 0x100)]) 0 0x100 8 8 w :=
  ⟨by decide, by cases w <;> decide, by cases w <;> decide, rfl⟩

theorem test_load_store_local : (coreS [(1, 0x100)]).ra 0 (iType 3 1 3 0) + sxt 12 (fld (iType 3 1 3 0) 20 12) = 0x100 ∧
    (coreS [(1, 0x100)]).traced 0 = false := by decide

theorem test_remote_access : localTo 0 0x4000100 = false ∧ (coreS []).portUse 0 < 16 ∧
    (coreS []).accessFault 0 0x4000100 8 8 false = none ∧ (coreS []).hazard 0 0x4000100 8 false = false ∧
    (coreS []).accessFault 0 0x4000100 8 8 true = none ∧ (coreS []).hazard 0 0x4000100 8 true = false := by
  decide +kernel

theorem test_atomic_place : ∃ st cl off, place 0x100 = .pond st cl off := ⟨0, 0, 0x100, by decide⟩

theorem test_control_registers : ((coreS []).coreReg 0 0x008).isSome = true ∧ fld (iType 0 1 0 0x020) 17 3 = 0 ∧
    fld (iType 0 1 0 0x020) 20 12 = 0x020 ∧ raOf (iType 3 0 0 0x008) = 0 ∧ rdOf (iType 0 1 0 0x020) = 0 := by decide

/-! ## Floating point, vectors and predicates -/

/-- A vector word: vd, va, vb, PG, FM, RM. -/
def vType (vd va vb pg fm rm : Nat) : BitVec 25 := BitVec.ofNat 25 (vd + 32 * va + 1024 * vb + 32768 * pg + 2 ^ 18 * fm + 2 ^ 20 * rm)

theorem test_scalar_float : rmMode ((coreS []).proc 0) (fld (rType 3 1 2 0) 23 3) = some 0 ∧ fld (rType 3 1 2 0) 26 6 = 0 ∧
    rmMode ((coreS []).proc 0) 4 = some mSR := by decide

theorem test_vector_elements : Issues (coreS []) (coreS []) 0 (vregs (vType 1 2 3 0 2 0)) 4 ∧ fld (vType 1 2 3 0 2 0) 30 1 = 0 ∧
    rmMode ((coreS []).proc 0) (vaRm (vType 1 2 3 0 2 0)) = some 0 ∧ (0 : Nat) ≠ mSR ∧ 2 ≤ vaFm (vType 1 2 3 0 2 2) ∧
    vaRm (vType 1 2 3 0 2 4) = 4 ∧ vaRm (vType 1 2 3 0 2 2) = 2 ∧ vaVb (vType 1 2 3 0 2 2) < 512 / fmtWidth 2 :=
  ⟨core_issues _ _ _ rfl rfl rfl, by decide, by decide, by decide, by decide, by decide, by decide, by decide⟩

theorem test_predicates : fld (vType 1 2 3 0 2 2) 30 1 = 0 ∧ vaVd (vType 1 2 3 0 2 2) < 8 ∧
    vcmpCond (vaRm (vType 1 2 3 0 2 2)) = some (.lt, true) ∧ fld (rType 1 0 0 16) 12 3 = 0 ∧ fld (rType 1 0 0 16) 26 6 = 1 ∧
    fld (rType 1 0 0 16) 7 5 < 8 := by decide

theorem test_reductions : vaRm (vType 1 2 0 0 2 1) = 1 ∧ fld (vType 1 2 0 0 2 1) 30 1 = 0 ∧ fld (0x2046 : BitVec 25) 17 1 = 0 ∧
    fld (0x2046 : BitVec 25) 19 3 = 2 ∧ fld (0x2046 : BitVec 25) 25 3 = 0 ∧
    rmMode ((coreS []).proc 0) (fld (0x2046 : BitVec 25) 28 3) = some 0 := by decide

theorem test_vector_memory : eszOf 0 (fld (rType 1 2 8 0) 20 2) = some 2 ∧ vmPg ((coreS [(2, 0x400)]).proc 0) (rType 1 2 8 0) = BitVec.allOnes 64 ∧
    (∀ i < 32, localTo 0 (0x400 + BitVec.ofNat 64 (i * 2)) = true) ∧
    (coreS [(2, 0x400)]).vmFault 0 0x400 2 32 (active (BitVec.allOnes 64)) false = none ∧
    (coreS [(2, 0x400)]).vmFault 0 0x400 2 32 (active (BitVec.allOnes 64)) true = none ∧
    (coreS [(2, 0x400)]).hazard 0 0x400 64 true = false ∧ (coreS [(2, 0x400)]).portUse 0 = 0 ∧
    (coreS [(2, 0x400)]).accessFault 0 0x400 2 2 false = none := by decide +kernel


/-! ## Synchronisation, arrays, DMA and the sparsity unit -/

/-- Core 0 with numeric state, tags and a span of its own. -/
def coreP (f : Proc → Proc) : State := runs 0 (f at1000)

theorem test_synchronisation :
    ({ coreS [] with bars := [(0, { BarNode.reset with expect := [(1, 1)] })] }).storesOut 0 = false ∧
    tagwaitBad (rType 0 1 0 0) = false ∧ tagMask ((coreS [(1, 6)]).proc 0) (rType 0 1 0 0) = 6 ∧
    (∀ i < 32, ((coreS [(1, 6)]).proc 0).tagCount i = 0) ∧ syImm (rType 0 0 0 3) = 3 ∧ (coreS []).loadsOut 0 = false ∧
    syImm (rType 3 0 0 4) ≤ 4 ∧ ((coreS [(1, 6)]).ra 0 (rType 0 1 0 0)).toNat < 2 ^ 48 ∧
    ((coreS [(1, 1)]).ra 0 (rType 3 1 0 0)).toNat ≤ 1 := by decide

/-- An open span. -/
def span1 : Span := ⟨1, false, 0x800, false, 0, 0⟩

theorem test_spans : badBound (((coreS []).rb 0 (rType 3 1 2 1)).toNat % 2 ^ 32) = false ∧ ((coreS []).proc 0).span = none ∧
    (coreP (fun p => { p with span := some span1 })).spanBusy 0 = false ∧
    ((coreP (fun p => { p with span := some span1 })).cluster (clOf 0)).exec (0 % 9) = Exec.fresh ∧ span1.id = syImm (rType 0 0 0 1) := by
  decide

/-- A 64-bit word's field vector (Table 7.5). -/
def l64 (ar d1 d2 d3 d4 tag rm ra rb rc fl : Nat) : BitVec 57 :=
  BitVec.ofNat 57 (ar + 2 * d1 + 2 ^ 5 * d2 + 2 ^ 9 * d3 + 2 ^ 13 * d4 + 2 ^ 17 * tag + 2 ^ 22 * rm + 2 ^ 25 * 0x7F + 2 ^ 32 * ra +
    2 ^ 37 * rb + 2 ^ 42 * rc + 2 ^ 47 * fl)

/-- A tensor of rows of `e0` elements, `e1` of them, at a stride of `st` bytes. -/
def tens (base fmt e0 e1 st : Nat) : Desc :=
  BitVec.ofNat 256 (base + 2 ^ 64 * fmt + 2 ^ 128 * e0 + 2 ^ 144 * e1 + 2 ^ 160 + 2 ^ 176 + 2 ^ 192 * (st / 16))

/-- Core 0 with operands of one vector each and a tile of 2 by 2. -/
def coreA : State := runs 0 (coreD [(1, 1), (2, 1), (3, 40)]
  [(1, tens 0x10000 0 128 1 256), (2, tens 0x20000 0 128 1 256), (3, tens 0x30000 0 128 1 256), (4, tens 0x40000 0 2 2 64),
   (5, tens 0x50000 8 128 1 256)])

theorem test_load_swap_queue :
    Issues coreA coreA 0 [.d (lD1 (l64 0 4 0 0 0 1 0 0 0 0 0))] 8 ∧ lOk (l64 0 4 0 0 0 1 0 0 0 0 0) ['r', '1', 't'] 2 = true ∧
    coreA.arrStall 0 0 (some 1) = false ∧
    firstTrap [coreA.arrOut 0 0, arrBusy (coreA.proc 0) 0, aloadTrap (coreA.proc 0) 4 ((coreA.proc 0).getD 4) false] = none ∧
    refusedIn 0 (aloadRanges ((coreA.proc 0).getD 4) ++ []) = none ∧ hdrTrap false 0 [] = none ∧
    lOk (l64 0 0 0 0 0 0 0 0 0 0 0) ['r'] 1 = true ∧ coreA.arrOut 0 0 = none ∧ ((coreA.proc 0).arr 0).waiting < 8 :=
  ⟨core_issues _ _ _ rfl rfl rfl, by decide, by decide, by decide, by decide +kernel, by decide, by decide, by decide, by decide⟩

theorem test_pass_queue :
    lOk (l64 0 1 2 3 0 1 0 1 2 3 1) ['r', '1', '2', '3', 't', 'm', 'a', 'b', 'c'] 8 = true ∧
    (rmMode (coreA.proc 0) (lRm (l64 0 1 2 3 0 1 0 1 2 3 1))).isSome = true ∧
    firstTrap [coreA.arrOut 0 0, arrBusy (coreA.proc 0) 0, astreamTrap (coreA.proc 0) (l64 0 1 2 3 0 1 0 1 2 0 0) 0] = none ∧
    refusedIn 0 (astreamRanges ((coreA.proc 0).getD 1) ((coreA.proc 0).getD 2) ((coreA.proc 0).getD 3) false false 0
      (resolveFmt false ((coreA.proc 0).getD 3)) 128 1 false) = none := by decide +kernel

theorem test_drain_queue :
    lOk (l64 0 0 0 5 0 0 0 1 2 0 0) ['r', '3', 't', 'm', 'a', 'b'] 1 = true ∧ resolveFmt false ((coreA.proc 0).getD 5) = 8 ∧
    coreA.arrStall 0 0 none = false ∧ firstTrap [coreA.arrOut 0 0, adrainTrap (coreA.proc 0) (l64 0 0 0 5 0 0 0 1 2 0 0)] = none ∧
    refusedIn 0 (hdrRangesIf ((coreA.proc 0).getD 5) 128) = none := by decide +kernel

theorem test_diag_queue :
    lOk (l64 0 1 2 3 0 1 0 1 0 0 0) ['r', '1', '2', '3', '4', 't', 'm', 'a'] 2 = true ∧
    firstTrap [coreA.arrOut 0 0, arrBusy (coreA.proc 0) 0, adiagTrap (coreA.proc 0) (l64 0 1 2 3 0 1 0 1 0 0 0)] = none ∧
    refusedIn 0 (vecRanges ((coreA.proc 0).getD 1) 2 256 1 ++ vecRanges ((coreA.proc 0).getD 2) 2 256 1 ++
      vecRanges ((coreA.proc 0).getD 3) 16 256 1 ++ bitmapRanges ((coreA.proc 0).getD 3) 128 1 ++
      hdrRangesIf ((coreA.proc 0).getD 3) 1) = none := by decide +kernel

theorem test_accumulate :
    lOk (l64 0 1 2 0 0 0 0 1 0 0 0) ['r', '1', '2', '3', 'a', 'c'] 4 = true ∧ lFlags (l64 0 1 2 0 0 0 0 1 0 0 0) ≤ 1 ∧
    firstTrap [coreA.arrOut 0 0, aaccTrap (coreA.proc 0) (l64 0 1 2 0 0 0 0 1 0 0 0) 0] = none ∧
    ((coreA.proc 0).arr 0).ops = [] ∧ coreA.safety.fence = false ∧
    refusedIn 0 (vecRanges ((coreA.proc 0).getD 1) 2 256 1 ++ bitmapRanges ((coreA.proc 0).getD 1) 128 1 ++
      vecRanges ((coreA.proc 0).getD 2) 2 256 1) = none := by decide +kernel

/-- A load of a tile of one value that waits in array 0, and two operations behind a swap. -/
def load1 : LoadReq := ⟨tens 0x40000 0 1 1 64, false, [], 0, 1, false, 0, false⟩
def swap1 : ArrOp := newOp at1000 .swap 0
def pass1 : ArrOp := { newOp at1000 .pass 0 with n := 2, k := 1, tag := some 1, d1 := tens 0x10000 0 128 2 256, d3 := tens 0x30000 0 128 2 256 }

theorem test_latches :
    (let s := coreP (fun p => { p with a0 := { Arr.reset with loads := [load1] } })
     let x := (s.setArray 0 0 { s.array 0 0 with loads := [] }).loadRows 0 0 load1
     (s.arrRuns 0 = true ∧ (s.array 0 0).loads = load1 :: [] ∧ x.1.array 0 0 = { s.array 0 0 with loads := [] })) ∧
    (let s := coreP (fun p => { p with a0 := { Arr.reset with ops := [swap1, pass1] } })
     ((s.array 0 0).ops = swap1 :: pass1 :: [] ∧ swap1.kind = .swap ∧ pass1.kind = .pass ∧ s.safety.fence = false ∧
      (s.array 0 0).loads.any (·.ahead == 0) = false)) := by decide +kernel

theorem test_drain_hypotheses :
    (let s := coreP (fun p => { p with a0 := { Arr.reset with ops := [{ pass1 with fail := true }] } })
     (s.arrRuns 0 = true ∧ s.safety.fence = false ∧ (s.array 0 0).ops = { pass1 with fail := true } :: [])) ∧
    pass1.kind = .pass ∧ pass1.fail = false ∧ pass1.resBad = false ∧ pass1.cancels = 0 ∧ pass1.pos + 1 < pass1.n := by decide +kernel

theorem test_weir_hypotheses :
    ({ up with clusters := [(0, { Cluster.reset with reports := [⟨0, 0, true, .overflow true 0⟩, ⟨0, 0, true, .nonfinite⟩] })] }.cluster
      (clKey ⟨0, 0⟩)).reports = ⟨0, 0, true, .overflow true 0⟩ :: [⟨0, 0, true, .nonfinite⟩] := by decide

/-- Core 0 with a pond address in s1 and plain data descriptors. -/
def coreM : State := runs 0 (coreD [(1, 0x200), (2, 9)] [(1, tens 0x4010000 0 64 1 128), (3, tens 0x30000 0 64 1 128),
  (4, tens 0x20000 0 64 1 128)])

theorem test_descriptor_moves :
    lOk (l64 0 1 0 0 0 0 0 1 0 0 0) ['1', 'a'] 1 = true ∧ coreM.ddFault 0 0x200 false = none ∧ coreM.ddFault 0 0x200 true = none ∧
    coreM.accessFault 0 0x200 32 32 true = none ∧ coreM.hazard 0 0x200 32 true = false ∧
    lFlags (l64 0 1 0 0 0 0 0 1 0 0 3) < 4 ∧ lFlags (l64 0 1 0 0 0 0 0 1 0 0 4) = 4 := by decide

theorem test_dma_refused :
    (let f := l64 0 1 0 3 0 1 0 0 0 0 0
     let x := tens 0x4010000 0 64 1 128
     lOk f ['1', '3', 't'] 1 = true ∧ coreM.dmaStall 0 (lTag f) = false ∧ dmaTrap f x (tens 0x30000 0 64 1 128) = none ∧
     (coreM.dmaRefused 0 true (dmaParts x (tens 0x30000 0 64 1 128))).isSome = false ∧
     dmaParts x (tens 0x30000 0 64 1 128) = [(0x4010000, 0x30000, 128)] ∧ localTo 0 0x4010000 = false ∧
     (coreM.dmaRefused 0 true (dmaParts (tens 0xFF0010000 0 64 1 128) (tens 0x30000 0 64 1 128))).isSome = true ∧
     (coreM.dmaRefused 0 false (dmaParts (tens 0x20000 0 64 1 128) (tens 0xFF0010000 0 64 1 128))).isSome = true ∧
     coreM.dmaRefused 0 false (dmaParts (tens 0x20000 0 64 1 128) (tens 0x30000 0 64 1 128)) = none) := by decide +kernel

theorem test_dcast_hypotheses :
    (let f := l64 0 4 0 3 0 1 0 2 0 0 0
     lOk f ['1', '3', 't', 'a'] 1 = true ∧ ((coreM.proc 0).getS (lRa f)).toNat < 256 ∧
     (∀ q ∈ dmaParts (tens 0x20000 0 64 1 128) (tens 0x30000 0 64 1 128), ownPond 0 q.1 q.2.2 = true) ∧
     mcValid (Tbl.get (coreM.node (nodeOfUnit 0)).multi 0 9) = false ∧ lOk (l64 0 0 0 0 0 0 0 0 0 0 0) [] 1 = true ∧
     coreM.xfers.any (fun z => z.owner == 0 && z.dma && decide (z.srcLeft > 0)) = false) := by decide +kernel

theorem test_mask_hypotheses :
    (let f := l64 0 4 0 3 0 1 0 0 0 0 2
     let s := runs 0 (coreD [] [(4, tens 0x20000 0 128 128 256), (3, tens 0x30000 0 128 128 256)])
     lOk f ['1', '3', 't'] 3 = true ∧ s.storesOut 0 = false ∧ (s.proc 0).tagCount 1 < 255 ∧
     smaskTrap 2 f ((s.proc 0).getD 4) ((s.proc 0).getD 3) = none ∧
     refusedIn 0 (smaskRanges 2 ((s.proc 0).getD 4) ((s.proc 0).getD 3)) = none ∧ s.hdrDims ((s.proc 0).getD 4) = false) := by
  decide +kernel

/-- Index streams of two entries each: kind 2, COUNT at bit 128, X at bit 153. -/
def idx (base count x : Nat) : Desc := BitVec.ofNat 256 (base + 2 ^ 68 * 2 + 2 ^ 128 * count + 2 ^ 153 * x)
def coreI : State := { runs 0 (coreD [(1, 0x60000)] [(1, idx 0x20000 2 16), (2, idx 0x30000 2 16), (3, idx 0x40000 4 0)]) with
  mem := [(0x20000, 1), (0x20004, 3), (0x30000, 1), (0x30004, 2)] }

theorem test_merge_hypotheses :
    (let a := (coreI.proc 0).getD 1
     let b := (coreI.proc 0).getD 2
     let o := (coreI.proc 0).getD 3
     (∀ op < 3, lOk (l64 0 1 2 3 0 0 0 1 0 0 op) ['1', '2', '3', 'a'] 3 = true) ∧
     smergeTrap 0 (l64 0 1 2 3 0 0 0 1 0 0 0) a b o 0x60000 = none ∧ smergeTrap 1 (l64 0 1 2 3 0 0 0 1 0 0 1) a b o 0x60000 = none ∧
     smergeTrap 2 (l64 0 1 2 3 0 0 0 1 0 0 2) a b o 0x60000 = none ∧ coreI.indices a = [1, 3] ∧ coreI.indices b = [1, 2] ∧
     (mergeMatch 16 5 [1, 3] [1, 2] 0 none none []).fault = none ∧ (mergeCoalesce 16 [1, 3] none [] []).fault = none ∧
     (mergeUnion 16 5 [1, 3] [1, 2] none none []).fault = none ∧
     refusedIn 0 [(dBase a, 4 * dCount a), (dBase b, 4 * dCount b), (dBase o, 8 * 4), (0x60000, 16)] = none) := by decide +kernel


/-! ## Springs -/

/-- Bytes put into memory. -/
def bytesIn (s : State) (k : Nat) (bs : List Byte) : State := { s with mem := memWrite s.mem k bs }

/-- One shard, its heads at the Lake's start, one stack of Lake. -/
def job1 : JobSt := ⟨{ job0 with shards := [⟨0, 0, 0, 1⟩], lakeMap := [⟨1, 0, 0, 2 ^ 22⟩, ⟨2, 0, 2 ^ 22, 2 ^ 24⟩], sluices := [(0, 0)] }, 2, none, 9, 1, 10,
  none, none, false, none, none, false, false, false, false, false, false⟩

def lakeS (s : State) : State := { s with slots := [0], job := some job1 }

/-- A seal of shard 0 with these state, head and commit steps, phase PASS or not. -/
def seal0 (ss hs cs : Nat) (ps : Bool) : Seal := ⟨ss, hs, cs, -10, -10, ps, true, 0, 0, 0, 1, 0⟩

/-- Shard 0's seal in memory. -/
def sealed (x : Seal) (s : State) : State := bytesIn s (sealAddr s 0).toNat (sealBytes x)

/-- A tile of 2 rows of 16 heads at the Lake's start, and a group whose gate word lies in a pond. -/
def dW : Desc := tens (2 ^ 56) 0 16 2 64
def grp5 : SprGrp := ⟨5, 0, 1, 0x8000, 0x5000⟩
def spr1 : Spring := { Spring.reset with grps := [(0, grp5)] }
def raW : Word := 5 + 256 * 3 + 2 ^ 32 * 7
def springS : State := { runs 5040 { coreD [(1, raW), (2, 0), (3, 9)] [(1, dW)] with pc := 0x20 } with springs := [(0, spr1)] }
def waveS : State := lakeS springS

theorem unit_issues (s : State) (k : Nat) (regs : List Reg) (len : Nat) (hr : s.canRun k = true) (hf : s.interlocked k regs = false)
    (hm : s.fetch k len = (s, none)) (hp : (s.proc k).pc.getLsbD 2 = false) : Issues s s k regs len := ⟨hr, hf, hm, fun _ => hp⟩

theorem test_wave_issues : Issues waveS waveS 5040 [.d 1, .s 1, .s 2, .s 3] 8 :=
  unit_issues _ _ _ _ (by decide) (by decide) (by rfl) (by decide)

theorem test_wave_waits :
    (let f := l64 0 1 0 0 0 1 0 1 2 3 0
     let p := waveS.proc 5040
     lOk f ['1', 't', 'a', 'b', 'c'] 1 = true ∧ waveS.storesOut 5040 = false ∧ (waveS.spring 0).waves = [] ∧ p.tagCount 1 < 255 ∧
     waveTrap (waveS.spring 0) f dW raW 0 9 = none ∧ waveS.waveRefused 0 dW = none ∧ (waveS.spring 0).grp (raW.toNat % 256) = some grp5 ∧
     waveS.accessFault 5040 grp5.gate 8 8 false = none ∧ waveS.traced 5040 = false ∧ waveS.natAt grp5.gate.toNat 8 < raW.toNat / 2 ^ 32) := by
  decide +kernel

/-- A wave at its gate, or at its seals. -/
def wave0 (ph : WavePhase) : Wave := ⟨dW, 5, 3, 7, 0, 9, 1, ph, 0, 0, 1, []⟩
def waveAt (ph : WavePhase) : State :=
  { waveS with springs := [(0, { spr1 with waves := [wave0 ph] })], xfers := [⟨1, 5040, .wave 0, 0, 0, false, false, []⟩] }

set_option maxRecDepth 20000 in
theorem test_wave_gate_opens :
    (let s := sealed (seal0 8 7 8 true) (bytesIn (waveAt .gate) 0x5000 [7])
     s.sprRuns 0 = true ∧ (s.spring 0).waves = [wave0 .gate] ∧ (s.xfer 1).isSome = true ∧ (s.spring 0).grp 5 = some grp5 ∧
     s.accessFault (sprKey + 0) grp5.gate 8 8 false = none ∧ 7 ≤ s.natAt grp5.gate.toNat 8 ∧ waveShards s dW = [0] ∧ 0 < tileCount dW ∧
     tileShards s dW 0 ≠ [] ∧ sealGood (s.bytesAt (sealAddr s 0).toNat 64) = true ∧
     (sealOf (s.bytesAt (sealAddr s 0).toNat 64)).hstep + 1 < 9) := by decide +kernel

set_option maxRecDepth 20000 in
theorem test_wave_seals :
    (let s := sealed (seal0 8 8 8 true) (waveAt .seal)
     let q := sealOf (s.bytesAt (sealAddr s 0).toNat 64)
     (waveShards s dW)[0]? = some 0 ∧ sealGood (s.bytesAt (sealAddr s 0).toNat 64) = true ∧ q.hstep + 1 = 9 ∧
     0 + 1 = (waveShards s dW).length ∧ 0 < tileCount dW ∧ 0 < dE dW 1) ∧
    (let s := sealed (seal0 9 9 9 true) (waveAt .seal)
     sealGood (s.bytesAt (sealAddr s 0).toNat 64) = true ∧ 9 < (sealOf (s.bytesAt (sealAddr s 0).toNat 64)).hstep + 1) := by decide +kernel

/-- A re-stream request and a release of cluster 0, at Spring 0. -/
def rsPacket (m : CtlMsg) : Packet := { mkPacket .ctl 1 (nodeOfCl 0) (nodeOfSpring 0) 0 with loc := nodeOfSpring 0, ctl := m }
def rsServ : RsServ := ⟨3, 9, 0, 5, dW, 0, 1, 1, false, false⟩

theorem test_restream_requests :
    (let s := { waveS with mesh := [rsPacket (.restream 0 3 9 0 0)] }
     s.sprRuns 0 = true ∧ s.mesh = rsPacket (.restream 0 3 9 0 0) :: [] ∧ (s.spring 0).rsQ.length < 8) ∧
    (let s := { waveS with mesh := [rsPacket (.release 0 3 9 0)], springs := [(0, { spr1 with rs := [rsServ] })] }
     s.sprRuns 0 = true ∧ s.mesh = rsPacket (.release 0 3 9 0) :: [] ∧ (s.spring 0).rs = [rsServ]) := by decide +kernel

set_option maxRecDepth 20000 in
theorem test_restream_starts :
    (let r : RsReq := ⟨3, 9, 0, 0⟩
     let e : WaveLog := ⟨3, 9, 5, dW, 0⟩
     let s := sealed (seal0 8 8 8 true) { waveS with springs := [(0, { spr1 with rsQ := [r], log := [e] })] }
     let t := sealed (seal0 9 8 8 true) { waveS with springs := [(0, { spr1 with rsQ := [r], log := [e] })] }
     (s.spring 0).rsQ = r :: [] ∧ (s.spring 0).logged r = some e ∧ (s.spring 0).rs = [] ∧ (s.spring 0).grp 5 = some grp5 ∧
     (∀ sh ∈ waveShards s dW, sealGood (s.bytesAt (sealAddr s sh).toNat 64) = true ∧
       (sealOf (s.bytesAt (sealAddr s sh).toNat 64)).sstep + 1 = 9) ∧
     waveShards t dW = [0] ∧ sealGood (t.bytesAt (sealAddr t 0).toNat 64) = true ∧
       (sealOf (t.bytesAt (sealAddr t 0).toNat 64)).sstep + 1 ≠ 9) := by decide +kernel


/-! ## Sluices and update engines -/

/-- Sluice 0 at step 9, its register s2 for gopen and s1 the gradient tag. -/
def dG : Desc := tens (2 ^ 56 + 2 ^ 30) 8 2 1 128
def sluP : Proc := { coreD [(1, 6), (2, 1), (3, 1)] [(1, dG)] with pc := 0x20, seedStep := 9 }
def sluS (tags : List OpenTag) (m : List Host.Cell) : State :=
  { lakeS (runs 5056 sluP) with sluices := [(0, { Sluice.reset with tags := tags })], mem := m }

/-- An open tag of one block, and an entry that is complete or not: element 0 is 256, the exponent 100. -/
def tag0 : OpenTag := ⟨6, 9, 1, 0, 1, 2 ^ 56 + 2 ^ 30, .none, 0, 1, 1, false⟩
def entry0 (flags : Nat) : List Host.Cell := [(2 ^ 56 + 2 ^ 30 + 1, 1), (2 ^ 56 + 2 ^ 30 + 96, 100), (2 ^ 56 + 2 ^ 30 + 97, BitVec.ofNat 8 flags)]

theorem test_gopen_hypotheses :
    Issues (sluS [] []) (sluS [] []) 5056 [.d 1, .s 1, .s 2, .s 3] 8 ∧ lOk (l64 0 1 0 0 0 0 0 1 2 3 0) ['1', 'a', 'b', 'c'] 1 = true ∧
    (sluS [] []).storesOut 5056 = false ∧ gopenTrap Sluice.reset 9 (l64 0 1 0 0 0 0 0 1 2 3 0) dG 6 1 1 = none ∧
    (sluS [] []).refuses (.unit 5056) (dBase dG) (128 * (1 % 2 ^ 26)) true = none :=
  ⟨unit_issues _ _ _ _ (by decide) (by decide) (by rfl) (by decide), by decide, by decide, by decide +kernel, by decide +kernel⟩

theorem test_arm_hypotheses :
    (let s := sluS [tag0] []
     let f := l64 0 0 0 0 0 1 0 1 2 0 0
     lOk f ['t', 'a', 'b'] 1 = true ∧ (s.proc 5056).tagCount (lTag f) < 255 ∧ s.pondMark = [] ∧ s.lakeMark = [] ∧
     s.openTag 0 6 9 = some tag0 ∧ tag0.arm = .none ∧ tag0.unsent ≠ 0 ∧
     (∀ b < tag0.nb, (accEntry (s.bytesAt (entryAddr tag0 b).toNat 128)).done = false)) ∧
    (let s := sluS [tag0] (entry0 4)
     let e := accEntry (s.bytesAt (entryAddr tag0 0).toNat 128)
     e.done = true ∧ e.sent = false ∧ (normalise (s.sluDraw 0) (s.proc 5056).ctrV e.acc).1.e ≠ 0) := by decide +kernel

/-- A gradient packet at its destination. -/
def gpkt (k : PKind) (node : Nat) (ue : Bool) : Packet :=
  { mkPacket k 4 0 node 7 with loc := node, out := some 0, gtag := 6, step := 9, cnt := 1, nrun := 1, blk := zeroBlock, ue := ue }

theorem test_gradient_block_hypotheses :
    (let p := gpkt .gblk (nodeOfSluice 0) false
     let s := { sluS [tag0] [] with mesh := [p, gpkt .grun (nodeOfSluice 0) false] }
     let e := accEntry (s.bytesAt (entryAddr tag0 0).toNat 128)
     (s.mesh[0]? = some p ∧ p.kind = .gblk ∧ p.loc = p.dst ∧ p.listed = true ∧ s.polderOn (polderOfNode p.loc) = true) ∧
     (s.mesh[1]?.map (·.kind) = some .grun ∧ (gpkt .grun (nodeOfSluice 0) false).listed = true) ∧
     s.sluRuns 0 = true ∧ blockBad p.blk = false ∧ (s.sluice 0).tagFor p.gtag p.step = some tag0 ∧ p.block < tag0.nb ∧
     e.done = false ∧ e.cnt + p.cnt ≤ tag0.total ∧ (Sluice.reset).tagFor p.gtag p.step = none ∧ tag0.nb ≤ 1048576 ∧ tag0.total < 65536) := by
  decide +kernel

theorem test_sluice_job : (sluS [tag0] []).job = some job1 := rfl

theorem test_other_sluices : ∀ e ∈ job1.desc.sluices, e.1 ≠ 0 → ((sluS [tag0] []).sluice e.1).done.toNat = job1.step := by
  intro e he h
  simp only [job1, List.mem_singleton] at he
  exact absurd (congrArg Prod.fst he) h

theorem test_stall_and_sludone :
    (let s := sluS [tag0] []
     (s.sluice 0).tags.find? (fun t => t.gtag == (6 : BitVec 32).toNat) = some tag0 ∧
     (accEntry (s.bytesAt (entryAddr tag0 0).toNat 128)).done = false ∧ s.canRun (sluKey + 0) = true ∧
     job1.state = 2 ∧ job1.clearAt = none ∧ job1.voted = false ∧ (∃ e ∈ job1.desc.sluices, e.1 = 0) ∧
     ((9 : Word).truncate 48).toNat = job1.step) := by
  decide +kernel

/-- Update engine 0 owns shard 0: heads at the Lake's start, state 4 MiB above, inbox 32 MiB above. -/
def hd0 : Word := 2 ^ 56
def st0 : Word := 2 ^ 56 + 2 ^ 22
def shard0 : UeShard := ⟨0, true, hd0, st0, 0, 1⟩
def ue0 (f : UpEng → UpEng) : UpEng := f { UpEng.reset with shards := [shard0], inboxBase := 2 ^ 56 + 2 ^ 25 }
def ueP : Proc := { coreD [(1, 0), (2, 0), (3, 9)] [(1, tens (2 ^ 56 + 2 ^ 22) 0 16 1 64), (2, tens (2 ^ 56) 0 16 1 64)] with pc := 0x20, seedStep := 9 }
def ueS (p : Proc) (f : UpEng → UpEng) (q : Seal) : State := sealed q { lakeS (runs 5072 p) with ues := [(0, ue0 f)] }

theorem ue_issues (p : Proc) (f : UpEng → UpEng) (q : Seal) (regs : List Reg) (h : p.halted = false) (hb : p.inBar = none)
    (hw : (ue0 f).waiting = none) (hp : p.pc = 0x20) : Issues (ueS p f q) (ueS p f q) 5072 regs 8 := by
  have hq : (ueS p f q).proc 5072 = { p with run := true } := rfl
  have hu : (ueS p f q).ue 0 = ue0 f := rfl
  refine ⟨?_, rfl, ?_, fun _ => by rw [hq]; simp [hp]⟩
  · have hs : (ueS p f q).sealWaits 5072 = false := by
      show ((ueS p f q).ue 0).waiting.isSome = false
      rw [hu, hw]; rfl
    simp only [State.canRun, hq, h, hb, hs]; rfl
  · simp only [State.fetch, hq, hp]; rfl

set_option maxRecDepth 20000 in
theorem seal_is_pass : (ueS ueP id (seal0 8 8 8 true)).SealIs 0 (seal0 8 8 8 true) := ⟨by decide +kernel, by decide +kernel⟩
set_option maxRecDepth 20000 in
theorem seal_is_stated : (ueS ueP id (seal0 9 8 8 false)).SealIs 0 (seal0 9 8 8 false) := ⟨by decide +kernel, by decide +kernel⟩
set_option maxRecDepth 20000 in
theorem seal_is_headed : (ueS ueP id (seal0 9 9 8 false)).SealIs 0 (seal0 9 9 8 false) := ⟨by decide +kernel, by decide +kernel⟩

theorem test_ugrad_on_shard : OnShard (ueS ueP id (seal0 8 8 8 true)) 0 (l64 0 0 0 0 0 0 0 1 0 0 0) 0 .passing shard0 0 (seal0 8 8 8 true) :=
  ⟨⟨rfl, rfl⟩, by decide +kernel, by decide +kernel, by decide +kernel, by decide +kernel, rfl, by decide +kernel, fun h => absurd rfl h, fun h => absurd rfl h, seal_is_pass, by decide +kernel⟩

theorem test_urld_on_shard : OnShard (ueS ueP id (seal0 8 8 8 true)) 0 (l64 0 1 0 0 0 0 0 1 0 0 0) 2 .passing shard0 0 (seal0 8 8 8 true) :=
  ⟨⟨rfl, rfl⟩, by decide +kernel, by decide +kernel, by decide +kernel, by decide +kernel, rfl, by decide +kernel, fun _ => by decide +kernel, fun _ => by decide +kernel, seal_is_pass, by decide +kernel⟩

theorem test_uhead_on_shard : OnShard (ueS ueP id (seal0 9 8 8 false)) 0 (l64 0 2 0 0 0 0 0 1 0 0 0) 1 .stated shard0 0 (seal0 9 8 8 false) :=
  ⟨⟨rfl, rfl⟩, by decide +kernel, by decide +kernel, by decide +kernel, by decide +kernel, rfl, by decide +kernel, fun _ => by decide +kernel, fun _ => by decide +kernel, seal_is_stated, by decide +kernel⟩

theorem test_urst_fails (r r' : Nat) : storeOne (-10) 0x7F800000 0 0 0 0 r r' = none := rfl

theorem test_urst_results :
    (let p := ueP
     let d1 := p.draws 5072 true mSR 16
     let d2 := d1.2.draws 5072 true mSR 16
     ∀ i < 16, (storeOne (-10) (elemAt (el32 (p.getV 24)) i) (elemAt (el32 (p.getV 25)) i) (elemAt (el32 (p.getV 29)) i)
       (elemAt (el32 (p.getV 26)) i) (elemAt (el32 (p.getV 27)) i) (elemAt d1.1 i) (elemAt d2.1 i)).isSome = true) ∧
    (ueS ueP id (seal0 8 8 8 true)).flash.teeStep ≠ some 9 := by decide +kernel

theorem test_udig_hypotheses :
    lOk (l64 0 2 0 0 0 0 0 1 0 0 0) ['1', 'a'] 1 = true ∧ (ueS ueP id (seal0 9 9 8 false)).storesOut 5072 = false ∧
    ((ueS ueP id (seal0 9 9 8 false)).ue 0).shardOf (((ueS ueP id (seal0 9 9 8 false)).proc 5072).getS 1).toNat = some shard0 ∧
    shard0.owned = true ∧ 0 < shard0.nblk ∧ dBase (((ueS ueP id (seal0 9 9 8 false)).proc 5072).getD 2) = shard0.head ∧
    (phaseOf (seal0 9 9 8 false)).1 = .headed := by decide +kernel

/-- `useal` of each field in its phase: s2 names the field, s3 the step. -/
theorem test_useal_hypotheses :
    (∀ n < 4, usealBad (some shard0) 0 (BitVec.ofNat 64 n) 9 = none) ∧ sealStep 9 = 9 ∧
    sealPhaseOk (seal0 8 8 8 false) 0 9 = true ∧ sealPhaseOk (seal0 8 8 8 true) 1 9 = true ∧ sealPhaseOk (seal0 9 8 8 false) 2 9 = true ∧
    sealPhaseOk (seal0 9 9 8 false) 3 9 = true ∧
    (ueS ueP (fun x => { x with valid := true, commit := 9, inbox := [(0, ⟨1, 0, 9⟩)] }) (seal0 8 8 8 false)).sealMay 0 shard0 0 9 = true ∧
    (ueS ueP id (seal0 8 8 8 false)).sealMay 0 shard0 0 9 = false ∧ (ueS ueP id (seal0 8 8 8 true)).sealMay 0 shard0 1 9 = true ∧
    (ueS ueP id (seal0 9 8 8 false)).sealMay 0 shard0 2 9 = true ∧
    (ueS ueP (fun x => { x with digs := [(0, 10)] }) (seal0 9 9 8 false)).sealMay 0 shard0 3 9 = true ∧
    (ueS ueP id (seal0 9 9 8 false)).sealMay 0 shard0 3 9 = false ∧
    lOk (l64 0 0 0 0 0 0 0 1 2 3 0) ['a', 'b', 'c'] 1 = true := by decide +kernel

theorem test_useal_wait_hypotheses :
    (let s := ueS ueP (fun x => { x with waiting := some ⟨0, 1, 9⟩ }) (seal0 8 8 8 true)
     (s.ue 0).waiting = some ⟨0, 1, 9⟩ ∧ (s.ue 0).shardOf 0 = some shard0 ∧
     (s.setUe 0 { s.ue 0 with waiting := none }).canRun (ueKey + 0) = true ∧ s.sealMay 0 shard0 1 (sealStep 9) = true) := by decide +kernel

/-- Messages of the all-gather at update engine 0's node. -/
def umsg (m : UnitMsg) : Message := { mkMessage up 5072 .unit 0 (nodeOfStack 0) 0 1 with umsg := m }
def mpkt (m : UnitMsg) : Packet := { mkPacket .ctl 0 (nodeOfStack 0) (nodeOfStack 0) 0 with ctl := .message (umsg m) }
def gatherS (m : UnitMsg) : State :=
  { ueS ueP (fun x => { x with gathers := [⟨0, 9, 0, 2, 0⟩] }) (seal0 9 9 8 false) with mesh := [mpkt m] }

theorem test_gather_hypotheses :
    (gatherS .other).ueRuns 0 = true ∧ (gatherS .other).mesh = mpkt .other :: [] ∧ (mpkt .other).kind = .ctl ∧
    (mpkt .other).loc = nodeOfStack 0 ∧ (mpkt .other).dst = nodeOfStack 0 ∧ (umsg .other).kind = .unit ∧
    (gatherS .other).group.recover = none ∧ ((gatherS .other).ue 0).shardOf 0 = some shard0 ∧
    (gatherS .other).group.repairs.contains 0 = false ∧
    ((gatherS .other).ue 0).gathers.find? (fun g => g.shard == 0 && g.step == 9 && g.peer == (umsg .other).src.toNat) =
      some ⟨0, 9, 0, 2, 0⟩ := by decide +kernel

theorem test_ue_inbox_hypotheses :
    (let p := gpkt .gblk (nodeOfStack 0) true
     let s := { ueS ueP (fun x => { x with inbox := [(0, ⟨0, 0, 9⟩)] }) (seal0 8 8 8 false) with mesh := [p] }
     s.mesh[0]? = some p ∧ p.loc = p.dst ∧ p.listed = true ∧ s.polderOn (polderOfNode p.loc) = true ∧ p.ue = true ∧ p.acks = [] ∧
     p.tid ≠ 0 ∧ s.ueRuns 0 = true ∧ blockBad p.blk = false ∧ (s.ue 0).takes p.step p.block = true) := by decide +kernel


/-! ## The mesh -/

/-- A packet of cluster 0's node that has arrived there, or at another node. -/
def pk (k : PKind) (cls node : Nat) : Packet := { mkPacket k cls node node 7 with loc := node, size := 8, data := leBytes 16 5, addr := 0x400 }
def meshS (p : Packet) : State := { up with mesh := [p], slots := [0] }

/-- What `Arrived` says, as one check. -/
def hasArrived (s : State) (p : Packet) : Bool :=
  decide (s.mesh[0]? = some p) && p.loc == p.dst && p.listed && s.polderOn (polderOfNode p.loc)

theorem test_requests_arrive :
    hasArrived (meshS (pk .rd 1 0)) (pk .rd 1 0) = true ∧ hasArrived (meshS (pk .wr 1 0)) (pk .wr 1 0) = true ∧
    hasArrived (meshS (pk .amo 1 0)) (pk .amo 1 0) = true ∧ (meshS (pk .rd 1 0)).refusal (pk .rd 1 0) 8 false = none ∧
    (meshS (pk .wr 1 0)).refusal (pk .wr 1 0) 16 true = none ∧ (meshS (pk .amo 1 0)).refusal (pk .amo 1 0) 8 true = none ∧
    (∀ n ∈ [8, 16], (meshS (pk .rd 1 0)).refusal { pk .rd 1 0 with addr := 0xFF0000000 } n (n == 16) = some 1) ∧
    (pk .rd 1 0).op ≤ 2 ∧ place 0x400 = .pond 0 0 0x400 := by decide +kernel

theorem test_requests_in_window :
    (let a (off : Nat) : Packet := { pk .wr 1 nodeN16 with addr := BitVec.ofNat 64 (2 ^ 57 + off), data := leBytes 8 5 }
     let s := meshS (a 0x4C000)
     (∀ off ∈ [0x4C000, 0x080000 + 8 * 60, 0x1000], place (a off).addr = .window off) ∧
     hasArrived s (a 0x4C000) = true ∧ s.refusal (a 0x4C000) 8 true = none ∧ s.refusal (a (0x080000 + 8 * 60)) 8 true = none ∧
     s.refusal { a 0 with kind := .rd } 8 false = none) := by decide +kernel

/-- An acknowledgement message of identifier 7, and the wait it names. -/
def ackM : Message := { mkMessage up 5072 .ack 0 0 0 1 with addr := BitVec.ofNat 64 (7 + 2 ^ 32) }
def waitX : Xfer := ⟨3, 5072, .gather 0 0 9 0, 2, 0, false, false, []⟩
def ackS : State :=
  { meshS { pk .ctl 0 0 with ctl := .message ackM } with reqs := [⟨7, 5072, 0, 0, .ueWr 3⟩], xfers := [waitX] }

theorem test_ack_packet :
    hasArrived ackS { pk .ctl 0 0 with ctl := .message ackM } = true ∧ ackM.kind = .ack ∧ ackM.run = 0 ∧
    ackM.addr.toNat / 2 ^ 32 % 65536 = 1 ∧
    ackS.reqs.find? (fun r => r.tid % 2 ^ 32 == ackM.addr.toNat % 2 ^ 32 && (match r.kind with | .ueWr _ => true | _ => false)) =
      some ⟨7, 5072, 0, 0, .ueWr 3⟩ ∧ ackS.xfer 3 = some waitX ∧ waitX.left = 2 := by decide +kernel

/-- Group 5 at cluster 0's node: valid, the root there, its own pond and output 2. -/
theorem test_multicast_packet :
    (let p := { pk .mc 1 0 with group := 5 }
     let e : Word := BitVec.ofNat 64 (1 + 4 + 2 ^ 11)
     let s := { meshS p with nodes := [(0, { Node.reset with multi := [(5, e)] })] }
     s.mesh[0]? = some p ∧ p.loc = p.dst ∧ s.polderOn (polderOfNode p.loc) = true ∧ e = Tbl.get (s.node p.loc).multi 0 p.group ∧
     mcValid e = true ∧ (s.mcasts.filter (·.group == p.group)).length < 8 ∧ s.trace.openT = false ∧ isClNode p.loc = true ∧
     s.siteIn (clOfNode p.loc / 10) = true ∧ p.addr.toNat % 2 ^ 26 + p.data.length ≤ 2 ^ 26 ∧
     (∀ o < 8, 1 ≤ o → e.getLsbD o = true → s.outDown p.loc o = none) ∧ (∃ o < 8, 1 ≤ o ∧ e.getLsbD o = true)) := by decide +kernel

theorem test_transit_packet :
    (let p := { pk .xt 5 (nodeOfPort 0) with ctl := .message { ackM with src := 1 } }
     let s := { meshS p with ports := [(0, { LPort.reset with state := 2 })] }
     hasArrived s p = true ∧ p.loc = nodeOfPort (0 : Fin 56) ∧ s.stopped = false ∧ (s.port 0).state = 2 ∧
     (1 : BitVec 12) ≠ s.group.coord ∧ ((meshS p).port 0).state ≠ 2) := by decide +kernel

theorem test_answer_hypotheses :
    (∀ e ∈ [(PKind.rdr, ReqKind.load 3 3), (.wack, .store), (.amor, .amo 3), (.mack, .mcast 3)],
      let p := pk e.1 2 0
      let s := { meshS p with reqs := [⟨7, 0, 0, 0x400, e.2⟩], xfers := [⟨3, 0, .tag 1, 1, 0, false, true, []⟩] }
      hasArrived s p = true ∧ s.reqOf p.tid = some ⟨7, 0, 0, 0x400, e.2⟩ ∧
      s.mcnodes.find? (fun z => z.mc == p.tid && z.node == p.loc) = none ∧
      s.xfer 3 = some ⟨3, 0, .tag 1, 1, 0, false, true, []⟩ ∧ s.polderOn (polderOfNode 0) = true) := by decide +kernel

theorem test_router_forwards :
    (let p := { pk .rd 1 0 with dst := 3 }
     let s := meshS p
     let down := { s with polders := [(0, { Polder.reset with state := 2, clamps := [8] })] }
     s.mesh[0]? = some p ∧ p.listed = true ∧ ({ p with cls := 0 } : Packet).listed = false ∧ s.routeOf p = some 2 ∧ s.outDown 0 2 = none ∧
     meshNext 0 2 = some 1 ∧ s.trace.openT = false ∧ ({ s with nodes := [(0, { Node.reset with dead := 4 })] }).outDown 0 2 = some 4 ∧
     down.outDown 4 2 = some 2 ∧ ({ pk .ctl 0 0 with dst := 3 } : Packet).listed = true) := by decide +kernel

theorem test_router_combines :
    (let p := { gpkt .gblk 3 false with loc := 0, out := none }
     let q := { p with out := some 2, held := true }
     p.listed = true ∧ (meshS p).routeOf p = some 2 ∧ (meshS p).outDown 0 2 = none ∧ blockBad p.blk = false ∧
     (meshS p).gblkQueue 0 2 = [] ∧ ({ meshS p with mesh := [p, q] }).gblkQueue 0 2 = [1] ∧ q.matches p = true ∧ q.held = true) ∧
    (let p := { pk .rd 1 0 with dst := 3 }
     let s := { meshS p with nodes := [(0, { Node.reset with mode := true })] }
     (s.node p.loc).mode = true ∧ p.esc = false ∧ p.loc ≠ p.dst ∧ p.cls ∈ [0, 1, 2, 5]) ∧
    (3 ≤ (Tbl.get (({ up with nodes := [(0, { Node.reset with replays := [(32 + laneKey 2 0, [0, 0, 0])] })] }).node 0).replays []
      (32 + laneKey 2 0)).length) := by decide +kernel

/-! ## Barriers and the step -/

/-- Polder 1 expects one arrival on BID 3, and so does the root on BID 2. -/
def barS : State :=
  { up with bars := [(1, { BarNode.reset with expect := [(3, 1)], count := [(3, 1)] }),
                     (56, { BarNode.reset with expect := [(2, 1)], count := [(2, 1)] })] }

theorem test_barrier_hypotheses :
    barS.polderOn 1 = true ∧ barS.barUp 1 = some 0 ∧ barS.polderOn 0 = true ∧ barS.barFull 1 3 = true ∧ barS.barFull 1 2 = false ∧
    barS.barUp 56 = none ∧ (barS.bar 56).poison = false ∧ barS.barFull 56 2 = true ∧
    (∀ c < 16, c ≠ 2 → barS.barFull 56 c = false) ∧ barS.barScope 2 = false ∧
    (∀ c < 16, ({ up with bars := [(56, { BarNode.reset with poison := true })] }).barFull 56 c = false) ∧
    ({ up with job := some job1 }).stopped = false ∧
    (({ up with bars := [(0, { BarNode.reset with rel := 8 })] }).bar 0).rel ≠ 0 := by decide +kernel

theorem test_release_hypotheses :
    (let s := { up with job := some job1, bars := [(56, { BarNode.reset with sentUp := 1 })] }
     let j := { job1 with desc := { job1.desc with intake := some 0x400 } }
     s.safety.fence = false ∧ (s.bar 56).sentUp.getLsbD 0 = true ∧ job1.state = 2 ∧ s.gateMet job1 = true ∧ s.mayLend job1 = false ∧
     s.stillLent job1 = false ∧ job1.sched = none ∧ ({ s with mem := [(0x400 + 136, 1)] }).gateMet j = false) := by decide +kernel

theorem test_clear_window_hypotheses :
    (let j := { job1 with clearAt := some 0, desc := { job1.desc with shards := [] } }
     let s := { up with job := some j }
     let w := { s with group := { Group.reset with boxm1 := 1, extm1 := 1, mgr := 1 } }
     (0 : Nat) ≤ s.ref ∧ j.poisoned = false ∧ j.voted = false ∧ s.safety.queue = [] ∧ (s.sealedAll (j.step - 1)).2 = true ∧
     s.groupSize = 1 ∧ s.superior = none ∧ w.isMgr = false ∧ w.groupSize ≠ 1 ∧ (w.sealedAll (j.step - 1)).2 = true) := by decide +kernel


/-! ## The Lake and the flash store -/

theorem test_patrol_hypotheses :
    (let s := lakeS up
     let last := { s with stackCtl := [(0, { Stack.reset with patrol := stackBytes - 64 })] }
     (lakeInv s.slots 0 (s.stack 0).patrol).isSome = true ∧ s.polderOn (56 + 0 / 11) = true ∧ s.lakeMark = [] ∧
     (s.stack 0).patrol + 64 < stackBytes ∧ (lakeInv last.slots 0 (last.stack 0).patrol).isSome = true ∧
     stackBytes ≤ (last.stack 0).patrol + 64 ∧ s.pondMark = [] ∧ 0 ∈ s.slots ∧ (s.stack 0).failed = false) := by decide +kernel

/-- A command of the Warden's queue 60 on P1, its data at the Lake's 1 MiB, its record above. -/
def flEntry (opc : Nat) : List Byte :=
  leBytes 1 opc ++ leBytes 1 1 ++ leBytes 2 0 ++ leBytes 4 64 ++ leBytes 8 4096 ++ leBytes 8 (2 ^ 56 + 2 ^ 20) ++ leBytes 8 (2 ^ 56 + 2 ^ 21) ++
    leBytes 4 9 ++ leBytes 28 0
def flashS (opc : Nat) : State :=
  { bytesIn (lakeS up) (2 ^ 71 + 0x010000 + 0x1000 * 60) (flEntry opc) with
    flash := { Flash.reset with chup := 0xFFFF, queues := [(60, ⟨0, 1, []⟩)], teeStep := some 9, teeBegun := true } }

theorem test_flash_command_hypotheses :
    ∀ n ∈ [1, 2, 3, 4], (flashS n).flFront 60 = some ⟨n, 1, 64, 4096, 2 ^ 56 + 2 ^ 20, 2 ^ 56 + 2 ^ 21, 9, true⟩ ∧
      (flashS n).safety.fence = false ∧ (flashS n).flOk 60 ⟨n, 1, 64, 4096, 2 ^ 56 + 2 ^ 20, 2 ^ 56 + 2 ^ 21, 9, true⟩ = true ∧
      (flashS n).flReady 60 ⟨n, 1, 64, 4096, 2 ^ 56 + 2 ^ 20, 2 ^ 56 + 2 ^ 21, 9, true⟩ = true := by
  decide +kernel

theorem test_flash_complete_hypotheses :
    place (2 ^ 56 + 2 ^ 21 : Word) = .lake (2 ^ 21) ∧ (flashS 1).refuses (flWho 60) (2 ^ 56 + 2 ^ 21) 16 true = none := by decide +kernel

set_option maxRecDepth 20000 in
theorem test_checkpoint_hypotheses :
    (let s := sealed (seal0 9 9 9 false) { flashS 1 with mem := [], sec := { Sec.reset with stage := 9, keys := [(0, 5)] } }
     s.flash.teeStep = some 9 ∧ s.jobKey = some 5 ∧ s.safety.fence = false ∧ s.flash.teeBegun = true ∧ (s.sealedAll 9).2 = true ∧
     s.flash.seq + 1 < 2 ^ 64 ∧ s.flash.dead.contains (s.flash.seq + 1) = false) := by decide +kernel

/-! ## Ngahorn links -/

/-- Port 0 is up. -/
def portUp : LPort := { LPort.reset with state := 2 }
def portS (f : LPort → LPort) : State := { up with ports := [(0, f portUp)], powered := true }

theorem test_group_hypotheses :
    (portS id).port 0 = { LPort.reset with state := 2 } ∧ (portS id).portOn 0 = true ∧ ((portS id).port 0).unacked.length < 256 ∧
    trailer0.nak = false ∧ trailer0.cnak = false ∧ trailer0.gseq = ((portS id).port 0).rxNext ∧
    ({ trailer0 with gseq := 1 }).gseq ≠ ((portS id).port 0).rxNext ∧
    (let y := (portS (fun x => { x with unacked := [(0, [])] })).port 0
     y.unacked ≠ [] ∧ y.resends + 1 < 4) ∧
    4 ≤ ((portS (fun x => { x with unacked := [(0, [])], resends := 3 })).port 0).resends + 1 ∧
    ((portS (fun x => { x with ctlOut := [cell0 (.release 0 0)] })).port 0).ctlOut ≠ [] := by decide +kernel

/-- A message of a kind to a coordinate, with one cell of payload. -/
def msg (k : MsgKind) (dst : BitVec 12) : Message := { mkMessage up 5072 k dst 0 0 1 with ncell := 1, addr := 0x400, payload := leBytes 64 5 }

theorem test_message_hypotheses :
    (∀ k ∈ [MsgKind.blk, .run, .write, .ack, .unit], (let s := portS (fun x => { x with rxQ := [msg k 0] })
      (s.port 0).rxQ = msg k 0 :: [] ∧ s.portOn 0 = true ∧ (msg k 0).dst = s.group.coord)) ∧
    (portS id).writeOk 0x400 64 0 = true ∧ (msg .write 0).payload.take 64 ≠ [] ∧ (msg .write 0).addr.toNat % 2048 + 64 ≤ 2048 ∧
    (portS id).writeOk (2 ^ 56) 64 0 = false := by decide +kernel

theorem test_transit_hypotheses :
    (let s := { up with
                group := { Group.reset with extm1 := 3 },
                ports := [(0, { LPort.reset with state := 2, rxQ := [msg .write 1] }), (48, { LPort.reset with state := 2, bind := 2 })] }
     (msg .write 1).dst ≠ s.group.coord ∧ inTorus s.group.extm1 1 = true ∧ torusDir s.group.extm1 s.group.coord 1 = some 2 ∧
     s.transitPort 0 2 (msg .write 1) = some 48 ∧ (s.port 48).transit0 + msgCells (msg .write 1) ≤ 1024 ∧
     (s.port 48).transit1 + msgCells (msg .write 1) ≤ 1024 ∧ inTorus (Group.reset).extm1 1 = false) := by decide +kernel

/-- Port 0 is down, its bay's module is seated, and its neighbour record says 5. -/
def trainS : State :=
  { up with bays := [(0, { Bay.reset with present := true, state := 1 }), (14, { Bay.reset with present := true, state := 2 })],
            surr := { Surr.reset with nbr := [(0, BitVec.ofNat 55 (2 ^ 54 + 5))] }, powered := true }

theorem test_port_hypotheses :
    trainS.portOn 0 = true ∧ trainS.mayTrain 0 = true ∧ trainS.lightOf 0 = some 0 ∧ trainS.placeOf 0 = some 0 ∧ (trainS.port 0).degraded = 0 ∧
    (Tbl.get trainS.surr.nbr 0 0).getLsbD 54 = true ∧ (Tbl.get trainS.surr.nbr 0 0).toNat % 2 ^ 54 = (5 : Word).toNat % 2 ^ 54 ∧
    (Tbl.get trainS.surr.nbr 0 0).toNat % 2 ^ 54 ≠ (6 : Word).toNat % 2 ^ 54 ∧ up.lightOf 0 = none ∧ up.mayTrain 0 = true ∧ trainS.devUp = true ∧
    (1 : Word).getLsbD 0 = true ∧ ((portS id).port 0).degraded.getLsbD 3 = false := by decide +kernel

theorem test_bay_hypotheses :
    trainS.powered = true ∧ (trainS.bay 0).usable = true ∧ (trainS.bay 0).state = 1 ∧ (trainS.bay (coverBay 0)).state = 2 ∧
    (trainS.bay (coverBay 0)).usable = true ∧ (trainS.bay 14).state ≠ 1 ∧ (trainS.bay 0).off = false := by decide +kernel


/-! ## Control cells, votes and restarts -/

/-- Two engines in a group; this one is its manager, or a worker under coordinate 1. -/
def grp2 (m : BitVec 12) : Group := { Group.reset with extm1 := 1, boxm1 := 1, mgr := m }
def groupS (m : BitVec 12) (j : Option JobSt) : State := { up with ports := [(0, portUp)], group := grp2 m, job := j, powered := true }
def cell (b : CellBody) : CtlCell := ⟨0, some 0, 1, b⟩

theorem test_takes_cell (m : BitVec 12) (j : Option JobSt) (b : CellBody) : (groupS m j).TakesCell 0 (cell b) := ⟨rfl, rfl, rfl⟩

theorem test_manager_cells :
    (let s := groupS 0 (some job1)
     let t := { s with group := { grp2 0 with arrived := [(3, [0])] } }
     s.isMgr = true ∧ s.safety.fence = false ∧ (0 : Nat) = s.genOf 3 ∧ (1 : Nat) ≠ s.genOf 3 ∧
     (Tbl.get s.group.arrived [] 3).contains (1 : BitVec 12).toNat = false ∧ s.allIn [1] = false ∧ t.allIn [0, 1] = true ∧
     s.superior = none ∧ job1.lastCommit = none ∧ s.group.fencedStep ≠ some 9 ∧ s.stopped = false ∧ s.group.dones.contains 1 = false ∧
     ({ s with group := { grp2 0 with desig := some 12 } }).group.desig = some 12 ∧ s.allIn (s.group.accepts ++ [1]) = false) := by
  decide +kernel

theorem test_worker_cells :
    (let s := groupS 1 (some job1)
     s.superior = some 1 ∧ s.isMgr = false ∧ s.safety.fence = false ∧ (0 : Nat) = s.genOf 3 ∧ job1.step = 9 ∧ s.stopped = false ∧
     (groupS 2 none).superior ≠ some 1) := by decide +kernel

theorem test_result_crc (blk : List Byte) :
    crc32 blk = (BitVec.ofNat 32 (crc32 blk)).toNat ∧ crc32 blk ≠ (BitVec.ofNat 32 (crc32 blk + 1)).toNat := by
  have h := crc32_lt blk
  refine ⟨?_, ?_⟩ <;> rw [BitVec.toNat_ofNat] <;> omega

theorem test_result_block : ((groupS 1 (some job1)).resultBlock 0).2.isSome = true := by decide +kernel

/-- A worker that restarts, its seals at step 9. -/
def restartS (keyid : BitVec 32) : State :=
  { lakeS (groupS 1 none) with
    job := some { job1 with state := 3, desc := { job1.desc with keyid := keyid } } }

set_option maxRecDepth 20000 in
theorem test_restart_seals :
    (let s := sealed (seal0 9 9 9 false) (restartS 5)
     let q := sealOf (s.bytesAt (sealAddr s 0).toNat 64)
     sealGood (s.bytesAt (sealAddr s 0).toNat 64) = true ∧ q.job = job1.desc.jobid.toNat ∧ q.shard = 0 ∧ q.sstep = 9 ∧ q.hstep = 9 ∧
     q.cstep = 9 ∧ q.pass = false ∧ s.slots.length ≤ 40 ∧ (∀ e ∈ job1.desc.stages, e.1 < 56) ∧ (∀ e ∈ job1.desc.lakeMap, e.kind ≠ 6) ∧
     job1.subst = false ∧ s.group.nrepair = 0 ∧ s.pondMark = [] ∧ s.lakeMark = []) := by decide +kernel

theorem test_restart_hypotheses :
    ((restartS 0).job.map (·.desc.keyid)) = some 0 ∧ (restartS 0).superior = some 1 ∧ (restartS 0).isMgr = false ∧
    (restartS 0).devUp = true ∧ (restartS 0).orderly = none ∧ ((restartS 0).job.map (·.state)) = some 3 ∧
    ((restartS 0).job.map (·.parked)) = some false ∧ (groupS 0 (some job1)).allIn [1] = false := by decide +kernel

theorem test_designation_hypotheses :
    (let s := { groupS 1 (some job1) with sec := { Sec.reset with stage := 9, keys := [(0, 5)] } }
     s.mayTee 12 = true ∧ (groupS 1 (some job1)).mayTee 12 = false ∧ (1 : BitVec 12) = s.group.mgr) := by decide +kernel

theorem test_timeouts :
    (let s := { groupS 0 (some job1) with group := { grp2 0 with arrived := [(3, [0])], votes := [⟨0, 9, 0, 0⟩] } }
     let w := { groupS 1 (some job1) with group := { grp2 1 with waiting := true } }
     s.isMgr = true ∧ Tbl.get s.group.arrived [] 3 ≠ [] ∧ s.allIn (Tbl.get s.group.arrived [] 3) = false ∧ s.group.voted s.jobStep ≠ [] ∧
     s.allIn (s.group.voted s.jobStep) = false ∧ w.group.waiting = true ∧ w.superior.isSome = true ∧ s.safety.fence = false) := by
  decide +kernel

/-! ## Integrity, polders, feeds, power -/

theorem test_detection_hypotheses :
    ({ up with safety := { Safety.reset with queue := [⟨0x2503, 0, 0, none, 0⟩] } }).safety.queue = ⟨0x2503, 0, 0, none, 0⟩ :: [] ∧
    (runs 0 at1000).coreLive (coreKey c0) = true ∧ ((runs 0 at1000).proc (coreKey c0)).inBar = none ∧ trainS.powered = true ∧
    trainS.safety.wfail = false ∧ trainS.safety.tbusy = false ∧ trainS.devUp = true ∧
    ({ trainS with safety := { Safety.reset with tbusy := true } }).safety.tbusy = true ∧ trainS.job = none := by decide +kernel

/-- Polder 3 runs. -/
def polS (f : Polder → Polder) : State :=
  { trainS with polders := Tbl.put trainS.polders 3 (f { Polder.reset with state := 2 }), power := { Power.reset with feeds := [0, 1, 2] } }

theorem test_polder_hypotheses :
    ((polS id).polder 3).state = 2 ∧ clockOk 1344 4 = true ∧ clockOk 1300 4 = false ∧ ((polS id).polder 3).div < 8 ∧
    ((polS (fun x => { x with vhot := 1 })).polder 3).vhot = 1 ∧ ((polS (fun x => { x with hot := 1 })).polder 3).hot = 1 ∧
    (let x := (polS (fun x => { x with cool := 999, held := 999, div := 5 })).polder 3
     999 ≤ x.cool ∧ 999 ≤ x.held ∧ 4 < x.div ∧ x.stepUp = none) ∧
    ((polS (fun x => { x with stepUp := some 4 })).polder 3).stepUp = some 4 ∧ 4 ∈ polNbrs 3 ∧ 4 ∉ ((polS id).polder 3).clamps := by
  decide +kernel

theorem test_dike_hypotheses :
    meshNext 4 2 = some 5 ∧ polderOfNode 5 ≠ polderOfNode 4 ∧ up.polderOn (polderOfNode 4) = true ∧ up.outDown 4 2 = none := by
  decide +kernel

theorem test_feed_hypotheses :
    (polS id).powered = true ∧ 1 ∈ (polS id).power.feeds ∧ 3 ∉ (polS id).power.feeds ∧ (polS id).orderly = none ∧
    (polS id).mayPower = true ∧ (polS id).devUp = true ∧
    (let x := (polS (fun x => { x with state := 0, wakeReq := true })).polder 3
     x.wakeReq = true ∧ x.state = 0 ∧ x.lost = false) ∧
    (polS id).shutRefused 3 = some 2 := by decide +kernel

/-- Reserve site 24's polder alone runs. -/
theorem test_shutdown_granted :
    (let s := { trainS with polders := [(24, { Polder.reset with state := 2, shutReq := true })] }
     let x := s.polder 24
     s.mayPower = true ∧ s.devUp = true ∧ x.shutReq = true ∧ x.state = 2 ∧
     (s.setPolder 24 { x with shutReq := false }).shutRefused 24 = none) := by decide +kernel

theorem test_power_hypotheses :
    (let s := { polS id with power := { Power.reset with atFloor := true, est := 25000 } }
     s.powered = true ∧ s.power.atFloor = true ∧ s.power.limit < s.power.est ∧ s.power.stale = false ∧
     s.regServed 0 0x300000 = true ∧ s.regServed 0 0x200010 = true ∧ s.regServed 1 0x200020 = true) := by decide +kernel


/-! ## The host -/

/-- An enabled queue 1 of port A. -/
def queue1 (cs : List HostCmd) : HQueue := { HQueue.reset with cfg := 0x80000, cmds := cs }
def cmd0 (opc : BitVec 8) (a : Nat) : HostCmd := ⟨opc, 0, 1, 0x100000, 0x10000, 64, BitVec.ofNat 256 a⟩
def hostS (cs : List HostCmd) : State := { trainS with slots := [0], hports := [(0, { HPort.reset with queues := [(1, queue1 cs)], hwin := [(0, 1)] })] }

theorem queue_served (cs : List HostCmd) : (hostS cs).qServed 0 1 = true := by
  have h : (hostS cs).qServed 0 1 = (hostS []).qServed 0 1 := rfl
  rw [h]
  decide +kernel

theorem test_begins (c : HostCmd) : (hostS [c]).Begins 0 1 c.opc.toNat c [] :=
  ⟨rfl, queue_served [c], rfl, fun r h => by exact absurd h List.not_mem_nil, fun _ => show 0 < 8 by decide⟩

theorem pond_place (b : Nat) (h : b < 2 ^ 26) : place (BitVec.ofNat 64 b) = .pond 0 0 b := by
  have hn : (BitVec.ofNat 64 b).toNat = b := by rw [BitVec.toNat_ofNat]; omega
  have h0 : b / 2 ^ 56 = 0 := Nat.div_eq_of_lt (by omega)
  have h1 : b / 2 ^ 36 % 2 ^ 20 = 0 := by rw [Nat.div_eq_of_lt (by omega), Nat.zero_mod]
  have h2 : b / 2 ^ 30 % 64 = 0 := by rw [Nat.div_eq_of_lt (by omega)]
  have h3 : b / 2 ^ 26 % 16 = 0 := by rw [Nat.div_eq_of_lt (by omega)]
  unfold place
  simp only [hn, h0, h1, h2, h3, Nat.mod_eq_of_lt h, if_true]

/-- The host reaches the whole pond of cluster 0. -/
theorem test_reaches (cs : List HostCmd) (m : List Host.Cell) (n : Nat) (w : Bool) (h : 0x10000 + n ≤ 2 ^ 26) :
    ({ hostS cs with mem := m }).Reaches 0 0x10000 n w := by
  refine ⟨show 0x10000 + n ≤ 2 ^ 57 by omega, ?_⟩
  intro b k hb hk h0
  have hk' : b + k ≤ 0x10000 + n := hk
  have hp : place (BitVec.ofNat 64 b) = .pond 0 0 b := pond_place b (by omega)
  have hl : ¬ (0 ≥ 56 ∨ 0 ≥ 10 ∨ b + k > 2 ^ 26) := by omega
  have hx : ({ hostS cs with mem := m }).polder 0 = (hostS []).polder 0 := rfl
  have hs : ({ hostS cs with mem := m }).siteIn 0 = true := by
    have e : ({ hostS cs with mem := m }).siteIn 0 = (hostS []).siteIn 0 := rfl
    rw [e]; decide +kernel
  have ho : ({ hostS cs with mem := m }).polderOn 0 = true := by
    have e : ({ hostS cs with mem := m }).polderOn 0 = (hostS []).polderOn 0 := rfl
    rw [e]; decide +kernel
  have hlost : ((hostS []).polder 0).lost = false := by decide +kernel
  simp only [State.hostRefuses, State.refuses, hp, if_neg hl, hx, hs, ho, hlost]
  rfl

theorem test_registers :
    (hostS []).hostOk 0 = true ∧ bar0Ok 0x600010 8 = true ∧ bar0Ok 3 8 = false ∧ State.reset.hostOk 0 = false ∧ (hostS []).regServed 0 0x600010 = true ∧
    ({ hostS [] with sec := { Sec.reset with stage := 5 } }).regServed 0 0x300000 = false ∧ (hostS []).safety.wfail = false ∧
    (hostS []).regServed 0 0x1000040 = true ∧ (hostS []).regServed 0 0x10E000 = true ∧
    (2 ^ 26 / 2 ^ 26 * 2 ^ 26) % (((hostS []).hport 0).bar2 / 16) ≠ 0 ∧ 0 % (((hostS []).hport 0).bar2 / 16) = 0 := by decide +kernel

theorem test_queues :
    (let x := ((hostS []).hport 0).queue 1
     (hostS []).regServed 0 (0x100010 + 0x100 * 1) = true ∧ x.enabled = true ∧ (((hostS []).hport 0).queue 2).enabled = false ∧
     (0x80000 : Word).getLsbD 19 = true ∧ (0 : Word).getLsbD 19 = false ∧ (hostS []).qServed 0 1 = true ∧ x.sqsize = 16 ∧ x.sqhead < x.sqsize ∧
     x.cqFull = false ∧ (1 : Nat) = (1 + x.sqsize - x.sqhead) % x.sqsize ∧ (cmd0 0x10 0).bad ((hostS []).sec.stage == 14) = false ∧
     (cmd0 0x99 0).bad ((hostS []).sec.stage == 14) = true ∧ (1 : Nat) = (x.sqhead + 1) % x.sqsize ∧ x.cqsize = 16 ∧ x.ring = []) := by
  decide +kernel

theorem test_bar2 :
    (hostS []).bar2Ok 0 = true ∧ 0x100 + 64 ≤ ((hostS []).hport 0).bar2 ∧ ((hostS []).hport 0).bar2Addr 0x100 = some 0x100 ∧
    (∀ w, (hostS []).hostRefuses 0 0x100 64 w = false) ∧
    (let s := { hostS [] with hports := [(0, { HPort.reset with hwin := [(0, BitVec.ofNat 64 (13 * 2 ^ 26 + 1))] })] }
     (s.hport 0).bar2Addr 0x100 = some (BitVec.ofNat 64 (13 * 2 ^ 26 + 0x100)) ∧
     ∀ w, s.hostRefuses 0 (BitVec.ofNat 64 (13 * 2 ^ 26 + 0x100)) 64 w = true) := by decide +kernel

/-- An intake ring of two slots of 256 bytes at the commands' device address, and a frame of 64 bytes. -/
def ringMem : List Host.Cell := [(0x10000 + 129, 1), (0x10000 + 132, 2)]
def frame0 : List Byte := leBytes 8 0 ++ leBytes 4 64 ++ leBytes 116 0

theorem test_intake :
    (let c := cmd0 0x12 (2 ^ 64)
     let s := { hostS [c] with mem := ringMem }
     c.arg 64 32 = 1 ∧ c.arg 0 64 = 0 ∧ s.slotBytes c.daddr = 256 ∧ s.natAt (c.daddr.toNat + 132) 4 = 2 ∧
     s.natAt (c.daddr.toNat + 64) 8 = 0 ∧ s.natAt c.daddr.toNat 8 = 0 ∧ s.safety.fence = false ∧
     ([frame0].length = 1 ∧ leNat (frame0.take 8) = 0 ∧ leNat ((frame0.drop 8).take 4) + 64 ≤ 256 ∧
       64 + leNat ((frame0.drop 8).take 4) ≤ frame0.length)) := by decide +kernel

theorem test_intake_waits :
    (let r : RunCmd := ⟨1, cmd0 0x12 (2 ^ 64), 2⟩
     let s := { hostS [] with mem := ringMem, hports := [(0, { HPort.reset with running := [r], compl := [⟨1, 1, 0, none, none, none⟩], queues := [(1, queue1 [])] })] }
     (s.hport 0).running.find? (fun x => x.q == 1 && x.cmd.opc == 0x12) = some r ∧
     s.natAt (r.cmd.daddr.toNat + 64) 8 + s.natAt (r.cmd.daddr.toNat + 132) 4 ≤ r.cmd.arg 0 64 + r.done ∧
     (s.hport 0).compl.find? (·.q == 1) = some ⟨1, 1, 0, none, none, none⟩ ∧ ((s.hport 0).queue 1).cqFull = false) := by decide +kernel

theorem test_export :
    (let c := cmd0 0x31 0
     exportShards c = [] ∧ (hostS [c]).exportPlan (exportShards c) = none ∧
     ({ hostS [c] with job := some job1 }).exportPlan (exportShards c) = some [] ∧
     (({ hostS [c] with job := some { job1 with desc := { job1.desc with shards := [] } } }).oneStep (exportShards c)).2 = some 0) := by
  decide +kernel

/-- A failure record. -/
def rec0 : FailRec := ⟨0x2503, 0, 0, 0, 0, 0, 0, 0, some 4, 0, none, none, 0, 0, 0, 0, 0, 0, 0⟩

theorem test_error_records :
    rec0.seq = some 4 ∧ (cmd0 0x42 0).arg 0 64 ≤ 4 ∧ 328 ≤ ({ cmd0 0x42 0 with len := 328 }).len.toNat ∧ (hostS []).safety.recs = [] := by
  decide +kernel

/-- A job of no unit at all. -/
def job2 : JobDesc := { job0 with clearwin := 100 }

theorem test_job_commands :
    (hostS []).takeTopo.jobRefusal job2 = none ∧ (hostS []).takeTopo.jobRefusal { job2 with cancelpol := 2 } = some 6 ∧ (hostS []).job = none ∧
    (newJob job2).start = none ∧ (newJob job2).state = 1 ∧ (newJob job2).subst = false ∧ (cmd0 0x21 1).arg 0 32 = job2.jobid.toNat ∧
    job2.jobid.toNat ≠ (cmd0 0x21 2).arg 0 32 ∧ (hostS []).stagesBad [] = false ∧ (hostS []).stagesBad [(8, 0)] = true ∧
    ({ hostS [] with group := { Group.reset with mgr := 1 } }).isMgr = false ∧ (hostS []).isMgr = true ∧ (hostS []).superior = none ∧
    (let s := { hostS [] with job := some { job1 with desc := { job1.desc with keyid := 3 } }, sec := { Sec.reset with stage := 9, keys := [(3, 5)] } }
     s.jobKey.isSome = true ∧ s.safety.fence = false ∧ s.group.desig = none ∧ s.flash.teeStep = none) ∧
    (hostS []).safety.tbusy = false := by decide +kernel

/-! ## Resets, security, observation -/

/-- A slot whose image passes the checks, with no fuse blown. -/
def bootS : State := { State.reset with sec := { Sec.reset with slots := [(0, fw0)] } }

theorem test_power_good :
    bootS.powered = false ∧ 2 ≤ (([0, 1, 2].map (fun f : Fin 4 => f.val)).eraseDups).length ∧ bootS.slotRefusal bootS.sec.active = none ∧
    State.reset.slotRefusal 0 = some 3 ∧ State.reset.slotRefusal (1 - 0) = some 3 ∧ State.reset.sec.active = 0 := by decide +kernel

theorem test_resets :
    (cmd0 0x50 1).arg 0 8 = 1 ∧ (cmd0 0x50 2).arg 0 8 = 2 ∧ (cmd0 0x50 (3 + 256 * 5)).arg 0 8 = 3 ∧ (cmd0 0x50 (3 + 256 * 5)).arg 8 8 = 5 ∧
    (let s := { hostS [] with sec := { Sec.reset with stage := 9, slots := [(0, fw0)] } }
     s.orderly = none ∧ s.slotRefusal s.sec.active = none ∧ s.mayPower = true ∧ s.powered = true ∧ s.safety.wfail = false) ∧
    ({ hostS [] with job := some job1 }).mayPower = false ∧ portResetHere ((hostS []).hport 0) 0 .hot = true ∧
    (let h : HPort := { HPort.reset with d3 := true }
     ({ hostS [] with hports := [(0, h)] }).hport 0 = h ∧ ∀ q < 16, (h.queue q).ring = []) := by decide +kernel

theorem test_security :
    fw0.refusal [] 0 0 = none ∧ FwImage.empty.refusal [] 0 0 = some 3 ∧
    Tbl.get ({ Sec.reset with okSlot := [(0, true)] }).okSlot false ((cmd0 0x61 0).arg 0 1) = true ∧
    Tbl.get ({ Sec.reset with okSlot := [(0, true)] }).okSlot false ((cmd0 0x61 1).arg 0 1) = false ∧
    ({ Sec.reset with running := some fw0 }).active = ({ Sec.reset with running := some fw0 }).slot ∧
    ({ Sec.reset with active := 1 }).active ≠ ({ Sec.reset with active := 1 }).slot ∧ (cmd0 0x64 3).arg 0 32 = 3 ∧
    (cmd0 0x65 3).arg 32 1 = 0 ∧ Fuse.factory.rekey < 64 ∧ 64 ≤ ({ Fuse.factory with rekey := 64 }).rekey ∧ (hostS []).devUp = true ∧
    (hostS []).sec.busy = false ∧ (hostS []).sec.exhausted = false ∧ ({ (hostS []).sec with busy := true }).busy = true := by decide +kernel

theorem test_selects :
    (hostS []).regServed 0 (0x500000 + 0x400 * clKey ⟨0, 0⟩ + 0x200 + 8 * 3) = true ∧ (hostS []).polderOn 0 = true ∧
    (0x1101 : Word).toNat % 256 < 0x20 ∧ ¬ (8 ≤ (0x1101 : Word).toNat / 256 % 16 ∧ (0x1101 : Word).toNat / 256 % 16 ≤ 14) ∧
    (0x1101 : Word).toNat / 4096 % 4 ≠ 3 ∧ (0x3000 : Word).toNat / 4096 % 4 = 3 ∧
    (hostS []).regServed 0 0x5E0000 = true ∧ (hostS []).regServed 0 0x5F0000 = true ∧ (hostS []).trace.openT = false ∧
    (hostS []).regServed 0 0x400010 = true := by decide +kernel

/-- A stored record, an event, and a mirror block with the record. -/
def recA : Rec := ⟨7, 0x5101, 0, 0, 1, 0, 0, leBytes 12 0⟩
def evA (code : Nat) : Event := ⟨code, 0, 0, [], 0, 0, 0⟩

theorem test_events :
    (let s := { hostS [] with evrec := { Recorder.reset with recs := [recA], queue := [evA 0x5102], mirror := [⟨0, 6, [{ recA with seq := 6 }], []⟩] } }
     (∀ x ∈ s.evrec.recs, ¬ (x.code = (evA 0x5102).code ∧ x.src = (evA 0x5102).src)) ∧
     usedGranules s.evrec.recs + (95 + (evA 0x5102).payload.length) / 64 ≤ 131072 ∧
     (∀ r ∈ s.evrec.recs, r.seq ≠ 6) ∧ (s.evrec.mirrored 6).isSome = true ∧ s.evrec.mirrored 5 = none ∧ (∃ r ∈ s.evrec.recs, r.seq = 7)) ∧
    (let x := { recA with pay := (evA 0x5101).payload }
     x.code = (evA 0x5101).code ∧ x.src = (evA 0x5101).src ∧ samePay x.pay (evA 0x5101).payload = true ∧ Rec.len x ≤ 4032 ∧
     x.bytes.length = Rec.len x) := by decide +kernel

/-- Trace is open, and the power ring is a block of 4 KiB. -/
theorem test_power_ring :
    (let s := { hostS [] with trace := { Trace.reset with openT := true, ctl := 8, rings := [(2, BitVec.ofNat 64 (2 ^ 18))] } }
     s.trace.openT = true ∧ s.trace.ctl.getLsbD 3 = true ∧ s.powered = true ∧ Tbl.get s.trace.wpOff 0 2 + 192 < s.ringSize 2 ∧
     Tbl.get s.trace.gaps 0 2 = 0 ∧ s.ringTakes 2 = true) := by decide +kernel

/-! ## Further clauses: scalar and vector instructions -/

theorem test_unassigned_opcode : opAssigned (0x7F : BitVec 7).toNat = false ∧ opAssigned (0x00 : BitVec 7).toNat = false ∧
    opAssigned (0x6F : BitVec 7).toNat = false ∧ Issues (coreS []) (coreS []) 0 [] 4 ∧ Issues (coreS []) (coreS []) 0 [] 8 ∧
    3 ≤ fld (rType 3 1 2 3) 22 10 :=
  ⟨by decide, by decide, by decide, core_issues _ _ _ rfl rfl rfl, core_issues _ _ _ rfl rfl rfl, by decide⟩

theorem test_remote_atomic :
    (let s := coreS [(1, 0x4000100)]
     isCore 0 = true ∧ fld (rType 3 1 2 2) 22 10 ≤ 2 ∧ s.ra 0 (rType 3 1 2 2) = 0x4000100 ∧ s.amoFault 0 0x4000100 = none ∧
     s.hazard 0 0x4000100 8 true = false ∧ localTo 0 0x4000100 = false) := by decide +kernel

theorem test_vector_moves :
    vaRm (vType 1 2 3 0 2 0) = 0 ∧ vaRm (vType 1 2 3 0 2 3) = 3 ∧ vaMz (vType 1 2 3 0 2 3) = false ∧ vaRm (vType 1 2 3 0 2 4) = 4 ∧
    vaRm (vType 1 2 3 0 2 1) = 1 ∧ vaMz (vType 1 2 3 0 2 1) = false ∧ vaVb (vType 1 2 3 0 2 1) < 512 / fmtWidth 2 ∧
    vaPg (vType 1 2 3 0 2 2) = 0 ∧ vaOk 0 (vType 1 2 3 0 2 0) = true ∧ Issues (coreS []) (coreS []) 0 (vmoveRegs (vType 1 2 3 0 2 0)) 4 ∧
    ((coreS []).proc 0).getP 0 = BitVec.allOnes 64 :=
  ⟨by decide, by decide, by decide, by decide, by decide, by decide, by decide, by decide, by decide, core_issues _ _ _ rfl rfl rfl,
    by decide⟩

theorem test_conversions : vcvtOk 0 2 0 = true ∧ vcvtOk 0 0 2 = true ∧ vcvtOk 0 3 3 = false ∧ max (typeWidth 2) (typeWidth 0) = 32 := by decide

/-! ## Further clauses: arrays, DMA, masks -/

theorem test_queued_accumulate :
    (let s := runs 0 { (coreA.proc 0) with a0 := { Arr.reset with ops := [pass1] } }
     (∃ q r, ((s.proc 0).arr 0).ops = q :: r ∧ q.kind ≠ .acc) ∧ s.arrStall 0 0 none = false ∧
     firstTrap [s.arrOut 0 0, aaccTrap (s.proc 0) (l64 0 1 2 0 0 0 0 1 0 0 0) 0] = none) :=
  ⟨⟨pass1, [], rfl, by decide⟩, by decide, by decide +kernel⟩

theorem test_load_refused :
    (let s := coreP (fun p => { p with a0 := { Arr.reset with loads := [{ load1 with fail := true }] } })
     (s.array 0 0).loads = { load1 with fail := true } :: [] ∧ load1.ahead = 0 ∧ load1.tag < 32 ∧ s.pondMark = []) := by decide +kernel

/-- A diagonal of two vectors of one array, of plain binary16 data. -/
def diag1 : ArrOp := { newOp at1000 .diag 0 with n := 2, tag := some 1, d1 := tens 0x10000 0 128 2 256,
                                                 d2 := tens 0x20000 0 128 2 256, d3 := tens 0x30000 0 128 2 256 }

theorem test_diagonal_vector :
    diag1.kind = .diag ∧ diag1.fail = false ∧ diag1.pos + 1 < diag1.n ∧ diag1.pos % 128 ≠ 127 ∧ diag1.mode ≠ mSR ∧ diag1.src1 = [] ∧
    dKind diag1.d1 = 0 ∧ dKind diag1.d2 = 0 ∧ dKind diag1.d4 = 0 ∧ dMdv diag1.d1 = false ∧ dMdv diag1.d3 = false ∧
    place (dVec diag1.d3 diag1.pos) = .pond 0 0 0x30000 ∧ 0x30000 + 128 * esize diag1.out ≤ 2 ^ 26 := by decide +kernel

theorem test_local_dput :
    (let x := tens 0x20000 0 64 1 128
     let y := tens 0x30000 0 64 1 128
     coreM.dmaRefused 0 false (dmaParts x y) = none ∧ dmaParts x y = [(0x20000, 0x30000, 128)] ∧ localTo 0 0x20000 = true ∧
     localTo 0 0x30000 = true ∧ coreM.pondMark = [] ∧ coreM.traced 0 = false ∧ place 0x20000 = .pond 0 0 0x20000 ∧
     mcValid (Tbl.get (({ coreM with nodes := [(nodeOfUnit 0, { Node.reset with multi := [(9, 0x800)] })] }).node (nodeOfUnit 0)).multi 0 9)
       = true) := by decide +kernel

theorem test_mask_completes :
    (let src := tens 0x20000 0 128 128 256
     let dst := tens 0x30000 0 64 128 128 ||| BitVec.ofNat 256 (2 ^ 75 + 2 ^ 216 * (0x40000 / 64))
     let s (f : Nat) : State := { up with clusters := [(0, { Cluster.reset with prune := [⟨0, f, src, dst, 0, false, 1, false⟩] })] }
     (∀ f ∈ [0, 2], ((s f).cluster (clKey ⟨0, 0⟩)).prune = ⟨0, f, src, dst, 0, false, 1, false⟩ :: [] ∧ (s f).polderOn 0 = true ∧
       (s f).safety.fence = false) ∧ place (dBase dst) = .pond 0 0 0x30000 ∧ dHdrv dst = false ∧
     ownPond 0 (dBase dst) (8192 * esize 0) = true ∧ ownPond 0 (dMd dst) 1088 = true) := by decide +kernel

/-! ## Further clauses: Springs, gradients, updates -/

theorem test_waves_beside :
    ((waveAt .stopped).spring 0).waves.length < 4 ∧
    (∀ v ∈ ((waveAt .stopped).spring 0).waves, v.phase = .gate ∨ v.phase = .seal ∨ v.phase = .stopped) ∧
    (∀ x ∈ (waveAt .stopped).xfers, x.err = false) := by decide +kernel

theorem test_restream_not_logged :
    (let s := { waveS with springs := [(0, { spr1 with rsQ := [⟨3, 9, 0, 0⟩] })] }
     (s.spring 0).rsQ = ⟨3, 9, 0, 0⟩ :: [] ∧ (s.spring 0).logged ⟨3, 9, 0, 0⟩ = none) := by decide +kernel

/-- A message of a Sluice to the engine at coordinate 1, whose port is up. -/
theorem test_gsend_message :
    (let s := { sluS [tag0] (entry0 4) with
                group := { Group.reset with extm1 := 3 }, ports := [(48, { LPort.reset with state := 2, bind := 2 })] }
     let m : Message := { mkMessage s 5056 .blk 1 (nodeOfSluice 0) 0 s.nextId with ncell := 1 }
     (1 : Word).toNat < 65536 ∧ inTorus s.group.extm1 m.dst = true ∧ torusDir s.group.extm1 s.group.coord m.dst = some 2 ∧
     (s.pickPort 2 m).isSome = true ∧ (accEntry (s.bytesAt (entryAddr tag0 0).toNat 128)).resBad = true) := by decide +kernel

theorem test_inbox_turned_away :
    ((ueS ueP id (seal0 8 8 8 false)).ue 0).takes 8 0 = false := by decide +kernel

theorem test_seal_digests :
    (let g : Gather := ⟨0, 9, 1, 3, 5⟩
     g.shard = shard0.shard ∧ g.stage = 3 ∧ g.digest ≠ (seal0 9 9 8 false).digest) := by decide +kernel

/-! ## Further clauses: the mesh -/

theorem test_multicast_leaf :
    (let p := { pk .mc 3 1 with group := 5, inp := 4 }
     let e : Word := BitVec.ofNat 64 (1 + 256 * 4 + 2 ^ 11)
     let s := { meshS p with nodes := [(1, { Node.reset with multi := [(5, e)] })] }
     mcValid e = true ∧ mcIn e = p.inp ∧ meshNext p.loc p.inp = some 0 ∧ isClNode p.loc = true ∧
     (List.range 8).filter (fun o => decide (1 ≤ o) && e.getLsbD o) = [] ∧ e.getLsbD 0 = true ∧
     e = Tbl.get (s.node p.loc).multi 0 p.group ∧ mcIn e ≠ ({ p with inp := 2 } : Packet).inp) := by decide +kernel

theorem test_vector_answer :
    (let p := pk .rdr 2 0
     let s := { meshS p with reqs := [⟨7, 0, 0, 0x400, .vload 3 8 1 false⟩] }
     hasArrived s p = true ∧ s.reqOf p.tid = some ⟨7, 0, 0, 0x400, .vload 3 8 1 false⟩) := by decide +kernel

theorem test_router_grants :
    (let p := { pk .rd 1 0 with dst := 3 }
     let q := { pk .ctl 0 0 with dst := 3 }
     let s := { meshS p with mesh := [p, q] }
     s.routeOf p = some 2 ∧ s.outDown 0 2 = none ∧ (s.grant 0 2).map (fun e => (e.1.cls, e.2.1, e.2.2.1)) = some (0, 1, 0) ∧
     q.cls ≠ 3 ∧ (p, 0) ∈ s.ready 0 2 ∧ s.hasCredit p 2 = true ∧
     ({ s with mesh := p :: List.replicate 9 { p with loc := 1, inp := portBack 0 1 } }).grant 0 2 = none) := by decide +kernel

theorem test_router_queue_full :
    (let q := { gpkt .gblk 3 false with loc := 0, out := some 2, held := true, gtag := 7 }
     let p := { gpkt .gblk 3 false with loc := 0, out := none }
     let s := { up with mesh := p :: List.replicate 32 q }
     32 ≤ (s.gblkQueue 0 2).length ∧ q.matches p = false ∧ s.routeOf p = some 2 ∧ s.outDown 0 2 = none) := by decide +kernel

set_option exponentiation.threshold 2000 in
/-- Of two flits alike in all but their CRC-16, one at least is bad: so some error makes any flit bad. -/
theorem flit_bad (x : BitVec 1048) : ∃ e, flitGood (x ^^^ e) = false := by
  have hx : ∀ z, x ^^^ (x ^^^ z) = z := fun z => by rw [← BitVec.xor_assoc]; simp
  have h0 : flitGood 0 = (flitCrc (leBytes 128 0) 0 == 0) := by
    unfold flitGood
    dsimp only
    rw [show (0 : BitVec 1048).toNat = 0 from rfl, Nat.zero_mod, Nat.zero_div, Nat.zero_mod, Nat.zero_div, Nat.zero_mod]
  have h1 : flitGood (BitVec.ofNat 1048 (2 ^ 1031)) = (flitCrc (leBytes 128 0) 0 == 1) := by
    unfold flitGood
    dsimp only
    rw [show (BitVec.ofNat 1048 (2 ^ 1031)).toNat % 2 ^ 1024 = 0 by decide +kernel,
      show (BitVec.ofNat 1048 (2 ^ 1031)).toNat / 2 ^ 1024 % 128 = 0 by decide +kernel,
      show (BitVec.ofNat 1048 (2 ^ 1031)).toNat / 2 ^ 1024 / 128 % 2 ^ 16 = 1 by decide +kernel]
  by_cases h : flitCrc (leBytes 128 0) 0 = 0
  · exact ⟨x ^^^ BitVec.ofNat 1048 (2 ^ 1031), by rw [hx, h1, h]; rfl⟩
  · exact ⟨x ^^^ 0, by rw [hx, h0]; simpa using h⟩

/-- A lane that has sent one flit, and one whose receiver has asked for 16 replays within a second of work clock. -/
theorem test_flit_replays :
    (let f : SentFlit := ⟨{ pk .rd 1 0 with dst := 3 }, 0, 9⟩
     let nd : Node := { Node.reset with sent := [(laneKey 2 1, [f])] }
     let s := { up with nodes := [(0, nd)] }
     let full : Node := { nd with replays := [(laneKey 2 1, List.replicate 16 0)], failed := [(laneKey 2 1, 9, 3)] }
     (Tbl.get (s.node 0).sent [] (laneKey 2 1))[0]? = some f ∧ f.pkt.cls < 8 ∧ (∃ e, flitGood (f.pkt.laneBits f.idx ^^^ e) = false) ∧
     (nd.replayTimes (laneKey 2 1) 0).length ≤ 16 ∧ nd.failedReplays (laneKey 2 1) f.no < 4 ∧
     16 < (full.replayTimes (laneKey 2 1) 0).length ∧ 4 ≤ full.failedReplays (laneKey 2 1) f.no) :=
  ⟨by decide +kernel, by decide, flit_bad _, by decide +kernel, by decide +kernel, by decide +kernel, by decide +kernel⟩

/-! ## Further clauses: barriers, Lake, flash, safety, resets -/

theorem test_release_frames :
    (let s := { up with bars := [(0, { BarNode.reset with rel := 9, data := stepFrames 9, stepNo := 9 })], procs := [(0, { at1000 with inBar := some (3, false) })] }
     (s.bar 0).data ≠ [] ∧ s.barUp 1 = some 0 ∧ s.polderOn 1 = true ∧ polderOfNode 0 = 0 ∧ (s.bar 0).rel.getLsbD 0 = true ∧
     (s.proc 0).inBar = some (3, false) ∧ (s.bar 0).rel.getLsbD 3 = true ∧ s.safety.fence = false) ∧
    (let s := { up with bars := [(56, { BarNode.reset with expect := [(0, 1)], count := [(0, 1)] })] }
     s.barFull 56 0 = true ∧ (∀ c < 16, c ≠ 0 → s.barFull 56 c = false) ∧ s.barScope 0 = false) := by decide +kernel

theorem test_start_waits :
    (let s := { up with job := some job1, bars := [(56, { BarNode.reset with sentUp := 1 })] }
     let j := { job1 with sched := some 5 }
     s.ref < 5 ∧ s.gateMet j = true ∧ s.mayLend j = false) := by decide +kernel

theorem test_marks :
    (let s := lakeS up
     Tbl.get s.lakeMark none (0 * 2 ^ 30 + (s.stack 0).patrol / 64) = none ∧ (0 : Nat) * 2 ^ 30 + (s.stack 0).patrol / 64 = 0 ∧
     scrubOff (s.cluster 0).scrub / 64 = 0) := by decide +kernel

/-- A command of queue 61, and one of the Warden's that it waits for. -/
theorem test_flash_waits :
    (let c : FlCmd := ⟨1, 1, 64, 4096, 2 ^ 56 + 2 ^ 20, 2 ^ 56 + 2 ^ 21, 9, true⟩
     let s := flashS 1
     s.flReady 60 c = true ∧ s.flYields 60 c = false ∧ s.flServed 60 c = true ∧ flPartial c ≠ none ∧
     flPartial { c with len := 4096 } = none ∧ 
     ({ s with flash := { s.flash with teeStep := none } }).gcWaits 0 = false ∧
     ({ s with flash := { s.flash with teeStep := none } }).gcWaits (flChanAt 4096) = true ∧
     (flashS 2).flServed 60 { c with opc := 2 } = true ∧ s.flYields 5 { c with opc := 2 } = true) := by decide +kernel

theorem test_parity_hypotheses :
    (runs 0 at1000).coreLive (coreKey c0) = true ∧ (runs 0 at1000).safety.queue = [] ∧ (runs 0 at1000).safety.fence = false := by decide

set_option maxRecDepth 20000 in
theorem test_restart_served :
    (let s := sealed (seal0 9 9 9 false) (restartS 5)
     scaleAt job1.desc = none ∧
     (s.job.map (fun j => (((s.takeCell 0 (cell (.restartDecision 0 9 10)) false).1.beginRestart j 9 10 false).spanServed nodeN16 (sealAddr s 0) 64))) =
       some true) := by decide +kernel

theorem test_lake_held : (lakeS up).lakeHeld = true ∧ ({ lakeS up with stackCtl := [(0, { Stack.reset with failed := true })] }).lakeHeld = false := by
  decide +kernel

/-! ## Invariants -/

theorem test_step_goes_on : Memory.wf (hostS []).mem = true ∧ step (hostS []) = .next { hostS [] with ref := (hostS []).ref + 1 } ∧
    ({ hostS [] with pending := [.capNotMet] }).pending = Instr.capNotMet :: [] := ⟨rfl, rfl, rfl⟩

end Sys2Proof.Tests
end

section
/-! Every step keeps the memory canonical (O58). The memory is one field of the state, and most operations do not touch
it: a lemma `f_mem` says that `f` leaves it as it is. The others change it by `memPut`, `memWrite`, `memWriteMask`,
`memClear` and `keepMem`, of which `Sys2Proof/Laws/Mem.lean` shows that they keep `Memory.wf`: a lemma `f_wf` says that
`f` keeps it. The lemmas stand in the order of the model's definitions, each resting on those of the operations that it
calls, up to one lemma for each command; `exec_wf` puts these together. -/

namespace Sys2Proof.Machine
open Sys2Proof

/-! ## Branches, answers and loops -/

/-- A choice between two states has the memory of the one chosen. -/
theorem State.mem_ite {c : Prop} [Decidable c] (a b : State) :
    (if c then a else b).mem = if c then a.mem else b.mem :=
  apply_ite _ c a b

theorem Memory.wf_ite {c : Prop} [Decidable c] (m n : List Host.Cell) :
    Memory.wf (if c then m else n) = if c then Memory.wf m else Memory.wf n := apply_ite _ c m n

/-- The state that an operation answers beside a value. -/
theorem mem_of_eq {α : Type} {p : State × α} {t : State} {x : α} (e : p = (t, x)) : t.mem = p.1.mem := by rw [e]

theorem wf_of_eq {α : Type} {p : State × α} {t : State} {x : α} (e : p = (t, x)) (h : Memory.wf p.1.mem) :
    Memory.wf t.mem := by rwa [mem_of_eq e]

theorem foldl_mem {β : Type} {f : State → β → State} (hf : ∀ t x, (f t x).mem = t.mem) (s : State)
    (l : List β) : (l.foldl f s).mem = s.mem := by
  induction l generalizing s with
  | nil => rfl
  | cons x r ih => rw [List.foldl_cons, ih, hf]

theorem foldl_wf {β : Type} {f : State → β → State} {s : State} (h : Memory.wf s.mem)
    (hf : ∀ t x, Memory.wf t.mem → Memory.wf (f t x).mem) (l : List β) : Memory.wf (l.foldl f s).mem := by
  induction l generalizing s with
  | nil => exact h
  | cons x r ih => exact ih (hf s x h)

theorem foldl_fst_mem {α β : Type} {f : State × α → β → State × α} (hf : ∀ p x, (f p x).1.mem = p.1.mem)
    (p : State × α) (l : List β) : (l.foldl f p).1.mem = p.1.mem := by
  induction l generalizing p with
  | nil => rfl
  | cons x r ih => rw [List.foldl_cons, ih, hf]

theorem foldl_fst_wf {α β : Type} {f : State × α → β → State × α} {p : State × α} (h : Memory.wf p.1.mem)
    (hf : ∀ q x, Memory.wf q.1.mem → Memory.wf (f q x).1.mem) (l : List β) : Memory.wf (l.foldl f p).1.mem := by
  induction l generalizing p with
  | nil => exact h
  | cons x r ih => exact ih (hf p x h)

theorem memPuts_wf {m : List Host.Cell} (h : Memory.wf m) (l : List Host.Cell) :
    Memory.wf (l.foldl (fun m c => memPut m c.1 c.2) m) := by
  induction l generalizing m with
  | nil => exact h
  | cons c l ih => exact ih (Memory.wf_put _ _ _ h)

theorem memClears_wf {m : List Host.Cell} (h : Memory.wf m) (key : Nat → Nat) (n : Nat) (l : List Nat) :
    Memory.wf (l.foldl (fun m b => memClear m (key b) n) m) := by
  induction l generalizing m with
  | nil => exact h
  | cons b l ih => exact ih (Memory.wf_clear _ _ _ h)

theorem keepMem_wf {m : List Host.Cell} {lake} (h : Memory.wf m) : Memory.wf (keepMem m lake) := Memory.wf_filter _ _ h

/-- To prove of one function what follows from a property of another that it calls, with any function that has the
property in its place: the kernel then has nothing to compute in the call. -/
theorem forAny {α : Type} {motive : α → Prop} (a : α) (any : ∀ x, motive x) : motive a := any a

/-- Where a command goes on, it goes on with the memory canonical. -/
def CanonicalAfter (o : Host.Outcome State Fault Refusal) : Prop :=
  match o with
  | .next t => Memory.wf t.mem
  | _ => True

theorem canonicalAfter_next (t : State) : CanonicalAfter (.next t) ↔ Memory.wf t.mem := Iff.rfl

variable {s : State}

/-! ## Operations of the state -/

@[simp] theorem State.takeId_mem : s.takeId.2.mem = s.mem := rfl

@[simp] theorem State.poison_mem {p} : (s.poison p).mem = s.mem := rfl

@[simp] theorem State.detect_mem {code src unit pay} : (s.detect code src unit pay).mem = s.mem := by
  simp only [State.detect, State.emit_mem, State.poison_mem, ite_self, State.mem_ite]

@[simp] theorem State.latent_mem {s0 mech} : (s.latent s0 mech).mem = s.mem := rfl

@[simp] theorem State.failRecAt_mem {code mech react sev src unit addr} :
    (s.failRecAt code mech react sev src unit addr).mem = s.mem := rfl

@[simp] theorem State.failRec_mem {code react sev src unit} : (s.failRec code react sev src unit).mem = s.mem := rfl

@[simp] theorem State.countCl_mem {c ev core arr n} : (s.countCl c ev core arr n).mem = s.mem := by
  simp only [State.countCl, State.setCluster_mem, ite_self, State.mem_ite]

@[simp] theorem State.countEv_mem {k ev arr n} : (s.countEv k ev arr n).mem = s.mem := by
  simp only [State.countEv, State.countCl_mem, ite_self, State.mem_ite]

@[simp] theorem State.countEmb_mem {u i n} : (s.countEmb u i n).mem = s.mem := by
  simp only [State.countEmb, ite_self, State.mem_ite]

theorem State.putLine_wf {r line} (h : Memory.wf s.mem) : Memory.wf (s.putLine r line).mem :=
  Memory.wf_write _ _ _ h

@[simp] theorem State.dropLine_mem {r} : (s.dropLine r).mem = s.mem := rfl

theorem State.traceLine_wf {r line} (h : Memory.wf s.mem) : Memory.wf (s.traceLine r line).mem := by
  simp only [State.traceLine, State.dropLine_mem, State.putLine_wf, h, ite_self, State.mem_ite, Memory.wf_ite]

theorem State.traceAtom_wf {k pc atom} (h : Memory.wf s.mem) : Memory.wf (s.traceAtom k pc atom).mem := by
  simp only [State.traceAtom, State.traceLine_wf, h, ite_self, State.mem_ite, Memory.wf_ite]

@[simp] theorem State.tagDone_mem {k t err} : (s.tagDone k t err).mem = s.mem := rfl

@[simp] theorem State.halt_mem {k} : (s.halt k).mem = s.mem := rfl

@[simp] theorem State.haltRec_mem {k code} : (s.haltRec k code).mem = s.mem := rfl

@[simp] theorem State.refusedEvent_mem {k a} : (s.refusedEvent k a).mem = s.mem := rfl

@[simp] theorem State.readWord_mem {a requestor} : (s.readWord a requestor).1.mem = s.mem := by
  unfold State.readWord
  split <;> simp only [State.countCl_mem, State.emit_mem, State.detect_mem]

@[simp] theorem State.stackFail_mem {st} : (s.stackFail st).mem = s.mem := by
  simp only [State.stackFail, State.poison_mem, State.emit_mem, State.setStack_mem, ite_self, State.mem_ite]

@[simp] theorem State.accessLost_mem {st acc off} : (s.accessLost st acc off).mem = s.mem := by
  simp only [State.accessLost, State.setStack_mem, State.detect_mem, State.stackFail_mem, ite_self, State.mem_ite]

@[simp] theorem State.readAccess_mem {st acc off} : (s.readAccess st acc off).1.mem = s.mem := by
  unfold State.readAccess
  dsimp only
  split <;> simp only [State.countEmb_mem, State.emit_mem, State.accessLost_mem]

@[simp] theorem State.readLine_mem {off} : (s.readLine off).1.mem = s.mem := by
  simp only [State.readLine, State.readAccess_mem]

@[simp] theorem State.countLines_mem {i off fuel} : (s.countLines i off fuel).mem = s.mem := by
  induction fuel generalizing s off with
  | zero => rfl
  | succ m ih =>
    simp only [State.countLines, State.countEmb_mem, ih]

@[simp] theorem State.scan_mem {lake unit requestor fuel} : (s.scan lake unit requestor fuel).1.mem = s.mem := by
  induction fuel generalizing s unit with
  | zero => rfl
  | succ m ih =>
    simp only [State.scan, State.readLine_mem, State.readWord_mem, ih, ite_self, State.mem_ite, apply_ite Prod.fst]

@[simp] theorem State.eccRead_mem {a n requestor} : (s.eccRead a n requestor).1.mem = s.mem := by
  unfold State.eccRead
  split <;> simp only [State.scan_mem, State.countLines_mem, ite_self, State.mem_ite, apply_ite Prod.fst]

theorem State.writeUnit_wf {lake key bs whole requestor} (h : Memory.wf s.mem) :
    Memory.wf (s.writeUnit lake key bs whole requestor).1.mem := by
  simp only [State.writeUnit, Memory.wf_writeMask, State.readLine_mem, State.readWord_mem, h, ite_self,
      State.mem_ite, Memory.wf_ite, apply_ite Prod.fst]

theorem State.writeUnits_wf {lake g key bs requestor fuel} (h : Memory.wf s.mem) :
    Memory.wf (s.writeUnits lake g key bs requestor fuel).1.mem := by
  induction fuel generalizing s key bs with
  | zero => exact h
  | succ m ih =>
    simp only [State.writeUnits, State.writeUnit_wf, h, ih, ite_self, State.mem_ite, Memory.wf_ite,
        apply_ite Prod.fst]

theorem State.eccWrite_wf {a bs requestor} (h : Memory.wf s.mem) : Memory.wf (s.eccWrite a bs requestor).1.mem := by
  unfold State.eccWrite
  split <;> simp only [setMem_mem, Memory.wf_writeMask, State.writeUnits_wf, State.countLines_mem, h, ite_self,
      State.mem_ite, Memory.wf_ite, apply_ite Prod.fst]

@[simp] theorem State.requestGaps_mem {owner node kind pk a size data op gaps} :
    (s.requestGaps owner node kind pk a size data op gaps).mem = s.mem := rfl

@[simp] theorem State.request_mem {owner node kind pk a size data op} :
    (s.request owner node kind pk a size data op).mem = s.mem := rfl

@[simp] theorem State.haltTrap_mem {k cause tval pc} : (s.haltTrap k cause tval pc).mem = s.mem := rfl

theorem State.trap_wf {k cause sub tval slot1} (h : Memory.wf s.mem) :
    Memory.wf (s.trap k cause sub tval slot1).mem := by
  unfold State.trap
  dsimp only
  (repeat' split) <;> simp only [State.haltRec_mem, State.emit_mem, State.haltTrap_mem, State.traceAtom_wf,
      State.countEv_mem, State.setProc_mem, h]

theorem State.retire_wf {k p len slot0 atom} (h : Memory.wf s.mem) : Memory.wf (s.retire k p len slot0 atom).mem := by
  simp only [State.retire, State.traceAtom_wf, State.countEv_mem, State.setProc_mem, h]

theorem State.transfer_wf {k p target slot0 atom} (h : Memory.wf s.mem) :
    Memory.wf (s.transfer k p target slot0 atom).mem := by
  unfold State.transfer
  dsimp only
  split <;> simp only [State.traceAtom_wf, State.countEv_mem, State.setProc_mem, State.trap_wf,
      State.refusedEvent_mem, h, ite_self, State.mem_ite]

@[simp] theorem State.fetch_mem {k len} : (s.fetch k len).1.mem = s.mem := by
  unfold State.fetch
  dsimp only
  (repeat' split) <;> simp only [State.eccRead_mem]

theorem State.issue_wf {k regs len word g} (h : Memory.wf s.mem)
    (hg : ∀ t : State, Memory.wf t.mem → Memory.wf (g t).mem) : Memory.wf (s.issue k regs len word g).mem := by
  unfold State.issue
  grind only [State.fetch_mem, ← State.trap_wf]

theorem State.finish_wf {k len slot0 slot1 r} (h : Memory.wf s.mem) :
    Memory.wf (s.finish k len slot0 slot1 r).mem := by
  unfold State.finish
  split <;> simp only [State.retire_wf, State.transfer_wf, State.trap_wf, h]

theorem State.runInstr_wf {k regs slot0 f} (h : Memory.wf s.mem) : Memory.wf (s.runInstr k regs slot0 f).mem := by
  refine State.issue_wf h fun t ht => ?_
  simp only [State.finish_wf, ht]

/-! ## The Weir -/

@[simp] theorem State.weirPoison_mem {code cl r more} : (s.weirPoison code cl r more).mem = s.mem := rfl

@[simp] theorem State.setExec_mem {cl core e} : (s.setExec cl core e).mem = s.mem := rfl

@[simp] theorem State.cancelRecord_mem {cl core arr sp n} : (s.cancelRecord cl core arr sp n).mem = s.mem := by
  simp only [State.cancelRecord, State.emit_mem, State.poison_mem, ite_self, State.mem_ite]

@[simp] theorem State.weirAct_mem {cl r} : (s.weirAct cl r).mem = s.mem := by
  unfold State.weirAct
  dsimp only
  split <;> simp only [State.setExec_mem, State.weirPoison_mem, State.detect_mem, State.cancelRecord_mem, ite_self,
      State.mem_ite]

@[simp] theorem State.flushCancels_mem {k} : (s.flushCancels k).mem = s.mem := by
  unfold State.flushCancels
  split <;> simp only [State.cancelRecord_mem, State.setExec_mem, ite_self, State.mem_ite]

@[simp] theorem State.verdictLeft_mem {k} : (s.verdictLeft k).mem = s.mem := by
  simp only [State.verdictLeft, State.flushCancels_mem, ite_self, State.mem_ite]

@[simp] theorem State.fenceExec_mem {k} : (s.fenceExec k).mem = s.mem := by
  simp only [State.fenceExec, State.verdictLeft_mem, State.setExec_mem, State.setCluster_mem, State.flushCancels_mem,
      ite_self, State.mem_ite]

theorem execWeirReport_wf {k} (h : Memory.wf s.mem) : CanonicalAfter (execWeirReport k s) := by
  unfold execWeirReport
  dsimp only
  split <;> simp only [State.verdictLeft_mem, State.weirAct_mem, State.setCluster_mem, h, canonicalAfter_next]

@[simp] theorem State.weirStepCl_mem {cl wlimit} : (s.weirStepCl cl wlimit).mem = s.mem := by
  simp only [State.weirStepCl, State.setCluster_mem, State.emit_mem, ite_self, State.mem_ite, foldl_mem, implies_true]

@[simp] theorem State.weirStep_mem : s.weirStep.mem = s.mem := by
  simp only [State.weirStep, State.weirStepCl_mem, foldl_mem, implies_true]

theorem execSpanBegin_wf {u f} (h : Memory.wf s.mem) : CanonicalAfter (execSpanBegin u f s) := by
  refine State.issue_wf h fun t ht => ?_
  simp only [State.finish_wf, State.trap_wf, State.retire_wf, State.countEv_mem, State.setExec_mem, ht, ite_self,
      State.mem_ite, Memory.wf_ite]

@[simp] theorem State.sendRestream_mem {k sp} : (s.sendRestream k sp).mem = s.mem := by
  simp only [State.sendRestream, State.send_mem, ite_self, State.mem_ite]

@[simp] theorem State.sendRelease_mem {k sp} : (s.sendRelease k sp).mem = s.mem := by
  simp only [State.sendRelease, State.send_mem, ite_self, State.mem_ite]

theorem execSpanEnd_wf {u f} (h : Memory.wf s.mem) : CanonicalAfter (execSpanEnd u f s) := by
  refine State.issue_wf h fun t ht => ?_
  dsimp only
  (repeat' split) <;> simp only [State.finish_wf, State.trap_wf, State.setExec_mem, State.flushCancels_mem,
      State.setCluster_mem, State.countEv_mem, State.emit_mem, State.transfer_wf, State.sendRestream_mem,
      State.retire_wf, State.sendRelease_mem, ht]

/-! ## What the array instructions share -/

theorem State.issue64_wf {k op f ok regs g} (h : Memory.wf s.mem)
    (hg : ∀ t : State, Memory.wf t.mem → Memory.wf (g t).mem) : Memory.wf (s.issue64 k op f ok regs g).mem := by
  refine State.issue_wf h fun t ht => ?_
  split
  · exact hg t ht
  · exact State.finish_wf ht

theorem State.trap1_wf {k t} (h : Memory.wf s.mem) : Memory.wf (s.trap1 k t).mem := by
  simp only [State.trap1, State.trap_wf, h]

@[simp] theorem State.badWords_mem {req ws} : (s.badWords req ws).1.mem = s.mem := by
  induction ws generalizing s with
  | nil => rfl
  | cons x r ih =>
    simp only [State.badWords, State.readWord_mem, ih]

@[simp] theorem State.readMeta_mem {k rs} : (s.readMeta k rs).1.mem = s.mem := by
  induction rs generalizing s with
  | nil => rfl
  | cons x r ih =>
    simp only [State.readMeta, State.eccRead_mem, ih]

@[simp] theorem State.readElems_mem {k es as} : (s.readElems k es as).1.mem = s.mem := by
  simp only [State.readElems, State.badWords_mem, ite_self, State.mem_ite, apply_ite Prod.fst]

@[simp] theorem State.report_mem {k a inSpan kind} : (s.report k a inSpan kind).mem = s.mem := rfl

@[simp] theorem State.feedVec_mem {k a inSpan d src dst n v} :
    (s.feedVec k a inSpan d src dst n v).1.mem = s.mem := by
  simp only [State.feedVec, State.readElems_mem, State.report_mem, ite_self, State.mem_ite]

@[simp] theorem State.readHdr_mem {k a inSpan addr} : (s.readHdr k a inSpan addr).1.mem = s.mem := by
  unfold State.readHdr
  dsimp only
  (repeat' split) <;> simp only [State.eccRead_mem, State.report_mem]

@[simp] theorem State.readHdrs_mem {k a inSpan as} : (s.readHdrs k a inSpan as).1.mem = s.mem := by
  induction as generalizing s with
  | nil => rfl
  | cons x r ih =>
    simp only [State.readHdrs, State.readHdr_mem, ih]

theorem State.setPondBit_wf {k addr m} (h : Memory.wf s.mem) : Memory.wf (s.setPondBit k addr m).mem := by
  simp only [State.setPondBit, State.eccWrite_wf, h]

theorem State.sparseFault_wf {k unit sub tval hdr} (h : Memory.wf s.mem) :
    Memory.wf (s.sparseFault k unit sub tval hdr).mem := by
  unfold State.sparseFault
  split <;> simp only [State.setPondBit_wf, State.trap_wf, State.emit_mem, h]

/-! ## Issue of the array instructions -/

@[simp] theorem State.refuseRanges_mem {k rs} : (s.refuseRanges k rs).1.mem = s.mem := by
  unfold State.refuseRanges
  split <;> simp only [State.refusedEvent_mem]

theorem execAload_wf {u f} (h : Memory.wf s.mem) : CanonicalAfter (execAload u f s) := by
  refine State.issue64_wf h fun s1 h1 => ?_
  extract_lets
  split
  · exact h1
  split
  · exact State.trap1_wf h1
  split
  next s2 bad1 e2 =>
  have h2 : Memory.wf s2.mem := wf_of_eq e2 (by rwa [State.refuseRanges_mem])
  split
  next s3 unc e3 =>
  have h3 : Memory.wf s3.mem :=
    wf_of_eq e3 (by simpa only [State.readMeta_mem, ite_self, State.mem_ite, apply_ite Prod.fst])
  extract_lets
  split
  · exact State.trap1_wf h1
  split
  next s4 bad2 e4 =>
  have h4 : Memory.wf s4.mem :=
    wf_of_eq e4 (by simpa only [State.refuseRanges_mem, ite_self, State.mem_ite, apply_ite Prod.fst])
  extract_lets
  split
  next s5 hs e5 =>
  have h5 : Memory.wf s5.mem := wf_of_eq e5 (by rwa [State.readHdrs_mem])
  split
  · exact State.trap1_wf h1
  split
  · exact State.trap1_wf h1
  · exact State.retire_wf h5

theorem execAswap_wf {u f} (h : Memory.wf s.mem) : CanonicalAfter (execAswap u f s) := by
  refine State.issue64_wf h fun t ht => ?_
  split <;> simp only [State.trap1_wf, State.retire_wf, ht, ite_self, State.mem_ite, Memory.wf_ite]

theorem execAstream_wf {u f} (h : Memory.wf s.mem) : CanonicalAfter (execAstream u f s) := by
  refine State.issue64_wf h fun s1 h1 => ?_
  extract_lets
  split
  · exact h1
  split
  · exact State.trap1_wf h1
  split
  next s2 refd e2 =>
  have h2 : Memory.wf s2.mem := wf_of_eq e2 (by rwa [State.refuseRanges_mem])
  split
  next s3 unc e3 =>
  have h3 : Memory.wf s3.mem :=
    wf_of_eq e3 (by simpa only [State.readMeta_mem, ite_self, State.mem_ite, apply_ite Prod.fst])
  extract_lets
  split
  · exact State.sparseFault_wf h3
  split
  next s4 hs e4 =>
  have h4 : Memory.wf s4.mem := wf_of_eq e4 (by rwa [State.readHdrs_mem])
  split
  next s5 hc e5 =>
  have h5 : Memory.wf s5.mem :=
    wf_of_eq e5 (by simpa only [State.readHdrs_mem, ite_self, State.mem_ite, apply_ite Prod.fst])
  split
  · exact State.trap1_wf h1
  · exact State.retire_wf h5

theorem execAdrain_wf {u f} (h : Memory.wf s.mem) : CanonicalAfter (execAdrain u f s) := by
  refine State.issue64_wf h fun s1 h1 => ?_
  extract_lets
  split
  · exact h1
  split
  · exact State.trap1_wf h1
  split
  next s2 bad e2 => exact State.retire_wf (wf_of_eq e2 (by rwa [State.refuseRanges_mem]))

theorem execAdiag_wf {u f} (h : Memory.wf s.mem) : CanonicalAfter (execAdiag u f s) := by
  refine State.issue64_wf h fun s1 h1 => ?_
  extract_lets
  split
  · exact h1
  split
  · exact State.trap1_wf h1
  split
  next s2 refd e2 =>
  have h2 : Memory.wf s2.mem := wf_of_eq e2 (by rwa [State.refuseRanges_mem])
  split
  next s3 unc e3 =>
  have h3 : Memory.wf s3.mem :=
    wf_of_eq e3 (by simpa only [State.readMeta_mem, ite_self, State.mem_ite, apply_ite Prod.fst])
  extract_lets
  split
  next s4 hs1 e4 =>
  have h4 : Memory.wf s4.mem := wf_of_eq e4 (by rwa [State.readHdrs_mem])
  split
  next s5 hs2 e5 =>
  have h5 : Memory.wf s5.mem := wf_of_eq e5 (by rwa [State.readHdrs_mem])
  split
  next s6 hs4 e6 =>
  have h6 : Memory.wf s6.mem := wf_of_eq e6 (by rwa [State.readHdrs_mem])
  split
  · exact State.trap1_wf h1
  · exact State.retire_wf h6

/-! ## Arrays at work -/

@[simp] theorem State.setArray_mem {k a x} : (s.setArray k a x).mem = s.mem := rfl

@[simp] theorem State.denseRows_mem {k a l} : (s.denseRows k a l).1.mem = s.mem := by
  simp only [State.denseRows, State.readElems_mem, State.report_mem, ite_self, State.mem_ite, foldl_fst_mem,
      implies_true]

@[simp] theorem State.t24Rows_mem {k a t l} : (s.t24Rows k a t l).1.mem = s.mem := by
  simp only [State.t24Rows, State.readElems_mem, State.report_mem, ite_self, State.mem_ite]

@[simp] theorem State.loadRows_mem {k a l} : (s.loadRows k a l).1.mem = s.mem := by
  simp only [State.loadRows, State.t24Rows_mem, State.denseRows_mem, ite_self, State.mem_ite, apply_ite Prod.fst]

@[simp] theorem State.captureLoad_mem {k a l flip} : (s.captureLoad k a l flip).mem = s.mem := by
  simp only [State.captureLoad, State.loadRows_mem, State.setArray_mem, State.emit_mem, ite_self, State.mem_ite]

theorem execAloadCaptureComplete_wf {c a flip} (h : Memory.wf s.mem) :
    CanonicalAfter (execAloadCaptureComplete c a flip s) := by
  unfold execAloadCaptureComplete
  dsimp only
  split <;> simp only [State.setArray_mem, State.captureLoad_mem, State.tagDone_mem, h, ite_self, State.mem_ite,
      canonicalAfter_next]

@[simp] theorem State.accWalk_mem {k a o mask fuel c c1} : (s.accWalk k a o mask fuel c c1).1.mem = s.mem := by
  induction fuel generalizing s c c1 with
  | zero => rfl
  | succ m ih =>
    simp only [State.accWalk, State.feedVec_mem, State.setArray_mem, State.countEv_mem, ih]

@[simp] theorem State.performAcc_mem {k a o} : (s.performAcc k a o).mem = s.mem := by
  simp only [State.performAcc, State.setArray_mem, State.accWalk_mem, State.countEv_mem, ite_self, State.mem_ite]

@[simp] theorem State.settle_mem {k a fuel} : (s.settle k a fuel).mem = s.mem := by
  induction fuel generalizing s with
  | zero => rfl
  | succ m ih =>
    rw [State.settle]
    split <;> simp only [State.performAcc_mem, State.setArray_mem, ih, ite_self, State.mem_ite]

theorem execAacc_wf {u f} (h : Memory.wf s.mem) : CanonicalAfter (execAacc u f s) := by
  refine State.issue64_wf h fun s1 h1 => ?_
  extract_lets
  split
  · exact h1
  split
  · exact State.trap1_wf h1
  split
  next s2 refd e2 =>
  have h2 : Memory.wf s2.mem := wf_of_eq e2 (by rwa [State.refuseRanges_mem])
  split
  next s3 unc e3 =>
  have h3 : Memory.wf s3.mem :=
    wf_of_eq e3 (by simpa only [State.readMeta_mem, ite_self, State.mem_ite, apply_ite Prod.fst])
  extract_lets
  split
  · exact State.trap1_wf h1
  split
  next s4 hs1 e4 =>
  have h4 : Memory.wf s4.mem := wf_of_eq e4 (by rwa [State.readHdrs_mem])
  split
  next s5 hs2 e5 =>
  have h5 : Memory.wf s5.mem := wf_of_eq e5 (by rwa [State.readHdrs_mem])
  split
  · exact State.trap1_wf h1
  · rw [State.settle_mem]
    exact State.retire_wf h5

theorem execSwapTokenAttach_wf {c a} (h : Memory.wf s.mem) : CanonicalAfter (execSwapTokenAttach c a s) := by
  unfold execSwapTokenAttach
  dsimp only
  split <;> simp only [State.settle_mem, State.setArray_mem, h, ite_self, State.mem_ite, canonicalAfter_next]

@[simp] theorem State.reportOut_mem {k a o F d} : (s.reportOut k a o F d).mem = s.mem := by
  simp only [State.reportOut, State.report_mem, ite_self, State.mem_ite]

@[simp] theorem State.reportVec_mem {k a o F ds} : (s.reportVec k a o F ds).mem = s.mem := by
  simp only [State.reportVec, State.reportOut_mem, State.countEv_mem, State.report_mem, ite_self, State.mem_ite,
      foldl_mem, implies_true]

theorem State.writePond_wf {k a bs} (h : Memory.wf s.mem) : Memory.wf (s.writePond k a bs).mem := by
  simp only [State.writePond, State.eccWrite_wf, h]

theorem State.writeOut_wf {k a o v ds} (h : Memory.wf s.mem) : Memory.wf (s.writeOut k a o v ds).1.mem := by
  simp only [State.writeOut, State.writePond_wf, State.reportVec_mem, h, ite_self, State.mem_ite, Memory.wf_ite]

theorem State.writeHdr_wf {k o v} (h : Memory.wf s.mem) : Memory.wf (s.writeHdr k o v).1.mem := by
  simp only [State.writeHdr, State.writePond_wf, h, ite_self, State.mem_ite, Memory.wf_ite, apply_ite Prod.fst]

@[simp] theorem State.carryIn_mem {k o v} : (s.carryIn k o v).1.mem = s.mem := by
  simp only [State.carryIn, State.badWords_mem, ite_self, State.mem_ite, apply_ite Prod.fst]

theorem State.passVec_wf {k a o v} (h : Memory.wf s.mem) : Memory.wf (s.passVec k a o v).1.mem := by
  simp only [State.passVec, State.feedVec_mem, State.carryIn_mem, State.countEv_mem, State.writePond_wf,
      State.writeOut_wf, h, ite_self, State.mem_ite, Memory.wf_ite, apply_ite Prod.fst]

theorem State.diagVec_wf {k a o v} (h : Memory.wf s.mem) : Memory.wf (s.diagVec k a o v).1.mem := by
  simp only [State.diagVec, State.feedVec_mem, State.writeOut_wf, State.countEv_mem, h, ite_self, State.mem_ite,
      apply_ite Prod.fst]

@[simp] theorem State.flushRun_mem {k o idx} : (s.flushRun k o idx).mem = s.mem := by
  simp only [State.flushRun, State.send_mem, ite_self, State.mem_ite]

@[simp] theorem State.sendBlock_mem {k o idx b} : (s.sendBlock k o idx b).1.mem = s.mem := by
  simp only [State.sendBlock, State.flushRun_mem, State.send_mem, ite_self, State.mem_ite, apply_ite Prod.fst]

@[simp] theorem State.sendBlocks_mem {k a o i cells fail} : (s.sendBlocks k a o i cells fail).1.mem = s.mem := by
  simp only [State.sendBlocks, State.reportVec_mem, State.sendBlock_mem, foldl_mem, foldl_fst_mem, implies_true]

theorem State.drainVec_wf {k a o pos} (h : Memory.wf s.mem) : Memory.wf (s.drainVec k a o pos).1.mem := by
  simp only [State.drainVec, State.setArray_mem, State.sendBlocks_mem, State.writeOut_wf, h, ite_self, State.mem_ite,
      Memory.wf_ite, apply_ite Prod.fst]

@[simp] theorem State.endOp_mem {k a o err} : (s.endOp k a o err).mem = s.mem := by
  unfold State.endOp
  dsimp only
  (repeat' split) <;> simp only [State.setArray_mem, State.tagDone_mem, State.report_mem, State.detect_mem,
      State.verdictLeft_mem, State.settle_mem]

theorem execDrainOutputWrite_wf {c a} (h : Memory.wf s.mem) : CanonicalAfter (execDrainOutputWrite c a s) := by
  unfold execDrainOutputWrite
  dsimp only
  (repeat' split) <;> simp only [State.endOp_mem, State.passVec_wf, State.diagVec_wf, State.drainVec_wf,
      State.writeHdr_wf, State.setArray_mem, h, canonicalAfter_next]

/-! ## Loads, stores and atomic operations -/

@[simp] theorem State.localRead_mem {k a n} : (s.localRead k a n).1.mem = s.mem := by
  simp only [State.localRead, State.eccRead_mem]

theorem State.localWriteMask_wf {k a bs} (h : Memory.wf s.mem) : Memory.wf (s.localWriteMask k a bs).mem := by
  unfold State.localWriteMask
  split <;> simp only [State.eccWrite_wf, setMem_mem, Memory.wf_writeMask, h]

theorem State.localWrite_wf {k a bs} (h : Memory.wf s.mem) : Memory.wf (s.localWrite k a bs).mem := by
  simp only [State.localWrite, State.localWriteMask_wf, h]

theorem State.addrTrap_wf {k sub a slot1} (h : Memory.wf s.mem) : Memory.wf (s.addrTrap k sub a slot1).mem := by
  simp only [State.addrTrap, State.trap_wf, State.refusedEvent_mem, h, ite_self, State.mem_ite]

theorem execScalarLoad_wf {u f} (h : Memory.wf s.mem) : CanonicalAfter (execScalarLoad u f s) := by
  refine State.issue_wf h fun s1 h1 => ?_
  extract_lets
  split
  · exact State.addrTrap_wf h1
  split
  · exact h1
  split
  · split
    next e => exact State.trap_wf (wf_of_eq e (by rwa [State.localRead_mem]))
    next e => exact State.retire_wf (wf_of_eq e (by rwa [State.localRead_mem]))
  split
  · exact h1
  · exact State.retire_wf (by rwa [State.request_mem])

theorem execScalarStore_wf {u f} (h : Memory.wf s.mem) : CanonicalAfter (execScalarStore u f s) := by
  refine State.issue_wf h fun t ht => ?_
  dsimp only
  (repeat' split) <;> simp only [State.finish_wf, State.addrTrap_wf, State.retire_wf, State.localWrite_wf,
      State.request_mem, ht]

theorem State.amoAt_wf {fn a b expected requestor} (h : Memory.wf s.mem) :
    Memory.wf (s.amoAt fn a b expected requestor).1.mem := by
  unfold State.amoAt
  grind only [State.eccRead_mem, ← State.eccWrite_wf]

theorem State.amo_wf {u fn f} (h : Memory.wf s.mem) : Memory.wf (s.amo u fn f).mem := by
  refine State.issue_wf h fun t ht => ?_
  dsimp only
  (repeat' split) <;> simp only [State.finish_wf, State.addrTrap_wf, State.amoAt_wf, State.retire_wf,
      State.request_mem, ht]

theorem execAmoadd_wf {u f} (h : Memory.wf s.mem) : CanonicalAfter (execAmoadd u f s) := by
  simp only [execAmoadd, State.amo_wf, h, canonicalAfter_next]

theorem execAmoswap_wf {u f} (h : Memory.wf s.mem) : CanonicalAfter (execAmoswap u f s) := by
  simp only [execAmoswap, State.amo_wf, h, canonicalAfter_next]

theorem execAmocas_wf {u f} (h : Memory.wf s.mem) : CanonicalAfter (execAmocas u f s) := by
  simp only [execAmocas, State.amo_wf, h, canonicalAfter_next]

@[simp] theorem State.vloadLocal_mem {k esz a rs v} : (s.vloadLocal k esz a rs v).1.mem = s.mem := by
  induction rs generalizing s v with
  | nil => rfl
  | cons r rs ih =>
    rw [State.vloadLocal]
    split
    next e => exact (mem_of_eq e).trans State.localRead_mem
    next e => exact ih.trans ((mem_of_eq e).trans State.localRead_mem)

@[simp] theorem State.vloadLines_mem {k vd esz a ms v} : (s.vloadLines k vd esz a ms v).1.mem = s.mem := by
  induction ms generalizing s v with
  | nil => rfl
  | cons m ms ih =>
    rw [State.vloadLines]
    split
    · split
      next e => exact (mem_of_eq e).trans State.vloadLocal_mem
      next e => exact ih.trans ((mem_of_eq e).trans State.vloadLocal_mem)
    · exact ih.trans State.requestGaps_mem

theorem execVld_wf {u f} (h : Memory.wf s.mem) : CanonicalAfter (execVld u f s) := by
  refine State.issue_wf h fun s1 h1 => ?_
  extract_lets
  split
  · exact State.finish_wf h1
  extract_lets
  split
  · exact State.addrTrap_wf h1
  split
  · exact h1
  split
  next e => exact State.trap_wf (wf_of_eq e (by rwa [State.vloadLines_mem]))
  next e => exact State.retire_wf (wf_of_eq e (by rwa [State.vloadLines_mem]))

theorem State.vstoreLines_wf {k esz a bs ms} (h : Memory.wf s.mem) : Memory.wf (s.vstoreLines k esz a bs ms).mem := by
  induction ms generalizing s with
  | nil => exact h
  | cons x r ih =>
    simp only [State.vstoreLines, State.localWriteMask_wf, State.requestGaps_mem, h, ih, ite_self, State.mem_ite,
        Memory.wf_ite]

theorem execVst_wf {u f} (h : Memory.wf s.mem) : CanonicalAfter (execVst u f s) := by
  refine State.issue_wf h fun t ht => ?_
  dsimp only
  (repeat' split) <;> simp only [State.finish_wf, State.addrTrap_wf, State.retire_wf, State.vstoreLines_wf, ht]

theorem execVldb_wf {u f} (h : Memory.wf s.mem) : CanonicalAfter (execVldb u f s) := by
  refine State.issue_wf h fun s1 h1 => ?_
  extract_lets
  split
  · exact State.finish_wf h1
  extract_lets
  split
  · exact State.retire_wf h1
  split
  · exact State.addrTrap_wf h1
  split
  · exact h1
  split
  · split
    next e => exact State.trap_wf (wf_of_eq e (by rwa [State.localRead_mem]))
    next e => exact State.retire_wf (wf_of_eq e (by rwa [State.localRead_mem]))
  split
  · exact h1
  · exact State.retire_wf (by rwa [State.request_mem])

/-! ## Descriptor moves and cluster DMA -/

theorem execDdld_wf {u f} (h : Memory.wf s.mem) : CanonicalAfter (execDdld u f s) := by
  refine State.issue64_wf h fun s1 h1 => ?_
  extract_lets
  split
  · exact State.addrTrap_wf h1
  split
  · exact h1
  split
  · split
    next e => exact State.trap_wf (wf_of_eq e (by rwa [State.localRead_mem]))
    next e => exact State.retire_wf (wf_of_eq e (by rwa [State.localRead_mem]))
  split
  · exact h1
  · exact State.retire_wf (by rwa [State.request_mem])

theorem execDdst_wf {u f} (h : Memory.wf s.mem) : CanonicalAfter (execDdst u f s) := by
  refine State.issue64_wf h fun t ht => ?_
  dsimp only
  split <;> simp only [State.addrTrap_wf, State.retire_wf, State.localWrite_wf, State.request_mem, ht, ite_self,
      State.mem_ite, Memory.wf_ite]

theorem execDdset_wf {u f} (h : Memory.wf s.mem) : CanonicalAfter (execDdset u f s) := by
  refine State.issue64_wf h fun t ht => ?_
  simp only [State.retire_wf, ht]

theorem State.dmaEnd_wf {k tag err} (h : Memory.wf s.mem) : Memory.wf (s.dmaEnd k tag err).mem := by
  simp only [State.dmaEnd, State.retire_wf, h]

@[simp] theorem State.readSide_mem {k a n} : (s.readSide k a n).1.mem = s.mem := by
  simp only [State.readSide, State.localRead_mem]

theorem State.writeBuf_wf {k buf} (h : Memory.wf s.mem) : Memory.wf (s.writeBuf k buf).mem := by
  simp +contextual only [State.writeBuf, State.localWrite_wf, h, foldl_wf, implies_true]

@[simp] theorem State.getParts_mem {k x ps} : (s.getParts k x ps).1.mem = s.mem := by
  induction ps generalizing s with
  | nil => rfl
  | cons x r ih =>
    simp only [State.getParts, State.readSide_mem, State.request_mem, ih, ite_self, State.mem_ite, apply_ite Prod.fst]

theorem execDget_wf {u f} (h : Memory.wf s.mem) : CanonicalAfter (execDget u f s) := by
  refine State.issue64_wf h fun t ht => ?_
  dsimp only
  (repeat' split) <;> simp only [State.trap1_wf, State.dmaEnd_wf, State.refusedEvent_mem, State.takeId_mem,
      State.getParts_mem, State.countEv_mem, State.writeBuf_wf, State.retire_wf, ht]

@[simp] theorem State.readParts_mem {k ps} : (s.readParts k ps).1.mem = s.mem := by
  induction ps generalizing s with
  | nil => rfl
  | cons x r ih =>
    simp only [State.readParts, State.readSide_mem, ih]

theorem State.putParts_wf {k x ps} (h : Memory.wf s.mem) : Memory.wf (s.putParts k x ps).1.mem := by
  induction ps generalizing s with
  | nil => exact h
  | cons x r ih =>
    simp only [State.putParts, State.localWrite_wf, State.request_mem, h, ih, ite_self, State.mem_ite, Memory.wf_ite,
        apply_ite Prod.fst]

theorem execDput_wf {u f} (h : Memory.wf s.mem) : CanonicalAfter (execDput u f s) := by
  refine State.issue64_wf h fun t ht => ?_
  dsimp only
  (repeat' split) <;> simp only [State.trap1_wf, State.dmaEnd_wf, State.refusedEvent_mem, State.readParts_mem,
      State.countEv_mem, State.takeId_mem, State.putParts_wf, State.retire_wf, ht]

@[simp] theorem State.sendMc_mem {k node x group root off bs} :
    (s.sendMc k node x group root off bs).mem = s.mem := rfl

@[simp] theorem State.sendMcs_mem {k node x group root ps} : (s.sendMcs k node x group root ps).mem = s.mem := by
  unfold State.sendMcs
  grind only [State.sendMc_mem, foldl_mem]

theorem execDcast_wf {u f} (h : Memory.wf s.mem) : CanonicalAfter (execDcast u f s) := by
  refine State.issue64_wf h fun t ht => ?_
  dsimp only
  (repeat' split) <;> simp only [State.trap1_wf, State.dmaEnd_wf, State.refusedEvent_mem, State.emit_mem,
      State.readParts_mem, State.countEv_mem, State.takeId_mem, State.sendMcs_mem, State.retire_wf, ht]

theorem execDwait_wf {u f} (h : Memory.wf s.mem) : CanonicalAfter (execDwait u f s) := by
  refine State.issue64_wf h fun t ht => ?_
  simp only [State.retire_wf, ht, ite_self, State.mem_ite, Memory.wf_ite]

/-! ## Routes of the mesh -/

@[simp] theorem State.wardenLost_mem {a} : (s.wardenLost a).mem = s.mem := rfl

@[simp] theorem State.wardenRead_mem {a n} : (s.wardenRead a n).1.mem = s.mem := by
  unfold State.wardenRead
  grind only [State.eccRead_mem, State.wardenLost_mem]

theorem State.wardenWrite_wf {a bs} (h : Memory.wf s.mem) : Memory.wf (s.wardenWrite a bs).mem := by
  simp only [State.wardenWrite, State.eccWrite_wf, State.wardenLost_mem, h, ite_self, State.mem_ite, Memory.wf_ite]

@[simp] theorem State.writeRoutes_mem {d} : (s.writeRoutes d).mem = s.mem := by
  simp only [State.writeRoutes]

@[simp] theorem State.reroute_mem {s0} : (State.reroute s0).mem = s0.mem := by
  unfold State.reroute
  dsimp only
  split <;> simp only [State.writeRoutes_mem]

/-! ## Seals -/

@[simp] theorem State.fetchSeal_mem {sh unit} : (s.fetchSeal sh unit).1.mem = s.mem := by
  unfold State.fetchSeal
  split
  · exact State.wardenRead_mem
  split
  all_goals next e => exact (mem_of_eq e).trans State.eccRead_mem

@[simp] theorem State.readSeal_mem {sh src unit} : (s.readSeal sh src unit).1.mem = s.mem := by
  unfold State.readSeal
  grind only [State.fetchSeal_mem, State.detect_mem]

@[simp] theorem State.sealsAll_mem {p l} : (s.sealsAll p l).1.mem = s.mem := by
  have hread := @State.readSeal_mem
  generalize hf : State.sealsAll = f
  delta State.sealsAll State.sealsAll._f at hf
  revert hread hf
  induction State.readSeal using forAny with | any read =>
  rintro hread rfl
  induction l generalizing s with
  | nil => rfl
  | cons sh l ih => exact ih.trans hread

theorem State.writeSeal_wf {sh x unit} (h : Memory.wf s.mem) : Memory.wf (s.writeSeal sh x unit).mem := by
  simp only [State.writeSeal, State.wardenWrite_wf, State.eccWrite_wf, h, ite_self, State.mem_ite, Memory.wf_ite]

@[simp] theorem State.digestAt_mem {a nblk unit} : (s.digestAt a nblk unit).1.mem = s.mem := by
  simp only [State.digestAt, State.eccRead_mem]

/-! ## Blocks of the flash store -/

@[simp] theorem State.keepBlock_mem {p blk} : (s.keepBlock p blk).mem = s.mem := by
  simp only [State.keepBlock, ite_self, State.mem_ite]

theorem State.flBlock_wf {key p off bs} (h : Memory.wf s.mem) : Memory.wf (s.flBlock key p off bs).mem := by
  simp only [State.flBlock, State.keepBlock_mem, setMem_mem, Memory.wf_write, h, ite_self, State.mem_ite,
      Memory.wf_ite]

theorem State.flWrite_wf {key p off bs fuel} (h : Memory.wf s.mem) : Memory.wf (s.flWrite key p off bs fuel).mem := by
  induction fuel generalizing s off bs with
  | zero => exact h
  | succ m ih =>
    simp only [State.flWrite, State.flBlock_wf, h, ih, ite_self, State.mem_ite, Memory.wf_ite]

theorem State.tee_wf {off bs} (h : Memory.wf s.mem) : Memory.wf (s.tee off bs).mem := by
  unfold State.tee
  split <;> simp only [State.flWrite_wf, h]

/-! ## The flash store -/

@[simp] theorem State.setFlq_mem {q x} : (s.setFlq q x).mem = s.mem := rfl

@[simp] theorem State.ringFlash_mem {q tail} : (s.ringFlash q tail).mem = s.mem := rfl

theorem execFlashDoorbell_wf {q tail} (h : Memory.wf s.mem) : CanonicalAfter (execFlashDoorbell q tail s) := h

theorem State.windowWrite_wf {off bs} (h : Memory.wf s.mem) : Memory.wf (s.windowWrite off bs).mem := by
  simp only [State.windowWrite, State.ringFlash_mem, setMem_mem, Memory.wf_write, h, ite_self, State.mem_ite,
      Memory.wf_ite]

@[simp] theorem State.flEnd_mem {q c status bytes} : (s.flEnd q c status bytes).mem = s.mem := by
  simp only [State.flEnd, State.countEmb_mem, State.setFlq_mem]

@[simp] theorem State.flRefuse_mem {q c} : (s.flRefuse q c).mem = s.mem := by
  simp only [State.flRefuse, State.emit_mem, State.flEnd_mem, ite_self, State.mem_ite]

theorem State.flStep_wf {q op g} (h : Memory.wf s.mem) (hg : ∀ c key, Memory.wf (g c key).mem) :
 Memory.wf (s.flStep q op g).mem := by
  unfold State.flStep
  grind only [State.flRefuse_mem]

@[simp] theorem State.flLost_mem {q c off} : (s.flLost q c off).mem = s.mem := by
  simp only [State.flLost, State.flEnd_mem, State.emit_mem]

@[simp] theorem State.flUnreached_mem {q c} : (s.flUnreached q c).mem = s.mem := by
  simp only [State.flUnreached, State.flEnd_mem, State.detect_mem]

theorem State.flDeliver_wf {q c bs} (h : Memory.wf s.mem) : Memory.wf (s.flDeliver q c bs).mem := by
  unfold State.flDeliver
  grind only [← State.eccWrite_wf, State.flEnd_mem, State.countEmb_mem, setMem_mem, ← Memory.wf_write]

theorem execFlashRead_wf {q lost} (h : Memory.wf s.mem) : CanonicalAfter (execFlashRead q lost s) := by
  refine State.flStep_wf h fun c key => ?_
  simp only [State.flLost_mem, State.flUnreached_mem, State.flDeliver_wf, h, ite_self, State.mem_ite, Memory.wf_ite]

theorem State.flPut_wf {q c key full lost} (h : Memory.wf s.mem) : Memory.wf (s.flPut q c key full lost).mem := by
  unfold State.flPut
  grind only [State.flEnd_mem, State.flUnreached_mem, State.eccRead_mem, State.flLost_mem, ← State.flWrite_wf,
      State.countEmb_mem]

theorem execFlashWrite_wf {q full lost} (h : Memory.wf s.mem) : CanonicalAfter (execFlashWrite q full lost s) := by
  refine State.flStep_wf h fun c key => ?_
  simp only [State.flPut_wf, h]

@[simp] theorem State.trimBlocks_mem {p blk fuel} : (s.trimBlocks p blk fuel).mem = s.mem := by
  induction fuel generalizing s blk with
  | zero => rfl
  | succ m ih =>
    simp only [State.trimBlocks, State.keepBlock_mem, ih]

theorem execFlashTrim_wf {q} (h : Memory.wf s.mem) : CanonicalAfter (execFlashTrim q s) := by
  refine State.flStep_wf h fun c key => ?_
  simp only [State.flEnd_mem, State.trimBlocks_mem, h]

theorem execFlashTeeWrite_wf {q full lost} (h : Memory.wf s.mem) :
    CanonicalAfter (execFlashTeeWrite q full lost s) := by
  refine State.flStep_wf h fun c key => ?_
  simp only [State.flPut_wf, h, ite_self, State.mem_ite]

theorem State.flRecord_wf {q a bs} (h : Memory.wf s.mem) : Memory.wf (s.flRecord q a bs).mem := by
  unfold State.flRecord
  split <;> simp only [State.emit_mem, setMem_mem, Memory.wf_write, State.eccWrite_wf, h, ite_self, State.mem_ite,
      Memory.wf_ite]

theorem execFlashCommandComplete_wf {q} (h : Memory.wf s.mem) : CanonicalAfter (execFlashCommandComplete q s) := by
  unfold execFlashCommandComplete
  dsimp only
  split <;> simp only [State.flRecord_wf, State.setFlq_mem, h, canonicalAfter_next]

@[simp] theorem State.flAbandon_mem {q fuel} : (s.flAbandon q fuel).mem = s.mem := by
  induction fuel generalizing s with
  | zero => rfl
  | succ m ih =>
    rw [State.flAbandon]
    split <;> simp only [State.flEnd_mem, ih]

@[simp] theorem State.fenceFlash_mem : s.fenceFlash.mem = s.mem := by
  simp only [State.fenceFlash, State.flAbandon_mem, foldl_mem, implies_true]

theorem execGarbageCollection_wf {ch moved erased life free s0} (h : Memory.wf s0.mem) :
    CanonicalAfter (execGarbageCollection ch moved erased life free s0) := by
  simp only [execGarbageCollection, State.countEmb_mem, State.emit_mem, h, ite_self, State.mem_ite,
      canonicalAfter_next]

@[simp] theorem State.flashScan_mem : s.flashScan.mem = s.mem := by
  unfold State.flashScan
  split <;> simp only [ite_self, State.mem_ite]

@[simp] theorem State.sealedAll_mem {n} : (s.sealedAll n).1.mem = s.mem := by
  simp only [State.sealedAll, State.sealsAll_mem]

@[simp] theorem State.slotTail_mem : s.slotTail.1.mem = s.mem := by
  have hread := @State.wardenRead_mem
  generalize hf : State.slotTail = f
  delta State.slotTail at hf
  revert hread hf
  induction State.wardenRead using forAny with | any read =>
  rintro hread rfl
  dsimp only
  split
  · rw [hread]
    refine foldl_fst_mem (p := (s, some [])) (fun acc e => ?_) _
    split
    next e2 => exact (mem_of_eq e2).trans hread
    next e2 _ => exact (mem_of_eq e2).trans hread
  · refine foldl_fst_mem (p := (s, some [])) (fun acc e => ?_) _
    split
    next e2 => exact (mem_of_eq e2).trans hread
    next e2 _ => exact (mem_of_eq e2).trans hread

theorem State.completeCkpt_wf {n key j} (h : Memory.wf s.mem) : Memory.wf (s.completeCkpt n key j).mem := by
  unfold State.completeCkpt
  grind only [State.slotTail_mem, ← State.flWrite_wf, State.emit_mem]

theorem execCheckpointComplete_wf (h : Memory.wf s.mem) : CanonicalAfter (execCheckpointComplete s) := by
  unfold execCheckpointComplete
  grind only [State.sealedAll_mem, ← State.completeCkpt_wf, canonicalAfter_next]

@[simp] theorem State.lapse_mem : s.lapse.mem = s.mem := by
  unfold State.lapse
  split <;> simp only [State.emit_mem, ite_self, State.mem_ite]

/-! ## Springs -/

@[simp] theorem State.readTile_mem {u d i step} : (s.readTile u d i step).1.mem = s.mem := by
  simp only [State.readTile, State.eccRead_mem, ite_self, apply_ite Prod.fst, foldl_fst_mem, implies_true]

@[simp] theorem State.nonfiniteHead_mem {u wave step tile d} : (s.nonfiniteHead u wave step tile d).mem = s.mem := rfl

@[simp] theorem State.sealRefused_mem {u wave step sh x} : (s.sealRefused u wave step sh x).mem = s.mem := rfl

@[simp] theorem State.setXfer_mem {x} : (s.setXfer x).mem = s.mem := rfl

@[simp] theorem State.dropXfer_mem {id} : (s.dropXfer id).mem = s.mem := rfl

@[simp] theorem State.xferAdd_mem {id n} : (s.xferAdd id n).mem = s.mem := by
  unfold State.xferAdd
  split <;> simp only [State.setXfer_mem]

@[simp] theorem State.setWave_mem {u w} : (s.setWave u w).mem = s.mem := rfl

@[simp] theorem State.dropWave_mem {u w} : (s.dropWave u w).mem = s.mem := rfl

@[simp] theorem State.failWave_mem {u w} : (s.failWave u w).mem = s.mem := rfl

@[simp] theorem State.waveSend_mem {u w ps} : (s.waveSend u w ps).mem = s.mem := by
  unfold State.waveSend
  grind only [State.sendMc_mem, State.countEmb_mem, State.xferAdd_mem, foldl_mem]

@[simp] theorem State.streamTiles_mem {u w passed n} : (s.streamTiles u w passed n).mem = s.mem := by
  induction n generalizing s w with
  | zero => exact State.setWave_mem
  | succ n ih =>
    rw [State.streamTiles]
    split
    · exact State.setWave_mem
    split
    next e => rw [State.failWave_mem, mem_of_eq e, State.readTile_mem]
    next e =>
      rw [ih]
      simp only [State.nonfiniteHead_mem, State.countEmb_mem, State.waveSend_mem, mem_of_eq e, State.readTile_mem,
          ite_self, State.mem_ite]

@[simp] theorem State.endWave_mem {u w} : (s.endWave u w).mem = s.mem := by
  simp only [State.endWave, State.tagDone_mem, State.dropWave_mem, State.countEmb_mem, State.setSpring_mem]

@[simp] theorem State.waveOn_mem {u w} : (s.waveOn u w).mem = s.mem := by
  unfold State.waveOn
  grind only [State.failWave_mem, State.waveSend_mem, State.setWave_mem, State.endWave_mem]

@[simp] theorem State.wavesOn_mem {u} : (s.wavesOn u).mem = s.mem := by
  unfold State.wavesOn
  grind only [State.waveOn_mem, foldl_mem]

@[simp] theorem State.sealWave_mem {u w shards n} : (s.sealWave u w shards n).mem = s.mem := by
  induction n generalizing s w with
  | zero => rfl
  | succ n ih =>
    rw [State.sealWave]
    split
    · exact State.streamTiles_mem
    split
    next e => rw [State.failWave_mem, mem_of_eq e, State.readSeal_mem]
    next e =>
      simp only [ih, State.sealRefused_mem, State.setWave_mem, State.streamTiles_mem, mem_of_eq e,
          State.readSeal_mem, ite_self, State.mem_ite]

@[simp] theorem State.sealTry_mem {u w} : (s.sealTry u w).mem = s.mem := by
  simp only [State.sealTry, State.sealWave_mem]

@[simp] theorem State.gateTry_mem {u w} : (s.gateTry u w).mem = s.mem := by
  unfold State.gateTry
  grind only [State.failWave_mem, State.refusedEvent_mem, State.eccRead_mem, State.sealTry_mem]

theorem State.pollWaves_wf {u ph f} (h : Memory.wf s.mem)
 (hf : ∀ (t : State) w, Memory.wf t.mem → Memory.wf (f t w).mem) : Memory.wf (s.pollWaves u ph f).mem := by
  unfold State.pollWaves
  split
  · exact h
  · rw [State.wavesOn_mem]
    refine foldl_wf h (fun t id ht => ?_) _
    grind only

theorem execGateWordPoll_wf {sp} (h : Memory.wf s.mem) : CanonicalAfter (execGateWordPoll sp s) := by
  refine State.pollWaves_wf h fun t w ht => ?_
  simp only [State.gateTry_mem, ht]

theorem execSealPoll_wf {sp} (h : Memory.wf s.mem) : CanonicalAfter (execSealPoll sp s) := by
  refine State.pollWaves_wf h fun t w ht => ?_
  simp only [State.sealTry_mem, ht]

theorem execWave_wf {u f} (h : Memory.wf s.mem) : CanonicalAfter (execWave u f s) := by
  refine State.issue64_wf h fun t ht => ?_
  dsimp only
  (repeat' split) <;> simp only [State.trap1_wf, State.dmaEnd_wf, State.refusedEvent_mem, State.takeId_mem,
      State.setSpring_mem, State.wavesOn_mem, State.gateTry_mem, State.retire_wf, ht]

@[simp] theorem State.rsRequest_mem {t : State} {u r} (e : s.rsRequest u r = some t) : t.mem = s.mem := by
  unfold State.rsRequest at e
  grind only [State.setSpring_mem]

@[simp] theorem State.rsRelease_mem {u wave step cluster} : (s.rsRelease u wave step cluster).mem = s.mem := by
  unfold State.rsRelease
  grind only [State.dropXfer_mem, State.setSpring_mem, foldl_mem]

@[simp] theorem State.dropPacket_mem {i} : (s.dropPacket i).mem = s.mem := rfl

@[simp] theorem State.ctlSpring_mem {i m} : (s.ctlSpring i m).mem = s.mem := by
  unfold State.ctlSpring
  grind only [State.dropPacket_mem, State.rsRequest_mem, State.rsRelease_mem]

theorem execReStreamRequest_wf {sp} (h : Memory.wf s.mem) : CanonicalAfter (execReStreamRequest sp s) := by
  unfold execReStreamRequest
  split <;> simp only [State.ctlSpring_mem, h, canonicalAfter_next]

theorem execReStreamRelease_wf {sp} (h : Memory.wf s.mem) : CanonicalAfter (execReStreamRelease sp s) := by
  unfold execReStreamRelease
  split <;> simp only [State.ctlSpring_mem, h, canonicalAfter_next]

@[simp] theorem State.rsCheck_mem {u step l} : (s.rsCheck u step l).1.mem = s.mem := by
  induction l generalizing s with
  | nil => rfl
  | cons sh l ih =>
    rw [State.rsCheck]
    split
    next e => exact (mem_of_eq e).trans State.readSeal_mem
    next e => simp only [ih, mem_of_eq e, State.readSeal_mem, ite_self, State.mem_ite, apply_ite Prod.fst]

@[simp] theorem State.rsSend_mem {u id cluster off ps} : (s.rsSend u id cluster off ps).mem = s.mem := by
  unfold State.rsSend
  grind only [State.request_mem, foldl_mem]

@[simp] theorem State.rsParts_mem {u e n i hdrs out} : (s.rsParts u e n i hdrs out).1.mem = s.mem := by
  induction n generalizing s i hdrs out with
  | zero => rfl
  | succ n ih =>
    rw [State.rsParts]
    split
    next e => exact (mem_of_eq e).trans State.readTile_mem
    next e => exact ih.trans ((mem_of_eq e).trans State.readTile_mem)

theorem execReStreamStart_wf {sp} (h : Memory.wf s.mem) : CanonicalAfter (execReStreamStart sp s) := by
  unfold execReStreamStart
  dsimp only
  split <;> grind only [State.setSpring_mem, State.sealRefused_mem, State.rsCheck_mem, State.takeId_mem,
      State.rsParts_mem, State.rsSend_mem, canonicalAfter_next]

@[simp] theorem State.restreamOn_mem {u id err} : (s.restreamOn u id err).mem = s.mem := by
  unfold State.restreamOn
  dsimp only
  split <;> simp only [State.dropXfer_mem, State.countEmb_mem, State.setSpring_mem, State.rsSend_mem,
      State.xferAdd_mem, ite_self, State.mem_ite]

@[simp] theorem State.fenceSpring_mem {u} : (s.fenceSpring u).mem = s.mem := by
  unfold State.fenceSpring
  grind only [State.dropXfer_mem, State.setSpring_mem, foldl_mem]

/-! ## Messages between engines -/

@[simp] theorem State.undeliverable_mem {node m} : (s.undeliverable node m).mem = s.mem := rfl

@[simp] theorem State.sendMessage_mem {node m} : (s.sendMessage node m).mem = s.mem := by
  unfold State.sendMessage
  dsimp only
  (repeat' split) <;> simp only [State.undeliverable_mem, State.send_mem]

@[simp] theorem State.await_mem {k x} : (s.await k x).2.mem = s.mem := by
  simp only [State.await, State.takeId_mem, State.xferAdd_mem]

/-! ## Control cells and the fence -/

@[simp] theorem State.pushCell_mem {p c} : (s.pushCell p c).mem = s.mem := rfl

@[simp] theorem State.routeCell_mem {c goal} : (s.routeCell c goal).mem = s.mem := by
  unfold State.routeCell
  grind only [State.pushCell_mem]

@[simp] theorem State.sendCell_mem {dst body} : (s.sendCell dst body).mem = s.mem := by
  simp only [State.sendCell, State.routeCell_mem]

@[simp] theorem State.passOn_mem {c} : (s.passOn c).mem = s.mem := by
  simp only [State.passOn, State.routeCell_mem, foldl_mem, implies_true]

@[simp] theorem State.broadcast_mem {body} : (s.broadcast body).mem = s.mem := by
  simp only [State.broadcast, State.passOn_mem]

@[simp] theorem State.takeCell_mem {p c bad} : (s.takeCell p c bad).1.mem = s.mem := by
  simp only [State.takeCell, State.setPort_mem, ite_self, State.mem_ite, apply_ite Prod.fst]

theorem State.onCell_wf {p c bad act} (h : Memory.wf s.mem)
 (hact : ∀ t : State, Memory.wf t.mem → Memory.wf (act t).mem) : Memory.wf (s.onCell p c bad act).mem := by
  unfold State.onCell
  grind only [State.takeCell_mem, State.passOn_mem, State.routeCell_mem]

theorem State.fromSuperior_wf {c act} (h : Memory.wf s.mem)
 (hact : ∀ t : State, Memory.wf t.mem → Memory.wf (act t).mem) : Memory.wf (s.fromSuperior c act).mem := by
  unfold State.fromSuperior
  grind only [State.emit_mem]

@[simp] theorem State.toGroups_mem {l body} : (s.toGroups l body).mem = s.mem := by
  simp only [State.toGroups, State.sendCell_mem, foldl_mem, implies_true]

theorem State.fenceCore_wf {k} (h : Memory.wf s.mem) : Memory.wf (s.fenceCore k).mem := by
  simp only [State.fenceCore, State.fenceExec_mem, State.traceAtom_wf, h, ite_self, State.mem_ite, Memory.wf_ite]

@[simp] theorem State.fencePort_mem {p} : (s.fencePort p).mem = s.mem := by
  simp only [State.fencePort, State.setPort_mem, ite_self, State.mem_ite]

@[simp] theorem State.fenceHost_mem {h} : (s.fenceHost h).mem = s.mem := by
  simp only [State.fenceHost, State.setHport_mem, ite_self, State.mem_ite]

@[simp] theorem State.fenceJob_mem : s.fenceJob.mem = s.mem := by
  unfold State.fenceJob
  split <;> simp only

@[simp] theorem State.fenceBars_mem : s.fenceBars.mem = s.mem := by
  unfold State.fenceBars
  grind only [State.setBar_mem, foldl_mem]

theorem State.raiseFence_wf {code} (h : Memory.wf s.mem) : Memory.wf (s.raiseFence code).mem := by
  simp +contextual only [State.raiseFence, State.emit_mem, State.fenceCore_wf, State.fenceSpring_mem,
      State.fencePort_mem, State.lapse_mem, State.fenceFlash_mem, State.fenceBars_mem, State.fenceJob_mem,
      State.fenceHost_mem, h, ite_self, State.mem_ite, Memory.wf_ite, foldl_mem, foldl_wf, implies_true]

@[simp] theorem State.tellUes_mem {g} : (s.tellUes g).mem = s.mem := by
  unfold State.tellUes
  grind only [State.setUe_mem, foldl_mem]

@[simp] theorem State.noteResult_mem {step verdict nrep} : (s.noteResult step verdict nrep).mem = s.mem := rfl

@[simp] theorem State.voidStep_mem {step verdict nrep} : (s.voidStep step verdict nrep).mem = s.mem := by
  simp only [State.voidStep, State.tellUes_mem, State.noteResult_mem]

@[simp] theorem State.mgrFence_mem {step reason} : (s.mgrFence step reason).mem = s.mem := by
  simp only [State.mgrFence, State.broadcast_mem, State.voidStep_mem, ite_self, State.mem_ite]

theorem State.faultReaction_wf {code src} (h : Memory.wf s.mem) : Memory.wf (s.faultReaction code src).mem := by
  unfold State.faultReaction
  dsimp only
  (repeat' split) <;> simp only [State.raiseFence_wf, State.sendCell_mem, State.mgrFence_mem, h]

@[simp] theorem State.endRunning_mem {opc status r0} : (s.endRunning opc status r0).mem = s.mem := by
  simp only [State.endRunning, State.setHport_mem, ite_self, State.mem_ite, foldl_mem, implies_true]

@[simp] theorem State.cancelTee_mem : s.cancelTee.mem = s.mem := rfl

@[simp] theorem State.mgrCancel_mem : s.mgrCancel.mem = s.mem := by
  unfold State.mgrCancel
  split <;> simp only [State.endRunning_mem, State.cancelTee_mem, State.broadcast_mem]

/-! ## Synchronisation and numeric state -/

@[simp] theorem State.enterBar_mem {k bid scope} : (s.enterBar k bid scope).mem = s.mem := rfl

theorem execBar_wf {u f} (h : Memory.wf s.mem) : CanonicalAfter (execBar u f s) := by
  refine State.issue_wf h fun t ht => ?_
  simp only [State.finish_wf, State.trap_wf, State.enterBar_mem, ht, ite_self, State.mem_ite, Memory.wf_ite]

theorem execTagwait_wf {u f} (h : Memory.wf s.mem) : CanonicalAfter (execTagwait u f s) := by
  refine State.issue_wf h fun t ht => ?_
  simp only [State.finish_wf, State.trap_wf, State.setProc_mem, State.retire_wf, ht, ite_self, State.mem_ite,
      Memory.wf_ite]

theorem execFence_wf {u f} (h : Memory.wf s.mem) : CanonicalAfter (execFence u f s) := by
  refine State.issue_wf h fun t ht => ?_
  simp only [State.finish_wf, State.retire_wf, ht, ite_self, State.mem_ite, Memory.wf_ite]

theorem execNfmt_wf {u f} (h : Memory.wf s.mem) : CanonicalAfter (execNfmt u f s) := by
  simp only [execNfmt, State.runInstr_wf, h, canonicalAfter_next]

theorem execNround_wf {u f} (h : Memory.wf s.mem) : CanonicalAfter (execNround u f s) := by
  simp only [execNround, State.runInstr_wf, h, canonicalAfter_next]

theorem execNseed_wf {u f} (h : Memory.wf s.mem) : CanonicalAfter (execNseed u f s) := by
  simp only [execNseed, State.runInstr_wf, h, canonicalAfter_next]

/-! ## The barrier net -/

theorem State.freeUnit_wf {k bid} (h : Memory.wf s.mem) : Memory.wf (s.freeUnit k bid).mem := by
  unfold State.freeUnit
  split <;> simp only [State.retire_wf, h, ite_self, State.mem_ite, Memory.wf_ite]

theorem State.freePolder_wf {p bid} (h : Memory.wf s.mem) : Memory.wf (s.freePolder p bid).mem := by
  simp +contextual only [State.freePolder, State.freeUnit_wf, h, foldl_wf, implies_true]

@[simp] theorem State.rootRelease_mem {bid} : (s.rootRelease bid).mem = s.mem := rfl

@[simp] theorem State.routersStep_mem {q step} : (s.routersStep q step).mem = s.mem := by
  unfold State.routersStep
  grind only [State.setNode_mem, foldl_mem]

theorem execBarrierReleaseFrame_wf {p} (h : Memory.wf s.mem) : CanonicalAfter (execBarrierReleaseFrame p s) := by
  simp +contextual only [execBarrierReleaseFrame, State.setBar_mem, State.routersStep_mem, State.freePolder_wf, h,
      ite_self, State.mem_ite, Memory.wf_ite, foldl_wf, implies_true, canonicalAfter_next]

@[simp] theorem State.rootStep_mem {n} : (s.rootStep n).mem = s.mem := rfl

@[simp] theorem State.groupRelease_mem {bid gen} : (s.groupRelease bid gen).mem = s.mem := by
  simp only [State.groupRelease, State.mgrCancel_mem, State.broadcast_mem, State.setBar_mem, State.rootRelease_mem,
      ite_self, State.mem_ite]

@[simp] theorem State.mgrTry_mem {bid} : (s.mgrTry bid).mem = s.mem := by
  unfold State.mgrTry
  split <;> simp only [State.sendCell_mem, State.groupRelease_mem, State.toGroups_mem, ite_self, State.mem_ite]

@[simp] theorem State.mgrArrival_mem {bid gen src} : (s.mgrArrival bid gen src).mem = s.mem := by
  simp only [State.mgrArrival, State.emit_mem, State.mgrTry_mem, ite_self, State.mem_ite]

@[simp] theorem State.rootDone_mem {bid} : (s.rootDone bid).mem = s.mem := by
  simp only [State.rootDone, State.setBar_mem, State.mgrArrival_mem, State.sendCell_mem, State.rootRelease_mem,
      ite_self, State.mem_ite]

@[simp] theorem State.rootLook_mem : s.rootLook.mem = s.mem := by
  simp only [State.rootLook, State.rootDone_mem, ite_self, State.mem_ite, foldl_mem, implies_true]

theorem State.rootPoison_wf (h : Memory.wf s.mem) : Memory.wf s.rootPoison.mem := by
  unfold State.rootPoison
  dsimp only
  (repeat' split) <;> simp only [State.setBar_mem, State.faultReaction_wf, h]

@[simp] theorem State.upFrame_mem {q par} : (s.upFrame q par).mem = s.mem := rfl

theorem execBarrierUpFrame_wf {p} (h : Memory.wf s.mem) : CanonicalAfter (execBarrierUpFrame p s) := by
  unfold execBarrierUpFrame
  dsimp only
  (repeat' split) <;> simp only [State.rootLook_mem, State.rootPoison_wf, State.upFrame_mem, h, canonicalAfter_next]

@[simp] theorem State.emitStep_mem {n code pay} : (s.emitStep n code pay).mem = s.mem := rfl

@[simp] theorem State.ringCheck_mem {n a} : (s.ringCheck n a).mem = s.mem := by
  simp only [State.ringCheck, State.poison_mem, State.emitStep_mem, ite_self, State.mem_ite]

@[simp] theorem State.releaseEvents_mem {j n} : (s.releaseEvents j n).mem = s.mem := by
  unfold State.releaseEvents
  split <;> simp only [State.emitStep_mem, State.ringCheck_mem, ite_self, State.mem_ite, foldl_mem, implies_true]

@[simp] theorem State.gateRecord_mem {j n t0} : (s.gateRecord j n t0).mem = s.mem := by
  unfold State.gateRecord
  split <;> simp only [State.emitStep_mem, ite_self, State.mem_ite]

@[simp] theorem State.lendArrays_mem : s.lendArrays.mem = s.mem := rfl

@[simp] theorem State.startStep_mem {j} : (s.startStep j).mem = s.mem := by
  simp only [State.startStep, State.releaseEvents_mem, State.rootRelease_mem, State.rootStep_mem, State.weirStep_mem]

theorem execBid0Release_wf (h : Memory.wf s.mem) : CanonicalAfter (execBid0Release s) := by
  unfold execBid0Release
  dsimp only
  (repeat' split) <;> simp only [State.gateRecord_mem, State.lendArrays_mem, State.startStep_mem, h,
      canonicalAfter_next]

theorem execGroupBarrierTimeout_wf {bid} (h : Memory.wf s.mem) : CanonicalAfter (execGroupBarrierTimeout bid s) := by
  simp only [execGroupBarrierTimeout, State.emit_mem, State.raiseFence_wf, State.mgrFence_mem, h, ite_self,
      State.mem_ite, Memory.wf_ite, canonicalAfter_next]

theorem execBarrierArrivalCell_wf {p c bad} (h : Memory.wf s.mem) :
    CanonicalAfter (execBarrierArrivalCell p c bad s) := by
  unfold execBarrierArrivalCell
  split
  · refine State.onCell_wf h fun t ht => ?_
    simpa only [State.mgrArrival_mem, ite_self, State.mem_ite]
  · exact h

theorem execBarrierReleaseCell_wf {p c bad} (h : Memory.wf s.mem) :
    CanonicalAfter (execBarrierReleaseCell p c bad s) := by
  unfold execBarrierReleaseCell
  split
  · refine State.onCell_wf h fun t ht => State.fromSuperior_wf ht fun v hv => ?_
    simpa only [State.groupRelease_mem, ite_self, State.mem_ite]
  · exact h

/-! ## Sluices -/

@[simp] theorem State.sluCheck_mem {u gtag block bad} : (s.sluCheck u gtag block bad).mem = s.mem := by
  simp only [State.sluCheck, State.detect_mem, ite_self, State.mem_ite]

@[simp] theorem State.readEntry_mem {u t b} : (s.readEntry u t b).1.mem = s.mem := by
  unfold State.readEntry
  grind only [State.eccRead_mem]

theorem State.writeEntry_wf {u t b e} (h : Memory.wf s.mem) : Memory.wf (s.writeEntry u t b e).mem := by
  simp only [State.writeEntry, State.eccWrite_wf, h]

@[simp] theorem State.setSluCtr_mem {u c} : (s.setSluCtr u c).mem = s.mem := rfl

@[simp] theorem State.setTag_mem {u t} : (s.setTag u t).mem = s.mem := rfl

@[simp] theorem State.sluPoison_mem {u code pay} : (s.sluPoison u code pay).mem = s.mem := rfl

@[simp] theorem State.layerCount_mem {u gtag hand b} : (s.layerCount u gtag hand b).mem = s.mem := by
  simp only [State.layerCount, State.setSluice_mem, ite_self, State.mem_ite]

@[simp] theorem State.sendBlk_mem {u t b blk} : (s.sendBlk u t b blk).mem = s.mem := by
  unfold State.sendBlk
  split <;> simp only [State.await_mem, State.send_mem, State.sendMessage_mem]

@[simp] theorem State.sendRun_mem {u t b n} : (s.sendRun u t b n).mem = s.mem := by
  unfold State.sendRun
  dsimp only
  (repeat' split) <;> simp only [State.await_mem, State.send_mem, State.sendMessage_mem]

theorem State.sendEntries_wf {u t first run l} (h : Memory.wf s.mem) :
    Memory.wf (s.sendEntries u t first run l).mem := by
  induction l generalizing s t first run with
  | nil => rwa [State.sendEntries, State.sendRun_mem]
  | cons b l ih =>
    rw [State.sendEntries]
    split
    next e => exact ih (wf_of_eq e (by rwa [State.readEntry_mem]))
    next s1 _ e =>
    have h1 : Memory.wf s1.mem := wf_of_eq e (by rwa [State.readEntry_mem])
    split
    · exact ih h1
    split
    extract_lets s2 hand s3 s4 s5
    have h2 : Memory.wf s2.mem := State.writeEntry_wf (by rwa [State.setSluCtr_mem, State.sluCheck_mem])
    have h3 : Memory.wf s3.mem := by rwa [State.countEmb_mem, State.layerCount_mem]
    have h4 : Memory.wf s4.mem := by
      simp only [s4]
      split
      · rwa [State.setTag_mem]
      · exact h3
    split
    · split
      · exact ih h4
      · exact ih (by rwa [State.sendRun_mem])
    · refine ih ?_
      simpa only [s5, State.sendBlk_mem, State.sendRun_mem, State.sluPoison_mem, ite_self, State.mem_ite]

@[simp] theorem State.tagOn_mem {u gtag step} : (s.tagOn u gtag step).mem = s.mem := by
  unfold State.tagOn
  dsimp only
  (repeat' split) <;> simp only [State.dropXfer_mem, State.setSluice_mem, State.tagDone_mem]

@[simp] theorem State.clearLines_mem {off fuel} : (s.clearLines off fuel).mem = s.mem := by
  induction fuel generalizing s off with
  | zero => rfl
  | succ m ih =>
    simp only [State.clearLines, ih]

theorem State.zeroLake_wf {a n} (h : Memory.wf s.mem) : Memory.wf (s.zeroLake a n).mem := by
  simp only [State.zeroLake, State.clearLines_mem, setMem_mem, Memory.wf_clear, h, ite_self, State.mem_ite]

theorem execGopen_wf {u f} (h : Memory.wf s.mem) : CanonicalAfter (execGopen u f s) := by
  refine State.issue64_wf h fun t ht => ?_
  dsimp only
  (repeat' split) <;> simp only [State.trap1_wf, State.addrTrap_wf, State.takeId_mem, State.setSluice_mem,
      State.retire_wf, State.countEmb_mem, State.zeroLake_wf, ht]

theorem State.armTag_wf {k f arm bad adder} (h : Memory.wf s.mem) : Memory.wf (s.armTag k f arm bad adder).mem := by
  unfold State.armTag
  dsimp only
  (repeat' split) <;> simp only [State.trap1_wf, State.sluCheck_mem, State.retire_wf, State.setTag_mem,
      State.tagOn_mem, State.sendEntries_wf, h]

theorem execGsend_wf {u f adder} (h : Memory.wf s.mem) : CanonicalAfter (execGsend u f adder s) := by
  refine State.issue64_wf h fun t ht => ?_
  simp only [State.armTag_wf, ht]

theorem execGhand_wf {u f adder} (h : Memory.wf s.mem) : CanonicalAfter (execGhand u f adder s) := by
  refine State.issue64_wf h fun t ht => ?_
  simp only [State.armTag_wf, ht]

@[simp] theorem State.sluDiscard_mem {u p} : (s.sluDiscard u p).mem = s.mem := by
  simp only [State.sluDiscard, State.detect_mem]

@[simp] theorem State.sluTakes_mem {u t cnt l} : (s.sluTakes u t cnt l).1.mem = s.mem := by
  induction l generalizing s with
  | nil => rfl
  | cons b l ih =>
    rw [State.sluTakes]
    split
    · rfl
    split
    next e => exact (mem_of_eq e).trans State.readEntry_mem
    next e =>
      simp only [ih, mem_of_eq e, State.readEntry_mem, ite_self, State.mem_ite, apply_ite Prod.fst]

theorem State.sluAdd_wf {u t b cnt blk} (h : Memory.wf s.mem) : Memory.wf (s.sluAdd u t b cnt blk).mem := by
  unfold State.sluAdd
  grind only [State.readEntry_mem, ← State.writeEntry_wf, State.setSluCtr_mem, State.sluCheck_mem,
      State.countEmb_mem, State.setSluice_mem]

theorem State.sluArrive_wf {u p adder} (h : Memory.wf s.mem) : Memory.wf (s.sluArrive u p adder).1.mem := by
  unfold State.sluArrive
  grind only [State.detect_mem, State.sluDiscard_mem, State.sluTakes_mem, State.sluCheck_mem, ← State.sluAdd_wf,
      State.setTag_mem, State.tagOn_mem, ← State.sendEntries_wf, ← foldl_wf]

theorem execSluiceTagStall_wf {sl tag} (h : Memory.wf s.mem) : CanonicalAfter (execSluiceTagStall sl tag s) := by
  unfold execSluiceTagStall
  grind only [State.sluPoison_mem, State.setTag_mem, canonicalAfter_next]

@[simp] theorem State.takeLayers_mem : s.takeLayers.mem = s.mem := by
  simp only [State.takeLayers, State.setSluice_mem, ite_self, State.mem_ite, foldl_mem, implies_true]

@[simp] theorem State.writeSludone_mem {sl v} : (s.writeSludone sl v).mem = s.mem := by
  unfold State.writeSludone
  dsimp only
  split <;> simp only [State.setSluice_mem, State.takeLayers_mem, ite_self, State.mem_ite]

theorem execSludoneWrite_wf {sl v} (h : Memory.wf s.mem) : CanonicalAfter (execSludoneWrite sl v s) := by
  simp only [execSludoneWrite, State.writeSludone_mem, h, ite_self, State.mem_ite, canonicalAfter_next]

/-! ## Update engines -/

@[simp] theorem State.ueDup_mem {k} : (s.ueDup k).mem = s.mem := by
  simp only [State.ueDup, State.halt_mem, State.detect_mem]

theorem State.onShard_wf {k op f plane digs ph g} (h : Memory.wf s.mem)
    (hg : ∀ (t : State) e off q, Memory.wf t.mem → Memory.wf (g t e off q).mem) :
 Memory.wf (s.onShard k op f plane digs ph g).mem := by
  refine State.issue64_wf h fun t ht => ?_
  grind only [State.readSeal_mem, ← State.trap1_wf]

theorem State.ueInstr_wf {u op f g} (h : Memory.wf s.mem) (hg : ∀ k, Memory.wf (g k).mem) :
 Memory.wf (s.ueInstr u op f g).mem := by
  cases u with
  | ue k => exact hg _
  | _ => exact State.issue64_wf h fun _ ht => ht

theorem State.ueRetire_wf {k g} (h : Memory.wf s.mem) : Memory.wf (s.ueRetire k g).mem := by
  simp only [State.ueRetire, State.retire_wf, h]

theorem execUgrad_wf {u f} (h : Memory.wf s.mem) : CanonicalAfter (execUgrad u f s) := by
  refine State.ueInstr_wf h fun k => State.onShard_wf h fun s1 e off q h1 => ?_
  extract_lets
  split
  next e => exact State.ueRetire_wf (wf_of_eq e (by rwa [State.eccRead_mem]))
  next s2 e =>
  have h2 : Memory.wf s2.mem := wf_of_eq e (by rwa [State.eccRead_mem])
  exact State.ueRetire_wf (by simpa only [State.poison_mem, ite_self, State.mem_ite])

theorem execUrld_wf {u f} (h : Memory.wf s.mem) : CanonicalAfter (execUrld u f s) := by
  refine State.ueInstr_wf h fun k => State.onShard_wf h fun s1 e off q h1 => ?_
  extract_lets
  split
  next s2 b1 e2 =>
  split
  next s3 b2 e3 =>
  have h3 : Memory.wf s3.mem := by rwa [mem_of_eq e3, State.eccRead_mem, mem_of_eq e2, State.eccRead_mem]
  split
  all_goals exact State.ueRetire_wf h3

theorem State.planeWrite_wf {k a bs step slotOff} (h : Memory.wf s.mem) :
    Memory.wf (s.planeWrite k a bs step slotOff).mem := by
  simp only [State.planeWrite, State.eccWrite_wf, State.tee_wf, h, ite_self, State.mem_ite, Memory.wf_ite]

theorem execUrst_wf {u f dup} (h : Memory.wf s.mem) : CanonicalAfter (execUrst u f dup s) := by
  refine State.ueInstr_wf h fun k => State.onShard_wf h fun s1 e off q h1 => ?_
  extract_lets
  split
  split
  extract_lets
  split
  · rwa [State.ueDup_mem]
  split
  · rwa [State.haltRec_mem, State.emit_mem]
  split
  · exact h1
  · refine State.ueRetire_wf ?_
    rw [State.countEmb_mem, State.setUe_mem]
    exact State.planeWrite_wf h1

theorem execUhead_wf {u f dup} (h : Memory.wf s.mem) : CanonicalAfter (execUhead u f dup s) := by
  refine State.ueInstr_wf h fun k => State.onShard_wf h fun s1 e off q h1 => ?_
  split
  · exact h1
  extract_lets
  split
  next e => exact State.ueRetire_wf (wf_of_eq e (by rwa [State.eccRead_mem]))
  next s2 e =>
  have h2 : Memory.wf s2.mem := wf_of_eq e (by rwa [State.eccRead_mem])
  split
  · rwa [State.ueDup_mem]
  · exact State.ueRetire_wf (by simpa only [State.countEmb_mem] using State.planeWrite_wf h2)

theorem State.ueSeal_wf {k sh q} (h : Memory.wf s.mem) : Memory.wf (s.ueSeal k sh q).mem := by
  simp only [State.ueSeal, State.countEmb_mem, State.writeSeal_wf, h]

theorem State.ueReseal_wf {k sh f} (h : Memory.wf s.mem) : Memory.wf (s.ueReseal k sh f).mem := by
  unfold State.ueReseal
  grind only [State.readSeal_mem, ← State.ueSeal_wf]

theorem execUdig_wf {u f dup} (h : Memory.wf s.mem) : CanonicalAfter (execUdig u f dup s) := by
  refine State.ueInstr_wf h fun k => State.onShard_wf h fun s1 e off q h1 => ?_
  split
  next e => exact State.ueRetire_wf (wf_of_eq e (by rwa [State.digestAt_mem]))
  next s2 _ e =>
  have h2 : Memory.wf s2.mem := wf_of_eq e (by rwa [State.digestAt_mem])
  split
  · rwa [State.ueDup_mem]
  · exact State.ueRetire_wf (by simpa only [State.setUe_mem] using State.ueSeal_wf h2)

@[simp] theorem State.ueSend_mem {k dst id m} : (s.ueSend k dst id m).mem = s.mem := by
  simp only [State.ueSend, State.sendMessage_mem]

@[simp] theorem State.gatherBegin_mem {k sh step peer} : (s.gatherBegin k sh step peer).mem = s.mem := by
  simp only [State.gatherBegin, State.takeId_mem, State.await_mem, State.ueSend_mem, State.setUe_mem]

@[simp] theorem State.gatherAll_mem {k sh step} : (s.gatherAll k sh step).mem = s.mem := by
  simp only [State.gatherAll, State.gatherBegin_mem, foldl_mem, implies_true]

@[simp] theorem State.gatherHeads_mem {k x peer a n fuel} : (s.gatherHeads k x peer a n fuel).mem = s.mem := by
  induction fuel generalizing s a n with
  | zero => rfl
  | succ fuel ih =>
    rw [State.gatherHeads]
    split
    · rfl
    extract_lets
    split
    next e => exact (mem_of_eq e).trans State.eccRead_mem
    next e =>
      dsimp only
      rw [ih, State.countEmb_mem, State.sendMessage_mem, State.await_mem, mem_of_eq e, State.eccRead_mem]

@[simp] theorem State.gatherOn_mem {k sh step peer x err} : (s.gatherOn k sh step peer x err).mem = s.mem := by
  unfold State.gatherOn
  dsimp only
  split <;> simp only [State.dropXfer_mem, State.setUe_mem, State.gatherHeads_mem, State.ueSend_mem, ite_self,
      State.mem_ite]

@[simp] theorem State.compareDigests_mem {k sh digest} : (s.compareDigests k sh digest).mem = s.mem := rfl

theorem State.sealWrite_wf {k sh field rc q} (h : Memory.wf s.mem) : Memory.wf (s.sealWrite k sh field rc q).mem := by
  unfold State.sealWrite
  split <;> simp only [State.ueSeal_wf, State.setUe_mem, State.gatherAll_mem, State.compareDigests_mem,
      State.ueRetire_wf, h]

theorem execUseal_wf {u f dup} (h : Memory.wf s.mem) : CanonicalAfter (execUseal u f dup s) := by
  refine State.ueInstr_wf h fun k => State.issue64_wf h fun s1 h1 => ?_
  extract_lets
  split
  · exact h1
  split
  · exact State.trap1_wf h1
  · exact h1
  split
  next e => exact State.trap1_wf (wf_of_eq e (by rwa [State.readSeal_mem]))
  next s2 _ e =>
  have h2 : Memory.wf s2.mem := wf_of_eq e (by rwa [State.readSeal_mem])
  split
  · exact State.trap1_wf h2
  split
  · split
    · rwa [State.ueDup_mem]
    · exact State.sealWrite_wf h2
  · rwa [State.setUe_mem]

theorem execUsealWaitEnd_wf {k dup} (h : Memory.wf s.mem) : CanonicalAfter (execUsealWaitEnd k dup s) := by
  unfold execUsealWaitEnd
  grind only [State.setUe_mem, State.readSeal_mem, ← State.trap1_wf, State.ueDup_mem, ← State.sealWrite_wf,
      canonicalAfter_next]

@[simp] theorem State.ueDiscard_mem {k p} : (s.ueDiscard k p).mem = s.mem := by
  simp only [State.ueDiscard, State.detect_mem]

theorem State.inboxPut_wf {k blk bs} (h : Memory.wf s.mem) : Memory.wf (s.inboxPut k blk bs).mem := by
  simp only [State.inboxPut, State.eccWrite_wf, State.countEmb_mem, State.setUe_mem, h]

theorem State.takeBlocks_wf {k p bs l} (h : Memory.wf s.mem) : Memory.wf (s.takeBlocks k p bs l).1.mem := by
  induction l generalizing s with
  | nil => exact h
  | cons x r ih =>
    simp only [State.takeBlocks, State.inboxPut_wf, State.ueDiscard_mem, h, ih, ite_self, State.mem_ite,
        Memory.wf_ite]

theorem State.ueArrive_wf {k p adder} (h : Memory.wf s.mem) : Memory.wf (s.ueArrive k p adder).1.mem := by
  simp only [State.ueArrive, State.detect_mem, State.takeBlocks_wf, h, ite_self, State.mem_ite, Memory.wf_ite,
      apply_ite Prod.fst]

@[simp] theorem State.ackMessage_mem {key node m status} : (s.ackMessage key node m status).mem = s.mem := by
  simp only [State.ackMessage, State.sendMessage_mem]

theorem State.unitMsg_wf {k m} (h : Memory.wf s.mem) : Memory.wf (s.unitMsg k m).mem := by
  unfold State.unitMsg
  split <;> grind only [State.readSeal_mem, State.ackMessage_mem, ← State.ueSeal_wf, State.digestAt_mem,
      State.ueSend_mem, State.setUe_mem, State.gatherBegin_mem]

/-! ## Loading a job -/

theorem State.clearPonds_wf {site} (h : Memory.wf s.mem) : Memory.wf (s.clearPonds site).mem := by
  simp only [State.clearPonds, Memory.wf_clear, h]

@[simp] theorem State.resetProc_mem {k} : (s.resetProc k).mem = s.mem := rfl

@[simp] theorem State.resetUnits_mem {p} : (s.resetUnits p).mem = s.mem := by
  unfold State.resetUnits
  grind only [State.resetProc_mem, foldl_mem]

theorem State.clearScratch_wf (h : Memory.wf s.mem) : Memory.wf s.clearScratch.mem := by
  simp only [State.clearScratch, Memory.wf_clear, h]

theorem State.clearCompute_wf (h : Memory.wf s.mem) : Memory.wf s.clearCompute.mem := by
  unfold State.clearCompute
  grind only [← State.clearPonds_wf, State.resetProc_mem, ← State.clearScratch_wf, ← foldl_wf]

@[simp] theorem State.lowerFence_mem : s.lowerFence.mem = s.mem := rfl

@[simp] theorem State.takeTopo_mem : s.takeTopo.mem = s.mem := rfl

@[simp] theorem State.startProc_mem {k pc seed} : (s.startProc k pc seed).mem = s.mem := rfl

@[simp] theorem State.takeMeasures_mem {ms} : (s.takeMeasures ms).mem = s.mem := rfl

@[simp] theorem State.loadUe_mem {d first k} : (s.loadUe d first k).mem = s.mem := by
  simp only [State.loadUe, State.setUe_mem, ite_self, State.mem_ite]

@[simp] theorem State.seedAll_mem {seed} : (s.seedAll seed).mem = s.mem := rfl

@[simp] theorem State.loadJob_mem {j first} : (s.loadJob j first).mem = s.mem := by
  unfold State.loadJob
  dsimp only
  rw [foldl_mem fun _ _ => State.setBar_mem _ _ _]
  dsimp only
  rw [foldl_mem fun _ _ => State.loadUe_mem]
  rw [foldl_mem fun t u => (State.setSluice_mem _ _ _).trans (State.setSpring_mem _ _ _)]
  rw [foldl_mem fun _ _ => State.startProc_mem, foldl_mem fun _ _ => State.startProc_mem,
    foldl_mem fun _ _ => State.startProc_mem, foldl_mem fun _ _ => State.startProc_mem, State.seedAll_mem,
        State.writeRoutes_mem]
  exact State.takeTopo_mem

@[simp] theorem State.endJob_mem {status} : (s.endJob status).mem = s.mem := by
  unfold State.endJob
  dsimp only
  (repeat' split) <;> simp only [State.setHport_mem]

theorem State.firstSeals_wf {d first} (h : Memory.wf s.mem) : Memory.wf (s.firstSeals d first).mem := by
  unfold State.firstSeals
  grind only [State.digestAt_mem, ← State.writeSeal_wf, ← foldl_wf]

/-! ## Patrol and scrub -/

@[simp] theorem State.patrolAccess_mem {st acc retry} : (s.patrolAccess st acc retry).mem = s.mem := by
  unfold State.patrolAccess
  split <;> simp only [State.readAccess_mem, State.accessLost_mem, State.stackFail_mem, ite_self, State.mem_ite]

theorem execLakePatrolRead_wf {k found retry} (h : Memory.wf s.mem) :
    CanonicalAfter (execLakePatrolRead k found retry s) := by
  unfold execLakePatrolRead
  split <;> simp only [State.latent_mem, State.patrolAccess_mem, State.countEmb_mem, State.setStack_mem, h, ite_self,
      State.mem_ite, canonicalAfter_next]

theorem State.loseLake_wf (h : Memory.wf s.mem) : Memory.wf s.loseLake.mem := by
  simp only [State.loseLake, Memory.wf_clear, h]

theorem execLakeInterfaceRetraining_wf {k pass} (h : Memory.wf s.mem) :
    CanonicalAfter (execLakeInterfaceRetraining k pass s) := by
  simp only [execLakeInterfaceRetraining, State.loseLake_wf, State.stackFail_mem, h, ite_self, State.mem_ite,
      Memory.wf_ite, canonicalAfter_next]

@[simp] theorem State.scrubWords_mem {a req fuel} : (s.scrubWords a req fuel).mem = s.mem := by
  induction fuel generalizing s a with
  | zero => rfl
  | succ m ih =>
    simp only [State.scrubWords, State.readWord_mem, ih]

theorem execPondScrub_wf {k found} (h : Memory.wf s.mem) : CanonicalAfter (execPondScrub k found s) := by
  unfold execPondScrub
  split <;> simp only [State.setCluster_mem, State.latent_mem, State.scrubWords_mem, h, ite_self, State.mem_ite,
      canonicalAfter_next]

/-! ## Reserves -/

@[simp] theorem State.idChange_mem : s.idChange.mem = s.mem := rfl

@[simp] theorem State.spareFor_mem {core} : (s.spareFor core).mem = s.mem := by
  unfold State.spareFor
  dsimp only
  split <;> simp only [State.setCluster_mem, ite_self, State.mem_ite]

@[simp] theorem State.takeRow_mem {key row} : (s.takeRow key row).mem = s.mem := by
  simp only [State.takeRow, State.failRec_mem, State.spareFor_mem, ite_self, State.mem_ite]

@[simp] theorem State.bringRows_mem : s.bringRows.mem = s.mem := by
  unfold State.bringRows
  grind only [State.takeRow_mem, foldl_mem]

@[simp] theorem State.bringCores_mem : s.bringCores.mem = s.mem := by
  simp only [State.bringCores, State.failRec_mem, State.setCluster_mem, ite_self, State.mem_ite, foldl_mem,
      implies_true]

theorem State.remapLake_wf {slots} (h : Memory.wf s.mem) : Memory.wf (s.remapLake slots).mem :=
  memPuts_wf (Memory.wf_filter _ _ h) _

theorem State.replaceStack_wf {k} (h : Memory.wf s.mem) : Memory.wf (s.replaceStack k).mem := by
  unfold State.replaceStack
  dsimp only
  split <;> simp only [State.failRec_mem, State.emit_mem, State.remapLake_wf, h]

theorem State.bringStacks_wf (h : Memory.wf s.mem) : Memory.wf s.bringStacks.mem := by
  simp +contextual only [State.bringStacks, State.replaceStack_wf, h, foldl_wf, implies_true]

@[simp] theorem State.replaceSite_mem {i} : (s.replaceSite i).mem = s.mem := by
  unfold State.replaceSite
  split <;> simp only [State.failRec_mem, State.emit_mem]

@[simp] theorem State.bringSites_mem : s.bringSites.mem = s.mem := by
  simp only [State.bringSites, State.replaceSite_mem, foldl_mem, implies_true]

@[simp] theorem State.openClamps_mem {p} : (s.openClamps p).mem = s.mem := rfl

@[simp] theorem State.restoreSite_mem {p} : (s.restoreSite p).mem = s.mem := by
  simp only [State.restoreSite, State.emit_mem, State.setPolder_mem, State.openClamps_mem, ite_self, State.mem_ite]

theorem State.repowerEmb_wf {p} (h : Memory.wf s.mem) : Memory.wf (s.repowerEmb p).mem := by
  simp only [State.repowerEmb, State.emit_mem, State.loseLake_wf, State.setPolder_mem, State.openClamps_mem, h,
      ite_self, State.mem_ite, Memory.wf_ite]

@[simp] theorem State.restoreSites_mem : s.restoreSites.mem = s.mem := by
  simp only [State.restoreSites, State.restoreSite_mem, foldl_mem, implies_true]

theorem State.bringPolders_wf (h : Memory.wf s.mem) : Memory.wf s.bringPolders.mem := by
  simp +contextual only [State.bringPolders, State.repowerEmb_wf, State.restoreSites_mem, h, foldl_wf, implies_true]

theorem State.bringReserves_wf (h : Memory.wf s.mem) : Memory.wf s.bringReserves.1.mem := by
  simp only [State.bringReserves, State.bringRows_mem, State.bringCores_mem, State.bringStacks_wf,
      State.bringSites_mem, State.bringPolders_wf, State.idChange_mem, h, ite_self, State.mem_ite]

/-! ## The commit vote -/

@[simp] theorem State.wardenSend_mem {key x dst dnode a bs fuel} :
    (s.wardenSend key x dst dnode a bs fuel).mem = s.mem := by
  induction fuel generalizing s a bs with
  | zero => rfl
  | succ m ih =>
    simp only [State.wardenSend, State.await_mem, State.sendMessage_mem, ih, ite_self, State.mem_ite]

@[simp] theorem State.wardenXfer_mem {key n} : (s.wardenXfer key n).2.mem = s.mem := rfl

@[simp] theorem State.sendReport_mem {j m bs} : (s.sendReport j m bs).mem = s.mem := by
  simp only [State.sendReport, State.wardenXfer_mem, State.wardenSend_mem]

@[simp] theorem State.quietStep_mem {l n w q} : (s.quietStep l n w q).mem = s.mem := by
  simp only [State.quietStep, State.emit_mem, ite_self, State.mem_ite]

theorem State.scaleLayer_wf {off n l w} (h : Memory.wf s.mem) : Memory.wf (s.scaleLayer off n l w).mem := by
  unfold State.scaleLayer
  grind only [State.wardenRead_mem, ← State.wardenWrite_wf, State.emit_mem, State.quietStep_mem]

theorem State.scaleAll_wf {n ws} (h : Memory.wf s.mem) : Memory.wf (s.scaleAll n ws).mem := by
  unfold State.scaleAll
  split <;> simp +contextual only [State.scaleLayer_wf, h, foldl_wf, implies_true]

theorem State.scaleStep_wf {step} (h : Memory.wf s.mem) : Memory.wf (s.scaleStep step).mem := by
  unfold State.scaleStep
  split <;> simp +contextual only [State.wardenWrite_wf, h, foldl_wf, implies_true]

theorem State.commitStep_wf {n ws} (h : Memory.wf s.mem) : Memory.wf (s.commitStep n ws).mem := by
  simp only [State.commitStep, State.noteResult_mem, State.scaleAll_wf, State.tellUes_mem, h]

@[simp] theorem State.resultBlock_mem {nrep} : (s.resultBlock nrep).1.mem = s.mem := by
  simp only [State.resultBlock, State.wardenRead_mem]

theorem State.applyResult_wf {n v nrep crc} (h : Memory.wf s.mem) : Memory.wf (s.applyResult n v nrep crc).mem := by
  unfold State.applyResult
  split
  · exact State.raiseFence_wf (by rwa [State.voidStep_mem])
  split
  next e => exact wf_of_eq e (by rwa [State.resultBlock_mem])
  next s1 _ e =>
  have h1 : Memory.wf s1.mem := wf_of_eq e (by rwa [State.resultBlock_mem])
  split
  · rwa [State.detect_mem]
  split
  · exact State.commitStep_wf h1
  · exact State.raiseFence_wf (by rwa [State.voidStep_mem])

theorem State.finishResult_wf {n v nrep} (h : Memory.wf s.mem) : Memory.wf (s.finishResult n v nrep).mem := by
  have hread := @State.resultBlock_mem
  generalize hf : State.finishResult = f
  delta State.finishResult at hf
  revert hread hf
  induction State.resultBlock using forAny with | any read =>
  rintro hread rfl
  dsimp only
  split
  next e => rwa [mem_of_eq e, hread]
  next e => exact State.applyResult_wf (by rwa [State.toGroups_mem, State.broadcast_mem, mem_of_eq e, hread])

theorem State.sendResult_wf {n v nrep blk} (h : Memory.wf s.mem) : Memory.wf (s.sendResult n v nrep blk).mem := by
  have hwrite := @State.wardenWrite_wf
  generalize hf : State.sendResult = f
  delta State.sendResult at hf
  revert hwrite hf
  induction State.wardenWrite using forAny with | any write =>
  rintro hwrite rfl
  dsimp only
  split
  · exact State.finishResult_wf (hwrite h)
  · rw [foldl_mem fun _ _ => State.wardenSend_mem]
    exact hwrite h

@[simp] theorem State.readReport_mem {j v} : (s.readReport j v).1.mem = s.mem := by
  have hread := @State.wardenRead_mem
  generalize hf : State.readReport = f
  delta State.readReport at hf
  revert hread hf
  induction State.wardenRead using forAny with | any read =>
  rintro hread rfl
  dsimp only
  split
  · rfl
  split
  all_goals next e => exact (mem_of_eq e).trans hread

@[simp] theorem State.readReports_mem {j l} : (s.readReports j l).1.mem = s.mem := by
  induction l generalizing s with
  | nil => rfl
  | cons x r ih =>
    simp only [State.readReports, State.readReport_mem, ih]

theorem State.mgrDecide_wf {j} (h : Memory.wf s.mem) : Memory.wf (s.mgrDecide j).mem := by
  unfold State.mgrDecide
  dsimp only
  (repeat' split) <;> simp +contextual only [State.readReports_mem, State.detect_mem, State.sendReport_mem,
      State.emit_mem, State.sendResult_wf, h, foldl_wf, implies_true]

theorem State.takeVote_wf {v} (h : Memory.wf s.mem) : Memory.wf (s.takeVote v).mem := by
  unfold State.takeVote
  split <;> simp only [State.mgrDecide_wf, h, ite_self, State.mem_ite, Memory.wf_ite]

theorem State.castVote_wf {j} (h : Memory.wf s.mem) : Memory.wf (s.castVote j).mem := by
  have hwrite := @State.wardenWrite_wf
  generalize hf : State.castVote = f
  delta State.castVote at hf
  revert hwrite hf
  induction State.wardenWrite using forAny with | any write =>
  rintro hwrite rfl
  dsimp only
  split
  · exact State.commitStep_wf h
  split
  · exact State.takeVote_wf (hwrite h)
  · rwa [State.sendReport_mem]

theorem State.reportOn_wf {step owner err} (h : Memory.wf s.mem) : Memory.wf (s.reportOn step owner err).mem := by
  unfold State.reportOn
  dsimp only
  (repeat' split) <;> simp only [State.sendCell_mem, State.finishResult_wf, h]

theorem execClearWindowExpiry_wf (h : Memory.wf s.mem) : CanonicalAfter (execClearWindowExpiry s) := by
  unfold execClearWindowExpiry
  grind only [State.sealedAll_mem, ← State.castVote_wf, canonicalAfter_next]

/-! ## Restart -/

@[simp] theorem State.classify_mem {j v} : (s.classify j v).1.mem = s.mem := by
  have hread := @State.readSeal_mem
  generalize hf : State.classify = f
  delta State.classify at hf
  revert hread hf
  induction State.readSeal using forAny with | any read =>
  rintro hread rfl
  refine foldl_fst_mem (fun acc e => ?_) _ _
  exact hread

@[simp] theorem State.forceEvent_mem {e} : (s.forceEvent e).mem = s.mem := rfl

theorem State.fullUpdate_wf {j v e} (h : Memory.wf s.mem) : Memory.wf (s.fullUpdate j v e).mem := by
  unfold State.fullUpdate
  dsimp only
  split <;> simp only [State.eccRead_mem, State.eccWrite_wf, State.ueReseal_wf, h, ite_self, State.mem_ite,
      Memory.wf_ite]

theorem State.rollForward_wf {v e} (h : Memory.wf s.mem) : Memory.wf (s.rollForward v e).mem := by
  unfold State.rollForward
  grind only [State.eccRead_mem, ← State.eccWrite_wf, State.emit_mem, ← State.ueReseal_wf]

theorem State.gatherShard_wf {v e} (h : Memory.wf s.mem) : Memory.wf (s.gatherShard v e).mem := by
  unfold State.gatherShard
  grind only [State.digestAt_mem, State.gatherAll_mem, ← State.ueReseal_wf]

theorem State.recoverShard_wf {j v x} (h : Memory.wf s.mem) : Memory.wf (s.recoverShard j v x).mem := by
  unfold State.recoverShard
  grind only [← State.gatherShard_wf, ← State.rollForward_wf, ← State.fullUpdate_wf, State.ueSend_mem]

@[simp] theorem State.fillInboxes_mem {v} : (s.fillInboxes v).mem = s.mem := by
  simp only [State.fillInboxes, State.tellUes_mem]

@[simp] theorem State.freeInboxes_mem {v} : (s.freeInboxes v).mem = s.mem := by
  simp only [State.freeInboxes, State.tellUes_mem]

theorem State.beginRestart_wf {j v first ck} (h : Memory.wf s.mem) : Memory.wf (s.beginRestart j v first ck).mem := by
  simp only [State.beginRestart, State.clearCompute_wf, State.loadJob_mem, State.fillInboxes_mem, State.tellUes_mem,
      h]

@[simp] theorem State.mgrDone_mem {v c} : (s.mgrDone v c).mem = s.mem := by
  unfold State.mgrDone
  dsimp only
  (repeat' split) <;> simp only [State.sendCell_mem, State.mgrTry_mem]

theorem State.sealRecovered_wf {v} (h : Memory.wf s.mem) : Memory.wf (s.sealRecovered v).mem := by
  unfold State.sealRecovered
  grind only [State.readSeal_mem, State.compareDigests_mem, ← State.ueSeal_wf, ← foldl_wf]

@[simp] theorem State.allSealed_mem {j v} : (s.allSealed j v).1.mem = s.mem := by
  simp only [State.allSealed, State.sealsAll_mem]

theorem State.recoverOn_wf (h : Memory.wf s.mem) : Memory.wf s.recoverOn.mem := by
  unfold State.recoverOn
  split <;> simp only [State.allSealed_mem, State.sealRecovered_wf, State.lowerFence_mem, State.freeInboxes_mem,
      State.mgrDone_mem, State.sendCell_mem, h, ite_self, State.mem_ite, Memory.wf_ite]

@[simp] theorem State.askRepairs_mem {v l} : (s.askRepairs v l).mem = s.mem := by
  simp only [State.askRepairs, State.ueSend_mem, foldl_mem, implies_true]

theorem State.repairDone_wf {sh} (h : Memory.wf s.mem) : Memory.wf (s.repairDone sh).mem := by
  unfold State.repairDone
  dsimp only
  (repeat' split) <;> simp only [State.eccRead_mem, State.eccWrite_wf, State.emit_mem, State.ueReseal_wf, h]

theorem State.fillSpare_wf {j v} (h : Memory.wf s.mem) : Memory.wf (s.fillSpare j v).mem := by
  simp +contextual only [State.fillSpare, State.ueSeal_wf, State.endJob_mem, State.emit_mem, State.ueSend_mem,
      State.askRepairs_mem, h, ite_self, State.mem_ite, foldl_mem, foldl_wf, implies_true]

theorem State.sealedRestart_wf {j v first} (h : Memory.wf s.mem) : Memory.wf (s.sealedRestart j v first).mem := by
  unfold State.sealedRestart
  grind only [← State.beginRestart_wf, ← State.recoverOn_wf, ← State.scaleStep_wf, ← State.fillSpare_wf,
      State.classify_mem, State.forceEvent_mem, ← State.recoverShard_wf, State.askRepairs_mem, ← foldl_wf]

theorem State.coldBack_wf (h : Memory.wf s.mem) : Memory.wf s.coldBack.mem :=
  memPuts_wf (memClears_wf h _ _ _) _

theorem State.restoreShard_wf {key part tail o v e} (h : Memory.wf s.mem) :
    Memory.wf (s.restoreShard key part tail o v e).1.mem := by
  unfold State.restoreShard
  grind only [← State.wardenWrite_wf, ← State.writeSeal_wf]

theorem State.restoreSlot_wf {key slot m j v} (h : Memory.wf s.mem) :
    Memory.wf (s.restoreSlot key slot m j v).1.mem := by
  have hshard := @State.restoreShard_wf
  have hwrite := @State.wardenWrite_wf
  have hputSeal := @State.writeSeal_wf
  generalize hf : State.restoreSlot = f
  delta State.restoreSlot at hf
  revert hshard hwrite hputSeal hf
  induction State.restoreShard using forAny with | any shard =>
  induction State.wardenWrite using forAny with | any write =>
  induction State.writeSeal using forAny with | any putSeal =>
  induction State.scaleOff using forAny with | any off =>
  rintro hshard hwrite hputSeal rfl
  dsimp only
  refine foldl_wf ?_ (fun t e ht => hputSeal ht) _
  split
  · refine hwrite (foldl_fst_wf (State.coldBack_wf h) (fun t x ht => ?_) _)
    exact hshard ht
  · refine foldl_fst_wf (State.coldBack_wf h) (fun t x ht => ?_) _
    exact hshard ht

theorem State.checkpointRestart_wf {j v first} (h : Memory.wf s.mem) :
    Memory.wf (s.checkpointRestart j v first).mem := by
  unfold State.checkpointRestart
  dsimp only
  split <;> grind only [State.endJob_mem, State.emit_mem, ← State.beginRestart_wf, ← State.restoreSlot_wf,
      State.flashScan_mem, ← State.scaleStep_wf, ← State.recoverOn_wf, State.gatherAll_mem, foldl_mem]

theorem State.applyDecision_wf {mode v first} (h : Memory.wf s.mem) :
    Memory.wf (s.applyDecision mode v first).mem := by
  unfold State.applyDecision
  grind only [← State.sealedRestart_wf, State.endJob_mem, State.emit_mem, ← State.checkpointRestart_wf]

theorem State.sendDecision_wf {mode v} (h : Memory.wf s.mem) : Memory.wf (s.sendDecision mode v).mem := by
  simp only [State.sendDecision, State.applyDecision_wf, State.toGroups_mem, State.broadcast_mem, h]

theorem State.decideRestart_wf {j rs} (h : Memory.wf s.mem) : Memory.wf (s.decideRestart j rs).mem := by
  simp only [State.decideRestart, State.sendDecision_wf, State.emit_mem, h, ite_self, State.mem_ite, Memory.wf_ite]

theorem State.mgrRestart_wf (h : Memory.wf s.mem) : Memory.wf s.mgrRestart.mem := by
  unfold State.mgrRestart
  dsimp only
  (repeat' split) <;> simp only [State.sendCell_mem, State.decideRestart_wf, h]

theorem State.takeRestart_wf {r} (h : Memory.wf s.mem) : Memory.wf (s.takeRestart r).mem := by
  unfold State.takeRestart
  dsimp only
  split <;> simp only [State.sendDecision_wf, State.emit_mem, State.mgrRestart_wf, h, ite_self, State.mem_ite,
      Memory.wf_ite]

theorem State.sendRestart_wf {j need ready} (h : Memory.wf s.mem) : Memory.wf (s.sendRestart j need ready).mem := by
  simp only [State.sendRestart, State.takeRestart_wf, State.sendCell_mem, h, ite_self, State.mem_ite, Memory.wf_ite]

theorem State.restart_wf {j} (h : Memory.wf s.mem) : Memory.wf (s.restart j).mem := by
  unfold State.restart
  dsimp only
  split <;> simp only [State.bringReserves_wf, State.takeMeasures_mem, State.reroute_mem, State.classify_mem,
      State.forceEvent_mem, State.sendRestart_wf, h, ite_self, State.mem_ite, apply_ite Prod.fst]

/-! ## Cells of a group -/

theorem execCommitVoteCell_wf {p c bad} (h : Memory.wf s.mem) : CanonicalAfter (execCommitVoteCell p c bad s) := by
  unfold execCommitVoteCell
  split
  · refine State.onCell_wf h fun t ht => ?_
    split
    · exact State.takeVote_wf ht
    · exact ht
  · exact h

theorem State.takeResult_wf {n v nrep crc} (h : Memory.wf s.mem) : Memory.wf (s.takeResult n v nrep crc).mem := by
  unfold State.takeResult
  split
  · exact h
  split
  · rwa [State.noteResult_mem]
  split
  · split
    next e => exact State.sendResult_wf (wf_of_eq e (by rwa [State.resultBlock_mem]))
    next e => exact wf_of_eq e (by rwa [State.resultBlock_mem])
  split
  · exact State.applyResult_wf (by rwa [State.broadcast_mem])
  · exact State.applyResult_wf h

theorem execCommitResultCell_wf {p c bad} (h : Memory.wf s.mem) :
    CanonicalAfter (execCommitResultCell p c bad s) := by
  unfold execCommitResultCell
  split
  · exact State.onCell_wf h fun t ht => State.fromSuperior_wf ht fun v hv => State.takeResult_wf hv
  · exact h

theorem State.mgrPoison_wf {step code src} (h : Memory.wf s.mem) : Memory.wf (s.mgrPoison step code src).mem := by
  unfold State.mgrPoison
  dsimp only
  (repeat' split) <;> simp only [State.mgrFence_mem, State.sendCell_mem, State.raiseFence_wf, h]

theorem execPoisonCell_wf {p c bad} (h : Memory.wf s.mem) : CanonicalAfter (execPoisonCell p c bad s) := by
  unfold execPoisonCell
  split
  · refine State.onCell_wf h fun t ht => ?_
    split
    · exact State.mgrPoison_wf ht
    · exact ht
  · exact h

theorem State.takeFence_wf {step reason} (h : Memory.wf s.mem) : Memory.wf (s.takeFence step reason).mem := by
  simp only [State.takeFence, State.mgrFence_mem, State.raiseFence_wf, State.endJob_mem, h, ite_self, State.mem_ite]

theorem execFenceCell_wf {p c bad} (h : Memory.wf s.mem) : CanonicalAfter (execFenceCell p c bad s) := by
  unfold execFenceCell
  split
  · exact State.onCell_wf h fun t ht => State.fromSuperior_wf ht fun v hv => State.takeFence_wf hv
  · exact h

theorem execFaultReport_wf {p c bad} (h : Memory.wf s.mem) : CanonicalAfter (execFaultReport p c bad s) := by
  unfold execFaultReport
  split
  · exact State.onCell_wf h fun t ht => ht
  · exact h

theorem execVoteTimeoutManager_wf (h : Memory.wf s.mem) : CanonicalAfter (execVoteTimeoutManager s) := by
  simp only [execVoteTimeoutManager, State.raiseFence_wf, State.mgrFence_mem, State.emit_mem, h, ite_self,
      State.mem_ite, Memory.wf_ite, canonicalAfter_next]

theorem execResultTimeoutWorker_wf (h : Memory.wf s.mem) : CanonicalAfter (execResultTimeoutWorker s) := by
  simp only [execResultTimeoutWorker, State.endJob_mem, State.raiseFence_wf, State.emit_mem, h, ite_self,
      State.mem_ite, Memory.wf_ite, canonicalAfter_next]

theorem execWorkerRestart_wf (h : Memory.wf s.mem) : CanonicalAfter (execWorkerRestart s) := by
  unfold execWorkerRestart
  split <;> simp only [State.restart_wf, h, ite_self, State.mem_ite, Memory.wf_ite, canonicalAfter_next]

theorem execRestartReport_wf {p c bad} (h : Memory.wf s.mem) : CanonicalAfter (execRestartReport p c bad s) := by
  unfold execRestartReport
  split
  · refine State.onCell_wf h fun t ht => ?_
    split
    · exact State.takeRestart_wf ht
    · exact ht
  · exact h

theorem State.takeDecision_wf {mode v first} (h : Memory.wf s.mem) : Memory.wf (s.takeDecision mode v first).mem := by
  simp only [State.takeDecision, State.applyDecision_wf, State.broadcast_mem, h, ite_self, State.mem_ite]

theorem execRestartDecision_wf {p c bad} (h : Memory.wf s.mem) : CanonicalAfter (execRestartDecision p c bad s) := by
  unfold execRestartDecision
  split
  · exact State.onCell_wf h fun t ht => State.fromSuperior_wf ht fun v hv => State.takeDecision_wf hv
  · exact h

theorem execRecoveryDone_wf {p c bad} (h : Memory.wf s.mem) : CanonicalAfter (execRecoveryDone p c bad s) := by
  unfold execRecoveryDone
  split
  · refine State.onCell_wf h fun t ht => ?_
    simpa only [State.mgrDone_mem, ite_self, State.mem_ite]
  · exact h

theorem execSubstitutionNotice_wf {p c bad} (h : Memory.wf s.mem) :
    CanonicalAfter (execSubstitutionNotice p c bad s) := by
  unfold execSubstitutionNotice
  split
  · refine State.onCell_wf h fun t ht => ?_
    simpa only [State.emit_mem, ite_self, State.mem_ite]
  · exact h

@[simp] theorem State.answerTee_mem {n} : (s.answerTee n).1.mem = s.mem := by
  simp only [State.answerTee, State.emit_mem, ite_self, State.mem_ite, apply_ite Prod.fst]

@[simp] theorem State.mgrAnswer_mem {n src ok} : (s.mgrAnswer n src ok).mem = s.mem := by
  simp only [State.mgrAnswer, State.mgrCancel_mem, State.endRunning_mem, ite_self, State.mem_ite]

@[simp] theorem State.designate_mem : s.designate.mem = s.mem := by
  simp only [State.designate, State.broadcast_mem, State.answerTee_mem, State.mgrAnswer_mem]

theorem execCheckpointDesignation_wf {p c bad} (h : Memory.wf s.mem) :
    CanonicalAfter (execCheckpointDesignation p c bad s) := by
  unfold execCheckpointDesignation
  split
  · refine State.onCell_wf h fun t ht => ?_
    simpa only [State.cancelTee_mem, State.sendCell_mem, State.answerTee_mem, ite_self, State.mem_ite]
  · exact h

theorem execDesignationReply_wf {p c bad} (h : Memory.wf s.mem) :
    CanonicalAfter (execDesignationReply p c bad s) := by
  unfold execDesignationReply
  split
  · refine State.onCell_wf h fun t ht => ?_
    simpa only [State.mgrAnswer_mem, ite_self, State.mem_ite]
  · exact h

theorem State.deliverUnit_wf {k m} (h : Memory.wf s.mem) : Memory.wf (s.deliverUnit k m).mem := by
  unfold State.deliverUnit
  grind only [← State.unitMsg_wf, ← State.repairDone_wf, ← State.recoverOn_wf]

theorem State.takeUnitMsg_wf {k f} (h : Memory.wf s.mem) : Memory.wf (s.takeUnitMsg k f).mem := by
  unfold State.takeUnitMsg
  grind only [← State.deliverUnit_wf, State.dropPacket_mem]

theorem execGatherOpen_wf {k} (h : Memory.wf s.mem) : CanonicalAfter (execGatherOpen k s) := by
  simp only [execGatherOpen, State.takeUnitMsg_wf, h, canonicalAfter_next]

theorem execGatherClose_wf {k} (h : Memory.wf s.mem) : CanonicalAfter (execGatherClose k s) := by
  simp only [execGatherClose, State.takeUnitMsg_wf, h, canonicalAfter_next]

theorem execGatherAck_wf {k} (h : Memory.wf s.mem) : CanonicalAfter (execGatherAck k s) := by
  simp only [execGatherAck, State.takeUnitMsg_wf, h, canonicalAfter_next]

theorem execGatherRequest_wf {k} (h : Memory.wf s.mem) : CanonicalAfter (execGatherRequest k s) := by
  simp only [execGatherRequest, State.takeUnitMsg_wf, h, canonicalAfter_next]

/-! ## Local control spaces -/

@[simp] theorem State.ctlReadClear_mem {k num} : (s.ctlReadClear k num).mem = s.mem := by
  simp only [State.ctlReadClear, State.setSpring_mem, State.setSluice_mem, State.setUe_mem, ite_self, State.mem_ite]

@[simp] theorem State.writeSel_mem {cl n v} : (s.writeSel cl n v).mem = s.mem := rfl

@[simp] theorem State.coreWrite_mem {t : State} {k num v} (e : s.coreWrite k num v = some t) : t.mem = s.mem := by
  unfold State.coreWrite at e
  grind only [State.setProc_mem, State.writeSel_mem]

@[simp] theorem State.ctlWrite_mem {t : State} {k num v} (e : s.ctlWrite k num v = some t) : t.mem = s.mem := by
  unfold State.ctlWrite at e
  grind only [State.coreWrite_mem, State.writeSludone_mem]

theorem execCread_wf {u f} (h : Memory.wf s.mem) : CanonicalAfter (execCread u f s) := by
  refine State.issue_wf h fun t ht => ?_
  dsimp only
  (repeat' split) <;> simp only [State.finish_wf, State.trap_wf, State.ctlReadClear_mem, State.retire_wf, ht]

theorem execCwrite_wf {u f} (h : Memory.wf s.mem) : CanonicalAfter (execCwrite u f s) := by
  refine State.issue_wf h fun s1 h1 => ?_
  split
  · exact State.finish_wf h1
  split
  · exact State.trap_wf h1
  next e => exact State.retire_wf (by rwa [State.ctlWrite_mem e])

/-! ## The mesh -/

@[simp] theorem State.setPacket_mem {i p} : (s.setPacket i p).mem = s.mem := rfl

@[simp] theorem State.countDrop_mem {n} : (s.countDrop n).mem = s.mem := rfl

@[simp] theorem State.meshDrop_mem {i p code port} : (s.meshDrop i p code port).mem = s.mem := rfl

@[simp] theorem State.meshDown_mem {i p port status} : (s.meshDown i p port status).mem = s.mem := by
  simp only [State.meshDown, State.countDrop_mem, State.dropPacket_mem, State.detect_mem, State.send_mem,
      State.meshDrop_mem, ite_self, State.mem_ite]

theorem State.meshSample_wf {p port lane} (h : Memory.wf s.mem) : Memory.wf (s.meshSample p port lane).mem := by
  simp only [State.meshSample, State.traceLine_wf, h, ite_self, State.mem_ite, Memory.wf_ite]

@[simp] theorem State.countHop_mem {p} : (s.countHop p).mem = s.mem := by
  simp only [State.countHop, State.countCl_mem, ite_self, State.mem_ite]

@[simp] theorem State.keepFlits_mem {p o lane} : (s.keepFlits p o lane).mem = s.mem := rfl

theorem State.hop_wf {i p o lane} (h : Memory.wf s.mem) : Memory.wf (s.hop i p o lane).mem := by
  unfold State.hop
  dsimp only
  (repeat' split) <;> simp only [State.keepFlits_mem, State.countHop_mem, State.meshSample_wf, State.setNode_mem,
      State.setPacket_mem, State.send_mem, h]

theorem State.forward_wf {n o} (h : Memory.wf s.mem) : Memory.wf (s.forward n o).mem := by
  unfold State.forward
  split <;> simp only [State.hop_wf, State.setNode_mem, h]

theorem State.atNode_wf {i f} (h : Memory.wf s.mem) (hf : ∀ p, Memory.wf (f p).mem) :
 Memory.wf (s.atNode i f).mem := by
  unfold State.atNode
  grind only

@[simp] theorem State.mcAck_mem {x} : (s.mcAck x).mem = s.mem := by
  unfold State.mcAck
  dsimp only
  (repeat' split) <;> simp only [State.send_mem]

@[simp] theorem State.mcBranch_mem {x bad} : (s.mcBranch x bad).mem = s.mem := by
  simp only [State.mcBranch, State.mcAck_mem, ite_self, State.mem_ite]

@[simp] theorem State.prune_mem {i p o} : (s.prune i p o).mem = s.mem := by
  unfold State.prune
  dsimp only
  (repeat' split) <;> simp only [State.dropPacket_mem, State.setPacket_mem, State.mcBranch_mem]

theorem execRouterPacketForward_wf {i} (h : Memory.wf s.mem) : CanonicalAfter (execRouterPacketForward i s) := by
  refine State.atNode_wf h fun p => ?_
  grind only [State.meshDrop_mem, State.meshDown_mem, State.prune_mem, ← State.forward_wf]

theorem execEscapeWaitExpiry_wf {i} (h : Memory.wf s.mem) : CanonicalAfter (execEscapeWaitExpiry i s) := by
  refine State.atNode_wf h fun p => ?_
  simp only [State.setPacket_mem, h, ite_self, State.mem_ite]

@[simp] theorem State.combine_mem {i j p q adder} : (s.combine i j p q adder).mem = s.mem := by
  simp only [State.combine, State.setPacket_mem, State.dropPacket_mem, State.setNode_mem, State.countCl_mem,
      State.detect_mem, ite_self, State.mem_ite]

@[simp] theorem State.offerOldest_mem {n o} : (s.offerOldest n o).mem = s.mem := by
  unfold State.offerOldest
  dsimp only
  (repeat' split) <;> simp only [State.setPacket_mem]

@[simp] theorem State.joinQueue_mem {i p o} : (s.joinQueue i p o).mem = s.mem := by
  simp only [State.joinQueue, State.setNode_mem, State.offerOldest_mem, State.setPacket_mem]

@[simp] theorem State.checkBlock_mem {p} : (s.checkBlock p).mem = s.mem := by
  simp only [State.checkBlock, State.detect_mem, ite_self, State.mem_ite]

theorem execGblkCombine_wf {i adder} (h : Memory.wf s.mem) : CanonicalAfter (execGblkCombine i adder s) := by
  refine State.atNode_wf h fun p => ?_
  grind only [State.meshDrop_mem, State.checkBlock_mem, State.meshDown_mem, State.combine_mem, State.offerOldest_mem,
      State.joinQueue_mem]

theorem execCombineHoldExpiry_wf {i} (h : Memory.wf s.mem) : CanonicalAfter (execCombineHoldExpiry i s) := by
  refine State.atNode_wf h fun p => ?_
  simp only [State.setPacket_mem, h, ite_self, State.mem_ite]

@[simp] theorem State.unhop_mem {m inp fs} : (s.unhop m inp fs).mem = s.mem := rfl

@[simp] theorem State.laneFail_mem {n port lane count} : (s.laneFail n port lane count).mem = s.mem := by
  unfold State.laneFail
  split <;> simp only [State.detect_mem, State.setNode_mem]

theorem execFlitReplayRequest_wf {node port lane back err} (h : Memory.wf s.mem) :
    CanonicalAfter (execFlitReplayRequest node port lane back err s) := by
  unfold execFlitReplayRequest
  dsimp only
  (repeat' split) <;> simp only [State.setNode_mem, State.emit_mem, State.unhop_mem, State.laneFail_mem, h,
      canonicalAfter_next]

@[simp] theorem State.turnAway_mem {p status} : (s.turnAway p status).mem = s.mem := by
  simp only [State.turnAway, State.send_mem, State.detect_mem, State.emit_mem, ite_self, State.mem_ite]

theorem State.arrive_wf {i bad ok f} (h : Memory.wf s.mem) (hf : ∀ p, Memory.wf (f p).mem) :
 Memory.wf (s.arrive i bad ok f).mem := by
  refine State.atNode_wf h fun p => ?_
  grind only [State.detect_mem, State.dropPacket_mem]

@[simp] theorem State.checkRuns_mem {a requestor l} : (s.checkRuns a requestor l).1.mem = s.mem := by
  induction l generalizing s with
  | nil => rfl
  | cons x r ih =>
    simp only [State.checkRuns, State.eccRead_mem, ih]

theorem execRdRequest_wf {i bad} (h : Memory.wf s.mem) : CanonicalAfter (execRdRequest i bad s) := by
  refine State.arrive_wf h fun p => ?_
  grind only [State.dropPacket_mem, State.turnAway_mem, State.send_mem, State.checkRuns_mem]

theorem execWrRequest_wf {i bad} (h : Memory.wf s.mem) : CanonicalAfter (execWrRequest i bad s) := by
  refine State.arrive_wf h fun p => ?_
  grind only [State.dropPacket_mem, State.turnAway_mem, State.send_mem, ← State.windowWrite_wf, ← State.eccWrite_wf]

theorem execAmoRequest_wf {i bad} (h : Memory.wf s.mem) : CanonicalAfter (execAmoRequest i bad s) := by
  refine State.arrive_wf h fun p => ?_
  grind only [State.dropPacket_mem, State.turnAway_mem, ← State.amoAt_wf, State.send_mem]

@[simp] theorem State.dropReq_mem {tid} : (s.dropReq tid).mem = s.mem := rfl

theorem State.xferOn_wf {x} (h : Memory.wf s.mem) : Memory.wf (s.xferOn x).mem := by
  unfold State.xferOn
  split <;> simp only [State.dropXfer_mem, State.countEv_mem, State.writeBuf_wf, State.tagDone_mem,
      State.wavesOn_mem, State.restreamOn_mem, State.sendMessage_mem, State.tagOn_mem, State.gatherOn_mem,
      State.reportOn_wf, h, ite_self, State.mem_ite, Memory.wf_ite]

theorem State.partDone_wf {id status read} (h : Memory.wf s.mem) : Memory.wf (s.partDone id status read).mem := by
  unfold State.partDone
  split <;> simp only [State.xferOn_wf, State.setXfer_mem, h]

@[simp] theorem State.lateError_mem {k g} : (s.lateError k g).mem = s.mem := rfl

@[simp] theorem State.muteVload_mem {k vd} : (s.muteVload k vd).mem = s.mem := rfl

theorem State.answer_wf {r status data} (h : Memory.wf s.mem) : Memory.wf (s.answer r status data).mem := by
  unfold State.answer
  dsimp only
  split <;> simp only [State.dropReq_mem, State.setProc_mem, State.lateError_mem, State.muteVload_mem,
      State.partDone_wf, h, ite_self, State.mem_ite]

theorem State.response_wf {i bad kind} (h : Memory.wf s.mem) : Memory.wf (s.response i bad kind).mem := by
  refine State.arrive_wf h fun p => ?_
  dsimp only
  split <;> simp only [State.dropPacket_mem, State.answer_wf, h]

theorem execRdrResponse_wf {i bad} (h : Memory.wf s.mem) : CanonicalAfter (execRdrResponse i bad s) := by
  simp only [execRdrResponse, State.response_wf, h, canonicalAfter_next]

theorem execWackResponse_wf {i bad} (h : Memory.wf s.mem) : CanonicalAfter (execWackResponse i bad s) := by
  simp only [execWackResponse, State.response_wf, h, canonicalAfter_next]

theorem execAmorResponse_wf {i bad} (h : Memory.wf s.mem) : CanonicalAfter (execAmorResponse i bad s) := by
  simp only [execAmorResponse, State.response_wf, h, canonicalAfter_next]

theorem execRequestTimeout_wf {tid} (h : Memory.wf s.mem) : CanonicalAfter (execRequestTimeout tid s) := by
  unfold execRequestTimeout
  split <;> simp only [State.answer_wf, State.detect_mem, h, ite_self, State.mem_ite, Memory.wf_ite,
      canonicalAfter_next]

theorem State.mcWrite_wf {n p} (h : Memory.wf s.mem) : Memory.wf (s.mcWrite n p).1.mem := by
  have hwrite := @State.eccWrite_wf
  generalize hf : State.mcWrite = f
  delta State.mcWrite at hf
  revert hwrite hf
  induction State.eccWrite using forAny with | any write =>
  rintro hwrite rfl
  dsimp only
  split
  · exact h
  · exact hwrite h

theorem State.mcSpread_wf {i p e up bad} (h : Memory.wf s.mem) : Memory.wf (s.mcSpread i p e up bad).mem := by
  simp only [State.mcSpread, State.mcWrite_wf, State.detect_mem, State.dropPacket_mem, State.setPacket_mem,
      State.mcAck_mem, h, ite_self, State.mem_ite, Memory.wf_ite, apply_ite Prod.fst]

theorem execMcPacket_wf {i bad} (h : Memory.wf s.mem) : CanonicalAfter (execMcPacket i bad s) := by
  refine State.atNode_wf h fun p => ?_
  simp only [State.detect_mem, State.dropPacket_mem, State.emit_mem, State.countDrop_mem, State.takeId_mem,
      State.mcSpread_wf, h, ite_self, State.mem_ite, Memory.wf_ite]

theorem execMack_wf {i bad} (h : Memory.wf s.mem) : CanonicalAfter (execMack i bad s) := by
  refine State.arrive_wf h fun p => ?_
  grind only [State.dropPacket_mem, State.mcBranch_mem, ← State.answer_wf]

theorem State.ackTids_wf {first status fuel} (h : Memory.wf s.mem) : Memory.wf (s.ackTids first status fuel).mem := by
  induction fuel generalizing s first with
  | zero => exact h
  | succ m ih =>
    rw [State.ackTids]
    split <;> simp only [State.answer_wf, h, ih]

theorem execCtlPacket_wf {i bad} (h : Memory.wf s.mem) : CanonicalAfter (execCtlPacket i bad s) := by
  refine State.arrive_wf h fun p => ?_
  grind only [← State.ackTids_wf, State.dropPacket_mem, ← State.deliverUnit_wf, State.ctlSpring_mem]

theorem State.gradTaken_wf {p} (h : Memory.wf s.mem) : Memory.wf (s.gradTaken p).mem := by
  simp +contextual only [State.gradTaken, State.send_mem, State.partDone_wf, h, ite_self, State.mem_ite, foldl_wf,
      implies_true]

theorem execGblkSluiceArrival_wf {i bad adder} (h : Memory.wf s.mem) :
    CanonicalAfter (execGblkSluiceArrival i bad adder s) := by
  refine State.arrive_wf h fun p => ?_
  grind only [State.dropPacket_mem, ← State.sluArrive_wf, ← State.gradTaken_wf]

theorem execGrunSluiceArrival_wf {i bad adder} (h : Memory.wf s.mem) :
    CanonicalAfter (execGrunSluiceArrival i bad adder s) := by
  refine State.arrive_wf h fun p => ?_
  grind only [State.dropPacket_mem, ← State.sluArrive_wf, ← State.gradTaken_wf]

theorem execUeInboxBlock_wf {i bad adder} (h : Memory.wf s.mem) :
    CanonicalAfter (execUeInboxBlock i bad adder s) := by
  refine State.arrive_wf h fun p => ?_
  grind only [← State.ueArrive_wf, State.dropPacket_mem, ← State.gradTaken_wf]

theorem execXtPacket_wf {i bad} (h : Memory.wf s.mem) : CanonicalAfter (execXtPacket i bad s) := by
  refine State.arrive_wf h fun p => ?_
  split <;> simp only [State.setPort_mem, State.dropPacket_mem, State.undeliverable_mem, h, ite_self, State.mem_ite]

/-! ## Light ports -/

@[simp] theorem State.failPort_mem {p} : (s.failPort p).mem = s.mem := by
  simp only [State.failPort, State.poison_mem, State.detect_mem, State.setPort_mem, ite_self, State.mem_ite]

theorem execPortFail_wf {p why} (h : Memory.wf s.mem) : CanonicalAfter (execPortFail p why s) := by
  simp only [execPortFail, State.failPort_mem, h, ite_self, State.mem_ite, canonicalAfter_next]

@[simp] theorem State.resend_mem {p} : (s.resend p).mem = s.mem := by
  simp only [State.resend, State.emit_mem, State.setPort_mem, State.failPort_mem, ite_self, State.mem_ite]

@[simp] theorem State.takeAcks_mem {p t} : (s.takeAcks p t).mem = s.mem := by
  simp only [State.takeAcks, State.setPort_mem, State.resend_mem, ite_self, State.mem_ite]

theorem execGroupTrailerReceive_wf {p t msgs lost good} (h : Memory.wf s.mem) :
    CanonicalAfter (execGroupTrailerReceive p t msgs lost good s) := by
  simp only [execGroupTrailerReceive, State.setPort_mem, State.takeAcks_mem, h, ite_self, State.mem_ite,
      canonicalAfter_next]

theorem execGroupTrailerSend_wf {p} (h : Memory.wf s.mem) : CanonicalAfter (execGroupTrailerSend p s) := by
  simp only [execGroupTrailerSend, State.setPort_mem, h, ite_self, State.mem_ite, canonicalAfter_next]

theorem execGroupRetryTimeout_wf {p} (h : Memory.wf s.mem) : CanonicalAfter (execGroupRetryTimeout p s) := by
  simp only [execGroupRetryTimeout, State.resend_mem, h, ite_self, State.mem_ite, canonicalAfter_next]

theorem execControlRetryTimeout_wf {p} (h : Memory.wf s.mem) : CanonicalAfter (execControlRetryTimeout p s) := by
  simp only [execControlRetryTimeout, State.setPort_mem, h, ite_self, State.mem_ite, canonicalAfter_next]

theorem State.takeMsg_wf {p f g} (h : Memory.wf s.mem)
    (hg : ∀ (t : State) m, Memory.wf t.mem → Memory.wf (g t m).mem) : Memory.wf (s.takeMsg p f g).mem := by
  unfold State.takeMsg
  grind only [State.setPort_mem]

theorem State.convert_wf {p kind bad g} (h : Memory.wf s.mem)
    (hg : ∀ (t : State) m, Memory.wf t.mem → Memory.wf (g t m).mem) : Memory.wf (s.convert p kind bad g).mem := by
  refine State.takeMsg_wf h fun t m ht => ?_
  grind only [State.detect_mem]

@[simp] theorem State.msgXfer_mem {p n m} : (s.msgXfer p n m).2.mem = s.mem := rfl

theorem execBlkMessage_wf {p bad} (h : Memory.wf s.mem) : CanonicalAfter (execBlkMessage p bad s) := by
  refine State.convert_wf h fun t m ht => ?_
  dsimp only
  rwa [foldl_mem fun _ _ => State.send_mem _ _, State.msgXfer_mem]

theorem execRunMessage_wf {p bad} (h : Memory.wf s.mem) : CanonicalAfter (execRunMessage p bad s) := by
  refine State.convert_wf h fun t m ht => ?_
  simp only [State.msgXfer_mem, State.send_mem, ht]

theorem execWriteMessage_wf {p bad} (h : Memory.wf s.mem) : CanonicalAfter (execWriteMessage p bad s) := by
  refine State.convert_wf h fun t m ht => ?_
  extract_lets
  split
  · rwa [State.ackMessage_mem, State.poison_mem, State.detect_mem]
  · dsimp only
    rwa [foldl_mem fun _ _ => State.request_mem, State.msgXfer_mem]

@[simp] theorem State.toUnit_mem {p m} : (s.toUnit p m).mem = s.mem := rfl

theorem execAckMessage_wf {p bad} (h : Memory.wf s.mem) : CanonicalAfter (execAckMessage p bad s) := by
  refine State.convert_wf h fun t m ht => ?_
  simp only [State.toUnit_mem, ht]

theorem execUnitMessage_wf {p bad} (h : Memory.wf s.mem) : CanonicalAfter (execUnitMessage p bad s) := by
  refine State.convert_wf h fun t m ht => ?_
  simp only [State.toUnit_mem, ht]

@[simp] theorem State.dropTransit_mem {p m} : (s.dropTransit p m).mem = s.mem := rfl

theorem execTransitMessage_wf {p} (h : Memory.wf s.mem) : CanonicalAfter (execTransitMessage p s) := by
  unfold execTransitMessage
  dsimp only
  (repeat' split) <;> simp only [State.setPort_mem, State.dropTransit_mem, State.send_mem, h, canonicalAfter_next]

theorem execLaneDegraded_wf {p lane} (h : Memory.wf s.mem) : CanonicalAfter (execLaneDegraded p lane s) := by
  simp only [execLaneDegraded, State.emit_mem, State.setPort_mem, h, ite_self, State.mem_ite, canonicalAfter_next]

theorem execOpticalCalibration_wf {p ser} (h : Memory.wf s.mem) :
    CanonicalAfter (execOpticalCalibration p ser s) := by
  simp only [execOpticalCalibration, State.setPort_mem, h, ite_self, State.mem_ite, canonicalAfter_next]

@[simp] theorem State.freeSpare_mem {b} : (s.freeSpare b).mem = s.mem := by
  simp only [State.freeSpare, State.setBay_mem, ite_self, State.mem_ite]

@[simp] theorem State.lightPort_mem {p b} : (s.lightPort p b).mem = s.mem := by
  simp only [State.lightPort, State.setBay_mem, State.setPort_mem, State.freeSpare_mem, ite_self, State.mem_ite]

@[simp] theorem State.trainFail_mem {p} : (s.trainFail p).mem = s.mem := rfl

@[simp] theorem State.trainUp_mem {p lock tx peer rx bind} : (s.trainUp p lock tx peer rx bind).mem = s.mem := by
  simp only [State.trainUp, State.setPort_mem, State.emit_mem, ite_self, State.mem_ite]

@[simp] theorem State.bindPlace_mem {p i} : (s.bindPlace p i).mem = s.mem := by
  simp only [State.bindPlace, ite_self, State.mem_ite]

theorem execPortTraining_wf {p lock txSpare peer} (h : Memory.wf s.mem) :
    CanonicalAfter (execPortTraining p lock txSpare peer s) := by
  unfold execPortTraining
  dsimp only
  (repeat' split) <;> simp only [State.trainFail_mem, State.lightPort_mem, State.trainUp_mem, State.emit_mem,
      State.setPort_mem, State.bindPlace_mem, h, canonicalAfter_next]

theorem execPortTrainingFail_wf {p} (h : Memory.wf s.mem) : CanonicalAfter (execPortTrainingFail p s) := by
  simp only [execPortTrainingFail, State.trainFail_mem, h, ite_self, State.mem_ite, canonicalAfter_next]

@[simp] theorem State.askRetrain_mem {p} : (s.askRetrain p).mem = s.mem := rfl

@[simp] theorem State.writeLpctl_mem {p v} : (s.writeLpctl p v).mem = s.mem := by
  simp only [State.writeLpctl, State.askRetrain_mem, ite_self, State.mem_ite]

theorem execLpctlRetrain_wf {p v} (h : Memory.wf s.mem) : CanonicalAfter (execLpctlRetrain p v s) := by
  simp only [execLpctlRetrain, State.writeLpctl_mem, h, ite_self, State.mem_ite, canonicalAfter_next]

@[simp] theorem State.darkBay_mem {b} : (s.darkBay b).mem = s.mem := by
  simp only [State.darkBay, State.failPort_mem, foldl_mem, implies_true]

theorem execLaserModuleFail_wf {b} (h : Memory.wf s.mem) : CanonicalAfter (execLaserModuleFail b s) := by
  simp only [execLaserModuleFail, State.emit_mem, State.setBay_mem, State.darkBay_mem,
      foldl_mem (fun _ _ => State.askRetrain_mem), h, ite_self, State.mem_ite, canonicalAfter_next]

theorem execBayLatchOpen_wf {b} (h : Memory.wf s.mem) : CanonicalAfter (execBayLatchOpen b s) := by
  simp only [execBayLatchOpen, State.darkBay_mem, State.setBay_mem, h, canonicalAfter_next]

theorem execBayLatchClose_wf {b} (h : Memory.wf s.mem) : CanonicalAfter (execBayLatchClose b s) := h

@[simp] theorem State.writeLmctl_mem {b v} : (s.writeLmctl b v).mem = s.mem := by
  simp only [State.writeLmctl, State.setBay_mem, ite_self, State.mem_ite]

theorem execLmctlBayoff_wf {b v} (h : Memory.wf s.mem) : CanonicalAfter (execLmctlBayoff b v s) := by
  simp only [execLmctlBayoff, State.writeLmctl_mem, h, ite_self, State.mem_ite, canonicalAfter_next]

/-! ## Result integrity -/

theorem State.latchDet_wf {d} (h : Memory.wf s.mem) : Memory.wf (s.latchDet d).mem := by
  simp only [State.latchDet, setSafety_mem, State.faultReaction_wf, State.failRecAt_mem, h]

@[simp] theorem State.coreFail_mem {code k} : (s.coreFail code k).mem = s.mem := by
  simp only [State.coreFail, State.halt_mem, State.detect_mem, ite_self, State.mem_ite]

theorem execDetectionLatch_wf {parity} (h : Memory.wf s.mem) : CanonicalAfter (execDetectionLatch parity s) := by
  unfold execDetectionLatch
  dsimp only
  (repeat' split) <;> simp only [State.coreFail_mem, State.latchDet_wf, setSafety_mem, h, canonicalAfter_next]

theorem execSequencerWatchdog_wf {c} (h : Memory.wf s.mem) : CanonicalAfter (execSequencerWatchdog c s) := by
  simp only [execSequencerWatchdog, State.coreFail_mem, h, ite_self, State.mem_ite, canonicalAfter_next]

theorem execSpanSignatureCompare_wf {c diff} (h : Memory.wf s.mem) :
    CanonicalAfter (execSpanSignatureCompare c diff s) := by
  simp only [execSpanSignatureCompare, State.coreFail_mem, h, ite_self, State.mem_ite, canonicalAfter_next]

theorem State.holdWarden_wf {code mech} (h : Memory.wf s.mem) : Memory.wf (s.holdWarden code mech).mem := by
  simp only [State.holdWarden, State.raiseFence_wf, State.failRec_mem, State.emit_mem, setSafety_mem, h, ite_self,
      State.mem_ite, Memory.wf_ite]

theorem execWardenLockstepFail_wf (h : Memory.wf s.mem) : CanonicalAfter (execWardenLockstepFail s) := by
  simp only [execWardenLockstepFail, State.holdWarden_wf, h, canonicalAfter_next]

@[simp] theorem State.markLink_mem {n p} : (s.markLink n p).mem = s.mem := by
  unfold State.markLink
  split <;> simp only [State.setNode_mem]

@[simp] theorem State.markPart_mem {p} : (s.markPart p).mem = s.mem := by
  unfold State.markPart
  split <;> simp only [State.setStack_mem, State.markLink_mem, State.setPolder_mem, State.setBay_mem, setSafety_mem]

@[simp] theorem State.testFail_mem {p} : (s.testFail p).mem = s.mem := by
  simp only [State.testFail, State.failRec_mem, State.emit_mem, State.markPart_mem]

@[simp] theorem State.startTest_mem : s.startTest.mem = s.mem := rfl

@[simp] theorem State.writeSftest_mem {v} : (s.writeSftest v).mem = s.mem := by
  simp only [State.writeSftest, setSafety_mem, State.startTest_mem, ite_self, State.mem_ite]

theorem execSftestReq_wf {v} (h : Memory.wf s.mem) : CanonicalAfter (execSftestReq v s) := by
  simp only [execSftestReq, State.writeSftest_mem, h, ite_self, State.mem_ite, canonicalAfter_next]

@[simp] theorem State.lentFail_mem {p} : (s.lentFail p).mem = s.mem := by
  unfold State.lentFail
  split <;> simp only [State.detect_mem, State.markPart_mem]

theorem execSelfTestComplete_wf {failed} (h : Memory.wf s.mem) : CanonicalAfter (execSelfTestComplete failed s) := by
  simp only [execSelfTestComplete, State.lentFail_mem, State.testFail_mem, setSafety_mem, State.endRunning_mem,
      State.startTest_mem, h, ite_self, State.mem_ite, foldl_mem, implies_true, canonicalAfter_next]

/-! ## The event recorder -/

@[simp] theorem State.irq_mem {port vector} : (s.irq port vector).mem = s.mem := by
  simp only [State.irq, State.setHport_mem, ite_self, State.mem_ite]

@[simp] theorem State.announce_mem {r} : (s.announce r).mem = s.mem := by
  simp only [State.announce, State.irq_mem, ite_self, State.mem_ite, foldl_mem, implies_true]

@[simp] theorem State.store_mem {r kept} : (s.store r kept).mem = s.mem := by
  simp only [State.store, State.announce_mem]

@[simp] theorem State.named_mem {e n} : (s.named e n).mem = s.mem := rfl

@[simp] theorem State.storeNew_mem {e r} : (s.storeNew e r).mem = s.mem := by
  simp only [State.storeNew, State.named_mem, State.store_mem, ite_self, State.mem_ite]

@[simp] theorem State.takeEvent_mem {e} : (s.takeEvent e).mem = s.mem := by
  unfold State.takeEvent
  dsimp only
  split <;> simp only [State.named_mem, State.storeNew_mem, ite_self, State.mem_ite]

@[simp] theorem State.takeAll_mem : s.takeAll.mem = s.mem := by
  simp only [State.takeAll, State.takeEvent_mem, foldl_mem, implies_true]

theorem execEventRecordArrival_wf (h : Memory.wf s.mem) : CanonicalAfter (execEventRecordArrival s) := by
  unfold execEventRecordArrival
  split <;> simp only [State.takeEvent_mem, h, ite_self, State.mem_ite, canonicalAfter_next]

theorem State.mirrorBlock_wf (h : Memory.wf s.mem) : Memory.wf s.mirrorBlock.mem := by
  simp only [State.mirrorBlock, Memory.wf_write, h]

theorem execMirrorBlockWrite_wf {status} (h : Memory.wf s.mem) : CanonicalAfter (execMirrorBlockWrite status s) := by
  simp only [execMirrorBlockWrite, State.emit_mem, State.mirrorBlock_wf, h, ite_self, State.mem_ite, Memory.wf_ite,
      canonicalAfter_next]

theorem State.mirrorAll_wf {fuel} (h : Memory.wf s.mem) : Memory.wf (s.mirrorAll fuel).mem := by
  induction fuel generalizing s with
  | zero => exact h
  | succ m ih =>
    simp only [State.mirrorAll, State.mirrorBlock_wf, h, ih, ite_self, State.mem_ite, Memory.wf_ite]

theorem State.allDurable_wf (h : Memory.wf s.mem) : Memory.wf s.allDurable.mem := by
  simp only [State.allDurable, State.takeAll_mem, State.mirrorAll_wf, h, ite_self, State.mem_ite, Memory.wf_ite]

/-! ## Polders -/

@[simp] theorem State.closeClamp_mem {q p} : (s.closeClamp q p).mem = s.mem := by
  unfold State.closeClamp
  dsimp only
  (repeat' split) <;> simp only [State.setPolder_mem, State.detect_mem, State.poison_mem, foldl_mem, implies_true]

theorem execDikeClampClose_wf {p far} (h : Memory.wf s.mem) : CanonicalAfter (execDikeClampClose p far s) := by
  simp only [execDikeClampClose, State.closeClamp_mem, h, ite_self, State.mem_ite, canonicalAfter_next]

theorem execDikePointerSlip_wf {node port lane} (h : Memory.wf s.mem) :
    CanonicalAfter (execDikePointerSlip node port lane s) := by
  unfold execDikePointerSlip
  split <;> simp only [State.laneFail_mem, h, ite_self, State.mem_ite, canonicalAfter_next]

@[simp] theorem State.darkPolder_mem {p} : (s.darkPolder p).mem = s.mem := by
  simp only [State.darkPolder, State.setPort_mem, ite_self, State.mem_ite]

theorem State.trip_wf {p cause} (h : Memory.wf s.mem) : Memory.wf (s.trip p cause).mem := by
  unfold State.trip
  dsimp only
  (repeat' split) <;> simp only [State.darkPolder_mem, State.setPolder_mem, State.loseLake_wf, State.detect_mem,
      State.closeClamp_mem, h, foldl_mem, implies_true]

theorem execRailOvercurrent_wf {p} (h : Memory.wf s.mem) : CanonicalAfter (execRailOvercurrent p s) := by
  simp only [execRailOvercurrent, State.trip_wf, h, canonicalAfter_next]

theorem State.excursion_wf {p code} (h : Memory.wf s.mem) : Memory.wf (s.excursion p code).mem := by
  simp only [State.excursion, State.trip_wf, State.detect_mem, h, ite_self, State.mem_ite, Memory.wf_ite]

theorem execSupplyExcursion_wf {p} (h : Memory.wf s.mem) : CanonicalAfter (execSupplyExcursion p s) := by
  simp only [execSupplyExcursion, State.holdWarden_wf, State.excursion_wf, h, ite_self, State.mem_ite, Memory.wf_ite,
      canonicalAfter_next]

theorem execPllLockLoss_wf {p} (h : Memory.wf s.mem) : CanonicalAfter (execPllLockLoss p s) := by
  simp only [execPllLockLoss, State.excursion_wf, h, canonicalAfter_next]

theorem execClockMonitorWindow_wf {p count} (h : Memory.wf s.mem) :
    CanonicalAfter (execClockMonitorWindow p count s) := by
  simp only [execClockMonitorWindow, State.excursion_wf, h, ite_self, State.mem_ite, Memory.wf_ite,
      canonicalAfter_next]

theorem execThermalSample_wf {p tmax} (h : Memory.wf s.mem) : CanonicalAfter (execThermalSample p tmax s) := by
  simp only [execThermalSample, State.trip_wf, State.setPolder_mem, State.emit_mem, h, ite_self, State.mem_ite,
      Memory.wf_ite, canonicalAfter_next]

theorem execVcoreSlewComplete_wf {p} (h : Memory.wf s.mem) : CanonicalAfter (execVcoreSlewComplete p s) := by
  unfold execVcoreSlewComplete
  dsimp only
  (repeat' split) <;> simp only [State.setPolder_mem, State.emit_mem, h, canonicalAfter_next]

theorem execFeedLoss_wf {n} (h : Memory.wf s.mem) : CanonicalAfter (execFeedLoss n s) := by
  simp only [execFeedLoss, State.emit_mem, h, ite_self, State.mem_ite, canonicalAfter_next]

theorem execFeedRestore_wf {n} (h : Memory.wf s.mem) : CanonicalAfter (execFeedRestore n s) := by
  simp only [execFeedRestore, State.emit_mem, h, ite_self, State.mem_ite, canonicalAfter_next]

@[simp] theorem State.offPolder_mem {p} : (s.offPolder p).mem = s.mem := by
  simp only [State.offPolder, State.darkPolder_mem, State.setPolder_mem, ite_self, State.mem_ite]

theorem execOrderlyStop_wf {why} (h : Memory.wf s.mem) : CanonicalAfter (execOrderlyStop why s) := by
  unfold execOrderlyStop
  grind only [← State.allDurable_wf, State.emit_mem, ← State.raiseFence_wf, State.offPolder_mem, ← State.loseLake_wf,
      foldl_mem, canonicalAfter_next]

@[simp] theorem State.writePdctl_mem {p v} : (s.writePdctl p v).mem = s.mem := rfl

theorem execPdctlShut_wf {p v} (h : Memory.wf s.mem) : CanonicalAfter (execPdctlShut p v s) := by
  simp only [execPdctlShut, State.writePdctl_mem, h, ite_self, State.mem_ite, canonicalAfter_next]

theorem execPdctlWake_wf {p v} (h : Memory.wf s.mem) : CanonicalAfter (execPdctlWake p v s) := by
  simp only [execPdctlWake, State.writePdctl_mem, h, ite_self, State.mem_ite, canonicalAfter_next]

theorem execPdctlRestore_wf {p v} (h : Memory.wf s.mem) : CanonicalAfter (execPdctlRestore p v s) := by
  simp only [execPdctlRestore, State.writePdctl_mem, h, ite_self, State.mem_ite, canonicalAfter_next]

@[simp] theorem State.setClamps_mem {p closed} : (s.setClamps p closed).mem = s.mem := by
  unfold State.setClamps
  grind only [State.setPolder_mem, foldl_mem]

@[simp] theorem State.rebar_mem : s.rebar.mem = s.mem := by
  unfold State.rebar
  grind only [State.setBar_mem, foldl_mem]

theorem execPlannedShutdown_wf {p} (h : Memory.wf s.mem) : CanonicalAfter (execPlannedShutdown p s) := by
  unfold execPlannedShutdown
  dsimp only
  (repeat' split) <;> simp only [State.setPolder_mem, State.emit_mem, State.rebar_mem, State.reroute_mem,
      State.setClamps_mem, State.offPolder_mem, h, canonicalAfter_next]

theorem execPolderWake_wf {p pass} (h : Memory.wf s.mem) : CanonicalAfter (execPolderWake p pass s) := by
  simp only [execPolderWake, State.setPolder_mem, State.setClamps_mem, State.clearPonds_wf, State.rebar_mem,
      State.reroute_mem, State.resetUnits_mem, State.emit_mem, State.setPort_mem, h, ite_self, State.mem_ite,
      Memory.wf_ite, canonicalAfter_next]

/-! ## The power controller -/

@[simp] theorem State.estimatePolder_mem {p} : (s.estimatePolder p).mem = s.mem := by
  simp only [State.estimatePolder, State.setPolder_mem, ite_self, State.mem_ite]

theorem execPowerEstimateInterval_wf (h : Memory.wf s.mem) : CanonicalAfter (execPowerEstimateInterval s) := by
  simp +contextual only [execPowerEstimateInterval, State.estimatePolder_mem, State.setPolder_mem, h, ite_self,
      State.mem_ite, Memory.wf_ite, foldl_wf, implies_true, canonicalAfter_next]

@[simp] theorem State.learn_mem {q} : (s.learn q).mem = s.mem := rfl

@[simp] theorem State.grantPolder_mem {q grant floor mean} : (s.grantPolder q grant floor mean).mem = s.mem := rfl

@[simp] theorem State.integrate_mem {meter} : (s.integrate meter).mem = s.mem := rfl

theorem execPowerAllocation_wf {meter} (h : Memory.wf s.mem) : CanonicalAfter (execPowerAllocation meter s) := by
  simp only [execPowerAllocation, State.integrate_mem, foldl_mem (fun _ _ => State.learn_mem),
      foldl_mem (fun _ _ => State.grantPolder_mem), State.emit_mem, h, ite_self, State.mem_ite, canonicalAfter_next]

theorem execTrimUpdate_wf {est meter} (h : Memory.wf s.mem) : CanonicalAfter (execTrimUpdate est meter s) := by
  simp only [execTrimUpdate, State.emit_mem, h, ite_self, State.mem_ite, canonicalAfter_next]

theorem execCapNotMet_wf (h : Memory.wf s.mem) : CanonicalAfter (execCapNotMet s) := by
  simp only [execCapNotMet, State.emit_mem, h, ite_self, State.mem_ite, canonicalAfter_next]

theorem execCoolantStale_wf (h : Memory.wf s.mem) : CanonicalAfter (execCoolantStale s) := by
  simp only [execCoolantStale, State.emit_mem, h, ite_self, State.mem_ite, canonicalAfter_next]

@[simp] theorem State.capLowered_mem {old new} : (s.capLowered old new).mem = s.mem := by
  simp only [State.capLowered, State.emit_mem, ite_self, State.mem_ite]

@[simp] theorem State.writePwctl_mem {v} : (s.writePwctl v).mem = s.mem := by
  simp only [State.writePwctl, State.capLowered_mem]

theorem execPwctlWrite_wf {port v} (h : Memory.wf s.mem) : CanonicalAfter (execPwctlWrite port v s) := by
  simp only [execPwctlWrite, State.writePwctl_mem, h, ite_self, State.mem_ite, canonicalAfter_next]

@[simp] theorem State.takeFields_mem {off old v fs} : (s.takeFields off old v fs).1.mem = s.mem := by
  simp only [State.takeFields, State.emit_mem, ite_self, State.mem_ite, apply_ite Prod.fst, foldl_fst_mem,
      implies_true]

@[simp] theorem State.writeHeat_mem {reg v} : (s.writeHeat reg v).mem = s.mem := by
  simp only [State.writeHeat, State.takeFields_mem, State.capLowered_mem, ite_self, State.mem_ite]

theorem execSurroundingsHeatWrite_wf {port reg v} (h : Memory.wf s.mem) :
    CanonicalAfter (execSurroundingsHeatWrite port reg v s) := by
  simp only [execSurroundingsHeatWrite, State.writeHeat_mem, h, ite_self, State.mem_ite, canonicalAfter_next]

@[simp] theorem State.writeTime_mem {v} : (s.writeTime v).mem = s.mem := rfl

theorem execSrtimeWrite_wf {port v} (h : Memory.wf s.mem) : CanonicalAfter (execSrtimeWrite port v s) := by
  simp only [execSrtimeWrite, State.writeTime_mem, h, ite_self, State.mem_ite, canonicalAfter_next]

/-! ## Observation -/

@[simp] theorem State.writeEvsel_mem {port v} : (s.writeEvsel port v).mem = s.mem := by
  simp only [State.writeEvsel, State.setHport_mem, ite_self, State.mem_ite]

theorem execEvselWrite_wf {port v} (h : Memory.wf s.mem) : CanonicalAfter (execEvselWrite port v s) := by
  simp only [execEvselWrite, State.writeEvsel_mem, h, ite_self, State.mem_ite, canonicalAfter_next]

theorem execMirrorFetchComplete_wf {port} (h : Memory.wf s.mem) :
    CanonicalAfter (execMirrorFetchComplete port s) := by
  unfold execMirrorFetchComplete
  dsimp only
  (repeat' split) <;> simp only [State.setHport_mem, h, canonicalAfter_next]

@[simp] theorem State.hostSel_mem {cl n v} : (s.hostSel cl n v).mem = s.mem := by
  simp only [State.hostSel, State.writeSel_mem, ite_self, State.mem_ite]

theorem execCselWrite_wf {port k n v} (h : Memory.wf s.mem) : CanonicalAfter (execCselWrite port k n v s) := by
  simp only [execCselWrite, State.hostSel_mem, h, ite_self, State.mem_ite, canonicalAfter_next]

theorem execCntctlWrite_wf {port v} (h : Memory.wf s.mem) : CanonicalAfter (execCntctlWrite port v s) := by
  simp only [execCntctlWrite, h, ite_self, State.mem_ite, canonicalAfter_next]

@[simp] theorem State.writeTrctl_mem {v} : (s.writeTrctl v).mem = s.mem := by
  simp only [State.writeTrctl, ite_self, State.mem_ite]

theorem execTrctlWrite_wf {port v} (h : Memory.wf s.mem) : CanonicalAfter (execTrctlWrite port v s) := by
  simp only [execTrctlWrite, State.writeTrctl_mem, h, ite_self, State.mem_ite, canonicalAfter_next]

theorem execTracePowerLines_wf (h : Memory.wf s.mem) : CanonicalAfter (execTracePowerLines s) := by
  unfold execTracePowerLines
  grind only [← State.traceLine_wf, canonicalAfter_next]

/-! ## The registers in BAR0 -/

@[simp] theorem State.readClear_mem {off lo hi} : (s.readClear off lo hi).mem = s.mem := by
  unfold State.readClear
  dsimp only
  (repeat' split) <;> simp only [setSafety_mem, State.setPolder_mem, State.setPort_mem]

@[simp] theorem State.aerAbort_mem {port} : (s.aerAbort port).mem = s.mem := rfl

@[simp] theorem State.bar0Read_mem {port off size} : (s.bar0Read port off size).mem = s.mem := by
  simp only [State.bar0Read, State.tell_mem, State.aerAbort_mem, State.readClear_mem, ite_self, State.mem_ite]

theorem execRcRead_wf {port off size} (h : Memory.wf s.mem) : CanonicalAfter (execRcRead port off size s) := by
  simp only [execRcRead, State.bar0Read_mem, h, canonicalAfter_next]

@[simp] theorem State.writeHwin_mem {port seg v} : (s.writeHwin port seg v).mem = s.mem := by
  simp only [State.writeHwin, State.setHport_mem, ite_self, State.mem_ite]

theorem execHwinWrite_wf {port seg v} (h : Memory.wf s.mem) : CanonicalAfter (execHwinWrite port seg v s) := by
  simp only [execHwinWrite, State.writeHwin_mem, h, ite_self, State.mem_ite, canonicalAfter_next]

@[simp] theorem State.setQueue_mem {port q x} : (s.setQueue port q x).mem = s.mem := rfl

@[simp] theorem State.writeMsix_mem {port i v} : (s.writeMsix port i v).mem = s.mem := by
  simp only [State.writeMsix, State.setHport_mem, State.irq_mem, ite_self, State.mem_ite]

@[simp] theorem State.writeNbr_mem {n v} : (s.writeNbr n v).mem = s.mem := by
  simp only [State.writeNbr, State.takeFields_mem]

@[simp] theorem State.writePortReg_mem {port off v} : (s.writePortReg port off v).mem = s.mem := by
  unfold State.writePortReg
  dsimp only
  (repeat' split) <;> simp only [State.setQueue_mem, State.writeMsix_mem, State.writeHwin_mem, State.setHport_mem]

@[simp] theorem State.writeSurr_mem {off v} : (s.writeSurr off v).mem = s.mem := by
  unfold State.writeSurr
  split <;> simp only [State.writeHeat_mem, State.writeTime_mem, State.writeNbr_mem, ite_self, State.mem_ite]

@[simp] theorem State.writeObs_mem {off v} : (s.writeObs off v).mem = s.mem := by
  simp only [State.writeObs, State.hostSel_mem, State.writeTrctl_mem, ite_self, State.mem_ite]

@[simp] theorem State.writeReg_mem {port off v w} : (s.writeReg port off v w).mem = s.mem := by
  simp only [State.writeReg, State.writePortReg_mem, State.writeSurr_mem, State.writePwctl_mem, State.writeEvsel_mem,
      State.writeObs_mem, State.writeSftest_mem, State.writeLmctl_mem, State.mem_ite]
  (repeat' split) <;> simp only [State.writePdctl_mem, State.writeLpctl_mem]

theorem execRegisterWrite_wf {port off size v} (h : Memory.wf s.mem) :
    CanonicalAfter (execRegisterWrite port off size v s) := by
  simp only [execRegisterWrite, State.tell_mem, State.aerAbort_mem, State.writeReg_mem, h, ite_self, State.mem_ite,
      canonicalAfter_next]

/-! ## Accesses and queues of the host -/

@[simp] theorem State.hostRefused_mem {port off a} : (s.hostRefused port off a).mem = s.mem := rfl

@[simp] theorem State.hostGet_mem {port a n fuel} : (s.hostGet port a n fuel).1.mem = s.mem := by
  induction fuel generalizing s a n with
  | zero => rfl
  | succ m ih =>
    rw [State.hostGet]
    dsimp only
    (repeat' split) <;> simp only [State.hostRefused_mem, State.eccRead_mem, ih]

theorem State.hostPut_wf {port a bs fuel} (h : Memory.wf s.mem) : Memory.wf (s.hostPut port a bs fuel).1.mem := by
  induction fuel generalizing s a bs with
  | zero => exact h
  | succ m ih =>
    simp only [State.hostPut, State.hostRefused_mem, State.eccWrite_wf, h, ih, ite_self, State.mem_ite,
        Memory.wf_ite, apply_ite Prod.fst]

theorem execBar2Read_wf {port off len} (h : Memory.wf s.mem) : CanonicalAfter (execBar2Read port off len s) := by
  unfold execBar2Read
  dsimp only
  (repeat' split) <;> simp only [State.tell_mem, State.hostRefused_mem, State.eccRead_mem, h, canonicalAfter_next]

theorem execBar2Write_wf {port off bytes} (h : Memory.wf s.mem) :
    CanonicalAfter (execBar2Write port off bytes s) := by
  unfold execBar2Write
  dsimp only
  (repeat' split) <;> simp only [State.hostRefused_mem, State.eccWrite_wf, h, canonicalAfter_next]

@[simp] theorem State.pcieError_mem {port} : (s.pcieError port).mem = s.mem := rfl

theorem execPoisonedWrite_wf {port off} (h : Memory.wf s.mem) : CanonicalAfter (execPoisonedWrite port off s) := by
  simp only [execPoisonedWrite, State.pcieError_mem, h, ite_self, State.mem_ite, canonicalAfter_next]

@[simp] theorem State.complete_mem {port c} : (s.complete port c).mem = s.mem := rfl

@[simp] theorem State.fetchQ_mem {port q} : (s.fetchQ port q).mem = s.mem := by
  simp only [State.fetchQ, State.setHport_mem, ite_self, State.mem_ite]

@[simp] theorem State.badDoorbell_mem {port q v} : (s.badDoorbell port q v).mem = s.mem := rfl

theorem execHqcfgWrite_wf {port q v} (h : Memory.wf s.mem) : CanonicalAfter (execHqcfgWrite port q v s) := by
  simp only [execHqcfgWrite, State.fetchQ_mem, State.setQueue_mem, h, ite_self, State.mem_ite, canonicalAfter_next]

theorem execHqsqdbWrite_wf {port q v cmds} (h : Memory.wf s.mem) :
    CanonicalAfter (execHqsqdbWrite port q v cmds s) := by
  simp only [execHqsqdbWrite, State.badDoorbell_mem, State.fetchQ_mem, State.setQueue_mem, h, ite_self,
      State.mem_ite, canonicalAfter_next]

theorem execHqcqdbWrite_wf {port q v} (h : Memory.wf s.mem) : CanonicalAfter (execHqcqdbWrite port q v s) := by
  simp only [execHqcqdbWrite, State.badDoorbell_mem, State.fetchQ_mem, State.setQueue_mem, h, ite_self,
      State.mem_ite, canonicalAfter_next]

theorem execCommandCompletion_wf {port q} (h : Memory.wf s.mem) :
    CanonicalAfter (execCommandCompletion port q s) := by
  unfold execCommandCompletion
  dsimp only
  split <;> simp only [State.setHport_mem, State.tell_mem, State.irq_mem, h, ite_self, State.mem_ite,
      canonicalAfter_next]

@[simp] theorem State.startCmd_mem {t : State} {port q opc c} (e : s.startCmd port q opc = some (c, t)) :
    t.mem = s.mem := by
  unfold State.startCmd at e
  grind only [State.setHport_mem]

@[simp] theorem State.runCmd_mem {t : State} {port q opc r} (e : s.runCmd port q opc = some (r, t)) :
    t.mem = s.mem := by
  unfold State.runCmd at e
  grind only [State.setHport_mem, State.startCmd_mem]

@[simp] theorem State.endRun_mem {port r status r0 r1} : (s.endRun port r status r0 r1).mem = s.mem := rfl

@[simp] theorem State.runTo_mem {port r done} : (s.runTo port r done).mem = s.mem := rfl

theorem execCopyIn_wf {port q data} (h : Memory.wf s.mem) : CanonicalAfter (execCopyIn port q data s) := by
  unfold execCopyIn
  grind only [State.runCmd_mem, State.endRun_mem, ← State.hostPut_wf, State.runTo_mem, canonicalAfter_next]

theorem execCopyOut_wf {port q} (h : Memory.wf s.mem) : CanonicalAfter (execCopyOut port q s) := by
  unfold execCopyOut
  grind only [State.runCmd_mem, State.hostGet_mem, State.endRun_mem, State.tell_mem, canonicalAfter_next]

theorem State.putProd_wf {port a n} (h : Memory.wf s.mem) : Memory.wf (s.putProd port a n).1.mem := by
  simp only [State.putProd, State.hostPut_wf, h]

theorem State.deliver_wf {port r records i fuel} (h : Memory.wf s.mem) :
    Memory.wf (s.deliver port r records i fuel).1.mem := by
  induction fuel generalizing s i with
  | zero => exact h
  | succ m ih =>
    rw [State.deliver]
    dsimp only
    split <;> simp only [State.hostPut_wf, h, ih, ite_self, State.mem_ite, Memory.wf_ite, apply_ite Prod.fst]

theorem State.afterDeliver_wf {port r n st} (h : Memory.wf s.mem) : Memory.wf (s.afterDeliver port r n st).mem := by
  unfold State.afterDeliver
  dsimp only
  split <;> simp only [State.putProd_wf, State.endRun_mem, State.runTo_mem, h, ite_self, State.mem_ite,
      Memory.wf_ite, apply_ite Prod.fst]

theorem execIntakeDelivery_wf {port q records} (h : Memory.wf s.mem) :
    CanonicalAfter (execIntakeDelivery port q records s) := by
  unfold execIntakeDelivery
  grind only [State.runCmd_mem, State.endRun_mem, State.hostRefused_mem, ← State.deliver_wf, ← State.afterDeliver_wf,
      canonicalAfter_next]

theorem execIntakeWaitTimeout_wf {port q} (h : Memory.wf s.mem) :
    CanonicalAfter (execIntakeWaitTimeout port q s) := by
  unfold execIntakeWaitTimeout
  dsimp only
  split <;> simp only [State.endRun_mem, h, ite_self, State.mem_ite, canonicalAfter_next]

theorem execHostReadError_wf {port q} (h : Memory.wf s.mem) : CanonicalAfter (execHostReadError port q s) := by
  unfold execHostReadError
  extract_lets
  split
  · rwa [canonicalAfter_next, State.endRun_mem, State.pcieError_mem]
  split
  · exact h
  next e =>
    obtain ⟨opc, -, he⟩ := List.exists_of_findSome?_eq_some e
    rwa [canonicalAfter_next, State.complete_mem, State.startCmd_mem he, State.pcieError_mem]

@[simp] theorem State.setExport_mem {b} : (s.setExport b).mem = s.mem := rfl

@[simp] theorem State.oneStep_mem {shards} : (s.oneStep shards).1.mem = s.mem := by
  have hall := @State.sealsAll_mem
  have hread := @State.readSeal_mem
  generalize hf : State.oneStep = f
  delta State.oneStep at hf
  revert hall hread hf
  induction State.sealsAll using forAny with | any all =>
  induction State.readSeal using forAny with | any read =>
  rintro hall hread rfl
  dsimp only
  split
  · exact hall
  split
  next e => rw [mem_of_eq e, hread, hall]
  next e => rw [hall, mem_of_eq e, hread, hall]

theorem execExportHeads_wf {port q} (h : Memory.wf s.mem) : CanonicalAfter (execExportHeads port q s) := by
  unfold execExportHeads
  dsimp only
  split <;> grind only [State.runCmd_mem, State.endRun_mem, State.setExport_mem, State.oneStep_mem,
      State.hostGet_mem, State.tell_mem, foldl_fst_mem, canonicalAfter_next]

/-! ## Failure records -/

theorem execErrorRecords_wf {port q} (h : Memory.wf s.mem) : CanonicalAfter (execErrorRecords port q s) := by
  unfold execErrorRecords
  grind only [State.runCmd_mem, State.endRun_mem, State.tell_mem, canonicalAfter_next]

/-! ## Job commands -/

@[simp] theorem State.finishCmd_mem {p q c status r0 detail} : (s.finishCmd p q c status r0 detail).mem = s.mem := rfl

theorem execJobSubmit_wf {port q job} (h : Memory.wf s.mem) : CanonicalAfter (execJobSubmit port q job s) := by
  unfold execJobSubmit
  grind only [State.startCmd_mem, State.finishCmd_mem, State.takeTopo_mem, State.takeMeasures_mem,
      canonicalAfter_next]

@[simp] theorem State.freshPower_mem : s.freshPower.mem = s.mem := by
  unfold State.freshPower
  grind only [State.setPolder_mem, foldl_mem]

@[simp] theorem State.freshGroup_mem : s.freshGroup.mem = s.mem := rfl

theorem State.startJob_wf {j} (h : Memory.wf s.mem) : Memory.wf (s.startJob j).mem := by
  simp only [State.startJob, State.restoreSites_mem, State.firstSeals_wf, State.takeMeasures_mem,
      State.freshGroup_mem, State.freshPower_mem, State.idChange_mem, State.loadJob_mem, h, ite_self, State.mem_ite]

theorem State.adoptJob_wf {j} (h : Memory.wf s.mem) : Memory.wf (s.adoptJob j).mem := by
  simp only [State.adoptJob, State.takeTopo_mem, State.freshGroup_mem, State.freshPower_mem, State.emit_mem,
      State.sendCell_mem, State.endJob_mem, State.restart_wf, h, ite_self, State.mem_ite]

theorem execJobStart_wf {port q} (h : Memory.wf s.mem) : CanonicalAfter (execJobStart port q s) := by
  unfold execJobStart
  grind only [State.startCmd_mem, State.finishCmd_mem, ← State.adoptJob_wf, ← State.startJob_wf, ← State.restart_wf,
      canonicalAfter_next]

theorem execJobAmend_wf {port q stages} (h : Memory.wf s.mem) : CanonicalAfter (execJobAmend port q stages s) := by
  unfold execJobAmend
  grind only [State.startCmd_mem, State.finishCmd_mem, ← State.sendRestart_wf, canonicalAfter_next]

theorem State.hostEnd_wf (h : Memory.wf s.mem) : Memory.wf s.hostEnd.mem := by
  simp only [State.hostEnd, State.mgrFence_mem, State.sendCell_mem, State.raiseFence_wf, h, ite_self, State.mem_ite]

theorem execJobEnd_wf {port q} (h : Memory.wf s.mem) : CanonicalAfter (execJobEnd port q s) := by
  unfold execJobEnd
  grind only [State.startCmd_mem, State.finishCmd_mem, State.endJob_mem, ← State.hostEnd_wf, canonicalAfter_next]

theorem execJobStatus_wf {port q} (h : Memory.wf s.mem) : CanonicalAfter (execJobStatus port q s) := by
  unfold execJobStatus
  grind only [State.startCmd_mem, State.finishCmd_mem, State.tell_mem, canonicalAfter_next]

theorem execCheckpoint_wf {port q} (h : Memory.wf s.mem) : CanonicalAfter (execCheckpoint port q s) := by
  unfold execCheckpoint
  grind only [State.runCmd_mem, State.endRun_mem, State.designate_mem, State.runTo_mem, canonicalAfter_next]

theorem execRetrain_wf {port q} (h : Memory.wf s.mem) : CanonicalAfter (execRetrain port q s) := by
  unfold execRetrain
  grind only [State.startCmd_mem, State.finishCmd_mem, State.askRetrain_mem, foldl_mem, canonicalAfter_next]

theorem execSelfTest_wf {port q} (h : Memory.wf s.mem) : CanonicalAfter (execSelfTest port q s) := by
  unfold execSelfTest
  grind only [State.runCmd_mem, State.startTest_mem, canonicalAfter_next]

/-! ## Security -/

@[simp] theorem setSec_mem {x} : (setSec s x).mem = s.mem := rfl

theorem execFirmwareStage_wf {port q image} (h : Memory.wf s.mem) :
    CanonicalAfter (execFirmwareStage port q image s) := by
  unfold execFirmwareStage
  grind only [State.startCmd_mem, setSec_mem, State.finishCmd_mem, canonicalAfter_next]

theorem execFirmwareActivate_wf {port q} (h : Memory.wf s.mem) : CanonicalAfter (execFirmwareActivate port q s) := by
  unfold execFirmwareActivate
  grind only [State.startCmd_mem, State.finishCmd_mem, State.emit_mem, setSec_mem, canonicalAfter_next]

theorem execRollbackCommit_wf {port q} (h : Memory.wf s.mem) : CanonicalAfter (execRollbackCommit port q s) := by
  unfold execRollbackCommit
  grind only [State.startCmd_mem, State.finishCmd_mem, State.emit_mem, canonicalAfter_next]

theorem execCertificateRead_wf {port q} (h : Memory.wf s.mem) : CanonicalAfter (execCertificateRead port q s) := by
  unfold execCertificateRead
  grind only [State.startCmd_mem, State.finishCmd_mem, State.tell_mem, canonicalAfter_next]

theorem execJobKeyInstall_wf {port q key} (h : Memory.wf s.mem) :
    CanonicalAfter (execJobKeyInstall port q key s) := by
  unfold execJobKeyInstall
  grind only [State.startCmd_mem, State.finishCmd_mem, State.emit_mem, setSec_mem, canonicalAfter_next]

theorem execJobKeyErase_wf {port q} (h : Memory.wf s.mem) : CanonicalAfter (execJobKeyErase port q s) := by
  unfold execJobKeyErase
  grind only [State.startCmd_mem, State.finishCmd_mem, State.emit_mem, setSec_mem, canonicalAfter_next]

theorem State.clearTrace_wf (h : Memory.wf s.mem) : Memory.wf s.clearTrace.mem := by
  simp only [State.clearTrace, Memory.wf_clear, h]

theorem State.observe_wf (h : Memory.wf s.mem) : Memory.wf s.observe.mem := by
  simp only [State.observe, setSec_mem, State.clearTrace_wf, State.emit_mem, h]

theorem execOpenObservation_wf {port q} (h : Memory.wf s.mem) : CanonicalAfter (execOpenObservation port q s) := by
  unfold execOpenObservation
  grind only [State.startCmd_mem, State.finishCmd_mem, State.emit_mem, ← State.observe_wf, canonicalAfter_next]

theorem execDoeAttestationRequest_wf {port flags nonce} (h : Memory.wf s.mem) :
    CanonicalAfter (execDoeAttestationRequest port flags nonce s) := by
  simp only [execDoeAttestationRequest, State.tell_mem, setSec_mem, h, ite_self, State.mem_ite, canonicalAfter_next]

theorem execKeyGenerationComplete_wf (h : Memory.wf s.mem) : CanonicalAfter (execKeyGenerationComplete s) := by
  simp only [execKeyGenerationComplete, setSec_mem, h, ite_self, State.mem_ite, canonicalAfter_next]

/-! ## Boot and resets -/

@[simp] theorem State.clampLost_mem : s.clampLost.mem = s.mem := by
  simp only [State.clampLost, State.setClamps_mem, foldl_mem, implies_true]

@[simp] theorem State.bootPolders_mem : s.bootPolders.mem = s.mem := by
  unfold State.bootPolders
  grind only [State.clampLost_mem, State.setPolder_mem, foldl_mem]

@[simp] theorem State.returnSite_mem {p} : (s.returnSite p).mem = s.mem := by
  simp only [State.returnSite, State.emit_mem, ite_self, State.mem_ite]

@[simp] theorem State.coldPolders_mem : s.coldPolders.mem = s.mem := by
  unfold State.coldPolders
  grind only [State.clampLost_mem, State.setPolder_mem, State.returnSite_mem, foldl_mem]

@[simp] theorem State.bootPort_mem {p} : (s.bootPort p).mem = s.mem := rfl

@[simp] theorem State.bootLinks_mem : s.bootLinks.mem = s.mem := by
  unfold State.bootLinks
  grind only [State.bootPort_mem, foldl_mem]

@[simp] theorem State.trySlot_mem {slot} : (s.trySlot slot).1.mem = s.mem := by
  unfold State.trySlot
  split <;> simp only [State.emit_mem, setSec_mem]

@[simp] theorem State.startImage_mem : s.startImage.1.mem = s.mem := by
  unfold State.startImage
  grind only [State.trySlot_mem, State.emit_mem, setSec_mem]

@[simp] theorem State.bootKeys_mem : s.bootKeys.mem = s.mem := by
  simp only [State.bootKeys, State.emit_mem, setSec_mem, ite_self, State.mem_ite]

theorem State.cleared_wf {kind lake} (h : Memory.wf s.mem) : Memory.wf (s.cleared kind lake).mem := by
  simp only [State.cleared, keepMem_wf, h]

@[simp] theorem State.bootEnd_mem : s.bootEnd.mem = s.mem := by
  simp only [State.bootEnd, State.bootKeys_mem, State.flashScan_mem, State.takeMeasures_mem]

@[simp] theorem State.coldLake_mem : s.coldLake.mem = s.mem := rfl

@[simp] theorem State.powerFail_mem {p} : (s.powerFail p).mem = s.mem := by
  unfold State.powerFail
  split <;> simp only [State.failRec_mem, State.stackFail_mem, State.testFail_mem]

theorem State.powerOn_wf {feeds failed} (h : Memory.wf s.mem) : Memory.wf (s.powerOn feeds failed).mem := by
  unfold State.powerOn
  grind only [← State.cleared_wf, setSafety_mem, State.startImage_mem, State.powerFail_mem, State.coldPolders_mem,
      State.bootEnd_mem, State.bootLinks_mem, State.bringRows_mem, State.bringCores_mem, State.coldLake_mem,
      foldl_mem]

theorem execPowerGood_wf {feeds failed} (h : Memory.wf s.mem) : CanonicalAfter (execPowerGood feeds failed s) := by
  simp only [execPowerGood, State.powerOn_wf, h, ite_self, State.mem_ite, Memory.wf_ite, canonicalAfter_next]

theorem State.moduleReset_wf {kind} (h : Memory.wf s.mem) : Memory.wf (s.moduleReset kind).mem := by
  unfold State.moduleReset
  grind only [State.lapse_mem, ← State.cleared_wf, State.startImage_mem, ← keepMem_wf, State.bootEnd_mem,
      State.bootLinks_mem, State.bootPolders_mem]

@[simp] theorem State.startReset_mem {t : State} {p q kind c} (e : s.startReset p q kind = some (c, t)) :
    t.mem = s.mem := by
  unfold State.startReset at e
  grind only [State.startCmd_mem]

theorem execModuleReset_wf {port q} (h : Memory.wf s.mem) : CanonicalAfter (execModuleReset port q s) := by
  unfold execModuleReset
  grind only [State.startReset_mem, ← State.moduleReset_wf, canonicalAfter_next]

theorem execPerstPortA_wf (h : Memory.wf s.mem) : CanonicalAfter (execPerstPortA s) := by
  simp only [execPerstPortA, State.moduleReset_wf, h, ite_self, State.mem_ite, Memory.wf_ite, canonicalAfter_next]

theorem State.jobReset_wf (h : Memory.wf s.mem) : Memory.wf s.jobReset.mem := by
  unfold State.jobReset
  split <;> simp only [State.faultReaction_wf, State.lowerFence_mem, State.clearCompute_wf, h, ite_self,
      State.mem_ite, Memory.wf_ite]

theorem execJobReset_wf {port q} (h : Memory.wf s.mem) : CanonicalAfter (execJobReset port q s) := by
  unfold execJobReset
  grind only [State.startReset_mem, State.finishCmd_mem, ← State.jobReset_wf, canonicalAfter_next]

theorem State.clearPolder_wf {p} (h : Memory.wf s.mem) : Memory.wf (s.clearPolder p).mem := by
  simp only [State.clearPolder, State.clearPonds_wf, State.resetUnits_mem, h, ite_self, State.mem_ite, Memory.wf_ite]

theorem State.polderReset_wf {p} (h : Memory.wf s.mem) : Memory.wf (s.polderReset p).mem := by
  simp only [State.polderReset, State.darkPolder_mem, State.clearPolder_wf, State.setPolder_mem, State.setClamps_mem,
      State.rebar_mem, State.reroute_mem, State.bootPort_mem, h, ite_self, State.mem_ite]

theorem execPolderReset_wf {port q} (h : Memory.wf s.mem) : CanonicalAfter (execPolderReset port q s) := by
  unfold execPolderReset
  extract_lets hp start
  have hstart : ∀ r t, start = some (r, t) → Memory.wf t.mem := by
    intro r t e
    simp only [start] at e
    split at e
    · grind only
    · obtain ⟨c, ec, e'⟩ := Option.map_eq_some_iff.mp e
      grind only [State.startReset_mem, State.setHport_mem]
  clear_value start
  rw [canonicalAfter_next]
  split
  · exact h
  have h1 := hstart _ _ rfl
  extract_lets
  grind only [State.endRun_mem, State.setPolder_mem, ← State.polderReset_wf]

@[simp] theorem State.portReset_mem {port why} : (s.portReset port why).mem = s.mem := by
  simp only [State.portReset, State.setExport_mem, State.emit_mem, State.setHport_mem, ite_self, State.mem_ite]

theorem execPortReset_wf {port why} (h : Memory.wf s.mem) : CanonicalAfter (execPortReset port why s) := by
  simp only [execPortReset, State.portReset_mem, h, ite_self, State.mem_ite, canonicalAfter_next]

theorem execD3hotEntry_wf {port} (h : Memory.wf s.mem) : CanonicalAfter (execD3hotEntry port s) := by
  simp only [execD3hotEntry, State.setHport_mem, h, ite_self, State.mem_ite, canonicalAfter_next]

theorem execD3hotExit_wf {port} (h : Memory.wf s.mem) : CanonicalAfter (execD3hotExit port s) := by
  simp only [execD3hotExit, State.fetchQ_mem, State.setHport_mem, h, ite_self, State.mem_ite, foldl_mem,
      implies_true, canonicalAfter_next]

/-! ## Scalar instructions -/

theorem State.reservedOp_wf {k op f} (h : Memory.wf s.mem) : Memory.wf (s.reservedOp k op f).mem := by
  refine State.issue_wf h fun t ht => ?_
  simp only [State.finish_wf, ht]

theorem execIntegerRegisterRegister_wf {u op f} (h : Memory.wf s.mem) :
    CanonicalAfter (execIntegerRegisterRegister u op f s) := by
  simp only [execIntegerRegisterRegister, State.reservedOp_wf, State.runInstr_wf, h, ite_self, State.mem_ite,
      Memory.wf_ite, canonicalAfter_next]

theorem execIntegerImmediate_wf {u f} (h : Memory.wf s.mem) : CanonicalAfter (execIntegerImmediate u f s) := by
  simp only [execIntegerImmediate, State.runInstr_wf, h, canonicalAfter_next]

theorem execLic_wf {u f} (h : Memory.wf s.mem) : CanonicalAfter (execLic u f s) := by
  simp only [execLic, State.runInstr_wf, h, canonicalAfter_next]

theorem execMultiplyDivide_wf {u f} (h : Memory.wf s.mem) : CanonicalAfter (execMultiplyDivide u f s) := by
  simp only [execMultiplyDivide, State.runInstr_wf, h, canonicalAfter_next]

theorem execConditionalBranch_wf {u f} (h : Memory.wf s.mem) : CanonicalAfter (execConditionalBranch u f s) := by
  simp only [execConditionalBranch, State.runInstr_wf, h, canonicalAfter_next]

theorem execJal_wf {u f} (h : Memory.wf s.mem) : CanonicalAfter (execJal u f s) := by
  simp only [execJal, State.runInstr_wf, h, canonicalAfter_next]

theorem execJalr_wf {u f} (h : Memory.wf s.mem) : CanonicalAfter (execJalr u f s) := by
  simp only [execJalr, State.runInstr_wf, h, canonicalAfter_next]

theorem execTret_wf {u f} (h : Memory.wf s.mem) : CanonicalAfter (execTret u f s) := by
  simp only [execTret, State.runInstr_wf, h, canonicalAfter_next]

theorem execScalarFloatingPoint_wf {u f} (h : Memory.wf s.mem) : CanonicalAfter (execScalarFloatingPoint u f s) := by
  simp only [execScalarFloatingPoint, State.runInstr_wf, h, canonicalAfter_next]

/-! ## The sparsity unit -/

theorem State.smask_wf {u f form} (h : Memory.wf s.mem) : Memory.wf (s.smask u f form).mem := by
  refine State.issue64_wf h fun t ht => ?_
  dsimp only
  (repeat' split) <;> simp only [State.trap1_wf, State.dmaEnd_wf, State.refusedEvent_mem, State.readMeta_mem,
      State.report_mem, State.setCluster_mem, State.retire_wf, ht]

theorem execSmaskPrune_wf {u f} (h : Memory.wf s.mem) : CanonicalAfter (execSmaskPrune u f s) := by
  simp only [execSmaskPrune, State.smask_wf, h, canonicalAfter_next]

theorem execSmaskKeep_wf {u f} (h : Memory.wf s.mem) : CanonicalAfter (execSmaskKeep u f s) := by
  simp only [execSmaskKeep, State.smask_wf, h, canonicalAfter_next]

theorem execSmaskBitmap_wf {u f} (h : Memory.wf s.mem) : CanonicalAfter (execSmaskBitmap u f s) := by
  simp only [execSmaskBitmap, State.smask_wf, h, canonicalAfter_next]

@[simp] theorem State.pruneRows_mem {k d} : (s.pruneRows k d).1.mem = s.mem := by
  simp only [State.pruneRows, State.readElems_mem, foldl_fst_mem, implies_true]

theorem State.pruneWrite_wf {k a bs} (h : Memory.wf s.mem) : Memory.wf (s.pruneWrite k a bs).mem := by
  simp only [State.pruneWrite, State.eccWrite_wf, h]

theorem State.pruneTile_wf {k r rows} (h : Memory.wf s.mem) : Memory.wf (s.pruneTile k r rows).1.mem := by
  unfold State.pruneTile
  grind only [State.refusedEvent_mem, ← State.pruneWrite_wf, State.report_mem]

theorem execPruningUnitComplete_wf {c} (h : Memory.wf s.mem) : CanonicalAfter (execPruningUnitComplete c s) := by
  unfold execPruningUnitComplete
  dsimp only
  split <;> simp only [State.setCluster_mem, State.pruneRows_mem, State.readMeta_mem, State.tagDone_mem,
      State.pruneWrite_wf, State.pruneTile_wf, h, ite_self, State.mem_ite, Memory.wf_ite, apply_ite Prod.fst,
      canonicalAfter_next]

theorem State.mergeWrite_wf {k op f r na} (h : Memory.wf s.mem) : Memory.wf (s.mergeWrite k op f r na).mem := by
  unfold State.mergeWrite
  grind only [← State.pruneWrite_wf, ← State.setPondBit_wf]

theorem State.smerge_wf {u f op} (h : Memory.wf s.mem) : Memory.wf (s.smerge u f op).mem := by
  refine State.issue64_wf h fun t ht => ?_
  dsimp only
  (repeat' split) <;> simp only [State.trap_wf, State.addrTrap_wf, State.eccRead_mem, State.mergeWrite_wf,
      State.sparseFault_wf, State.retire_wf, ht]

theorem execSmergeMatch_wf {u f} (h : Memory.wf s.mem) : CanonicalAfter (execSmergeMatch u f s) := by
  simp only [execSmergeMatch, State.smerge_wf, h, canonicalAfter_next]

theorem execSmergeCoalesce_wf {u f} (h : Memory.wf s.mem) : CanonicalAfter (execSmergeCoalesce u f s) := by
  simp only [execSmergeCoalesce, State.smerge_wf, h, canonicalAfter_next]

theorem execSmergeUnion_wf {u f} (h : Memory.wf s.mem) : CanonicalAfter (execSmergeUnion u f s) := by
  simp only [execSmergeUnion, State.smerge_wf, h, canonicalAfter_next]

/-! ## The reference clock -/

@[simp] theorem State.tickCluster_mem {c n} : (s.tickCluster c n).mem = s.mem := by
  simp only [State.tickCluster, State.countCl_mem, foldl_mem, implies_true]

@[simp] theorem State.tickSpring_mem {k n} : (s.tickSpring k n).mem = s.mem := by
  simp only [State.tickSpring, State.countEmb_mem, ite_self, State.mem_ite]

@[simp] theorem State.tickUe_mem {k n} : (s.tickUe k n).mem = s.mem := by
  simp only [State.tickUe, State.countEmb_mem, ite_self, State.mem_ite]

@[simp] theorem State.tick_mem : s.tick.mem = s.mem := by
  simp only [State.tick, State.tickCluster_mem, State.tickSpring_mem, State.tickUe_mem, foldl_mem, implies_true]

/-! ## Vector instructions -/

theorem execVectorFloatingPoint_wf {u op f} (h : Memory.wf s.mem) :
    CanonicalAfter (execVectorFloatingPoint u op f s) := by
  simp only [execVectorFloatingPoint, State.runInstr_wf, h, canonicalAfter_next]

theorem execVcmp_wf {u f} (h : Memory.wf s.mem) : CanonicalAfter (execVcmp u f s) := by
  simp only [execVcmp, State.runInstr_wf, h, canonicalAfter_next]

theorem execVectorInteger_wf {u op f} (h : Memory.wf s.mem) : CanonicalAfter (execVectorInteger u op f s) := by
  simp only [execVectorInteger, State.runInstr_wf, h, canonicalAfter_next]

theorem execVectorMove_wf {u f} (h : Memory.wf s.mem) : CanonicalAfter (execVectorMove u f s) := by
  simp only [execVectorMove, State.runInstr_wf, h, canonicalAfter_next]

theorem execVectorReduction_wf {u f} (h : Memory.wf s.mem) : CanonicalAfter (execVectorReduction u f s) := by
  simp only [execVectorReduction, State.runInstr_wf, h, canonicalAfter_next]

theorem execPredicateOperation_wf {u f} (h : Memory.wf s.mem) : CanonicalAfter (execPredicateOperation u f s) := by
  simp only [execPredicateOperation, State.runInstr_wf, h, canonicalAfter_next]

theorem execVcvt_wf {u f} (h : Memory.wf s.mem) : CanonicalAfter (execVcvt u f s) := by
  simp only [execVcvt, State.runInstr_wf, h, canonicalAfter_next]

/-! ## The dispatcher and the step -/

theorem exec_wf (c : Instr) (h : Memory.wf s.mem) : CanonicalAfter (exec c s) :=
  match c with
  | .integerRegisterRegister _ _ _ => execIntegerRegisterRegister_wf h
  | .integerImmediate _ _ => execIntegerImmediate_wf h
  | .lic _ _ => execLic_wf h
  | .multiplyDivide _ _ => execMultiplyDivide_wf h
  | .scalarLoad _ _ => execScalarLoad_wf h
  | .scalarStore _ _ => execScalarStore_wf h
  | .amoadd _ _ => execAmoadd_wf h
  | .amoswap _ _ => execAmoswap_wf h
  | .amocas _ _ => execAmocas_wf h
  | .conditionalBranch _ _ => execConditionalBranch_wf h
  | .jal _ _ => execJal_wf h
  | .jalr _ _ => execJalr_wf h
  | .cread _ _ => execCread_wf h
  | .cwrite _ _ => execCwrite_wf h
  | .tret _ _ => execTret_wf h
  | .scalarFloatingPoint _ _ => execScalarFloatingPoint_wf h
  | .vectorFloatingPoint _ _ _ => execVectorFloatingPoint_wf h
  | .vcmp _ _ => execVcmp_wf h
  | .vectorInteger _ _ _ => execVectorInteger_wf h
  | .vectorMove _ _ => execVectorMove_wf h
  | .vectorReduction _ _ => execVectorReduction_wf h
  | .vld _ _ => execVld_wf h
  | .vst _ _ => execVst_wf h
  | .vldb _ _ => execVldb_wf h
  | .predicateOperation _ _ => execPredicateOperation_wf h
  | .vcvt _ _ => execVcvt_wf h
  | .bar _ _ => execBar_wf h
  | .tagwait _ _ => execTagwait_wf h
  | .fence _ _ => execFence_wf h
  | .spanBegin _ _ => execSpanBegin_wf h
  | .spanEnd _ _ => execSpanEnd_wf h
  | .nfmt _ _ => execNfmt_wf h
  | .nround _ _ => execNround_wf h
  | .nseed _ _ => execNseed_wf h
  | .aload _ _ => execAload_wf h
  | .astream _ _ => execAstream_wf h
  | .aswap _ _ => execAswap_wf h
  | .aacc _ _ => execAacc_wf h
  | .adrain _ _ => execAdrain_wf h
  | .adiag _ _ => execAdiag_wf h
  | .ddld _ _ => execDdld_wf h
  | .ddst _ _ => execDdst_wf h
  | .ddset _ _ => execDdset_wf h
  | .dget _ _ => execDget_wf h
  | .dput _ _ => execDput_wf h
  | .dcast _ _ => execDcast_wf h
  | .dwait _ _ => execDwait_wf h
  | .smaskPrune _ _ => execSmaskPrune_wf h
  | .smaskKeep _ _ => execSmaskKeep_wf h
  | .smaskBitmap _ _ => execSmaskBitmap_wf h
  | .smergeMatch _ _ => execSmergeMatch_wf h
  | .smergeCoalesce _ _ => execSmergeCoalesce_wf h
  | .smergeUnion _ _ => execSmergeUnion_wf h
  | .aloadCaptureComplete _ _ _ => execAloadCaptureComplete_wf h
  | .swapTokenAttach _ _ => execSwapTokenAttach_wf h
  | .drainOutputWrite _ _ => execDrainOutputWrite_wf h
  | .weirReport _ => execWeirReport_wf h
  | .wave _ _ => execWave_wf h
  | .gateWordPoll _ => execGateWordPoll_wf h
  | .sealPoll _ => execSealPoll_wf h
  | .reStreamRequest _ => execReStreamRequest_wf h
  | .reStreamStart _ => execReStreamStart_wf h
  | .reStreamRelease _ => execReStreamRelease_wf h
  | .gopen _ _ => execGopen_wf h
  | .gsend _ _ _ => execGsend_wf h
  | .ghand _ _ _ => execGhand_wf h
  | .ugrad _ _ => execUgrad_wf h
  | .urld _ _ => execUrld_wf h
  | .urst _ _ _ => execUrst_wf h
  | .uhead _ _ _ => execUhead_wf h
  | .useal _ _ _ => execUseal_wf h
  | .usealWaitEnd _ _ => execUsealWaitEnd_wf h
  | .udig _ _ _ => execUdig_wf h
  | .routerPacketForward _ => execRouterPacketForward_wf h
  | .gblkCombine _ _ => execGblkCombine_wf h
  | .combineHoldExpiry _ => execCombineHoldExpiry_wf h
  | .escapeWaitExpiry _ => execEscapeWaitExpiry_wf h
  | .flitReplayRequest _ _ _ _ _ => execFlitReplayRequest_wf h
  | .rdRequest _ _ => execRdRequest_wf h
  | .wrRequest _ _ => execWrRequest_wf h
  | .amoRequest _ _ => execAmoRequest_wf h
  | .ctlPacket _ _ => execCtlPacket_wf h
  | .mcPacket _ _ => execMcPacket_wf h
  | .gblkSluiceArrival _ _ _ => execGblkSluiceArrival_wf h
  | .grunSluiceArrival _ _ _ => execGrunSluiceArrival_wf h
  | .xtPacket _ _ => execXtPacket_wf h
  | .rdrResponse _ _ => execRdrResponse_wf h
  | .wackResponse _ _ => execWackResponse_wf h
  | .amorResponse _ _ => execAmorResponse_wf h
  | .mack _ _ => execMack_wf h
  | .requestTimeout _ => execRequestTimeout_wf h
  | .barrierUpFrame _ => execBarrierUpFrame_wf h
  | .barrierReleaseFrame _ => execBarrierReleaseFrame_wf h
  | .bid0Release => execBid0Release_wf h
  | .sludoneWrite _ _ => execSludoneWrite_wf h
  | .sluiceTagStall _ _ => execSluiceTagStall_wf h
  | .clearWindowExpiry => execClearWindowExpiry_wf h
  | .ueInboxBlock _ _ _ => execUeInboxBlock_wf h
  | .gatherOpen _ => execGatherOpen_wf h
  | .gatherClose _ => execGatherClose_wf h
  | .gatherAck _ => execGatherAck_wf h
  | .gatherRequest _ => execGatherRequest_wf h
  | .lakePatrolRead _ _ _ => execLakePatrolRead_wf h
  | .pondScrub _ _ => execPondScrub_wf h
  | .flashDoorbell _ _ => execFlashDoorbell_wf h
  | .flashRead _ _ => execFlashRead_wf h
  | .flashWrite _ _ _ => execFlashWrite_wf h
  | .flashTrim _ => execFlashTrim_wf h
  | .flashTeeWrite _ _ _ => execFlashTeeWrite_wf h
  | .flashCommandComplete _ => execFlashCommandComplete_wf h
  | .garbageCollection _ _ _ _ _ => execGarbageCollection_wf h
  | .checkpointComplete => execCheckpointComplete_wf h
  | .groupTrailerReceive _ _ _ _ _ => execGroupTrailerReceive_wf h
  | .groupRetryTimeout _ => execGroupRetryTimeout_wf h
  | .controlRetryTimeout _ => execControlRetryTimeout_wf h
  | .blkMessage _ _ => execBlkMessage_wf h
  | .runMessage _ _ => execRunMessage_wf h
  | .writeMessage _ _ => execWriteMessage_wf h
  | .ackMessage _ _ => execAckMessage_wf h
  | .unitMessage _ _ => execUnitMessage_wf h
  | .transitMessage _ => execTransitMessage_wf h
  | .portFail _ why => execPortFail_wf (why := why) h
  | .laneDegraded _ _ => execLaneDegraded_wf h
  | .portTraining _ _ _ _ => execPortTraining_wf h
  | .portTrainingFail _ => execPortTrainingFail_wf h
  | .laserModuleFail _ => execLaserModuleFail_wf h
  | .bayLatchOpen _ => execBayLatchOpen_wf h
  | .lpctlRetrain _ _ => execLpctlRetrain_wf h
  | .lmctlBayoff _ _ => execLmctlBayoff_wf h
  | .opticalCalibration _ _ => execOpticalCalibration_wf h
  | .barrierArrivalCell _ _ _ => execBarrierArrivalCell_wf h
  | .barrierReleaseCell _ _ _ => execBarrierReleaseCell_wf h
  | .commitVoteCell _ _ _ => execCommitVoteCell_wf h
  | .commitResultCell _ _ _ => execCommitResultCell_wf h
  | .poisonCell _ _ _ => execPoisonCell_wf h
  | .fenceCell _ _ _ => execFenceCell_wf h
  | .faultReport _ _ _ => execFaultReport_wf h
  | .restartReport _ _ _ => execRestartReport_wf h
  | .restartDecision _ _ _ => execRestartDecision_wf h
  | .recoveryDone _ _ _ => execRecoveryDone_wf h
  | .checkpointDesignation _ _ _ => execCheckpointDesignation_wf h
  | .designationReply _ _ _ => execDesignationReply_wf h
  | .substitutionNotice _ _ _ => execSubstitutionNotice_wf h
  | .groupBarrierTimeout _ => execGroupBarrierTimeout_wf h
  | .voteTimeoutManager => execVoteTimeoutManager_wf h
  | .resultTimeoutWorker => execResultTimeoutWorker_wf h
  | .workerRestart => execWorkerRestart_wf h
  | .detectionLatch _ => execDetectionLatch_wf h
  | .sequencerWatchdog _ => execSequencerWatchdog_wf h
  | .spanSignatureCompare _ _ => execSpanSignatureCompare_wf h
  | .wardenLockstepFail => execWardenLockstepFail_wf h
  | .sftestReq _ => execSftestReq_wf h
  | .selfTestComplete _ => execSelfTestComplete_wf h
  | .clockMonitorWindow _ _ => execClockMonitorWindow_wf h
  | .pllLockLoss _ => execPllLockLoss_wf h
  | .thermalSample _ _ => execThermalSample_wf h
  | .vcoreSlewComplete _ => execVcoreSlewComplete_wf h
  | .supplyExcursion _ => execSupplyExcursion_wf h
  | .railOvercurrent _ => execRailOvercurrent_wf h
  | .dikeClampClose _ _ => execDikeClampClose_wf h
  | .dikePointerSlip _ _ _ => execDikePointerSlip_wf h
  | .feedLoss _ => execFeedLoss_wf h
  | .feedRestore _ => execFeedRestore_wf h
  | .orderlyStop _ => execOrderlyStop_wf h
  | .pdctlShut _ _ => execPdctlShut_wf h
  | .pdctlWake _ _ => execPdctlWake_wf h
  | .pdctlRestore _ _ => execPdctlRestore_wf h
  | .plannedShutdown _ => execPlannedShutdown_wf h
  | .polderWake _ _ => execPolderWake_wf h
  | .powerEstimateInterval => execPowerEstimateInterval_wf h
  | .powerAllocation _ => execPowerAllocation_wf h
  | .trimUpdate _ _ => execTrimUpdate_wf h
  | .capNotMet => execCapNotMet_wf h
  | .coolantStale => execCoolantStale_wf h
  | .pwctlWrite _ _ => execPwctlWrite_wf h
  | .surroundingsHeatWrite _ _ _ => execSurroundingsHeatWrite_wf h
  | .srtimeWrite _ _ => execSrtimeWrite_wf h
  | .registerWrite _ _ _ _ => execRegisterWrite_wf h
  | .rcRead _ _ _ => execRcRead_wf h
  | .bar2Read _ _ _ => execBar2Read_wf h
  | .bar2Write _ _ _ => execBar2Write_wf h
  | .hwinWrite _ _ _ => execHwinWrite_wf h
  | .hqcfgWrite _ _ _ => execHqcfgWrite_wf h
  | .hqsqdbWrite _ _ _ _ => execHqsqdbWrite_wf h
  | .hqcqdbWrite _ _ _ => execHqcqdbWrite_wf h
  | .copyIn _ _ _ => execCopyIn_wf h
  | .copyOut _ _ => execCopyOut_wf h
  | .intakeDelivery _ _ _ => execIntakeDelivery_wf h
  | .intakeWaitTimeout _ _ => execIntakeWaitTimeout_wf h
  | .jobSubmit _ _ _ => execJobSubmit_wf h
  | .jobStart _ _ => execJobStart_wf h
  | .jobAmend _ _ _ => execJobAmend_wf h
  | .jobEnd _ _ => execJobEnd_wf h
  | .jobStatus _ _ => execJobStatus_wf h
  | .checkpoint _ _ => execCheckpoint_wf h
  | .exportHeads _ _ => execExportHeads_wf h
  | .retrain _ _ => execRetrain_wf h
  | .selfTest _ _ => execSelfTest_wf h
  | .errorRecords _ _ => execErrorRecords_wf h
  | .moduleReset _ _ => execModuleReset_wf h
  | .jobReset _ _ => execJobReset_wf h
  | .polderReset _ _ => execPolderReset_wf h
  | .firmwareStage _ _ _ => execFirmwareStage_wf h
  | .firmwareActivate _ _ => execFirmwareActivate_wf h
  | .rollbackCommit _ _ => execRollbackCommit_wf h
  | .certificateRead _ _ => execCertificateRead_wf h
  | .jobKeyInstall _ _ _ => execJobKeyInstall_wf h
  | .jobKeyErase _ _ => execJobKeyErase_wf h
  | .openObservation _ _ => execOpenObservation_wf h
  | .commandCompletion _ _ => execCommandCompletion_wf h
  | .perstPortA => execPerstPortA_wf h
  | .portReset _ _ => execPortReset_wf h
  | .d3hotEntry _ => execD3hotEntry_wf h
  | .poisonedWrite _ off => execPoisonedWrite_wf (off := off) h
  | .hostReadError _ _ => execHostReadError_wf h
  | .doeAttestationRequest _ _ _ => execDoeAttestationRequest_wf h
  | .keyGenerationComplete => execKeyGenerationComplete_wf h
  | .powerGood _ _ => execPowerGood_wf h
  | .cselWrite _ _ _ _ => execCselWrite_wf h
  | .cntctlWrite _ _ => execCntctlWrite_wf h
  | .trctlWrite _ _ => execTrctlWrite_wf h
  | .tracePowerLines => execTracePowerLines_wf h
  | .eventRecordArrival => execEventRecordArrival_wf h
  | .evselWrite _ _ => execEvselWrite_wf h
  | .mirrorFetchComplete _ => execMirrorFetchComplete_wf h
  | .mirrorBlockWrite _ => execMirrorBlockWrite_wf h
  | .d3hotExit _ => execD3hotExit_wf h
  | .groupTrailerSend _ => execGroupTrailerSend_wf h
  | .pruningUnitComplete _ => execPruningUnitComplete_wf h
  | .lakeInterfaceRetraining _ _ => execLakeInterfaceRetraining_wf h
  | .bayLatchClose _ => execBayLatchClose_wf h

theorem step_wf (h : Memory.wf s.mem) : CanonicalAfter (step s) := by
  unfold step
  split
  next => simpa only [canonicalAfter_next, State.tick_mem] using h
  next c rest _ => exact exec_wf c (s := s.withPending rest) h

end Sys2Proof.Machine

/-- Settles O58, by the lemma of each command, put together in `exec_wf`; with no command waiting, only the reference
moves on. -/
theorem stepKeepsMemoryCanonical : Obligations.StepKeepsMemoryCanonical := by
  intro s t h hs
  have hc := Sys2Proof.Machine.step_wf h
  rwa [hs] at hc
end

section
/-! A scalar floating-point instruction writes its result (O11): the function code's result of Table 6.4, stated as
`SfResult`, is the one that `sfOp` gives, and the unit draws for the codes that round and for no other (R44). -/

namespace Sys2Proof.Machine
open Sys2Proof

theorem fld_lt {n : Nat} (f : BitVec n) (lo len : Nat) : fld f lo len < 2 ^ len := Nat.mod_lt _ (Nat.two_pow_pos len)

theorem ite_eq_one_of_le {v : Nat} (h : v ≤ 1) : (if v = 1 then 1 else 0) = v := by
  rcases Nat.le_one_iff_eq_zero_or_eq_one.mp h with rfl | rfl <;> rfl

/-- A result by Table 6.4 is the one that the instruction computes. -/
theorem sfOp_of_sfResult {fm fn rm rb m : Nat} {a : Word} {x y z r v : Nat} {fl : Flg} (hfm : fm < 2)
    (h : SfResult fm fn rm rb m a x y z r v fl) : sfOp fm fn rm rb (some m) a x y z r = some (v, fl) := by
  unfold SfResult at h
  unfold sfOp
  dsimp only at h ⊢
  split at h
  case h_1 | h_2 | h_3 | h_4 | h_5 | h_6 | h_7 | h_8 | h_9 | h_10 | h_11 | h_12 | h_17 => simp [h]
  case h_13 | h_14 | h_15 | h_16 =>
    obtain ⟨hrm, hv, hc⟩ := h
    simp [hrm, hc, ite_eq_one_of_le hv]
  case h_18 =>
    have hty : rb < 8 → rb % 8 = rb := Nat.mod_eq_of_lt
    rcases h with ⟨h2, h3, hne, hr⟩ | ⟨rfl, rfl, rfl⟩ | ⟨h5, h7, hr⟩
    · have hok : ¬ (rb / 8 ≠ 0 ∨ rb < 2 ∨ rb = 2 + fm) := by omega
      have h4 : rb < 4 := by omega
      simp only [hty (by omega), if_neg hok, if_pos h4, Option.map_some, hr]
    · have hok : 4 ≠ 2 + fm := by omega
      simp [hok]
    · have hok : ¬ (rb / 8 ≠ 0 ∨ rb < 2 ∨ rb = 2 + fm) := by omega
      have h4 : ¬ rb < 4 := by omega
      have hw : rb ≠ 4 := by omega
      simp only [hty (by omega), if_neg hok, if_neg h4, if_neg hw, Option.map_some, hr]
  case h_19 =>
    obtain ⟨h4, h7, hr⟩ := h
    have hok : ¬ (rb / 8 ≠ 0 ∨ rb < 4) := by omega
    simp only [Nat.mod_eq_of_lt (show rb < 8 by omega), if_neg hok, Option.map_some, hr]
  case h_20 => exact h.elim

/-- A code of Table 6.4 that does not round has its rounding field zero. -/
theorem SfResult.rounds_or_rm {fm fn rm rb m : Nat} {a : Word} {x y z r v : Nat} {fl : Flg}
    (h : SfResult fm fn rm rb m a x y z r v fl) : sfRounds fn = true ∨ rm = 0 := by
  unfold SfResult at h
  dsimp only at h
  split at h
  case h_1 | h_2 | h_3 | h_4 | h_5 | h_10 | h_11 | h_12 | h_18 | h_19 => exact .inl rfl
  case h_6 | h_7 | h_8 | h_9 | h_13 | h_14 | h_15 | h_16 | h_17 => exact .inr h.1
  case h_20 => exact h.elim

/-- The unit draws as if every code drew in its mode: one that does not round has the mode RNE, which draws nothing. -/
theorem SfResult.draw_mode {p : Proc} {fm fn rm rb m : Nat} {a : Word} {x y z r v : Nat} {fl : Flg}
    (h : SfResult fm fn rm rb m a x y z r v fl) (hm : rmMode p rm = some m) :
    (if sfRounds fn = true then m else 0) = m := by
  rcases h.rounds_or_rm with hr | rfl
  · exact if_pos hr
  · have hm0 : m = 0 := by simpa [rmMode] using hm.symm
    rw [hm0, ite_self]

theorem Proc.draws_of_not_sr {p : Proc} {k m n : Nat} {vec : Bool} (h : m ≠ mSR) :
    p.draws k vec m n = (List.replicate n 0, p) := if_neg h

/-- A stochastic rounding of a core's scalar unit moves its counter. -/
theorem Proc.draws_core_sr {p : Proc} {k n : Nat} (hk : isCore k = true) :
    (p.draws k false mSR n).2 = { p with ctrS := p.ctrS + BitVec.ofNat 64 n } := by
  simp [Proc.draws, Proc.setCtr, Proc.ctrOf, hk]

/-- The units that have scalar floating point: cores, and update engines in binary32 (Table 7.9). -/
theorem has_scalar_float {k fm : Nat} (h : isCore k = true ∨ (isUe k = true ∧ fm = 0)) :
    (isSpring k || isSluice k || (isUe k && fm == 1)) = false := by
  simp only [isCore, isUe, isSpring, isSluice] at *
  grind

end Sys2Proof.Machine

open Sys2Proof Sys2Proof.Machine

/-- Settles O11: `runInstr` gives what the registers become, and `sfOp` answers the result of Table 6.4. -/
theorem scalarFloatWritesRoundedResult : Obligations.ScalarFloatWritesRoundedResult := by
  rintro u f s s' k fm m r v x y z fl ds p1 rfl hi rfl hk hm rfl rfl rfl hd rfl hr
  have hx : exec (.scalarFloatingPoint u f) s =
      .next (s'.retire (unitKey u) ((p1.raise fl).setS (rdOf f) (BitVec.ofNat 64 v)) 4 true 1) := by
    have hs := sfOp_of_sfResult (fld_lt f 22 1) hr
    simp only [State.ra, State.rb, State.rd] at hs
    change execScalarFloatingPoint u f s = _
    simp only [execScalarFloatingPoint, runInstr_eq hi, has_scalar_float hk, hm, Option.getD_some, hr.draw_mode hm, hd]
    rw [hs]
    rfl
  refine ⟨_, hx, retire_retired .., fun h => ?_, ?_⟩
  · rw [Proc.draws_of_not_sr h] at hd
    exact (congrArg Prod.snd hd).symm
  · rintro rfl hc
    exact (congrArg Prod.snd hd).symm.trans (Proc.draws_core_sr hc)
end

section
/-! Passes and drains are queued (O19). `astream`, `adrain` and `adiag` each end in `Proc.queue`: one operation at the end of
the array's queue, its tag taken and the drain's counter moved. `execAstream_queues`, `execAdrain_queues` and
`execAdiag_queues` say which operation that is, where the instruction is accepted and what it reads is granted. -/

namespace Sys2Proof.Machine
open Sys2Proof

/-! ## Issue -/

theorem isCore_coreKey (c : CoreId) : isCore (coreKey c) = true := by
  have h1 := c.site.isLt
  have h2 := c.cl.isLt
  have h3 := c.core.isLt
  exact decide_eq_true (show 90 * c.site.val + 9 * c.cl.val + c.core.val < 5040 by omega)

/-- Under `Issues`, a well-formed 64-bit instruction runs on the state after the fetch. -/
theorem issue64_eq {s s' : State} {k : Nat} {regs : List Reg} (h : Issues s s' k regs 8) {ok : Bool} (hok : ok = true)
    (op : Nat) (f : BitVec 57) (g : State → State) : s.issue64 k op f ok regs g = g s' := by
  unfold State.issue64
  rw [issue_eq h, if_pos hok]

theorem lFlags_lt_of_lOk {f : BitVec 57} {use : List Char} {n : Nat} (h : lOk f use n = true) : lFlags f < n := by
  simp only [lOk, Bool.and_eq_true, decide_eq_true_eq] at h
  exact h.2

theorem firstTrap_eq_none {l : List (Option Trp)} : firstTrap l = none ↔ ∀ o ∈ l, o = none := List.findSome?_eq_none_iff

theorem when'_eq_none {b : Bool} {t : Trp} : when' b t = none ↔ b = false := by
  cases b <;> simp [when']

/-- Array `a` of core `k` takes an instruction at once: nothing stalls it, none of the traps holds, and its ranges are granted. -/
structure Accepted (s : State) (k a : Nat) (tag : Option Nat) (traps : List (Option Trp)) (rs : List (Word × Nat)) : Prop where
  ready   : s.arrStall k a tag = false
  legal   : firstTrap traps = none
  granted : refusedIn k rs = none

/-! ## Reads of the own pond -/

theorem place_of_ownPond {k n : Nat} {a : Word} (h : ownPond k a n = true) : ∃ st cl off, place a = .pond st cl off := by
  unfold ownPond at h
  split at h
  · exact ⟨_, _, _, ‹_›⟩
  · cases h

theorem refusedIn_eq_none {k : Nat} {rs : List (Word × Nat)} :
    refusedIn k rs = none ↔ ∀ r ∈ rs, ownPond k r.1 r.2 = true := by
  simp [refusedIn]

theorem refusedIn_append {k : Nat} {rs qs : List (Word × Nat)} :
    refusedIn k (rs ++ qs) = none ↔ refusedIn k rs = none ∧ refusedIn k qs = none := by
  simp only [refusedIn_eq_none, List.forall_mem_append]

theorem refuseRanges_granted {k : Nat} {rs : List (Word × Nat)} (s : State) (h : refusedIn k rs = none) :
    s.refuseRanges k rs = (s, false) := by
  simp only [State.refuseRanges, h]

section
variable {s : State} {k : Nat} (hp : s.pondMark = [])
include hp

theorem eccRead_ownPond {a : Word} {n : Nat} (h : ownPond k a n = true) (q : Nat) : s.eccRead a n q = (s, none) := by
  obtain ⟨st, cl, off, he⟩ := place_of_ownPond h
  simp [State.eccRead, he, hp]

theorem readMeta_granted {rs : List (Word × Nat)} (h : refusedIn k rs = none) : s.readMeta k rs = (s, false) := by
  induction rs with
  | nil => rfl
  | cons r more ih =>
    obtain ⟨h1, h2⟩ := List.forall_mem_cons.mp (refusedIn_eq_none.mp h)
    simp [State.readMeta, eccRead_ownPond hp h1, ih (refusedIn_eq_none.mpr h2)]

end

/-- `s` with other clusters: all that a read header's report changes. -/
def State.withClusters (s : State) (cs : Tbl Cluster) : State := { s with clusters := cs }

@[simp] theorem State.withClusters_bytesAt (s : State) (cs : Tbl Cluster) (a n : Nat) :
    (s.withClusters cs).bytesAt a n = s.bytesAt a n := rfl

section
variable {s : State} {k : Nat} (hp : s.pondMark = [])
include hp

theorem readHdr_granted {x : Word} (h : ownPond k x 16 = true) (a : Nat) (sp : Bool) (cs : Tbl Cluster) :
    ∃ cs', (s.withClusters cs).readHdr k a sp x = (s.withClusters cs', some (tileHdr (s.bytesAt x.toNat 16))) := by
  simp only [State.readHdr, h, eccRead_ownPond (s := s.withClusters cs) hp h, State.withClusters_bytesAt, Bool.not_true,
    Bool.false_eq_true, if_false]
  split
  · exact ⟨_, rfl⟩
  · exact ⟨cs, rfl⟩

theorem readHdrs_granted {as : List Word} (h : ∀ x ∈ as, ownPond k x 16 = true) (a : Nat) (sp : Bool) (cs : Tbl Cluster) :
    ∃ cs', (s.withClusters cs).readHdrs k a sp as =
      (s.withClusters cs', as.map (fun x => some (tileHdr (s.bytesAt x.toNat 16)))) := by
  induction as generalizing cs with
  | nil => exact ⟨cs, rfl⟩
  | cons x r ih =>
    obtain ⟨h1, h2⟩ := List.forall_mem_cons.mp h
    obtain ⟨cs1, e1⟩ := readHdr_granted hp h1 a sp cs
    obtain ⟨cs2, e2⟩ := ih h2 cs1
    exact ⟨cs2, by simp only [State.readHdrs, e1, e2, List.map_cons]⟩

end

/-- The headers of an operand that are read: those of `hdrsOf`, or none of them. -/
def State.hdrsIf (s : State) (b : Bool) (d : Desc) (n : Nat) : List TileHdr := if b then s.hdrsOf d n else []

theorem State.hdrsIf_true (s : State) (d : Desc) (n : Nat) : s.hdrsIf true d n = s.hdrsOf d n := rfl

theorem State.map_fmt_hdrsIf (s : State) (b : Bool) (d : Desc) (n : Nat) :
    (s.hdrsIf b d n).map (·.fmt) = if b = true then (s.hdrsOf d n).map (·.fmt) else [] := by
  cases b <;> rfl

/-- The headers of an operand whose header ranges are granted are read as memory holds them. -/
theorem readHdrs_operand {s : State} {k n : Nat} {d : Desc} {b : Bool} (hp : s.pondMark = [])
    (h : b = true → refusedIn k (hdrRanges d n) = none) (a : Nat) (sp : Bool) (cs : Tbl Cluster) :
    ∃ cs', (s.withClusters cs).readHdrs k a sp (if b = true then (List.range (blocksOf n)).map (dHdr d) else []) =
      (s.withClusters cs', (s.hdrsIf b d n).map some) := by
  cases b with
  | false => exact ⟨cs, rfl⟩
  | true =>
    have ho : ∀ x ∈ (List.range (blocksOf n)).map (dHdr d), ownPond k x 16 = true := by
      simpa [refusedIn_eq_none, hdrRanges] using h rfl
    obtain ⟨cs', e⟩ := readHdrs_granted hp ho a sp cs
    exact ⟨cs', by simp only [if_true, e, State.hdrsIf, State.hdrsOf, List.map_map, Function.comp_def]⟩

/-! ## Headers -/

theorem hdrTrap_fit {follow : Bool} {fmt : Nat} {hs : List TileHdr}
    (h : ∀ x ∈ hs, if follow then x.fmt ≤ 1 else x.fmt = fmt) : hdrTrap follow fmt (hs.map some) = none := by
  refine List.findSome?_eq_none_iff.mpr fun o ho => ?_
  obtain ⟨x, hx, rfl⟩ := List.mem_map.mp ho
  have hf := h x hx
  cases follow <;> simp_all

theorem hdrTrap_hdrsIf {s : State} {b follow : Bool} {d : Desc} {n fmt : Nat}
    (h : b = true → ∀ x ∈ s.hdrsOf d n, if follow then x.fmt ≤ 1 else x.fmt = fmt) :
    hdrTrap follow fmt ((s.hdrsIf b d n).map some) = none := by
  cases b with
  | false => rfl
  | true => exact hdrTrap_fit (h rfl)

theorem hdrSrcs_map_some (fmt : Nat) (hs : List TileHdr) : hdrSrcs fmt (hs.map some) = hs.map (·.fmt) := by
  simp [hdrSrcs]

theorem any_isNone_map_some (hs : List TileHdr) : (hs.map some).any (·.isNone) = false := by
  simp

/-! ## The queue of an array -/

/-- `q` is `p` but for the arrays, the tag counts and the drains' counters. -/
def Proc.ArrayOnly (p q : Proc) : Prop :=
  ∃ a0 a1 tags c0 c1, q = { p with a0 := a0, a1 := a1, tags := tags, ctrA0 := c0, ctrA1 := c1 }

theorem Proc.ArrayOnly.trans {p q r : Proc} (h : p.ArrayOnly q) (g : q.ArrayOnly r) : p.ArrayOnly r := by
  obtain ⟨_, _, _, _, _, rfl⟩ := h
  obtain ⟨a0, a1, tags, c0, c1, rfl⟩ := g
  exact ⟨a0, a1, tags, c0, c1, rfl⟩

section
variable (p : Proc) (a n : Nat) (x : Arr) (o : ArrOp)

theorem Proc.setArr_cases : p.setArr a x = { p with a0 := x } ∨ p.setArr a x = { p with a1 := x } := by
  unfold Proc.setArr
  split
  · exact .inl rfl
  · exact .inr rfl

theorem Proc.setArr_only : p.ArrayOnly (p.setArr a x) := by
  rcases p.setArr_cases a x with h | h <;> exact ⟨_, _, _, _, _, h⟩

theorem Proc.drainDraws_only : p.ArrayOnly (p.drainDraws a n) := by
  unfold Proc.drainDraws
  split <;> exact ⟨_, _, _, _, _, rfl⟩

theorem Proc.pushOp_only : p.ArrayOnly (p.pushOp a o) := by
  unfold Proc.pushOp
  dsimp only
  split
  · exact (p.setArr_only a _).trans ⟨_, _, _, _, _, rfl⟩
  · exact p.setArr_only a _

@[simp] theorem Proc.arr_setArr : (p.setArr a x).arr a = x := by
  by_cases h : a = 0 <;> simp [Proc.setArr, Proc.arr, h]

@[simp] theorem Proc.setArr_arr : p.setArr a (p.arr a) = p := by
  by_cases h : a = 0 <;> simp [Proc.setArr, Proc.arr, h]

@[simp] theorem Proc.tagCount_setArr (g : Nat) : (p.setArr a x).tagCount g = p.tagCount g := by
  rcases p.setArr_cases a x with h | h <;> rw [h] <;> rfl

@[simp] theorem Proc.arr_drainDraws (b : Nat) : (p.drainDraws a n).arr b = p.arr b := by
  by_cases h : a = 0 <;> simp [Proc.drainDraws, Proc.arr, h]

@[simp] theorem Proc.tagCount_drainDraws (g : Nat) : (p.drainDraws a n).tagCount g = p.tagCount g := by
  unfold Proc.drainDraws
  split <;> rfl

@[simp] theorem Proc.arr_pushOp : (p.pushOp a o).arr a = { p.arr a with ops := (p.arr a).ops ++ [o] } := by
  unfold Proc.pushOp
  dsimp only
  split
  · exact p.arr_setArr a _
  · exact p.arr_setArr a _

theorem Proc.tagCount_pushOp {g : Nat} (h : o.tag = some g) : (p.pushOp a o).tagCount g = p.tagCount g + 1 := by
  simp only [Proc.pushOp, h]
  exact (Tbl.get_put_same ..).trans (by rw [Proc.tagCount_setArr])

/-- Setting an array and queueing leave the drains' counters. -/
theorem Proc.ctr_setArr_pushOp : ((p.setArr a x).pushOp a o).ctrA0 = p.ctrA0 ∧ ((p.setArr a x).pushOp a o).ctrA1 = p.ctrA1 := by
  by_cases h : a = 0 <;> cases ho : o.tag <;> simp [Proc.pushOp, Proc.setArr, Proc.tagUp, h, ho]

theorem Proc.drainDraws_ite (c : Prop) [Decidable c] :
    (if c then p.drainDraws a n else p) = p.drainDraws a (if c then n else 0) := by
  split
  · rfl
  · simp [Proc.drainDraws]

/-- The registers that an instruction retires with when it leaves array `a` as `x` with `o` at the end of its queue, takes
the tag of `o`, and moves the drain's counter by `n`. -/
def Proc.queue : Proc := ((p.setArr a x).pushOp a o).drainDraws a n

theorem Proc.queue_only : p.ArrayOnly (p.queue a n x o) :=
  ((p.setArr_only a x).trans (Proc.pushOp_only ..)).trans (Proc.drainDraws_only ..)

theorem Proc.arr_queue : (p.queue a n x o).arr a = { x with ops := x.ops ++ [o] } := by
  rw [Proc.queue, Proc.arr_drainDraws, Proc.arr_pushOp, Proc.arr_setArr]

theorem Proc.tagCount_queue {g : Nat} (h : o.tag = some g) : (p.queue a n x o).tagCount g = p.tagCount g + 1 := by
  rw [Proc.queue, Proc.tagCount_drainDraws, Proc.tagCount_pushOp _ _ _ h, Proc.tagCount_setArr]

theorem Proc.drew_queue : Drew p (p.queue a n x o) a n := by
  obtain ⟨h0, h1⟩ := p.ctr_setArr_pushOp a x o
  rw [Drew, Proc.queue, ← h0, ← h1]
  by_cases ha : a = 0 <;> simp [Proc.drainDraws, ha]

end

/-- An array instruction retires with registers that differ in arrays, tags and drain counters only. -/
theorem arrIssued_retire (s : State) (cs : Tbl Cluster) (k : Nat) {q : Proc} (hq : (s.proc k).ArrayOnly q) :
    ArrIssued s ((s.withClusters cs).retire k q 8 false 1) k := by
  obtain ⟨a0, a1, tags, c0, c1, rfl⟩ := hq
  have hr := retire_retired (s.withClusters cs) k
    { s.proc k with a0 := a0, a1 := a1, tags := tags, ctrA0 := c0, ctrA1 := c1 } 8 false 1
  exact
    { pc := by rw [hr.regs]; rfl
      regs := fun r => by rw [hr.regs]; exact ⟨rfl, rfl, rfl, rfl⟩
      flags := by rw [hr.regs]; exact ⟨rfl, rfl, rfl⟩
      others := hr.others
      mem := fun h => (hr.mem h).2 }

/-- From `s`, core `k` has issued an instruction that queues an operation, with the registers of `Proc.queue`. -/
structure Queued (s t : State) (k a n : Nat) (x : Arr) (o : ArrOp) : Prop where
  issued : ArrIssued s t k
  arr    : (t.proc k).arr a = { x with ops := x.ops ++ [o] }
  drew   : Drew (s.proc k) (t.proc k) a n
  tag    : ∀ g, o.tag = some g → (t.proc k).tagCount g = (s.proc k).tagCount g + 1

theorem retire_queued (s : State) (cs : Tbl Cluster) (k a n : Nat) (x : Arr) (o : ArrOp) :
    Queued s ((s.withClusters cs).retire k ((s.proc k).queue a n x o) 8 false 1) k a n x o := by
  have hr := (retire_retired (s.withClusters cs) k ((s.proc k).queue a n x o) 8 false 1).regs
  exact
    { issued := arrIssued_retire s cs k (Proc.queue_only ..)
      arr := by rw [hr]; exact Proc.arr_queue ..
      drew := by rw [hr]; exact Proc.drew_queue ..
      tag := fun g hg => by rw [hr]; exact Proc.tagCount_queue _ _ _ _ _ hg }

/-- The same where the array is otherwise left as it is. -/
theorem retire_queued_arr (s : State) (cs : Tbl Cluster) (k a n : Nat) (o : ArrOp) :
    Queued s ((s.withClusters cs).retire k (((s.proc k).pushOp a o).drainDraws a n) 8 false 1) k a n ((s.proc k).arr a) o := by
  simpa only [Proc.queue, Proc.setArr_arr] using retire_queued s cs k a n ((s.proc k).arr a) o

/-! ## `astream` -/

/-- Does `astream` read its operand's headers (R99, R103)? -/
def streamHdrs (p : Proc) (f : BitVec 57) : Bool :=
  dHdrv (p.getD (lD1 f)) && (dFollow (p.getD (lD1 f)) || resolveFmt p.nf (p.getD (lD1 f)) == 0 || !(lFlags f % 2 == 1))

/-- Does `astream` read the headers of its carry-in (R102)? -/
def streamChain (p : Proc) (f : BitVec 57) : Bool :=
  lFlags f / 2 % 2 == 1 && dHdrv (p.getD (lD2 f)) && !(resolveFmt p.nf (p.getD (lD1 f)) != 0 && lFlags f % 2 == 1)

/-- The window top of a pass with the headers `hs` of its operand and `hc` of its carry-in (R101, R102). -/
def streamTop (p : Proc) (f : BitVec 57) (hs hc : List TileHdr) : Option Int :=
  let fmt := resolveFmt p.nf (p.getD (lD1 f))
  let kk := (p.getS (lRb f)).toNat
  if fmt = 0 then none
  else if lFlags f % 2 == 1 then some (p.getS (lRc f)).toInt
  else if lFlags f / 2 % 2 == 1 then some ((hc.head?.bind (·.top)).getD (windowTop fmt kk none none))
  else some (windowTop fmt kk (p.arr (lAr f)).infoAct.maxexp (hdrMax (hs.map some)))

/-- The output format of a pass: a raw output has the operand's (R238). -/
def streamOut (p : Proc) (f : BitVec 57) : Nat :=
  if lFlags f / 4 == 1 then resolveFmt p.nf (p.getD (lD1 f)) else resolveFmt p.nf (p.getD (lD3 f))

/-- The operation that `astream` queues. -/
def streamOp (p : Proc) (f : BitVec 57) (m : Nat) (hs hc : List TileHdr) : ArrOp :=
  { newOp p .pass (lAr f) with
    d1 := p.getD (lD1 f), d2 := p.getD (lD2 f), d3 := p.getD (lD3 f), n := (p.getS (lRa f)).toNat,
    k := (p.getS (lRb f)).toNat, top := streamTop p f hs hc, cin := lFlags f / 2 % 2 == 1, raw := lFlags f / 4 == 1,
    src1 := hs.map (·.fmt), fmt := resolveFmt p.nf (p.getD (lD1 f)), out := streamOut p f,
    f16 := dFollow (p.getD (lD3 f)) && streamOut p f == 0, mode := m, tag := some (lTag f) }

theorem streamOp_opOf (p : Proc) (f : BitVec 57) (m : Nat) (hs hc : List TileHdr) :
    OpOf p (lAr f) (streamOp p f m hs hc) .pass (resolveFmt p.nf (p.getD (lD1 f))) (streamOut p f) (p.getS (lRa f)).toNat m :=
  ⟨rfl, ⟨rfl, rfl⟩, ⟨rfl, rfl, rfl⟩, ⟨rfl, rfl, rfl, rfl⟩, ⟨rfl, rfl⟩⟩

theorem ite_readHdrs (b : Bool) (s : State) (k a : Nat) (sp : Bool) (as : List Word) :
    (if b = true then s.readHdrs k a sp as else (s, [])) = s.readHdrs k a sp (if b = true then as else []) := by
  cases b <;> rfl

/-- What `astream` reads and writes, with the formats and counts of its registers. -/
def streamRanges (p : Proc) (f : BitVec 57) : List (Word × Nat) :=
  astreamRanges (p.getD (lD1 f)) (p.getD (lD2 f)) (p.getD (lD3 f)) (lFlags f / 2 % 2 == 1) (lFlags f / 4 == 1)
    (resolveFmt p.nf (p.getD (lD1 f))) (streamOut p f) (if (p.arr (lAr f)).infoAct.t24 then 256 else 128)
    (p.getS (lRa f)).toNat (streamHdrs p f)

/-! The window top of a pass by its case (R101, R102). -/

section
variable {p : Proc} {f : BitVec 57} {hs hc : List TileHdr}

theorem streamTop_exact (h : resolveFmt p.nf (p.getD (lD1 f)) = 0) : streamTop p f hs hc = none := if_pos h

variable (h : resolveFmt p.nf (p.getD (lD1 f)) ≠ 0)
include h

theorem streamTop_given (ht : lFlags f % 2 = 1) : streamTop p f hs hc = some (p.getS (lRc f)).toInt := by
  simp [streamTop, h, ht]

theorem streamTop_headers (ht : lFlags f % 2 = 0) (hc0 : lFlags f / 2 % 2 = 0) :
    streamTop p f hs hc = some (windowTop (resolveFmt p.nf (p.getD (lD1 f))) (p.getS (lRb f)).toNat
      (p.arr (lAr f)).infoAct.maxexp (hdrMax (hs.map some))) := by
  simp [streamTop, h, ht, hc0]

theorem streamTop_carry (ht : lFlags f % 2 = 0) (hc1 : lFlags f / 2 % 2 = 1) {w : Int} (hw : hc.head?.bind (·.top) = some w) :
    streamTop p f hs hc = some w := by
  simp [streamTop, h, ht, hc1, hw]

end

theorem mod_two_beq_zero (n : Nat) : (n % 2 == 0) = !(n % 2 == 1) := by
  rcases Nat.mod_two_eq_zero_or_one n with h | h <;> rw [h] <;> rfl

/-- A pass that takes its window top from headers has them to read (R100). -/
theorem astreamTrap_headers {p : Proc} {f : BitVec 57} {a : Nat} (h : astreamTrap p f a = none)
    (hfmt : resolveFmt p.nf (p.getD (lD1 f)) ≠ 0) (hte : lFlags f % 2 = 0) :
    streamHdrs p f = true ∧ (lFlags f / 2 % 2 = 1 → streamChain p f = true) := by
  simp only [astreamTrap, firstTrap_eq_none, List.forall_mem_cons, when'_eq_none] at h
  obtain ⟨_, _, _, _, _, _, _, _, _, _, _, _, _, _, _, hc, hx, _⟩ := h
  simp_all [streamHdrs, streamChain]

/-- What is granted for a pass: its operand's bitmaps, and the headers that it reads. -/
theorem astreamRanges_granted {k fmt out e n : Nat} {x c o : Desc} {cin raw hdrs : Bool}
    (h : refusedIn k (astreamRanges x c o cin raw fmt out e n hdrs) = none) :
    refusedIn k (bitmapRanges x e n) = none ∧ (hdrs = true → refusedIn k (hdrRanges x n) = none) ∧
      (cin = true → dHdrv c = true → refusedIn k (hdrRanges c n) = none) := by
  simp only [astreamRanges, refusedIn_append] at h
  obtain ⟨⟨⟨⟨⟨⟨_, hb⟩, hx⟩, hc⟩, _⟩, _⟩, _⟩ := h
  refine ⟨hb, fun hh => by rwa [if_pos hh] at hx, fun hcin hv => ?_⟩
  rw [if_pos hcin, refusedIn_append] at hc
  simpa only [hdrRangesIf, if_pos hv] using hc.2

theorem execAstream_queues {c : CoreId} {f : BitVec 57} {s s' : State} {p : Proc} {m : Nat} (hp : p = s'.proc (coreKey c))
    (hi : Issues s s' (coreKey c) [.d (lD1 f), .d (lD2 f), .d (lD3 f), .s (lRa f), .s (lRb f), .s (lRc f)] 8)
    (hok : lOk f ['r', '1', '2', '3', 't', 'm', 'a', 'b', 'c'] 8 = true)
    (hm : rmMode (s.proc (coreKey c)) (lRm f) = some m) (hm' : rmMode p (lRm f) = some m)
    (hacc : Accepted s' (coreKey c) (lAr f) (some (lTag f))
      [s'.arrOut (coreKey c) (lAr f), arrBusy p (lAr f), astreamTrap p f (lAr f)] (streamRanges p f))
    (hclean : s'.pondMark = [])
    (hbits : s'.bitmapFault (p.getD (lD1 f)) (if (p.arr (lAr f)).infoAct.t24 then 256 else 128)
      (min (if (p.arr (lAr f)).infoAct.t24 then 256 else 128) (p.getS (lRb f)).toNat) (p.getS (lRa f)).toNat = none)
    (hfit : streamHdrs p f = true → s'.HdrsFit (p.getD (lD1 f)) (p.getS (lRa f)).toNat (resolveFmt p.nf (p.getD (lD1 f))))
    (hchain : streamChain p f = true → ∀ h ∈ s'.hdrsOf (p.getD (lD2 f)) (p.getS (lRa f)).toNat,
      h.fmt = resolveFmt p.nf (p.getD (lD1 f))) :
    ∃ t, exec (.astream (.core c) f) s = .next t ∧
      Queued s' t (coreKey c) (lAr f) (if m = mSR ∧ lFlags f / 4 = 0 then 128 * (p.getS (lRa f)).toNat else 0)
        (p.arr (lAr f))
        (streamOp p f m (s'.hdrsIf (streamHdrs p f) (p.getD (lD1 f)) (p.getS (lRa f)).toNat)
          (s'.hdrsIf (streamChain p f) (p.getD (lD2 f)) (p.getS (lRa f)).toNat)) := by
  have hwf : (isCore (coreKey c) && lOk f ['r', '1', '2', '3', 't', 'm', 'a', 'b', 'c'] 8 &&
      (rmMode (s.proc (coreKey c)) (lRm f)).isSome) = true := by
    rw [isCore_coreKey, hok, hm]; rfl
  subst hp
  refine ⟨_, rfl, ?_⟩
  rw [unitKey, issue64_eq hi hwf]
  extract_lets p x d o te cin raw n kk info fmt out e hdrs mode
  obtain ⟨hmeta, hxr, hdr⟩ := astreamRanges_granted hacc.granted
  split
  next h => exact absurd (hacc.ready.symm.trans h) Bool.false_ne_true
  split
  next t ht => cases hacc.legal.symm.trans ht
  split
  next s2 refd e2 =>
  obtain ⟨rfl, rfl⟩ := Prod.mk.inj ((refuseRanges_granted s' hacc.granted).symm.trans e2)
  split
  next s3 unc e3 =>
  obtain ⟨rfl, rfl⟩ := Prod.mk.inj ((readMeta_granted hclean hmeta).symm.trans e3)
  extract_lets bad chain
  split
  next v i hv => cases hbits.symm.trans hv
  split
  next s4 hs e4 =>
  obtain ⟨cs, hr⟩ := readHdrs_operand hclean hxr (lAr f) p.span.isSome s'.clusters
  rw [show (hdrs && !bad) = hdrs from Bool.and_true _] at e4
  obtain ⟨rfl, rfl⟩ := Prod.mk.inj (hr.symm.trans e4)
  split
  next s5 hc e5 =>
  have hch : chain = streamChain p f := Bool.and_true _
  have hcr : chain = true → refusedIn (coreKey c) (hdrRanges d n) = none := fun h => by
    simp only [hch, streamChain, Bool.and_eq_true] at h
    exact hdr h.1.1 h.1.2
  obtain ⟨cs', hr'⟩ := readHdrs_operand hclean hcr (lAr f) p.span.isSome cs
  rw [ite_readHdrs] at e5
  obtain ⟨rfl, rfl⟩ := Prod.mk.inj (hr'.symm.trans e5)
  have hht : firstTrap [hdrTrap (dFollow x) fmt ((s'.hdrsIf (streamHdrs p f) x n).map some),
      hdrTrap false fmt ((s'.hdrsIf chain d n).map some)] = none := by
    have h1 := hdrTrap_hdrsIf (s := s') (follow := dFollow x) hfit
    have h2 := hdrTrap_hdrsIf (s := s') (follow := false) (by simpa using hchain)
    simp [firstTrap_eq_none, h1, h2, x, p, fmt, n, hch, d]
  split
  next t ht => cases hht.symm.trans ht
  extract_lets top p1 src op p2
  have hmode : mode = m := by simp only [mode, p, hm', Option.getD_some]
  have hop : op = streamOp p f m (s'.hdrsIf (streamHdrs p f) x n) (s'.hdrsIf (streamChain p f) d n) := by
    have htop : top = streamTop p f (s'.hdrsIf (streamHdrs p f) x n) (s'.hdrsIf (streamChain p f) d n) := by
      rw [← hch]
      simp only [top]
      cases s'.hdrsIf chain d n <;> rfl
    simp only [op, htop, hmode, hdrSrcs_map_some, any_isNone_map_some]
    rfl
  have hraw : (!raw) = true ↔ lFlags f / 4 = 0 := by
    have hl := lFlags_lt_of_lOk hok
    simp only [raw, Bool.not_eq_true', beq_eq_false_iff_ne]
    omega
  simp only [Proc.drainDraws_ite, hmode, hraw]
  rw [← hop]
  exact retire_queued_arr s' cs' ..

/-! ## `adrain` -/

/-- The operation that `adrain` queues: the sums of the instructions before it, if there are any. -/
def drainOp (p : Proc) (f : BitVec 57) (z : Desc) (out m : Nat) : ArrOp :=
  let r := p.arr (lAr f)
  { newOp p .drain (lAr f) with
    d3 := z, n := 128, k := if r.accLive then 1 else 0, top := if r.accLive then r.accTop else none,
    fmt := if r.accLive then r.accFmt else 0, out := out, f16 := dFollow z && out == 0, mode := m,
    tag := if out = 8 then none else some (lTag f), gword := p.getS (lRa f), block := p.getS (lRb f) }

theorem drainOp_opOf (p : Proc) (f : BitVec 57) (z : Desc) (out m : Nat) :
    OpOf p (lAr f) (drainOp p f z out m) .drain (if (p.arr (lAr f)).accLive then (p.arr (lAr f)).accFmt else 0) out 128 m :=
  ⟨rfl, ⟨rfl, rfl⟩, ⟨rfl, rfl, rfl⟩, ⟨rfl, rfl, rfl, rfl⟩, ⟨rfl, rfl⟩⟩

theorem execAdrain_queues {c : CoreId} {f : BitVec 57} {s s' : State} {z : Desc} {out m : Nat}
    (hi : Issues s s' (coreKey c) [.d (lD3 f), .s (lRa f), .s (lRb f)] 8)
    (hz : (s.proc (coreKey c)).getD (lD3 f) = z) (hout : resolveFmt (s.proc (coreKey c)).nf z = out)
    (hok : lOk f ['r', '3', 't', 'm', 'a', 'b'] 1 = true) (h8 : out = 8 → lTag f = 0 ∧ m = mSR)
    (hm : out ≠ 8 → rmMode (s.proc (coreKey c)) (lRm f) = some m ∧ rmMode (s'.proc (coreKey c)) (lRm f) = some m)
    (hacc : Accepted s' (coreKey c) (lAr f) (if out = 8 then none else some (lTag f))
      [s'.arrOut (coreKey c) (lAr f), adrainTrap (s'.proc (coreKey c)) f]
      ((if out = 8 then [] else vecRanges z 16 (128 * esize out) 128 ++ bitmapRanges z 128 128) ++ hdrRangesIf z 128)) :
    ∃ t, exec (.adrain (.core c) f) s = .next t ∧
      Queued s' t (coreKey c) (lAr f) (if m = mSR then 16384 else 0)
        { (s'.proc (coreKey c)).arr (lAr f) with accLive := false } (drainOp (s'.proc (coreKey c)) f z out m) := by
  have hwf : (isCore (coreKey c) && lOk f ['r', '3', 't', 'm', 'a', 'b'] 1 &&
      (if out = 8 then lTag f == 0 else (rmMode (s.proc (coreKey c)) (lRm f)).isSome)) = true := by
    rw [isCore_coreKey, hok]
    split
    next h => simp [(h8 h).1]
    next h => simp [(hm h).1]
  refine ⟨_, rfl, ?_⟩
  subst hz hout
  rw [unitKey, issue64_eq hi hwf]
  extract_lets p tag r r0
  split
  next h => exact absurd (hacc.ready.symm.trans h) Bool.false_ne_true
  split
  next t ht => cases hacc.legal.symm.trans ht
  split
  next s2 bad e2 =>
  obtain ⟨rfl, rfl⟩ := Prod.mk.inj ((refuseRanges_granted s' hacc.granted).symm.trans e2)
  extract_lets mode src op p2
  have hmode : mode = m := by
    unfold mode
    split
    next h => exact (h8 h).2.symm
    next h => rw [(hm h).2, Option.getD_some]
  rw [Proc.drainDraws_ite, ← hmode]
  exact retire_queued s' s'.clusters ..

/-! ## `adiag` -/

/-- The operation that `adiag` queues, with the headers of its operands. -/
def diagOp (p : Proc) (f : BitVec 57) (m : Nat) (hx hy hw : List TileHdr) : ArrOp :=
  { newOp p .diag (lAr f) with
    d1 := p.getD (lD1 f), d2 := p.getD (lD2 f), d3 := p.getD (lD3 f), d4 := p.getD (lD4 f), n := (p.getS (lRa f)).toNat,
    add := lFlags f == 1, src1 := hx.map (·.fmt), src2 := hy.map (·.fmt), src4 := hw.map (·.fmt),
    fmt := resolveFmt p.nf (p.getD (lD1 f)), out := resolveFmt p.nf (p.getD (lD3 f)),
    f16 := dFollow (p.getD (lD3 f)) && resolveFmt p.nf (p.getD (lD3 f)) == 0, mode := m, tag := some (lTag f) }

theorem diagOp_opOf (p : Proc) (f : BitVec 57) (m : Nat) (hx hy hw : List TileHdr) :
    OpOf p (lAr f) (diagOp p f m hx hy hw) .diag (resolveFmt p.nf (p.getD (lD1 f))) (resolveFmt p.nf (p.getD (lD3 f)))
      (p.getS (lRa f)).toNat m :=
  ⟨rfl, ⟨rfl, rfl⟩, ⟨rfl, rfl, rfl⟩, ⟨rfl, rfl, rfl, rfl⟩, ⟨rfl, rfl⟩⟩

/-- What `adiag` reads of one operand. -/
def diagRange (fmt n : Nat) (d : Desc) : List (Word × Nat) :=
  vecRanges d (esize fmt) (128 * esize fmt) n ++ bitmapRanges d 128 n ++ hdrRangesIf d n

/-- Everything that `adiag` reads and writes. -/
def diagRanges (x y z w : Desc) (add : Bool) (fmt out n : Nat) : List (Word × Nat) :=
  diagRange fmt n x ++ diagRange fmt n y ++ (if add = true then diagRange fmt n w else []) ++
    vecRanges z 16 (128 * esize out) n ++ bitmapRanges z 128 n ++ hdrRangesIf z n

/-- What is granted for one operand of `adiag`: its bitmaps and its headers. -/
theorem diagRange_granted {k fmt n : Nat} {d : Desc} (h : refusedIn k (diagRange fmt n d) = none) :
    refusedIn k (bitmapRanges d 128 n) = none ∧ (dHdrv d = true → refusedIn k (hdrRanges d n) = none) := by
  simp only [diagRange, refusedIn_append] at h
  obtain ⟨⟨_, hb⟩, hh⟩ := h
  exact ⟨hb, fun hv => by rwa [hdrRangesIf, if_pos hv] at hh⟩

theorem diagRanges_granted {k fmt out n : Nat} {x y z w : Desc} {add : Bool}
    (h : refusedIn k (diagRanges x y z w add fmt out n) = none) :
    refusedIn k (diagRange fmt n x) = none ∧ refusedIn k (diagRange fmt n y) = none ∧
      (add = true → refusedIn k (diagRange fmt n w) = none) := by
  simp only [diagRanges, refusedIn_append] at h
  obtain ⟨⟨⟨⟨⟨hx, hy⟩, hw⟩, _⟩, _⟩, _⟩ := h
  exact ⟨hx, hy, fun ha => by rwa [if_pos ha] at hw⟩

theorem ite_ite_nil {α : Type} (b c : Bool) (l : List α) :
    (if b = true then (if c = true then l else []) else []) = if (b && c) = true then l else [] := by
  cases b <;> rfl

theorem execAdiag_queues {c : CoreId} {f : BitVec 57} {s s' : State} {p : Proc} {x y w : Desc} {n fmt m : Nat}
    (hp : p = s'.proc (coreKey c)) (hx : x = p.getD (lD1 f)) (hy : y = p.getD (lD2 f)) (hw : w = p.getD (lD4 f))
    (hn : n = (p.getS (lRa f)).toNat) (hfmt : fmt = resolveFmt p.nf x)
    (hi : Issues s s' (coreKey c) [.d (lD1 f), .d (lD2 f), .d (lD3 f), .d (lD4 f), .s (lRa f)] 8)
    (hok : lOk f ['r', '1', '2', '3', '4', 't', 'm', 'a'] 2 = true)
    (hm : rmMode (s.proc (coreKey c)) (lRm f) = some m) (hm' : rmMode p (lRm f) = some m)
    (hacc : Accepted s' (coreKey c) (lAr f) (some (lTag f)) [s'.arrOut (coreKey c) (lAr f), arrBusy p (lAr f), adiagTrap p f]
      (diagRanges x y (p.getD (lD3 f)) w (lFlags f == 1) fmt (resolveFmt p.nf (p.getD (lD3 f))) n))
    (hclean : s'.pondMark = [])
    (hxf : dHdrv x = true → s'.HdrsFit x n fmt) (hyf : dHdrv y = true → s'.HdrsFit y n fmt)
    (hwf : (lFlags f == 1 && dHdrv w) = true → s'.HdrsFit w n fmt) :
    ∃ t, exec (.adiag (.core c) f) s = .next t ∧
      Queued s' t (coreKey c) (lAr f) (if m = mSR then 128 * n else 0) (p.arr (lAr f))
        (diagOp p f m (s'.hdrsIf (dHdrv x) x n) (s'.hdrsIf (dHdrv y) y n) (s'.hdrsIf (lFlags f == 1 && dHdrv w) w n)) := by
  have hok' : (isCore (coreKey c) && lOk f ['r', '1', '2', '3', '4', 't', 'm', 'a'] 2 &&
      (rmMode (s.proc (coreKey c)) (lRm f)).isSome) = true := by
    rw [isCore_coreKey, hok, hm]; rfl
  subst hp hx hy hw hn hfmt
  refine ⟨_, rfl, ?_⟩
  rw [unitKey, issue64_eq hi hok']
  extract_lets p x y z w n fmt out rng mode
  obtain ⟨hgx, hgy, hgw⟩ := diagRanges_granted hacc.granted
  obtain ⟨hbx, hhx⟩ := diagRange_granted hgx
  obtain ⟨hby, hhy⟩ := diagRange_granted hgy
  have hhw : (lFlags f == 1 && dHdrv w) = true → refusedIn (coreKey c) (hdrRanges w n) = none := fun h =>
    (diagRange_granted (hgw (Bool.and_eq_true_iff.mp h).1)).2 (Bool.and_eq_true_iff.mp h).2
  have hbits : refusedIn (coreKey c)
      (bitmapRanges x 128 n ++ bitmapRanges y 128 n ++ (if (lFlags f == 1) = true then bitmapRanges w 128 n else [])) = none := by
    refine refusedIn_append.mpr ⟨refusedIn_append.mpr ⟨hbx, hby⟩, ?_⟩
    split
    next h => exact (diagRange_granted (hgw h)).1
    next => rfl
  split
  next h => exact absurd (hacc.ready.symm.trans h) Bool.false_ne_true
  split
  next t ht => cases hacc.legal.symm.trans ht
  split
  next s2 refd e2 =>
  obtain ⟨rfl, rfl⟩ := Prod.mk.inj ((refuseRanges_granted s' hacc.granted).symm.trans e2)
  split
  next s3 unc e3 =>
  obtain ⟨rfl, rfl⟩ := Prod.mk.inj ((readMeta_granted hclean hbits).symm.trans e3)
  extract_lets bad hdrs
  have has (d : Desc) : hdrs d = if dHdrv d = true then (List.range (blocksOf n)).map (dHdr d) else [] := by
    simp [hdrs, bad]
  rw [has, has, has, ite_ite_nil]
  split
  next s4 hs1 e4 =>
  obtain ⟨cs1, hr1⟩ := readHdrs_operand hclean hhx (lAr f) p.span.isSome s'.clusters
  obtain ⟨rfl, rfl⟩ := Prod.mk.inj (hr1.symm.trans e4)
  split
  next s5 hs2 e5 =>
  obtain ⟨cs2, hr2⟩ := readHdrs_operand hclean hhy (lAr f) p.span.isSome cs1
  obtain ⟨rfl, rfl⟩ := Prod.mk.inj (hr2.symm.trans e5)
  split
  next s6 hs4 e6 =>
  obtain ⟨cs4, hr4⟩ := readHdrs_operand hclean hhw (lAr f) p.span.isSome cs2
  obtain ⟨rfl, rfl⟩ := Prod.mk.inj (hr4.symm.trans e6)
  split
  next t ht =>
    have h1 := hdrTrap_hdrsIf (s := s') (follow := dFollow x) hxf
    have h2 := hdrTrap_hdrsIf (s := s') (follow := dFollow y) hyf
    have h4 := hdrTrap_hdrsIf (s := s') (follow := dFollow w) hwf
    cases (firstTrap_eq_none.mpr (by simp only [List.forall_mem_cons]; exact ⟨h1, h2, h4, by simp⟩)).symm.trans ht
  extract_lets p1 src op p2
  have hmode : mode = m := by simp only [mode, p, hm', Option.getD_some]
  have hop : op = diagOp p f m (s'.hdrsIf (dHdrv x) x n) (s'.hdrsIf (dHdrv y) y n)
      (s'.hdrsIf (lFlags f == 1 && dHdrv w) w n) := by
    simp only [op, hmode, hdrSrcs_map_some, any_isNone_map_some]
    rfl
  rw [Proc.drainDraws_ite, hmode, ← hop]
  exact retire_queued_arr s' cs4 ..

end Sys2Proof.Machine

open Sys2Proof Sys2Proof.Machine

/-- Settles O19: each instruction retires with its operation queued, and the fields of the operation are read off. -/
theorem passesAndDrainsQueue : Obligations.PassesAndDrainsQueue := by
  rintro c f s s' k a p rfl rfl rfl
  refine ⟨?_, ?_, ?_⟩
  · rintro x y z te cin raw n kk fmt out e m hdrs chain hi hok hm hm' rfl rfl rfl rfl rfl rfl rfl rfl rfl hout rfl hstall htrap
      hclean hhdrs hchain hgrant hbits hfit hcfit
    obtain rfl : hdrs = streamHdrs (s'.proc (coreKey c)) f := by rw [hhdrs, mod_two_beq_zero]; rfl
    obtain rfl : chain = streamChain (s'.proc (coreKey c)) f := by
      rw [hchain, mod_two_beq_zero, streamChain, Bool.not_and, bne, Bool.not_not]
    obtain rfl : out = streamOut (s'.proc (coreKey c)) f := by simp only [hout, streamOut, beq_iff_eq]
    obtain ⟨t, hx, hq⟩ := execAstream_queues rfl hi hok hm hm' ⟨hstall, htrap, hgrant⟩ hclean hbits hfit hcfit
    have hno : astreamTrap (s'.proc (coreKey c)) f (lAr f) = none := firstTrap_eq_none.mp htrap _ (by simp)
    refine ⟨t, _, hx, hq.issued, by rw [hq.arr], streamOp_opOf ..,
      rfl, rfl, rfl, rfl, rfl, rfl, s'.map_fmt_hdrsIf .., rfl, rfl, streamTop_exact, streamTop_given, fun h ht hc => ?_,
      fun h ht hc w hw => ?_, hq.drew, hq.tag _ rfl⟩
    · refine (streamTop_headers h ht hc).trans ?_
      rw [(astreamTrap_headers hno h ht).1, State.hdrsIf_true]
    · refine streamTop_carry h ht hc ?_
      rwa [(astreamTrap_headers hno h ht).2 hc, State.hdrsIf_true]
  · rintro z out m hi hz hz' hout hout' hok h8 hm hstall htrap hgrant
    obtain ⟨t, hx, hq⟩ := execAdrain_queues hi hz hout hok h8 hm ⟨hstall, htrap, hgrant⟩
    refine ⟨t, _, hx, hq.issued, by rw [hq.arr], drainOp_opOf ..,
      rfl, rfl, rfl, rfl, rfl, rfl, by rw [hq.arr], by rw [hq.arr], fun h => ?_, hq.drew, fun h => hq.tag _ (if_neg h)⟩
    rw [hq.arr]
    simp [Arr.live, drainOp, newOp, h]
  · rintro x y z w n fmt out m rng hi hok hm hm' rfl rfl rfl rfl rfl rfl rfl hstall htrap hclean hrng hgrant hxf hyf hwf
    obtain rfl : rng = diagRange _ _ := funext hrng
    obtain ⟨t, hx, hq⟩ := execAdiag_queues rfl rfl rfl rfl rfl rfl hi hok hm hm'
      ⟨hstall, htrap, by simpa only [diagRanges, beq_iff_eq] using hgrant⟩ hclean hxf hyf (by simpa using hwf)
    exact ⟨t, _, hx, hq.issued, by rw [hq.arr], diagOp_opOf ..,
      rfl, rfl, rfl, rfl, rfl, rfl, hq.drew, hq.tag _ rfl⟩
end

section
/-! Loads and swaps are queued (O18). `aload` leaves a request with its array and takes a tag, `aswap` leaves a token in the
array's queue: `execAload_queues` and `execAswap_queues` say which, where the instruction is accepted and what it reads is
granted. -/

namespace Sys2Proof.Machine
open Sys2Proof

/-! ## `aload` -/

theorem Proc.tagUp_only (p : Proc) (g : Nat) : p.ArrayOnly (p.tagUp g) := ⟨_, _, _, _, _, rfl⟩

@[simp] theorem Proc.tagCount_tagUp (p : Proc) (g : Nat) : (p.tagUp g).tagCount g = p.tagCount g + 1 := Tbl.get_put_same ..

/-- The load request that `aload` takes to its array, with the headers of its tiles. -/
def loadReq (p : Proc) (f : BitVec 57) (hs : List TileHdr) : LoadReq :=
  ⟨p.getD (lD1 f), lFlags f == 1, hs.map (·.fmt), resolveFmt p.nf (p.getD (lD1 f)), lTag f, p.span.isSome,
    ((p.arr (lAr f)).ops.filter (·.kind == .swap)).length, false⟩

/-- The array of an `aload` with its request behind the others, and with what later instructions know of the idle latch. -/
def loadArr (p : Proc) (f : BitVec 57) (hs : List TileHdr) : Arr :=
  { p.arr (lAr f) with
    loads := (p.arr (lAr f)).loads ++ [loadReq p f hs],
    infoIdle := ⟨resolveFmt p.nf (p.getD (lD1 f)), dMdv (p.getD (lD1 f)), dHdrv (p.getD (lD1 f)), hdrMax (hs.map some)⟩ }

/-- The vectors whose headers an `aload` reads: a block of 128 for each tile (R236). -/
def loadVectors (d : Desc) : Nat := if dMdv d then 256 else 128

theorem blocksOf_loadVectors (d : Desc) : blocksOf (loadVectors d) = if dMdv d = true then 2 else 1 := by
  unfold loadVectors
  split <;> rfl

theorem mul_tiles (d : Desc) : 128 * (if dMdv d = true then 2 else 1) = loadVectors d := by
  unfold loadVectors
  split <;> rfl

/-- What is granted for a T24 pair that is loaded: its metadata. -/
theorem aloadRanges_granted {k : Nat} {d : Desc} (h : refusedIn k (aloadRanges d) = none) (hm : dMdv d = true) :
    refusedIn k [(dMd d, 2176)] = none := by
  rw [aloadRanges, if_pos hm] at h
  rw [refusedIn_eq_none] at h ⊢
  exact fun r hr => h r (List.mem_cons_of_mem _ (List.mem_cons_of_mem _ hr))

/-- An `aload` has been issued: the request `r` waits in array `a` behind the others, and its tag is taken. -/
structure LoadQueued (s t : State) (k a : Nat) (x : Arr) (r : LoadReq) : Prop where
  issued : ArrIssued s t k
  arr    : (t.proc k).arr a = x
  tag    : (t.proc k).tagCount r.tag = (s.proc k).tagCount r.tag + 1

theorem retire_load (s : State) (cs : Tbl Cluster) (k a : Nat) (x : Arr) {r : LoadReq} {g : Nat} (hg : r.tag = g) :
    LoadQueued s ((s.withClusters cs).retire k (((s.proc k).setArr a x).tagUp g) 8 false 1) k a x r := by
  subst hg
  have hr := (retire_retired (s.withClusters cs) k (((s.proc k).setArr a x).tagUp r.tag) 8 false 1).regs
  exact
    { issued := arrIssued_retire s cs k ((Proc.setArr_only ..).trans (Proc.tagUp_only ..))
      arr := by rw [hr]; exact Proc.arr_setArr ..
      tag := by
        rw [hr]
        exact (Proc.tagCount_tagUp ..).trans (by rw [Proc.tagCount_setArr]) }

theorem execAload_queues {c : CoreId} {f : BitVec 57} {s s' : State} {p : Proc} {d : Desc} (hp : p = s'.proc (coreKey c))
    (hd : d = p.getD (lD1 f)) (hi : Issues s s' (coreKey c) [.d (lD1 f)] 8) (hok : lOk f ['r', '1', 't'] 2 = true)
    (hacc : Accepted s' (coreKey c) (lAr f) (some (lTag f))
      [s'.arrOut (coreKey c) (lAr f), arrBusy p (lAr f), aloadTrap p (lD1 f) d (lFlags f == 1)]
      (aloadRanges d ++ if dHdrv d then hdrRanges d (loadVectors d) else []))
    (hclean : s'.pondMark = [])
    (hpair : dMdv d = true → s'.t24Bad (dMd d) = false ∧ s'.t24Bad (dMd d + 1088) = false ∧
      refusedIn (coreKey c) ((s'.escRanges d).filter (fun r => r.2 != 0)) = none)
    (hfit : dHdrv d = true → s'.HdrsFit d (loadVectors d) (resolveFmt p.nf d))
    (hdims : dHdrv d = true → dMdv d = true → ∀ h ∈ s'.hdrsOf d (loadVectors d), h.rows = 128 ∧ h.cols = 128) :
    ∃ t, exec (.aload (.core c) f) s = .next t ∧
      LoadQueued s' t (coreKey c) (lAr f) (loadArr p f (s'.hdrsIf (dHdrv d) d (loadVectors d)))
        (loadReq p f (s'.hdrsIf (dHdrv d) d (loadVectors d))) := by
  have hwf : (isCore (coreKey c) && lOk f ['r', '1', 't'] 2) = true := by rw [isCore_coreKey, hok]; rfl
  obtain ⟨hr, hh⟩ := refusedIn_append.mp hacc.granted
  have hhr (h : dHdrv d = true) : refusedIn (coreKey c) (hdrRanges d (loadVectors d)) = none := by rwa [if_pos h] at hh
  obtain ⟨cs, hread⟩ := readHdrs_operand hclean hhr (lAr f) p.span.isSome s'.clusters
  subst hp
  refine ⟨_, rfl, ?_⟩
  rw [unitKey, issue64_eq hi hwf]
  extract_lets p d' fmt tiles
  obtain rfl : d = d' := hd
  split
  next h => exact absurd (hacc.ready.symm.trans h) Bool.false_ne_true
  split
  next t ht => cases hacc.legal.symm.trans ht
  split
  next s2 bad e2 =>
  rw [mul_tiles, refuseRanges_granted s' hacc.granted] at e2
  obtain ⟨rfl, rfl⟩ := Prod.mk.inj e2
  split
  next s3 unc e3 =>
  have hmeta : (if (false || !dMdv d') = true then (s', false) else s'.readMeta (coreKey c) [(dMd d', 2176)]) = (s', false) := by
    split
    next => rfl
    next h => exact readMeta_granted hclean (aloadRanges_granted hr (by simpa using h))
  obtain ⟨rfl, rfl⟩ := Prod.mk.inj (hmeta.symm.trans e3)
  extract_lets bad1
  split
  next h =>
    simp only [Bool.and_eq_true, Bool.or_eq_true] at h
    obtain ⟨⟨_, hm⟩, hb⟩ := h
    obtain ⟨h0, h1, _⟩ := hpair hm
    rcases hb with hb | hb
    · cases h0.symm.trans hb
    · cases h1.symm.trans hb
  split
  next s4 bad2 e4 =>
  have hesc : (if (bad1 || !dMdv d') = true then (s', bad1)
      else s'.refuseRanges (coreKey c) ((s'.escRanges d').filter (fun r => r.2 != 0))) = (s', false) := by
    split
    next => rfl
    next h =>
      obtain ⟨_, _, hg⟩ := hpair (by simpa [bad1] using h)
      exact refuseRanges_granted s' hg
  obtain ⟨rfl, rfl⟩ := Prod.mk.inj (hesc.symm.trans e4)
  extract_lets addrs
  split
  next s5 hs e5 =>
  have haddrs : addrs = if dHdrv d' = true then (List.range (blocksOf (loadVectors d'))).map (dHdr d') else [] := by
    simp [addrs, tiles, blocksOf_loadVectors]
  rw [haddrs] at e5
  obtain ⟨rfl, rfl⟩ := Prod.mk.inj (hread.symm.trans e5)
  split
  next t ht => cases (hdrTrap_hdrsIf (s := s') (follow := dFollow d') hfit).symm.trans ht
  split
  next h =>
    simp only [Bool.and_eq_true, List.any_eq_true, List.mem_map] at h
    obtain ⟨hm, _, ⟨x, hx, rfl⟩, hbad⟩ := h
    cases hv : dHdrv d' with
    | false => simp [hv, State.hdrsIf] at hx
    | true =>
      rw [hv, State.hdrsIf_true] at hx
      simp [hdims hv hm x hx] at hbad
  extract_lets p1 x req x1
  have hreq : x1 = loadArr p f (s'.hdrsIf (dHdrv d') d' (loadVectors d')) := by
    simp only [x1, req, hdrSrcs_map_some, any_isNone_map_some]
    rfl
  rw [hreq]
  exact retire_load s' cs _ _ _ rfl

/-! ## `aswap` -/

@[simp] theorem Proc.drainDraws_zero (p : Proc) (a : Nat) : p.drainDraws a 0 = p := by
  simp [Proc.drainDraws]

/-- The array of an `aswap`: later instructions know the latches the other way round (R93). -/
def swapArr (x : Arr) : Arr := { x with infoAct := x.infoIdle, infoIdle := x.infoAct }

/-- The token that an `aswap` queues. -/
def swapOp (p : Proc) (f : BitVec 57) : ArrOp := { newOp p .swap (lAr f) with inSpan := false }

theorem execAswap_queues {c : CoreId} {f : BitVec 57} {s s' : State} (hi : Issues s s' (coreKey c) [] 8)
    (hok : lOk f ['r'] 1 = true) (hin : s'.arrOut (coreKey c) (lAr f) = none)
    (hno : ((s'.proc (coreKey c)).arr (lAr f)).ops.any (·.kind == .swap) = false)
    (hroom : ((s'.proc (coreKey c)).arr (lAr f)).waiting < 8) :
    ∃ t, exec (.aswap (.core c) f) s = .next t ∧
      Queued s' t (coreKey c) (lAr f) 0 (swapArr ((s'.proc (coreKey c)).arr (lAr f))) (swapOp (s'.proc (coreKey c)) f) := by
  have hwf : (isCore (coreKey c) && lOk f ['r'] 1) = true := by rw [isCore_coreKey, hok]; rfl
  refine ⟨_, rfl, ?_⟩
  rw [unitKey, issue64_eq hi hwf]
  extract_lets p x x1
  have hfree : ¬ (x.ops.any (·.kind == .swap) || decide (x.waiting ≥ 8)) = true := by
    simp only [x, p, hno, Bool.false_or, decide_eq_true_eq]
    omega
  rw [hin, if_neg hfree]
  have hq := retire_queued s' s'.clusters (coreKey c) (lAr f) 0 (swapArr x) (swapOp p f)
  rw [Proc.queue, Proc.drainDraws_zero] at hq
  exact hq

end Sys2Proof.Machine

open Sys2Proof Sys2Proof.Machine

/-- Settles O18: `execAload_queues` says which request an accepted `aload` leaves; a token of `aswap` is queued as an operation
without a tag. -/
theorem loadsAndSwapsQueue : Obligations.LoadsAndSwapsQueue := by
  rintro c f s s' k a p rfl rfl rfl
  refine ⟨?_, ?_⟩
  · rintro d fmt n hs hi hok hd rfl rfl hstall htrap hclean hgrant hpair hfit hdims rfl
    obtain ⟨t, hx, hq⟩ := execAload_queues rfl hd hi hok ⟨hstall, htrap, hgrant⟩ hclean hpair hfit hdims
    subst hd
    exact ⟨t, hx, hq.issued, by rw [hq.arr]; rfl, by rw [hq.arr]; rfl, by rw [hq.arr]; rfl, hq.tag⟩
  · intro hi hok hin hno hroom
    obtain ⟨t, hx, hq⟩ := execAswap_queues hi hok hin hno hroom
    refine ⟨t, swapOp (s'.proc (coreKey c)) f, hx, hq.issued, rfl, ?_⟩
    rw [hq.arr]
    exact ⟨rfl, rfl, rfl, rfl, rfl⟩
end

section
/-! What the work of an array leaves alone. Reading operands, writing outputs, reporting and counting change no register of a
core (`f_proc`); where no pond word is in error, reading an operand changes no mark (`f_pondMark`) and gives the values that
memory holds. O20, O21 and O22 rest on these. -/

namespace Sys2Proof.Machine
open Sys2Proof

/-! ## Registers -/

variable {s : State}

theorem State.proc_ite {c : Prop} [Decidable c] (s t : State) (j : Nat) :
    (if c then s else t).proc j = if c then s.proc j else t.proc j := apply_ite (State.proc · j) c s t

theorem foldl_proc {β : Type} {f : State → β → State} {j : Nat} (hf : ∀ t x, (f t x).proc j = t.proc j) (s : State)
    (l : List β) : (l.foldl f s).proc j = s.proc j := by
  induction l generalizing s with
  | nil => rfl
  | cons x r ih => rw [List.foldl_cons, ih, hf]

theorem foldl_fst_proc {α β : Type} {f : State × α → β → State × α} {j : Nat} (hf : ∀ p x, (f p x).1.proc j = p.1.proc j)
    (p : State × α) (l : List β) : (l.foldl f p).1.proc j = p.1.proc j := by
  induction l generalizing p with
  | nil => rfl
  | cons x r ih => rw [List.foldl_cons, ih, hf]

@[simp] theorem State.detect_proc {code src unit pay j} : (s.detect code src unit pay).proc j = s.proc j := by
  unfold State.detect
  dsimp only
  split <;> rfl

@[simp] theorem State.countCl_proc {c ev core arr n j} : (s.countCl c ev core arr n).proc j = s.proc j := by
  rcases countCl_cases s c ev core arr n with h | ⟨_, h⟩ <;> rw [h]
  rfl

@[simp] theorem State.countEv_proc {k ev arr n j} : (s.countEv k ev arr n).proc j = s.proc j := by
  rcases countEv_cases s k ev arr n with h | ⟨_, _, h⟩ <;> rw [h]
  rfl

@[simp] theorem State.countEmb_proc {u i n j} : (s.countEmb u i n).proc j = s.proc j := by
  unfold State.countEmb
  split <;> rfl

@[simp] theorem State.report_proc {k a inSpan kind j} : (s.report k a inSpan kind).proc j = s.proc j := rfl

@[simp] theorem State.readWord_proc {a requestor j} : (s.readWord a requestor).1.proc j = s.proc j := by
  unfold State.readWord
  split
  · rfl
  · exact State.countCl_proc
  · exact State.detect_proc

@[simp] theorem State.stackFail_proc {st j} : (s.stackFail st).proc j = s.proc j := by
  unfold State.stackFail
  dsimp only
  split <;> rfl

@[simp] theorem State.accessLost_proc {st acc off j} : (s.accessLost st acc off).proc j = s.proc j := by
  unfold State.accessLost
  extract_lets
  split
  · exact State.stackFail_proc.trans State.detect_proc
  · exact State.detect_proc

@[simp] theorem State.readAccess_proc {st acc off j} : (s.readAccess st acc off).1.proc j = s.proc j := by
  unfold State.readAccess
  extract_lets
  split
  · rfl
  · exact State.countEmb_proc
  · exact State.accessLost_proc

@[simp] theorem State.readLine_proc {off j} : (s.readLine off).1.proc j = s.proc j := State.readAccess_proc

@[simp] theorem State.countLines_proc {i off fuel j} : (s.countLines i off fuel).proc j = s.proc j := by
  induction fuel generalizing s off with
  | zero => rfl
  | succ n ih => rw [State.countLines, ih, State.countEmb_proc]

@[simp] theorem State.badWords_proc {req ws j} : (s.badWords req ws).1.proc j = s.proc j := by
  induction ws generalizing s with
  | nil => rfl
  | cons x r ih => simp only [State.badWords, ih, State.readWord_proc]

@[simp] theorem State.readElems_proc {k es as j} : (s.readElems k es as).1.proc j = s.proc j := by
  simp only [State.readElems, apply_ite Prod.fst, State.proc_ite, State.badWords_proc, ite_self]

@[simp] theorem State.feedVec_proc {k a sp d src dst n v j} : (s.feedVec k a sp d src dst n v).1.proc j = s.proc j := by
  simp only [State.feedVec, State.proc_ite, State.report_proc, State.readElems_proc, ite_self]

@[simp] theorem State.carryIn_proc {k o v j} : (s.carryIn k o v).1.proc j = s.proc j := by
  simp only [State.carryIn, apply_ite Prod.fst, State.proc_ite, State.badWords_proc, ite_self]

@[simp] theorem State.writeUnit_proc {lake key bs whole requestor j} :
    (s.writeUnit lake key bs whole requestor).1.proc j = s.proc j := by
  unfold State.writeUnit
  split
  · rfl
  split
  · cases lake <;> rfl
  · have hr : (if lake = true then s.readLine (key % 2 ^ 41) else s.readWord key requestor).1.proc j = s.proc j := by
      split
      · exact State.readLine_proc
      · exact State.readWord_proc
    split
    next s1 bad e =>
    rw [e] at hr
    cases bad <;> exact hr

@[simp] theorem State.writeUnits_proc {lake g key bs requestor fuel j} :
    (s.writeUnits lake g key bs requestor fuel).1.proc j = s.proc j := by
  induction fuel generalizing s key bs with
  | zero => rfl
  | succ n ih => simp only [State.writeUnits, apply_ite Prod.fst, State.proc_ite, ih, State.writeUnit_proc, ite_self]

@[simp] theorem State.eccWrite_proc {a bs requestor j} : (s.eccWrite a bs requestor).1.proc j = s.proc j := by
  unfold State.eccWrite
  split <;> simp only [apply_ite Prod.fst, State.proc_ite, setMem_proc, State.writeUnits_proc, State.countLines_proc, ite_self]

@[simp] theorem State.writePond_proc {k a bs j} : (s.writePond k a bs).proc j = s.proc j := State.eccWrite_proc

@[simp] theorem State.reportOut_proc {k a o F d j} : (s.reportOut k a o F d).proc j = s.proc j := by
  simp only [State.reportOut, State.proc_ite, State.report_proc, ite_self]

@[simp] theorem State.reportVec_proc {k a o F ds j} : (s.reportVec k a o F ds).proc j = s.proc j := by
  simp only [State.reportVec, State.proc_ite, State.report_proc, State.countEv_proc,
    foldl_proc (fun _ _ => State.reportOut_proc), ite_self]

@[simp] theorem State.writeOut_proc {k a o v ds j} : (s.writeOut k a o v ds).1.proc j = s.proc j := by
  simp only [State.writeOut, State.reportVec_proc, State.proc_ite, State.writePond_proc, ite_self]

@[simp] theorem State.writeHdr_proc {k o v j} : (s.writeHdr k o v).1.proc j = s.proc j := by
  simp only [State.writeHdr, apply_ite Prod.fst, State.proc_ite, State.writePond_proc, ite_self]

@[simp] theorem State.passVec_proc {k a o v j} : (s.passVec k a o v).1.proc j = s.proc j := by
  simp only [State.passVec, apply_ite Prod.fst, State.proc_ite, State.writePond_proc, State.writeOut_proc, State.countEv_proc,
    State.carryIn_proc, State.feedVec_proc, ite_self]

@[simp] theorem State.diagVec_proc {k a o v j} : (s.diagVec k a o v).1.proc j = s.proc j := by
  simp only [State.diagVec, apply_ite Prod.fst, State.proc_ite, State.writeOut_proc, State.countEv_proc, State.feedVec_proc,
    ite_self]

@[simp] theorem State.denseRows_proc {k a l j} : (s.denseRows k a l).1.proc j = s.proc j := by
  refine foldl_fst_proc (fun p i => ?_) _ _
  simp only [State.proc_ite, State.report_proc, State.readElems_proc, ite_self]

@[simp] theorem State.t24Rows_proc {k a t l j} : (s.t24Rows k a t l).1.proc j = s.proc j := by
  simp only [State.t24Rows, State.proc_ite, State.report_proc, State.readElems_proc, ite_self]

@[simp] theorem State.loadRows_proc {k a l j} : (s.loadRows k a l).1.proc j = s.proc j := by
  simp only [State.loadRows, apply_ite Prod.fst, State.proc_ite, State.t24Rows_proc, State.denseRows_proc, ite_self]

/-! ## Reads of a pond without errors -/

@[simp] theorem State.countEv_pondMark {k ev arr n} : (s.countEv k ev arr n).pondMark = s.pondMark := by
  rcases countEv_cases s k ev arr n with h | ⟨_, _, h⟩ <;> rw [h]
  rfl

/-- An element as memory holds it; a position outside a window walk's input is zero (R111). -/
def State.elemNat (s : State) (es : Nat) (a : Option Word) : Nat := (a.map (fun x => s.natAt x.toNat es)).getD 0

theorem readElems_clean (hp : s.pondMark = []) (k es : Nat) (as : List (Option Word)) :
    s.readElems k es as = (s, as.map (fun a => (s.elemNat es a, false))) := by
  simp only [State.readElems, hp, List.isEmpty_nil, if_true, Prod.mk.injEq, true_and]
  refine List.map_congr_left fun a _ => ?_
  cases a <;> simp [State.elemNat]

@[simp] theorem State.feedVec_pondMark (hp : s.pondMark = []) {k a sp d src dst n v} :
    (s.feedVec k a sp d src dst n v).1.pondMark = [] := by
  simp only [State.feedVec, readElems_clean hp]
  split <;> exact hp

theorem enterElem_same (src x : Nat) : enterElem src src (x, false) = (x, false) := by
  simp [enterElem]

/-- A vector in the array's own format enters as memory holds it, and nothing is reported. -/
theorem feedVec_plain (hp : s.pondMark = []) (k a : Nat) (sp : Bool) (d : Desc) (fmt n v : Nat) :
    s.feedVec k a sp d fmt fmt n v = (s, (elemAddrs d (esize fmt) n v).map (s.elemNat (esize fmt)), false) := by
  simp [State.feedVec, readElems_clean hp, enterElem_same, Function.comp_def]

end Sys2Proof.Machine
end

section
/-! Latches load and swap (O21). A capture puts the oldest load's rows into the idle latch (`captureLoad_captures`), a dense tile's
as memory holds them (`denseRows_plain`); a swap token changes the latches over (`execSwapTokenAttach_eq`). -/

namespace Sys2Proof.Machine
open Sys2Proof

/-! ## Arrays in the state -/

section
variable (s : State) (k a : Nat) (x : Arr)

@[simp] theorem State.setArray_proc_same : (s.setArray k a x).proc k = (s.proc k).setArr a x := Tbl.get_put_same ..

@[simp] theorem Proc.setArr_setArr (p : Proc) (y : Arr) : (p.setArr a x).setArr a y = p.setArr a y := by
  by_cases h : a = 0 <;> simp [Proc.setArr, h]

@[simp] theorem State.array_setArray : (s.setArray k a x).array k a = x := by
  rw [State.array, State.setArray_proc_same, Proc.arr_setArr]

@[simp] theorem State.tagDone_proc_same (g : Nat) (err : Bool) : (s.tagDone k g err).proc k = (s.proc k).tagDone g err :=
  Tbl.get_put_same ..

@[simp] theorem State.array_tagDone (g : Nat) (err : Bool) : (s.tagDone k g err).array k a = s.array k a := by
  rw [State.array, State.tagDone_proc_same]
  rfl

@[simp] theorem Proc.tagCount_tagDone (p : Proc) (g : Nat) (err : Bool) : (p.tagDone g err).tagCount g = p.tagCount g - 1 :=
  Tbl.get_put_same ..

theorem Proc.tagErr_tagDone (p : Proc) {g : Nat} (h : g < 32) : (p.tagDone g true).tagErr.getLsbD g = true := by
  simp [Proc.tagDone, h]

end

@[simp] theorem Arr.latIdle_setIdle (x : Arr) (l : Latch) : (x.setIdle l).latIdle = l := by
  cases h : x.act <;> simp [Arr.setIdle, Arr.latIdle, h]

@[simp] theorem Arr.latUse_setIdle (x : Arr) (l : Latch) : (x.setIdle l).latUse = x.latUse := by
  cases h : x.act <;> simp [Arr.setIdle, Arr.latUse, h]

@[simp] theorem Arr.loads_setIdle (x : Arr) (l : Latch) : (x.setIdle l).loads = x.loads := by
  unfold Arr.setIdle
  split <;> rfl

/-! ## The values of a tile -/

theorem getD_map_range {α : Type} {n i : Nat} (h : i < n) (f : Nat → α) (d : α) : ((List.range n).map f).getD i d = f i := by
  simp [List.getD, h]

theorem length_t24Tile (F : Fmt) (pats : List Nat) (val esc : Nat → Nat) : (t24Tile F pats val esc).length = 128 := by
  simp [t24Tile]

theorem length_transposeM (n : Nat) (m : List (List (Option Nat))) : (transposeM n m).length = n := by
  simp [transposeM]

theorem getD_transposeM {n i j : Nat} (hi : i < n) (hj : j < n) (m : List (List (Option Nat))) :
    ((transposeM n m).getD j []).getD i none = (m.getD i []).getD j none := by
  rw [transposeM, getD_map_range hj, getD_map_range hi]

variable {s : State}

theorem length_t24Rows {k a t : Nat} {l : LoadReq} : (s.t24Rows k a t l).2.length = 128 := by
  simp only [State.t24Rows]
  split
  · exact length_transposeM ..
  · exact length_t24Tile ..

theorem length_denseRows {k a : Nat} {l : LoadReq} : (s.denseRows k a l).2.length = 128 := by
  simp only [State.denseRows]
  split
  · exact length_transposeM ..
  · simp

theorem length_loadRows {k a : Nat} {l : LoadReq} :
    (s.loadRows k a l).2.length = if dMdv l.desc = true then 256 else 128 := by
  unfold State.loadRows
  split
  · simp [length_t24Rows]
  · exact length_denseRows

/-- Position (i, j) of a dense tile as memory holds it; outside the extents zero (R236). -/
def State.tileNat (s : State) (d : Desc) (es i j : Nat) : Nat :=
  if i < dE d 1 ∧ j < dE d 0 then s.natAt (dBase d + BitVec.ofNat 64 (i * dS d 1 + j * es)).toNat es else 0

/-- A fold that leaves its state and collects one value a step. -/
theorem foldl_collects {σ β ι : Type} {g : σ × List β → ι → σ × List β} {s : σ} {f : ι → β}
    (h : ∀ ys i, g (s, ys) i = (s, ys ++ [f i])) (ys : List β) (l : List ι) : l.foldl g (s, ys) = (s, ys ++ l.map f) := by
  induction l generalizing ys with
  | nil => simp
  | cons i r ih => simp [h, ih]

@[simp] theorem State.elemNat_some (es : Nat) (x : Word) : s.elemNat es (some x) = s.natAt x.toNat es := rfl

/-- The stored elements of row `i` of a dense tile. -/
def State.tileRow (s : State) (d : Desc) (es i : Nat) : List Nat :=
  (List.range (dE d 0)).map (fun j => s.natAt (dBase d + BitVec.ofNat 64 (i * dS d 1 + j * es)).toNat es)

theorem getD_tileRows (d : Desc) (es i j : Nat) :
    (((List.range (dE d 1)).map (s.tileRow d es)).getD i []).getD j 0 = s.tileNat d es i j := by
  by_cases hi : i < dE d 1
  · rw [getD_map_range hi, State.tileNat, State.tileRow]
    by_cases hj : j < dE d 0 <;> simp [List.getD, hi, hj]
  · simp [State.tileNat, List.getD, hi]

/-- A dense tile in the array's own format is latched as memory holds it, transposed where the load says so (R105). -/
theorem denseRows_plain {k a i j : Nat} {l : LoadReq} (hp : s.pondMark = []) (hsrc : srcOf l.src l.fmt 0 = l.fmt)
    (hi : i < 128) (hj : j < 128) :
    ((s.denseRows k a l).2.getD (if l.tr then j else i) []).getD (if l.tr then i else j) none =
      some (s.tileNat l.desc (esize l.fmt) i j) := by
  unfold State.denseRows
  rw [hsrc]
  extract_lets d src es go full
  have hgo : go = (s, (List.range (dE d 1)).map (s.tileRow d es)) := foldl_collects (fun ys i => by
    simp [readElems_clean hp, enterElem_same, Function.comp_def, State.tileRow, src]) [] _
  have hfull : (full.getD i []).getD j none = some (s.tileNat l.desc (esize l.fmt) i j) := by
    simp only [full, getD_map_range hi, getD_map_range hj, hgo, getD_tileRows]
    rfl
  cases l.tr
  · exact hfull
  · exact (getD_transposeM hi hj full).trans hfull

/-! ## Capture -/

/-- What a load latches (R94, R95, R135). -/
def State.latchOf (s : State) (k a : Nat) (l : LoadReq) : Latch :=
  let rows := (s.loadRows k a l).2
  ⟨l.fmt, dMdv l.desc, rows, rows.map (rowResidue (Fmt.of l.fmt)), if dMdv l.desc then violations rows else 0⟩

/-- `y` is the array `x` with the latch `lat` captured into the idle one. -/
structure Captures (x y : Arr) (lat : Latch) : Prop where
  idle  : y.latIdle = lat
  use   : y.latUse = x.latUse
  loads : y.loads = x.loads

theorem captures_setIdle (x : Arr) (lat : Latch) : Captures x (x.setIdle lat) lat :=
  ⟨Arr.latIdle_setIdle .., Arr.latUse_setIdle .., Arr.loads_setIdle ..⟩

/-- The counters of violating groups (R135) are beside the latches and the loads. -/
theorem Captures.counted {x y : Arr} {lat : Latch} (h : Captures x y lat) (n v : Nat) :
    Captures x { y with vgroups := n, lastv := v } lat := ⟨h.idle, h.use, h.loads⟩

theorem captureLoad_captures (s : State) (k a : Nat) (l : LoadReq) :
    ∃ y, (s.captureLoad k a l none).proc k = (s.proc k).setArr a y ∧ Captures (s.array k a) y (s.latchOf k a l) := by
  unfold State.captureLoad
  extract_lets F t24 
  split
  next s1 rows e =>
  extract_lets v lat x x1 x2 s2 p
  have h1 : s1.proc k = s.proc k := by rw [← State.loadRows_proc (s := s) (k := k) (a := a) (l := l), e]
  have hlat : lat = s.latchOf k a l := by simp only [State.latchOf, e]; rfl
  have h2 : s2.proc k = (s.proc k).setArr a x2 := by rw [← h1]; exact State.setArray_proc_same ..
  refine ⟨x2, ?_, ?_⟩
  · split <;> exact h2
  · have hx : x = s.array k a := by simp only [x, State.array, h1]
    have hc : Captures (s.array k a) x1 (s.latchOf k a l) := by
      rw [← hx, ← hlat]
      exact captures_setIdle x lat
    simp only [x2]
    split
    · exact hc.counted ..
    · exact hc

/-- Array `a` of core `k` has taken its oldest load from the queue; `rest` still wait. -/
def State.takeLoad (s : State) (k a : Nat) (rest : List LoadReq) : State :=
  s.setArray k a { s.array k a with loads := rest }

/-- The oldest load is captured, or fails, and its tag completes. -/
theorem execAloadCaptureComplete_eq {c : CoreId} {a : Fin 2} {s : State} {l : LoadReq} {rest : List LoadReq}
    (hrun : s.arrRuns (coreKey c) = true) (hl : (s.array (coreKey c) a.val).loads = l :: rest) (h0 : l.ahead = 0) :
    exec (.aloadCaptureComplete c a none) s = .next
      ((if l.fail then s.takeLoad (coreKey c) a.val rest
        else (s.takeLoad (coreKey c) a.val rest).captureLoad (coreKey c) a.val l none).tagDone (coreKey c) l.tag l.fail) := by
  change execAloadCaptureComplete c a none s = _
  simp only [execAloadCaptureComplete, hl, hrun, h0, ne_eq, not_true_eq_false, decide_false, Bool.not_true, Bool.or_self,
    Bool.false_eq_true, if_false]
  rfl

/-- What a tag's end leaves where array `a` has become `y`. -/
theorem tagDone_setArr {s : State} {k a : Nat} {p : Proc} {y : Arr} (h : s.proc k = p.setArr a y) (g : Nat) (err : Bool) :
    (s.tagDone k g err).array k a = y ∧ ((s.tagDone k g err).proc k).tagCount g = p.tagCount g - 1 := by
  constructor
  · rw [State.array_tagDone, State.array, h, Proc.arr_setArr]
  · rw [State.tagDone_proc_same, Proc.tagCount_tagDone, h, Proc.tagCount_setArr]

/-! ## Swaps -/

/-- An array whose next operation is no `aacc` performs nothing by itself. -/
theorem settle_of_head {s : State} {k a : Nat} (h : ∀ o ∈ (s.array k a).ops.head?, o.kind ≠ .acc) (n : Nat) :
    s.settle k a n = s := by
  cases n with
  | zero => rfl
  | succ n =>
    rw [State.settle]
    split
    next o rest he => exact if_neg fun hc => h o (by rw [he]; rfl) hc.1
    next => rfl

/-- An array after its swap token has attached in front of the operations `ops`: the latches change over, and every load is behind one
swap fewer (R93, R96). -/
def Arr.swapped (x : Arr) (ops : List ArrOp) : Arr :=
  { x with act := !x.act, ops := ops, loads := x.loads.map (fun l => { l with ahead := l.ahead - 1 }) }

theorem Arr.latUse_swapped (x : Arr) (ops : List ArrOp) : (x.swapped ops).latUse = x.latIdle := by
  cases h : x.act <;> simp [Arr.swapped, Arr.latUse, Arr.latIdle, h]

theorem Arr.latIdle_swapped (x : Arr) (ops : List ArrOp) : (x.swapped ops).latIdle = x.latUse := by
  cases h : x.act <;> simp [Arr.swapped, Arr.latUse, Arr.latIdle, h]

theorem execSwapTokenAttach_eq {c : CoreId} {a : Fin 2} {s : State} {o v : ArrOp} {rest : List ArrOp}
    (hrun : s.arrRuns (coreKey c) = true) (hops : (s.array (coreKey c) a.val).ops = o :: v :: rest) (ho : o.kind = .swap)
    (hv : v.kind = .pass ∨ v.kind = .diag) (hl : (s.array (coreKey c) a.val).loads.any (·.ahead == 0) = false)
    (hf : s.safety.fence = false) :
    exec (.swapTokenAttach c a) s =
      .next (s.setArray (coreKey c) a.val ((s.array (coreKey c) a.val).swapped (v :: rest))) := by
  have hd : (v.kind == .drain) = false := by rcases hv with h | h <;> rw [h] <;> rfl
  have hacc : v.kind ≠ .acc := by rcases hv with h | h <;> rw [h] <;> decide
  have hset := settle_of_head (s := s.setArray (coreKey c) a.val ((s.array (coreKey c) a.val).swapped (v :: rest)))
    (k := coreKey c) (a := a.val) (by rw [State.array_setArray]; rintro _ ⟨⟩; exact hacc) (rest.length + 1)
  change execSwapTokenAttach c a s = _
  simp only [execSwapTokenAttach, hops, ho, hd, hl, hrun, hf, ne_eq, not_true_eq_false, decide_false, Bool.not_true, Bool.or_self,
    Bool.false_eq_true, if_false]
  exact congrArg _ hset

end Sys2Proof.Machine

open Sys2Proof Sys2Proof.Machine

/-- Settles O21: `captureLoad_captures` says what a load leaves in the array, `denseRows_plain` which values stand in a dense tile's
rows; a token changes the latches over (`Arr.swapped`), and the vector behind it is left to wait. -/
theorem latchesLoadAndSwap : Obligations.LatchesLoadAndSwap := by
  rintro c a s k rfl hrun
  refine ⟨fun l rest hl h0 hp => ?_, fun o v rest hops ho hv hl hf => ?_⟩
  · have hx := execAloadCaptureComplete_eq hrun hl h0
    refine ⟨fun hok => ?_, fun hbad htag => ?_⟩
    · rw [hok, if_neg Bool.false_ne_true] at hx
      obtain ⟨y, hy, hc⟩ := captureLoad_captures (s.takeLoad (coreKey c) a.val rest) (coreKey c) a.val l
      rw [State.takeLoad, State.array_setArray] at hc
      rw [State.takeLoad, State.setArray_proc_same, Proc.setArr_setArr] at hy
      obtain ⟨hya, hcount⟩ := tagDone_setArr hy l.tag false
      refine ⟨_, ((s.takeLoad (coreKey c) a.val rest).loadRows (coreKey c) a.val l).2, hx, (congrArg Arr.latIdle hya).trans hc.idle,
        length_loadRows, fun hd hsrc i hi j hj => ?_, (congrArg Arr.latUse hya).trans hc.use,
        (congrArg Arr.loads hya).trans hc.loads, hcount, State.captureLoad_mem⟩
      rw [State.loadRows, if_neg (by rw [hd]; exact Bool.false_ne_true)]
      exact denseRows_plain hp hsrc hi hj
    · rw [hbad, if_pos rfl] at hx
      obtain ⟨hya, hcount⟩ := tagDone_setArr (s := s.takeLoad (coreKey c) a.val rest) (State.setArray_proc_same ..) l.tag true
      exact ⟨_, hx, (congrArg Arr.latIdle hya).trans rfl, congrArg Arr.loads hya, hcount,
        by rw [State.tagDone_proc_same]; exact Proc.tagErr_tagDone _ htag, rfl⟩
  · refine ⟨_, execSwapTokenAttach_eq hrun hops ho hv hl hf, ?_⟩
    rw [State.array_setArray]
    exact ⟨Arr.latUse_swapped .., Arr.latIdle_swapped .., rfl, rfl, rfl⟩
end

section
/-! The drain's output advances (O22). -/

namespace Sys2Proof.Machine
open Sys2Proof

variable {s : State} {k a : Nat}

/-! ## Writes to the own pond -/

theorem memWriteMask_present (m : List Host.Cell) (n : Nat) (bs : List Byte) :
    memWriteMask m n (present bs) = memWrite m n bs := by
  induction bs generalizing m n with
  | nil => rfl
  | cons b r ih => exact ih (memPut m n b) (n + 1)

theorem writePond_mem (hp : s.pondMark = []) {x : Word} {st cl off : Nat} (hx : place x = .pond st cl off) (bs : List Byte) :
    (s.writePond k x bs).mem = memWrite s.mem x.toNat bs := by
  simp only [State.writePond, State.eccWrite, hx, hp, List.isEmpty_nil, if_true, setMem_mem, memWriteMask_present]

/-! ## The operation as its vectors leave -/

/-- `o'` is the operation `o` but for what its drain has gathered for header, reports and residue check. -/
def ArrOp.Goes (o o' : ArrOp) : Prop := ∃ st n bad, o' = { o with stat := st, cancels := n, resBad := bad }

theorem ArrOp.Goes.trans {o o' o'' : ArrOp} (h : o.Goes o') (g : o'.Goes o'') : o.Goes o'' := by
  obtain ⟨_, _, _, rfl⟩ := h
  obtain ⟨st, n, bad, rfl⟩ := g
  exact ⟨st, n, bad, rfl⟩

theorem writeOut_goes (o : ArrOp) (v : Nat) (ds : List Drained) : o.Goes (s.writeOut k a o v ds).2 := ⟨_, _, o.resBad, rfl⟩

theorem writeHdr_goes (o : ArrOp) (v : Nat) : o.Goes (s.writeHdr k o v).2 := by
  unfold State.writeHdr
  split
  · exact ⟨o.stat, o.cancels, o.resBad, rfl⟩
  · exact ⟨_, o.cancels, o.resBad, rfl⟩

theorem goes_resBad (o : ArrOp) (bad : Bool) : o.Goes { o with resBad := bad } := ⟨o.stat, o.cancels, bad, rfl⟩

theorem passVec_goes (o : ArrOp) (v : Nat) : o.Goes (s.passVec k a o v).2 := by
  simp only [State.passVec]
  split
  · exact ⟨_, o.cancels, _, rfl⟩
  · exact (goes_resBad o _).trans (writeOut_goes ..)

theorem diagVec_goes (o : ArrOp) (v : Nat) : o.Goes (s.diagVec k a o v).2 := by
  simp only [State.diagVec]
  exact (goes_resBad o _).trans (writeOut_goes ..)

/-! ## One vector of a pass or a diagonal -/

/-- The operation's next vector. -/
def State.nextVec (s : State) (k a : Nat) (o : ArrOp) : State × ArrOp :=
  if o.kind = .pass then s.passVec k a o o.pos else s.diagVec k a o o.pos

/-- The operation's next vector with the header of a tile that ends with it. -/
def State.vecOut (s : State) (k a : Nat) (o : ArrOp) : State × ArrOp :=
  (s.nextVec k a o).1.writeHdr k (s.nextVec k a o).2 o.pos

theorem nextVec_goes (o : ArrOp) : o.Goes (s.nextVec k a o).2 := by
  unfold State.nextVec
  split
  · exact passVec_goes ..
  · exact diagVec_goes ..

theorem vecOut_goes (o : ArrOp) : o.Goes (s.vecOut k a o).2 := (nextVec_goes o).trans (writeHdr_goes ..)

@[simp] theorem vecOut_proc (o : ArrOp) (j : Nat) : (s.vecOut k a o).1.proc j = s.proc j := by
  simp only [State.vecOut, State.writeHdr_proc, State.nextVec, apply_ite Prod.fst, State.proc_ite, State.passVec_proc,
    State.diagVec_proc, ite_self]

theorem splitHead_of_ne_swap {o : ArrOp} (h : o.kind ≠ .swap) (rest : List ArrOp) :
    splitHead (o :: rest) = ([], o :: rest) := by
  cases rest with
  | nil => rfl
  | cons v r => simp [splitHead, h]

/-- The operation at the head of the queue is a pass or a diagonal whose next vector is injected. -/
structure Draining (s : State) (k a : Nat) (o : ArrOp) (rest : List ArrOp) : Prop where
  runs  : s.arrRuns k = true
  fence : s.safety.fence = false
  head  : (s.array k a).ops = o :: rest
  kind  : o.kind = .pass ∨ o.kind = .diag

theorem execDrainOutputWrite_advances {c : CoreId} {a : Fin 2} {o : ArrOp} {rest : List ArrOp}
    (h : Draining s (coreKey c) a.val o rest) (hok : o.fail = false) (hpos : o.pos + 1 < o.n) :
    exec (.drainOutputWrite c a) s = .next
      ((s.vecOut (coreKey c) a.val o).1.setArray (coreKey c) a.val { (s.vecOut (coreKey c) a.val o).1.array (coreKey c) a.val with
        ops := { (s.vecOut (coreKey c) a.val o).2 with pos := o.pos + 1 } :: rest }) := by
  obtain ⟨hrun, hf, hops, hk⟩ := h
  have hne : o.pos + 1 ≠ o.n := by omega
  have hsw : o.kind ≠ .swap := by rcases hk with h | h <;> rw [h] <;> decide
  change execDrainOutputWrite c a s = _
  rcases hk with hk | hk <;>
    simp [execDrainOutputWrite, hops, splitHead_of_ne_swap hsw, hk, hok, hrun, hf, hne, State.vecOut, State.nextVec]

theorem execDrainOutputWrite_fails {c : CoreId} {a : Fin 2} {o : ArrOp} {rest : List ArrOp}
    (h : Draining s (coreKey c) a.val o rest) (hbad : o.fail = true) :
    exec (.drainOutputWrite c a) s = .next (s.endOp (coreKey c) a.val o true) := by
  obtain ⟨hrun, hf, hops, hk⟩ := h
  have hsw : o.kind ≠ .swap := by rcases hk with h | h <;> rw [h] <;> decide
  change execDrainOutputWrite c a s = _
  rcases hk with hk | hk <;> simp [execDrainOutputWrite, hops, splitHead_of_ne_swap hsw, hk, hbad, hrun, hf]

/-- An operation that ends alone in its queue, outside the residue check and with no cancellation to report, leaves nothing but its
tag's error. -/
theorem endOp_alone {o : ArrOp} {g : Nat} {err : Bool} (h : Draining s k a o []) (hg : o.tag = some g) (hres : o.resBad = false)
    (hcan : o.cancels = 0) :
    s.endOp k a o err = (s.setArray k a { s.array k a with ops := [] }).tagDone k g err := by
  obtain ⟨_, hf, hops, hk⟩ := h
  have hsw : o.kind ≠ .swap := by rcases hk with h | h <;> rw [h] <;> decide
  have hdr : o.kind ≠ .drain := by rcases hk with h | h <;> rw [h] <;> decide
  unfold State.endOp
  extract_lets x x1 x2 x3 s1 s2 s3 s4
  have hx3 : x3 = { s.array k a with ops := [] } := by
    simp only [x3, x2, x1, x, if_neg hdr, hops, splitHead_of_ne_swap hsw, hres, Bool.or_false, List.tail_cons, List.append_nil]
  have h4 : s4 = (s.setArray k a { s.array k a with ops := [] }).tagDone k g err := by
    simp only [s4, s3, s2, s1, hx3, hg, hres, hcan]
    simp
  rw [h4, settle_of_head]
  · exact if_neg (by simp [State.tagDone, State.setArray, hf])
  · simp

/-! ## A vector of a diagonal of plain operands -/

/-- Element `j` of vector `v` of a tensor operand, as memory holds it. -/
def State.vecNat (s : State) (d : Desc) (es v j : Nat) : Nat := s.natAt (dVec d v + BitVec.ofNat 64 (j * es)).toNat es

/-- A vector of a plain tensor in the array's own format enters as memory holds it. -/
theorem feedVec_tensor (hp : s.pondMark = []) {d : Desc} (hd : dKind d = 0) (sp : Bool) (fmt n v : Nat) :
    s.feedVec k a sp d fmt fmt n v = (s, (List.range n).map (s.vecNat d (esize fmt) v), false) := by
  simp [feedVec_plain hp, elemAddrs, hd, Function.comp_def, State.vecNat]

/-- The diagonal's operands are plain: tensors without headers and bitmaps. -/
structure PlainDiag (o : ArrOp) : Prop where
  own    : o.src1 = [] ∧ o.src2 = [] ∧ o.src4 = []
  tensor : dKind o.d1 = 0 ∧ dKind o.d2 = 0 ∧ dKind o.d4 = 0
  dense  : dMdv o.d1 = false ∧ dMdv o.d2 = false ∧ dMdv o.d3 = false ∧ dMdv o.d4 = false

/-- Output `j` of vector `v` of a plain diagonal (R110). -/
def State.diagOut (s : State) (o : ArrOp) (v j : Nat) : Drained :=
  diagOne (Fmt.of o.fmt) (Fmt.of o.out) o.add o.mode 0 (s.vecNat o.d1 (esize o.fmt) v j) (s.vecNat o.d2 (esize o.fmt) v j)
    (if o.add then s.vecNat o.d4 (esize o.fmt) v j else 0)

/-- The bytes of vector `v`'s outputs. -/
def State.diagBytes (s : State) (o : ArrOp) (v : Nat) : List Byte :=
  (List.range 128).flatMap (fun j => leBytes (esize o.out) (s.diagOut o v j).bits)

theorem length_diagBytes (o : ArrOp) (v : Nat) : (s.diagBytes o v).length = 128 * esize o.out := by
  rw [State.diagBytes, List.length_flatMap]
  simp only [leBytes_length, List.map_const', List.sum_replicate, List.length_range, smul_eq_mul]

theorem bitmapped_dense {d : Desc} (h : dMdv d = false) (n v : Nat) (xs : List Nat) : s.bitmapped d n v xs = xs := by
  simp [State.bitmapped, h]

theorem writeOut_mem {o : ArrOp} {v st cl off : Nat} (hp : s.pondMark = []) (hx : place (dVec o.d3 v) = .pond st cl off)
    (hd : dMdv o.d3 = false) (ds : List Drained) :
    (s.writeOut k a o v ds).1.mem = memWrite s.mem (dVec o.d3 v).toNat (ds.flatMap (fun d => leBytes (esize o.out) d.bits)) := by
  simp only [State.writeOut, State.reportVec_mem, hd, Bool.false_eq_true, if_false, writePond_mem hp hx]

theorem diagVec_mem {o : ArrOp} {v st cl off : Nat} (hp : s.pondMark = []) (ho : PlainDiag o) (hm : o.mode ≠ mSR)
    (hx : place (dVec o.d3 v) = .pond st cl off) :
    (s.diagVec k a o v).1.mem = memWrite s.mem (dVec o.d3 v).toNat (s.diagBytes o v) := by
  obtain ⟨⟨h1, h2, h4⟩, ⟨t1, t2, t4⟩, ⟨b1, b2, b3, b4⟩⟩ := ho
  have hsrc (n : Nat) : srcOf [] o.fmt n = o.fmt := rfl
  have hdraws (u : Nat) : o.draws u v = [] := if_neg hm
  have hadd : (if o.add = true then (s, (List.range 128).map (s.vecNat o.d4 (esize o.fmt) v)) else (s, [])) =
      (s, if o.add = true then (List.range 128).map (s.vecNat o.d4 (esize o.fmt) v) else []) := by split <;> rfl
  simp only [State.diagVec, h1, h2, h4, hsrc, feedVec_tensor hp t1, feedVec_tensor hp t2, feedVec_tensor hp t4, hadd,
    bitmapped_dense b1, bitmapped_dense b2, bitmapped_dense b4, hdraws]
  refine (writeOut_mem (by rw [State.countEv_pondMark, State.countEv_pondMark, hp]) hx b3 _).trans ?_
  rw [State.countEv_mem, State.countEv_mem, List.flatMap_map, State.diagBytes]
  refine congrArg _ (List.flatMap_congr fun j hj => ?_)
  rw [List.mem_range] at hj
  simp only [getD_map_range hj, List.getD_nil, State.diagOut]
  cases o.add with
  | false => rfl
  | true => simp only [if_true, getD_map_range hj]

theorem writeHdr_inside {o : ArrOp} {v : Nat} (h : v % 128 ≠ 127) (hn : v + 1 ≠ o.n) : s.writeHdr k o v = (s, o) :=
  if_pos ⟨h, hn⟩

/-- A diagonal's vector that ends no tile writes its outputs and nothing else. -/
theorem vecOut_diag_mem {o : ArrOp} {st cl off : Nat} (hk : o.kind = .diag) (hp : s.pondMark = []) (ho : PlainDiag o)
    (hm : o.mode ≠ mSR) (hpos : o.pos + 1 < o.n) (htile : o.pos % 128 ≠ 127) (hx : place (dVec o.d3 o.pos) = .pond st cl off) :
    (s.vecOut k a o).1.mem = memWrite s.mem (dVec o.d3 o.pos).toNat (s.diagBytes o o.pos) := by
  have hnext : s.nextVec k a o = s.diagVec k a o o.pos := if_neg (by rw [hk]; decide)
  obtain ⟨_, _, _, hgo⟩ := diagVec_goes (s := s) (k := k) (a := a) o o.pos
  rw [State.vecOut, hnext, writeHdr_inside htile (by rw [hgo]; exact Nat.ne_of_lt hpos), diagVec_mem hp ho hm hx]

end Sys2Proof.Machine

open Sys2Proof Sys2Proof.Machine

/-- Settles O22: an operation that failed ends by `endOp_alone`; a vector leaves the operation by `vecOut_goes`, and the bytes of a
diagonal's are those of `vecOut_diag_mem`. -/
theorem drainOutputAdvances : Obligations.DrainOutputAdvances := by
  rintro c a s k o rest t0 rfl hrun hf hops hk
  have hd : Draining s (coreKey c) a.val o rest := ⟨hrun, hf, hops, hk⟩
  refine ⟨?_, ?_, ?_⟩
  · rintro hbad hg hres hcan rfl
    refine ⟨_, execDrainOutputWrite_fails hd hbad, ?_⟩
    rw [endOp_alone hd hg hres hcan]
    obtain ⟨ha, hcount⟩ := tagDone_setArr
      (State.setArray_proc_same s (coreKey c) a.val { s.array (coreKey c) a.val with ops := [] }) t0 true
    exact ⟨congrArg Arr.ops ha, rfl, hcount, fun h => by rw [State.tagDone_proc_same]; exact Proc.tagErr_tagDone _ h⟩
  · intro hok hpos
    obtain ⟨_, _, _, hgo⟩ := vecOut_goes (s := s) (k := coreKey c) (a := a.val) o
    refine ⟨_, { (s.vecOut (coreKey c) a.val o).2 with pos := o.pos + 1 }, execDrainOutputWrite_advances hd hok hpos, ?_, rfl,
      by rw [hgo], by rw [hgo], ?_⟩
    · rw [State.array_setArray]
    · rw [State.setArray_proc_same, Proc.tagCount_setArr, vecOut_proc]
  · intro st cl off x y w hdiag hok hpos htile hm hp h1 h2 h4 t1 t2 t4 b1 b2 b3 b4 hplace hoff hx hy hw
    have ho : PlainDiag o := ⟨⟨h1, h2, h4⟩, ⟨t1, t2, t4⟩, ⟨b1, b2, b3, b4⟩⟩
    have hmem := vecOut_diag_mem (k := coreKey c) (a := a.val) hdiag hp ho hm hpos htile hplace
    have hbytes : s.diagBytes o o.pos = (List.range 128).flatMap (fun j => leBytes (esize o.out) (y j).bits) := by
      simp only [State.diagBytes, State.diagOut, hy, hw, hx, State.vecNat]
    refine ⟨_, execDrainOutputWrite_advances hd hok hpos, ?_, fun b hb => ?_⟩
    · rw [← hbytes, ← length_diagBytes (s := s) o o.pos, State.bytesAt, State.setArray_mem, hmem, memRead_write]
    · rw [State.setArray_mem, hmem]
      exact memByte_write_outside _ _ _ _ (by rwa [length_diagBytes])
end

section
/-! Sums are opened (O20). `execAacc_queues` says what an accepted `aacc` leaves before its array goes to work; the work itself
changes the array's queue and sums and nothing else of the cores (`settle_sums`). For plain binary16 operands `accWalk_reg` adds
up the products exactly. -/

namespace Sys2Proof.Machine
open Sys2Proof

/-! ## The work of an array on its sums -/

/-- `y` is the array `x` but for operations that have left the head of its queue and for its sums. -/
def Arr.Sums (x y : Arr) : Prop :=
  ∃ ops acc z fail sp, ops <:+ x.ops ∧ y = { x with ops := ops, acc := acc, accZ := z, accFail := fail, split := sp }

theorem Arr.Sums.refl (x : Arr) : x.Sums x := ⟨x.ops, x.acc, x.accZ, x.accFail, x.split, List.suffix_rfl, rfl⟩

theorem Arr.Sums.trans {x y z : Arr} (h : x.Sums y) (g : y.Sums z) : x.Sums z := by
  obtain ⟨_, _, _, _, _, hxy, rfl⟩ := h
  obtain ⟨ops, acc, w, fail, sp, hyz, rfl⟩ := g
  exact ⟨ops, acc, w, fail, sp, hyz.trans hxy, rfl⟩

theorem Arr.Sums.ops {x y : Arr} (h : x.Sums y) : y.ops <:+ x.ops := by
  obtain ⟨_, _, _, _, _, hs, rfl⟩ := h
  exact hs

theorem Arr.maskAcc_sums (x : Arr) (mask : List (List Bool)) : x.Sums (x.maskAcc mask) := by
  unfold Arr.maskAcc
  split
  · exact .refl x
  · split
    · exact .refl x
    · exact ⟨x.ops, _, _, x.accFail, x.split, List.suffix_rfl, rfl⟩

/-- From `s` to `t`, array `a` of core `k` has worked on its queue and sums; no other register of a core, no byte of memory and no
mark of a pond word has changed. -/
structure SumsOnly (s t : State) (k a : Nat) : Prop where
  own    : ∃ y, t.proc k = (s.proc k).setArr a y ∧ (s.array k a).Sums y
  others : ∀ j, j ≠ k → t.proc j = s.proc j
  mem    : t.mem = s.mem
  marks  : t.pondMark = s.pondMark

section
variable {s t u : State} {k a : Nat}

theorem SumsOnly.array (h : SumsOnly s t k a) : (s.array k a).Sums (t.array k a) := by
  obtain ⟨y, hy, hs⟩ := h.own
  rwa [show t.array k a = y by rw [State.array, hy, Proc.arr_setArr]]

theorem SumsOnly.of_proc (hproc : ∀ j, t.proc j = s.proc j) (hmem : t.mem = s.mem) (hmarks : t.pondMark = s.pondMark) :
    SumsOnly s t k a :=
  ⟨⟨s.array k a, (hproc k).trans (Proc.setArr_arr ..).symm, .refl _⟩, fun _ _ => hproc _, hmem, hmarks⟩

theorem SumsOnly.refl (s : State) : SumsOnly s s k a := .of_proc (fun _ => rfl) rfl rfl

theorem SumsOnly.trans (h : SumsOnly s t k a) (g : SumsOnly t u k a) : SumsOnly s u k a := by
  obtain ⟨y, hy, _⟩ := h.own
  obtain ⟨z, hz, _⟩ := g.own
  have hu : u.proc k = (s.proc k).setArr a z := by rw [hz, hy, Proc.setArr_setArr]
  refine ⟨⟨z, hu, ?_⟩, fun j hj => (g.others j hj).trans (h.others j hj), g.mem.trans h.mem, g.marks.trans h.marks⟩
  have hs := h.array.trans g.array
  rwa [show u.array k a = z by rw [State.array, hz, Proc.arr_setArr]] at hs

theorem SumsOnly.setArray {y : Arr} (h : (s.array k a).Sums y) : SumsOnly s (s.setArray k a y) k a :=
  ⟨⟨y, State.setArray_proc_same .., h⟩, fun _ hj => State.setProc_proc_other _ _ _ _ hj, rfl, rfl⟩

theorem SumsOnly.countEv (ev arr n : Nat) : SumsOnly s (s.countEv k ev arr n) k a :=
  .of_proc (fun _ => State.countEv_proc) State.countEv_mem State.countEv_pondMark

theorem SumsOnly.fed {sp : Bool} {d : Desc} {src dst n v : Nat} {r : List Nat × Bool} (hp : s.pondMark = [])
    (e : s.feedVec k a sp d src dst n v = (t, r)) : SumsOnly s t k a := by
  obtain rfl : _ = t := congrArg Prod.fst e
  exact .of_proc (fun _ => State.feedVec_proc) State.feedVec_mem ((State.feedVec_pondMark hp).trans hp.symm)

theorem accWalk_sums (hp : s.pondMark = []) (o : ArrOp) (mask : List (List Bool)) (n i : Nat) (c : Nat × Nat) :
    SumsOnly s (s.accWalk k a o mask n i c).1 k a := by
  induction n generalizing s i c with
  | zero => exact .refl s
  | succ n ih =>
    rw [State.accWalk]
    split
    next s1 xs b1 e1 =>
    have h1 : SumsOnly s s1 k a := .fed hp e1
    split
    next s2 bs b2 e2 =>
    have h2 : SumsOnly s1 s2 k a := .fed (h1.marks.trans hp) e2
    extract_lets ws x
    split
    next acc z e =>
    extract_lets s3 s4
    have h3 : SumsOnly s2 s3 k a := .setArray ⟨x.ops, acc, z, _, x.split, List.suffix_rfl, rfl⟩
    have h4 : SumsOnly s s4 k a := ((h1.trans h2).trans h3).trans (.countEv ..)
    exact h4.trans (ih (h4.marks.trans hp) _ _)

theorem performAcc_sums (hp : s.pondMark = []) (o : ArrOp) : SumsOnly s (s.performAcc k a o) k a := by
  unfold State.performAcc
  extract_lets sp x s1 mask s2
  have h1 : SumsOnly s s1 k a := .setArray ⟨x.ops, x.acc, x.accZ, _, _, List.suffix_rfl, rfl⟩
  split
  · exact h1
  have h2 : SumsOnly s s2 k a := h1.trans (.setArray (Arr.maskAcc_sums ..))
  split
  next s3 l0 l1 e =>
  have h3 : SumsOnly s2 s3 k a := by
    have h := accWalk_sums (k := k) (a := a) (h2.marks.trans hp) o mask o.k 0 (0, 0)
    rwa [e] at h
  exact (h2.trans h3).trans (.countEv ..)

/-- What an array performs by itself changes its queue and sums only. -/
theorem settle_sums (hp : s.pondMark = []) (n : Nat) : SumsOnly s (s.settle k a n) k a := by
  induction n generalizing s with
  | zero => exact .refl s
  | succ n ih =>
    rw [State.settle]
    split
    next o rest he =>
      split
      · have h1 : SumsOnly s (s.setArray k a { s.array k a with ops := rest }) k a :=
          .setArray ⟨rest, _, _, _, _, he ▸ List.suffix_cons .., rfl⟩
        have h2 := h1.trans (performAcc_sums (h1.marks.trans hp) o)
        exact h2.trans (ih (h2.marks.trans hp))
      · exact .refl s
    next => exact .refl s

/-- An instruction that has been issued stays so while its array works. -/
theorem ArrIssued.sums (h : ArrIssued s t k) (g : SumsOnly t u k a) : ArrIssued s u k := by
  obtain ⟨y, hy, _⟩ := g.own
  obtain ⟨a0, a1, tags, c0, c1, hq⟩ := Proc.setArr_only (t.proc k) a y
  rw [hq] at hy
  exact
    { pc := by rw [hy]; exact h.pc
      regs := fun r => by rw [hy]; exact h.regs r
      flags := by rw [hy]; exact h.flags
      others := fun j hj => (g.others j hj).trans (h.others j hj)
      mem := fun ht => g.mem.trans (h.mem ht) }

end

/-! ## Issue of an `aacc` -/

/-- Does `aacc` read the headers of the operand `d`, of an operation in format `fmt` (R99, R103)? -/
def accHdrs (d : Desc) (fmt : Nat) : Bool := dHdrv d && (dFollow d || fmt == 0)

/-- The window top of an `aacc` in format `fmt` (R106). -/
def accTopOf (p : Proc) (f : BitVec 57) (fmt : Nat) : Option Int := if fmt = 0 then none else some (p.getS (lRc f)).toInt

/-- The operation that `aacc` queues, with the headers of its operands. -/
def accOp (p : Proc) (f : BitVec 57) (hx hy : List TileHdr) : ArrOp :=
  let fmt := resolveFmt p.nf (p.getD (lD1 f))
  { newOp p .acc (lAr f) with
    d1 := p.getD (lD1 f), d2 := p.getD (lD2 f), d3 := p.getD (lD3 f), k := (p.getS (lRa f)).toNat, top := accTopOf p f fmt,
    gm := lFlags f / 2 == 1, src1 := hx.map (·.fmt), src2 := hy.map (·.fmt), fmt := fmt, out := fmt }

/-- The array of an `aacc`: its sums are open in the operation's format and window (R106, R109). -/
def accArr (p : Proc) (f : BitVec 57) : Arr :=
  let fmt := resolveFmt p.nf (p.getD (lD1 f))
  { p.arr (lAr f) with accLive := true, accFmt := fmt, accTop := accTopOf p f fmt }

/-- The bitmaps and the mask that an `aacc` reads at its issue. -/
def accMeta (x y m : Desc) (kk : Nat) (gm : Bool) : List (Word × Nat) :=
  bitmapRanges x 128 kk ++ bitmapRanges y 128 kk ++ if gm then [(dMd m, 1088)] else []

/-- Everything that an `aacc` reads. -/
def accRanges (x y m : Desc) (fmt kk : Nat) (gm : Bool) : List (Word × Nat) :=
  vecRanges x (esize fmt) (128 * esize fmt) kk ++ vecRanges y (esize fmt) (128 * esize fmt) kk ++
    (if accHdrs x fmt then hdrRanges x kk else []) ++ (if accHdrs y fmt then hdrRanges y kk else []) ++ accMeta x y m kk gm

theorem accRanges_granted {k fmt kk : Nat} {x y m : Desc} {gm : Bool} (h : refusedIn k (accRanges x y m fmt kk gm) = none) :
    refusedIn k (accMeta x y m kk gm) = none ∧ (accHdrs x fmt = true → refusedIn k (hdrRanges x kk) = none) ∧
      (accHdrs y fmt = true → refusedIn k (hdrRanges y kk) = none) := by
  simp only [accRanges, refusedIn_append] at h
  obtain ⟨⟨⟨_, hx⟩, hy⟩, hm⟩ := h
  exact ⟨hm, fun hv => by rwa [if_pos hv] at hx, fun hv => by rwa [if_pos hv] at hy⟩

theorem execAacc_queues {c : CoreId} {f : BitVec 57} {s s' : State} {p : Proc} {x y m : Desc} {fmt kk : Nat}
    (hp : p = s'.proc (coreKey c)) (hx : x = p.getD (lD1 f)) (hy : y = p.getD (lD2 f)) (hm : m = p.getD (lD3 f))
    (hk : kk = (p.getS (lRa f)).toNat) (hfmt : fmt = resolveFmt p.nf x)
    (hi : Issues s s' (coreKey c) [.d (lD1 f), .d (lD2 f), .d (lD3 f), .s (lRa f), .s (lRc f)] 8)
    (hok : lOk f ['r', '1', '2', '3', 'a', 'c'] 4 = true)
    (hacc : Accepted s' (coreKey c) (lAr f) none [s'.arrOut (coreKey c) (lAr f), aaccTrap p f (lAr f)]
      (accRanges x y m fmt kk (lFlags f / 2 == 1)))
    (hclean : s'.pondMark = []) (hmask : (lFlags f / 2 == 1) = true → s'.t24Bad (dMd m) = false)
    (hxf : accHdrs x fmt = true → s'.HdrsFit x kk fmt) (hyf : accHdrs y fmt = true → s'.HdrsFit y kk fmt) :
    ∃ cs, exec (.aacc (.core c) f) s = .next
      (((s'.withClusters cs).retire (coreKey c)
        (p.queue (lAr f) 0 (accArr p f) (accOp p f (s'.hdrsIf (accHdrs x fmt) x kk) (s'.hdrsIf (accHdrs y fmt) y kk))) 8 false 1).settle
          (coreKey c) (lAr f) ((p.arr (lAr f)).ops.length + 1)) := by
  have hwf : (isCore (coreKey c) && lOk f ['r', '1', '2', '3', 'a', 'c'] 4) = true := by rw [isCore_coreKey, hok]; rfl
  obtain ⟨hgm, hgx, hgy⟩ := accRanges_granted hacc.granted
  obtain ⟨cs1, hr1⟩ := readHdrs_operand hclean hgx (lAr f) p.span.isSome s'.clusters
  obtain ⟨cs2, hr2⟩ := readHdrs_operand hclean hgy (lAr f) p.span.isSome cs1
  subst hp hx hy hm hk hfmt
  refine ⟨cs2, ?_⟩
  change execAacc (.core c) f s = _
  refine congrArg Host.Outcome.next ?_
  rw [unitKey, issue64_eq hi hwf]
  extract_lets p x y m kk fmt hx hy bits
  split
  next h => exact absurd (hacc.ready.symm.trans h) Bool.false_ne_true
  split
  next t ht => cases hacc.legal.symm.trans ht
  split
  next s2 refd e2 =>
  obtain ⟨rfl, rfl⟩ := Prod.mk.inj ((refuseRanges_granted s' hacc.granted).symm.trans e2)
  split
  next s3 unc e3 =>
  obtain ⟨rfl, rfl⟩ := Prod.mk.inj ((readMeta_granted hclean hgm).symm.trans e3)
  extract_lets bad
  split
  next h =>
    simp only [Bool.and_eq_true] at h
    obtain ⟨⟨_, hg⟩, ht⟩ := h
    cases (hmask hg).symm.trans ht
  split
  next s4 hs1 e4 =>
  rw [show (hx && !bad) = accHdrs x fmt from Bool.and_true _] at e4
  obtain ⟨rfl, rfl⟩ := Prod.mk.inj (hr1.symm.trans e4)
  split
  next s5 hs2 e5 =>
  rw [show (hy && !bad) = accHdrs y fmt from Bool.and_true _] at e5
  obtain ⟨rfl, rfl⟩ := Prod.mk.inj (hr2.symm.trans e5)
  split
  next t ht =>
    have h1 := hdrTrap_hdrsIf (s := s') (follow := dFollow x) hxf
    have h2 := hdrTrap_hdrsIf (s := s') (follow := dFollow y) hyf
    cases (firstTrap_eq_none.mpr (by simp only [List.forall_mem_cons]; exact ⟨h1, h2, by simp⟩)).symm.trans ht
  extract_lets p1 r top r1 op
  have hop : op = accOp p f (s'.hdrsIf (accHdrs x fmt) x kk) (s'.hdrsIf (accHdrs y fmt) y kk) := by
    simp only [op, hdrSrcs_map_some, any_isNone_map_some]
    rfl
  rw [hop, Proc.queue, Proc.drainDraws_zero]
  rfl

end Sys2Proof.Machine
end

section
/-! One position of an `aacc` of plain binary16 operands (O20): each register grows by the exact product (`accPosition_adds`). -/

namespace Sys2Proof.Machine
open Sys2Proof

/-! ## One product -/

/-- A binary16 datum is a multiple of 2^−24. -/
theorem unpack_binary16_exp (x : Nat) : -24 ≤ (unpack (Fmt.of 0) x).exp := by
  unfold unpack
  extract_lets sg ef fr
  (repeat' split) <;> simp [Fmt.of, Fmt.emin, Fmt.bias]
  omega

theorem Unp.isNan_of_finite {u : Unp} (h : u.finite = true) : u.isNan = false := by
  cases hc : u.cls <;> simp_all [Unp.finite, Unp.isNan]

theorem Unp.cls_ne_inf_of_finite {u : Unp} (h : u.finite = true) : (u.cls == .inf) = false := by
  cases hc : u.cls <;> simp_all [Unp.finite]

/-- The product of two signed significands is the product of the magnitudes under the exclusive or of the signs. -/
theorem Unp.int_mul_int (a b : Unp) :
    a.int * b.int = if (a.sign ^^ b.sign) = true then -((a.mant * b.mant : Nat) : Int) else ((a.mant * b.mant : Nat) : Int) := by
  cases ha : a.sign <;> cases hb : b.sign <;> simp [Unp.int, ha, hb]

/-- A register that takes the product of two finite binary16 data grows by it, exactly (R54). -/
theorem mulAdd_reg {x y : Nat} (hx : (unpack (Fmt.of 0) x).finite = true) (hy : (unpack (Fmt.of 0) y).finite = true) (c : Cell) :
    (c.mulAdd (Fmt.of 0) none x y).reg = c.reg + prod48 x y := by
  have he : regExp none ≤ (unpack (Fmt.of 0) x).exp + (unpack (Fmt.of 0) y).exp := by
    have h1 := unpack_binary16_exp x
    have h2 := unpack_binary16_exp y
    simp only [regExp]
    omega
  unfold Cell.mulAdd prod48
  rw [Unp.int_mul_int]
  simp only [Unp.isNan_of_finite hx, Unp.isNan_of_finite hy, Unp.cls_ne_inf_of_finite hx, Unp.cls_ne_inf_of_finite hy,
    Bool.false_and, Bool.and_false, Bool.or_self, Bool.false_eq_true, if_false]
  split
  next h0 => simp [h0]
  next h0 =>
    dsimp only [regExp]
    rw [sub_neg_eq_add]
    split <;> push_cast <;> ring

/-! ## One position -/

/-- An element of a list that is formed from two lists. -/
theorem getD_zipWith {α β γ : Type} {f : α → β → γ} {as : List α} {bs : List β} {j : Nat} (ha : j < as.length)
    (hb : j < bs.length) (x : α) (y : β) (z : γ) : (List.zipWith f as bs).getD j z = f (as.getD j x) (bs.getD j y) := by
  simp [List.getD, ha, hb]

/-- The row of registers `cells` after the element `x` has met the north row `bs`. -/
theorem rowInto_some (F : Fmt) (top : Option Int) (x : Nat) (cells : List Cell) (bs : List Nat) :
    rowInto F top x cells (bs.map some) = List.zipWith (fun c y => c.mulAdd F top x y) cells bs := by
  simp [rowInto, List.zipWith_map_right]

/-- The operation is an `aacc` of binary16 tensors without headers, bitmaps, row split and gradient mask. -/
structure PlainAcc (o : ArrOp) : Prop where
  exact  : o.fmt = 0 ∧ o.top = none
  own    : o.src1 = [] ∧ o.src2 = []
  tensor : dKind o.d1 = 0 ∧ dKind o.d2 = 0
  dense  : dMdv o.d1 = false ∧ dMdv o.d2 = false
  whole  : dRsplit o.d1 = false
  all    : o.gm = false ∧ o.fail = false

theorem westVec_plain {o : ArrOp} (ho : PlainAcc o) (bm kpos : Nat) (xs : List Nat) :
    westVec o bm kpos xs = (List.range 128).map (fun i => some (xs.getD i 0)) := by
  simp [westVec, ho.whole, ho.dense.1]

/-- Every row of registers is whole. -/
def Arr.Whole (x : Arr) : Prop := ∀ i < 128, (x.accRow i).1.length = 128

/-- Register (i, j) of an array. -/
def Arr.regAt (x : Arr) (i j : Nat) : Int := ((x.accRow i).1.getD j Cell.fresh).reg

/-- The array `y` holds the sums of `x` and the products of the west vector `xs` and the north vector `bs`. -/
structure Adds (x y : Arr) (xs bs : List Nat) : Prop where
  whole : y.Whole
  sums  : ∀ i < 128, ∀ j < 128, y.regAt i j = x.regAt i j + prod48 (xs.getD i 0) (bs.getD j 0)

theorem accPosition_adds {o : ArrOp} (ho : PlainAcc o) {x : Arr} (hx : x.Whole) {bm kpos : Nat} {xs bs : List Nat}
    (hb : bs.length = 128)
    (hfin : ∀ i < 128, (unpack (Fmt.of 0) (xs.getD i 0)).finite = true ∧ (unpack (Fmt.of 0) (bs.getD i 0)).finite = true)
    (z : List Nat) (fail : Bool) :
    Adds x { x with acc := (accPosition o [] (westVec o bm kpos xs) bs x.acc x.accZ).1, accZ := z, accFail := fail } xs bs := by
  have hrow (i : Nat) (hi : i < 128) :
      (Arr.accRow { x with acc := (accPosition o [] (westVec o bm kpos xs) bs x.acc x.accZ).1, accZ := z, accFail := fail } i).1 =
        List.zipWith (fun c y => c.mulAdd (Fmt.of 0) none (xs.getD i 0) y) (x.accRow i).1 bs := by
    simp only [Arr.accRow, accPosition, westVec_plain ho, List.map_map, getD_map_range hi, Function.comp_apply, northRow, rowInto_some,
      ho.exact.1, ho.exact.2]
  constructor
  · intro i hi
    rw [hrow i hi, List.length_zipWith, hx i hi, hb]
    rfl
  · intro i hi j hj
    obtain ⟨hf, _⟩ := hfin i hi
    obtain ⟨_, hg⟩ := hfin j hj
    rw [Arr.regAt, hrow i hi, getD_zipWith (by rw [hx i hi]; exact hj) (by rw [hb]; exact hj) Cell.fresh 0, mulAdd_reg hf hg]
    rfl

end Sys2Proof.Machine
end

section
/-! All positions of a plain `aacc` (O20), and the pond bytes that it reads: retirement of its instruction writes trace lines only,
which go to the Lake (`retire_ponds`). -/

namespace Sys2Proof.Machine
open Sys2Proof

/-! ## All positions -/

section
variable {s t : State} {k a : Nat}

/-- The 128 binary16 data of vector `v` of an operand. -/
def State.vecRow (s : State) (d : Desc) (v : Nat) : List Nat := (List.range 128).map (s.vecNat d 2 v)

theorem vecNat_congr (h : t.mem = s.mem) (d : Desc) (es v j : Nat) : t.vecNat d es v j = s.vecNat d es v j := by
  rw [State.vecNat, State.natAt, h]
  rfl

/-- The product of position `v` in register (i, j), in units of 2^−48 (R54). -/
def State.product (s : State) (o : ArrOp) (i j v : Nat) : Int := prod48 (s.vecNat o.d1 2 v i) (s.vecNat o.d2 2 v j)

/-- The operands of position `v` are finite. -/
def State.FiniteAt (s : State) (o : ArrOp) (v : Nat) : Prop :=
  ∀ i < 128, (unpack (Fmt.of 0) (s.vecNat o.d1 2 v i)).finite = true ∧ (unpack (Fmt.of 0) (s.vecNat o.d2 2 v i)).finite = true

theorem array_countEv {ev arr n : Nat} : (s.countEv k ev arr n).array k a = s.array k a := by
  rw [State.array, State.countEv_proc]
  rfl

/-- One position of a plain `aacc` (R106). -/
theorem accWalk_step (hp : s.pondMark = []) {o : ArrOp} (ho : PlainAcc o) (hw : (s.array k a).Whole) (n i : Nat) (c : Nat × Nat)
    (hfin : s.FiniteAt o i) :
    ∃ (u : State) (c' : Nat × Nat), s.accWalk k a o [] (n + 1) i c = u.accWalk k a o [] n (i + 1) c' ∧ u.mem = s.mem ∧
      u.pondMark = [] ∧ Adds (s.array k a) (u.array k a) (s.vecRow o.d1 i) (s.vecRow o.d2 i) := by
  have hsrc (v : Nat) : srcOf [] o.fmt v = o.fmt := rfl
  have hes : esize o.fmt = 2 := by rw [ho.exact.1]; rfl
  rw [State.accWalk]
  simp only [ho.own.1, ho.own.2, hsrc, feedVec_tensor hp ho.tensor.1, feedVec_tensor hp ho.tensor.2, hes, bitmapped_dense ho.dense.2,
    ho.dense.1, Bool.false_eq_true, if_false]
  refine ⟨_, _, rfl, ?_, ?_, ?_⟩
  · rw [State.countEv_mem, State.setArray_mem]
  · rw [State.countEv_pondMark]
    exact hp
  · rw [array_countEv, State.array_setArray]
    exact accPosition_adds ho hw (by simp) (fun q hq => by simpa only [State.vecRow, getD_map_range hq] using hfin q hq) _ _

/-- The registers grow by the products of all positions (R54, R106). -/
theorem accWalk_reg (hp : s.pondMark = []) {o : ArrOp} (ho : PlainAcc o) (hw : (s.array k a).Whole) (n m : Nat) (c : Nat × Nat)
    (hfin : ∀ v < n, s.FiniteAt o (m + v)) {i j : Nat} (hi : i < 128) (hj : j < 128) :
    ((s.accWalk k a o [] n m c).1.array k a).regAt i j =
      (s.array k a).regAt i j + ((List.range n).map (fun v => s.product o i j (m + v))).sum := by
  induction n generalizing s m c with
  | zero => simp [State.accWalk]
  | succ n ih =>
    obtain ⟨u, c', hstep, hmem, hmarks, hadds⟩ := accWalk_step (k := k) (a := a) hp ho hw n m c (hfin 0 n.succ_pos)
    have hfin' (v : Nat) (hv : v < n) : u.FiniteAt o (m + 1 + v) := fun q hq => by
      rw [vecNat_congr hmem, vecNat_congr hmem, Nat.add_right_comm]
      exact hfin (v + 1) (by omega) q hq
    have hprod (v : Nat) : u.product o i j (m + 1 + v) = s.product o i j (m + (v + 1)) := by
      simp only [State.product, vecNat_congr hmem, Nat.add_right_comm m 1 v, Nat.add_assoc]
    rw [hstep, ih hmarks hadds.whole (m + 1) c' hfin', hadds.sums i hi j hj, List.range_succ_eq_map, List.map_cons, List.sum_cons,
      List.map_map]
    simp only [State.vecRow, getD_map_range hi, getD_map_range hj, hprod]
    rw [add_assoc]
    rfl

/-- A plain `aacc` adds its exact products to the registers. -/
theorem performAcc_reg (hp : s.pondMark = []) {o : ArrOp} (ho : PlainAcc o) (hw : (s.array k a).Whole)
    (hfin : ∀ v < o.k, s.FiniteAt o v) {i j : Nat} (hi : i < 128) (hj : j < 128) :
    ((s.performAcc k a o).array k a).regAt i j =
      (s.array k a).regAt i j + ((List.range o.k).map (s.product o i j)).sum := by
  unfold State.performAcc
  extract_lets sp x s1 mask s2
  rw [if_neg (by rw [ho.all.2]; exact Bool.false_ne_true)]
  have hmask : mask = [] := if_pos (by rw [ho.all.1]; rfl)
  have h1 : s1.array k a = { x with split := if sp.isSome then sp else x.split, accFail := x.accFail || o.fail } :=
    State.array_setArray ..
  have h2 : s2.array k a = s1.array k a := (State.array_setArray ..).trans (by rw [hmask]; rfl)
  have hw2 : (s2.array k a).Whole := by rw [h2, h1]; exact hw
  have hsum := accWalk_reg (s := s2) hp ho hw2 o.k 0 (0, 0) (fun v hv => by rw [Nat.zero_add]; exact hfin v hv) hi hj
  split
  next s3 l0 l1 e =>
  rw [hmask] at e
  rw [e, h2, h1] at hsum
  rw [array_countEv]
  refine hsum.trans ?_
  simp only [Nat.zero_add]
  rfl

/-! ## The registers of an array that has not begun -/

theorem Arr.whole_of_empty {x : Arr} (h : x.acc = []) : x.Whole := by
  intro i _
  simp [Arr.accRow, h]

theorem Arr.regAt_of_empty {x : Arr} (h : x.acc = []) (i j : Nat) : x.regAt i j = 0 := by
  rw [Arr.regAt, Arr.accRow, h, List.getD_nil, List.getD_eq_getElem?_getD, List.getElem?_getD_replicate_default_eq]
  rfl

end

/-! ## What a traced core's instruction leaves in the ponds -/

/-- Below the Lake's keys `t` holds the bytes of `s`. -/
structure SamePonds (s t : State) : Prop where
  byte : ∀ b < 2 ^ 56, memByte t.mem b = memByte s.mem b

section
variable {s t : State}

theorem SamePonds.trans {u : State} (h : SamePonds s t) (g : SamePonds t u) : SamePonds s u :=
  ⟨fun b hb => (g.byte b hb).trans (h.byte b hb)⟩

theorem SamePonds.of_mem (h : t.mem = s.mem) : SamePonds s t := ⟨fun b _ => by rw [h]⟩

theorem SamePonds.withTrace (h : SamePonds s t) (tr : Trace) : SamePonds s { t with trace := tr } := ⟨h.byte⟩

/-- Trace lines go to the Lake (R608). -/
theorem putLine_ponds (s : State) (r : Nat) (line : List Byte) : SamePonds s (s.putLine r line) :=
  ⟨fun b hb => memByte_write_outside _ _ _ _ (.inl (by unfold lakeKey; omega))⟩

theorem dropLine_mem (s : State) (r : Nat) : (s.dropLine r).mem = s.mem := rfl

theorem traceLine_ponds (s : State) (r : Nat) (line : List Byte) : SamePonds s (s.traceLine r line) := by
  unfold State.traceLine
  split
  · exact .of_mem (dropLine_mem ..)
  · extract_lets g
    split
    · exact putLine_ponds ..
    · rename_i s1 _ s2 _
      have h2 : SamePonds s s2 := (putLine_ponds ..).withTrace _
      split
      · exact h2.trans (putLine_ponds ..)
      · exact h2.trans (.of_mem (dropLine_mem ..))

theorem traceAtom_ponds (s : State) (k : Nat) (pc : Word) (atom : Nat) : SamePonds s (s.traceAtom k pc atom) := by
  unfold State.traceAtom
  split
  · exact .of_mem rfl
  · extract_lets l l1 src line
    split
    · exact ⟨(traceLine_ponds { s with trace := _ } 0 line).byte⟩
    · exact .of_mem rfl

theorem retire_ponds (s : State) (k : Nat) (p : Proc) (len : Nat) (slot0 : Bool) (atom : Nat) :
    SamePonds s (s.retire k p len slot0 atom) := by
  unfold State.retire
  extract_lets pc
  have h (ev : Nat) : SamePonds s ((s.setProc k (p.pcAt (pc + BitVec.ofNat 64 len))).countEv k ev 2 1) := .of_mem State.countEv_mem
  exact (h _).trans (traceAtom_ponds ..)

theorem SamePonds.memRead (h : SamePonds s t) {b n : Nat} (hb : b + n ≤ 2 ^ 56) : memRead t.mem b n = memRead s.mem b n := by
  induction n generalizing b with
  | zero => rfl
  | succ n ih => rw [Machine.memRead, Machine.memRead, h.byte b (by omega), ih (by omega)]

theorem toNat_lt_of_place {x : Word} {st cl off : Nat} (h : place x = .pond st cl off) : x.toNat < 2 ^ 36 := by
  have hx := x.isLt
  unfold place at h
  dsimp only at h
  split at h
  next h56 =>
    split at h
    next h36 => omega
    next => nomatch h
  case h_7 => nomatch h
  all_goals (split at h <;> nomatch h)

/-- The data of a granted vector are the same in both. -/
theorem SamePonds.vecNat (h : SamePonds s t) {k n : Nat} {d : Desc} {v i : Nat} (hg : ownPond k (dVec d v) n = true) (hi : i < 128) :
    t.vecNat d 2 v i = s.vecNat d 2 v i := by
  obtain ⟨st, cl, off, hx⟩ := place_of_ownPond hg
  have hlt := toNat_lt_of_place hx
  refine congrArg leNat (h.memRead ?_)
  rw [BitVec.toNat_add, BitVec.toNat_ofNat]
  omega

end

end Sys2Proof.Machine
end

section
/-! The obligation about `aacc` (O20). -/

namespace Sys2Proof.Machine
open Sys2Proof

section
variable {s : State} {k a : Nat}

/-- Retirement leaves the marks of the ponds and the safety unit as they are. -/
theorem retire_marks_safety (s : State) (k : Nat) (p : Proc) (len : Nat) (slot0 : Bool) (atom : Nat) :
    (s.retire k p len slot0 atom).pondMark = s.pondMark ∧ (s.retire k p len slot0 atom).safety = s.safety := by
  obtain ⟨_, _, _, _, h⟩ := (retire_retired s k p len slot0 atom).rest
  rw [h]
  exact ⟨rfl, rfl⟩

/-- The queue of array `a` is empty; all else is as in `s`. -/
def State.emptied (s : State) (k a : Nat) : State := s.setArray k a { s.array k a with ops := [] }

theorem array_emptied (s : State) (k a : Nat) : (s.emptied k a).array k a = { s.array k a with ops := [] } :=
  State.array_setArray ..

/-- An array whose only operation is an `aacc` performs it. -/
theorem settle_only_acc {o : ArrOp} (hops : (s.array k a).ops = [o]) (hk : o.kind = .acc) (hf : s.safety.fence = false) :
    s.settle k a 1 = (s.emptied k a).performAcc k a o := by
  simp [State.settle, State.emptied, hops, hk, hf]

theorem settle_only_acc_ops {o : ArrOp} (hp : s.pondMark = []) (hops : (s.array k a).ops = [o]) (hk : o.kind = .acc)
    (hf : s.safety.fence = false) : ((s.settle k a 1).array k a).ops = [] := by
  have h := (performAcc_sums (s := s.emptied k a) (k := k) (a := a) hp o).array.ops
  rw [array_emptied] at h
  rw [settle_only_acc hops hk hf]
  exact List.suffix_nil.mp h

/-- The data of the positions of `o` are in `t` those of `s`. -/
def SameData (s t : State) (o : ArrOp) : Prop :=
  ∀ v < o.k, ∀ i < 128, t.vecNat o.d1 2 v i = s.vecNat o.d1 2 v i ∧ t.vecNat o.d2 2 v i = s.vecNat o.d2 2 v i

/-- An array that has nothing else to do performs a plain `aacc` at once: sums that were not open become the exact products of the
data that the operation was issued with (R54, R106). -/
theorem settle_plain {t : State} {o : ArrOp} (hp : t.pondMark = []) (hops : (t.array k a).ops = [o]) (hk : o.kind = .acc)
    (hf : t.safety.fence = false) (ho : PlainAcc o) (hacc : (t.array k a).acc = []) (hsame : SameData s t o)
    (hfin : ∀ v < o.k, s.FiniteAt o v) {i j : Nat} (hi : i < 128) (hj : j < 128) :
    ((t.settle k a 1).array k a).regAt i j = ((List.range o.k).map (s.product o i j)).sum := by
  have hempty : ((t.emptied k a).array k a).acc = [] := by rw [array_emptied]; exact hacc
  have hfin' (v : Nat) (hv : v < o.k) : (t.emptied k a).FiniteAt o v := fun q hq => by
    obtain ⟨hx, hy⟩ := hsame v hv q hq
    change (unpack _ (t.vecNat o.d1 2 v q)).finite = true ∧ (unpack _ (t.vecNat o.d2 2 v q)).finite = true
    rw [hx, hy]
    exact hfin v hv q hq
  rw [settle_only_acc hops hk hf, performAcc_reg (s := t.emptied k a) hp ho (Arr.whole_of_empty hempty) hfin' hi hj,
    Arr.regAt_of_empty hempty, zero_add]
  refine congrArg List.sum (List.map_congr_left fun v hv => ?_)
  rw [List.mem_range] at hv
  exact congrArg₂ prod48 (hsame v hv i hi).1 (hsame v hv j hj).2

/-- The north operand of an `aacc` that does not trap is a tensor (R106). -/
theorem kind_north_of_aaccTrap {p : Proc} {f : BitVec 57} (h : aaccTrap p f a = none) : dKind (p.getD (lD2 f)) = 0 := by
  unfold aaccTrap at h
  have hd := firstTrap_eq_none.mp h (descTrap (lD2 f) (p.getD (lD2 f)) [0]) (by simp)
  rw [descTrap, when'_eq_none] at hd
  simpa using (Bool.or_eq_false_iff.mp (Bool.or_eq_false_iff.mp hd).1).1

/-- The vectors of a granted operand that is no window lie in the core's own pond. -/
theorem ownPond_of_vecRanges {d : Desc} {es len n v : Nat} (h : refusedIn k (vecRanges d es len n) = none) (hd : dKind d = 0) (hv : v < n) :
    ownPond k (dVec d v) len = true := by
  rw [vecRanges, if_neg (by omega)] at h
  exact refusedIn_eq_none.mp h (dVec d v, len) (List.mem_map.mpr ⟨v, List.mem_range.mpr hv, rfl⟩)

/-- The `aacc` of plain binary16 operands is a plain operation. -/
theorem plainAcc_accOp {p : Proc} {f : BitVec 57} (hfmt : resolveFmt p.nf (p.getD (lD1 f)) = 0)
    (htensor : dKind (p.getD (lD1 f)) = 0 ∧ dKind (p.getD (lD2 f)) = 0)
    (hdense : dMdv (p.getD (lD1 f)) = false ∧ dMdv (p.getD (lD2 f)) = false) (hwhole : dRsplit (p.getD (lD1 f)) = false)
    (hmask : lFlags f / 2 = 0) : PlainAcc (accOp p f [] []) :=
  { exact := ⟨hfmt, by rw [accOp, accTopOf, hfmt]; rfl⟩
    own := ⟨rfl, rfl⟩
    tensor := htensor
    dense := hdense
    whole := hwhole
    all := ⟨by rw [accOp, hmask]; rfl, rfl⟩ }

end

/-- The state that an accepted `aacc` leaves to its array: the operation is queued, and marks, safety unit and pond bytes are as they
were at its issue. -/
theorem execAacc_issues {c : CoreId} {f : BitVec 57} {s s' : State} {p : Proc} {x y m : Desc} {fmt kk : Nat}
    (hp : p = s'.proc (coreKey c)) (hx : x = p.getD (lD1 f)) (hy : y = p.getD (lD2 f)) (hm : m = p.getD (lD3 f))
    (hk : kk = (p.getS (lRa f)).toNat) (hfmt : fmt = resolveFmt p.nf x)
    (hi : Issues s s' (coreKey c) [.d (lD1 f), .d (lD2 f), .d (lD3 f), .s (lRa f), .s (lRc f)] 8)
    (hok : lOk f ['r', '1', '2', '3', 'a', 'c'] 4 = true)
    (hacc : Accepted s' (coreKey c) (lAr f) none [s'.arrOut (coreKey c) (lAr f), aaccTrap p f (lAr f)]
      (accRanges x y m fmt kk (lFlags f / 2 == 1)))
    (hclean : s'.pondMark = []) (hmask : (lFlags f / 2 == 1) = true → s'.t24Bad (dMd m) = false)
    (hxf : accHdrs x fmt = true → s'.HdrsFit x kk fmt) (hyf : accHdrs y fmt = true → s'.HdrsFit y kk fmt) :
    ∃ r, exec (.aacc (.core c) f) s = .next (r.settle (coreKey c) (lAr f) ((p.arr (lAr f)).ops.length + 1)) ∧
      Queued s' r (coreKey c) (lAr f) 0 (accArr p f)
        (accOp p f (s'.hdrsIf (accHdrs x fmt) x kk) (s'.hdrsIf (accHdrs y fmt) y kk)) ∧
      r.pondMark = [] ∧ r.safety = s'.safety ∧ SamePonds s' r := by
  obtain ⟨cs, hexec⟩ := execAacc_queues hp hx hy hm hk hfmt hi hok hacc hclean hmask hxf hyf
  obtain ⟨hmarks, hsafety⟩ := retire_marks_safety (s'.withClusters cs) (coreKey c) _ 8 false 1
  refine ⟨_, hexec, ?_, hmarks.trans hclean, hsafety, ⟨(retire_ponds (s'.withClusters cs) ..).byte⟩⟩
  rw [hp]
  exact retire_queued ..

end Sys2Proof.Machine

open Sys2Proof Sys2Proof.Machine

/-- Settles O20: `execAacc_issues` queues the operation, the array's own work keeps the issue by `ArrIssued.sums`, and for plain
operands `settle_plain` gives the sums; the pond bytes that the operation reads are those at its issue, as retirement writes trace
lines only. -/
theorem accumulateOpensSums : Obligations.AccumulateOpensSums := by
  rintro c f s s' k a p x y m fmt kk gm hx hy rfl hp rfl hi hok rfl hxd hyd hmd hfmt hkk rfl rfl hstall htrap hclean hgrant hmask hxf hyf
  have hranges : refusedIn (coreKey c) (accRanges x y m fmt kk (lFlags f / 2 == 1)) = none := by
    simp only [accRanges, accMeta, beq_iff_eq]
    exact hgrant
  obtain ⟨r, hexec, hq, hmarks, hsafety, hponds⟩ := execAacc_issues hp hxd hyd hmd hkk hfmt hi hok ⟨hstall, htrap, hranges⟩ hclean
    (fun h => hmask (beq_iff_eq.mp h)) hxf hyf
  obtain ⟨o, ho⟩ : ∃ o, o = accOp p f (s'.hdrsIf (accHdrs x fmt) x kk) (s'.hdrsIf (accHdrs y fmt) y kk) := ⟨_, rfl⟩
  have hkind : o.kind = .acc := by rw [ho]; rfl
  have hd1 : o.d1 = x := by rw [ho, hxd]; rfl
  have hd2 : o.d2 = y := by rw [ho, hyd]; rfl
  have hcount : o.k = kk := by rw [ho, hkk]; rfl
  rw [← ho] at hq
  have hwork := settle_sums (k := coreKey c) (a := lAr f) hmarks ((p.arr (lAr f)).ops.length + 1)
  obtain ⟨ops, acc, z, fail, sp, -, hsums⟩ := hwork.array
  rw [State.array, State.array, hq.arr] at hsums
  refine ⟨_, hexec, hq.issued.sums hwork, ?_, ?_, ?_, ?_, ?_⟩
  · rw [hsums]
    rfl
  · rw [hsums, hfmt, hxd]
    rfl
  · rw [hsums, hfmt, hxd]
    rfl
  · rintro ⟨q, rest, hops, hwaits⟩
    have hrest := settle_of_head (s := r) (k := coreKey c) (a := lAr f)
      (fun o ho => by
        rw [State.array, hq.arr, show (accArr p f).ops = q :: rest from hops] at ho
        cases ho
        exact hwaits) ((p.arr (lAr f)).ops.length + 1)
    rw [hrest, hq.arr]
    exact ⟨o, rfl, hkind, hd1, hd2, hcount, by rw [ho, hfmt, hxd]; rfl, by rw [ho]; rfl, by rw [ho]; rfl, rfl⟩
  · intro hops hfence
    have hone : (r.array (coreKey c) (lAr f)).ops = [o] := by
      rw [State.array, hq.arr, show (accArr p f).ops = [] from hops]
      rfl
    have hf : r.safety.fence = false := by rw [hsafety]; exact hfence
    rw [hops]
    refine ⟨?_, ?_⟩
    · exact settle_only_acc_ops hmarks hone hkind hf
    · intro hzero hgm hacc _ _ hnx hny hbx hby htensor hsplit hfin i hi j hj
      have hy0 : dKind y = 0 := by
        rw [hyd]
        exact kind_north_of_aaccTrap (firstTrap_eq_none.mp htrap (aaccTrap p f (lAr f)) (by simp))
      have hplain : PlainAcc o := by
        rw [ho, show accHdrs x fmt = false from hnx, show accHdrs y fmt = false from hny]
        subst hxd hyd
        exact plainAcc_accOp (hfmt.symm.trans hzero) ⟨htensor, hy0⟩ ⟨hbx, hby⟩ hsplit hgm
      simp only [accRanges, refusedIn_append] at hranges
      obtain ⟨⟨⟨⟨hgx, hgy⟩, _⟩, _⟩, _⟩ := hranges
      have hsame : SameData s' r o := fun v hv q hq => by
        rw [hcount] at hv
        rw [hd1, hd2]
        exact ⟨hponds.vecNat (ownPond_of_vecRanges hgx htensor hv) hq, hponds.vecNat (ownPond_of_vecRanges hgy hy0 hv) hq⟩
      have hopen : (r.array (coreKey c) (lAr f)).acc = [] := by
        rw [State.array, hq.arr]
        exact hacc
      have hsum := settle_plain hmarks hone hkind hf hplain hopen hsame
        (fun v hv q hq => by rw [hd1, hd2]; exact hfin v (hcount ▸ hv) q hq) hi hj
      unfold State.product at hsum
      rwa [hcount, hd1, hd2] at hsum
end

section
/-! What the merges of index streams give (O28; R149, Table 4.4). A stream that is in order and below the extent is `Sound`: none of
its heads is faulty, and its rest is sound behind its head. On sound streams each merge is described by one lemma along its own
recursion, with any output gathered before: `mergeCoalesce_sound`, `mergeMatch_sound` and `mergeUnion_sound`. -/

namespace Sys2Proof.Machine
open Sys2Proof

/-! ## Streams in order -/

/-- The rest `as` of a stream whose last entry was `prev` rises, strictly where `strict` says so, and stays below the extent. -/
structure Sound (x : Nat) (strict : Bool) (prev : Option Nat) (as : List Nat) : Prop where
  order : (prev.toList ++ as).Pairwise (fun a b => if strict then a < b else a ≤ b)
  below : ∀ a ∈ as, a < x

section
variable {x : Nat} {strict : Bool} {prev : Option Nat} {a b : Nat} {as : List Nat}

theorem Sound.of_le (h : as.Pairwise (· ≤ ·)) (hx : ∀ a ∈ as, a < x) : Sound x false none as := ⟨by simpa using h, hx⟩

theorem Sound.of_lt (h : as.Pairwise (· < ·)) (hx : ∀ a ∈ as, a < x) : Sound x true none as := ⟨by simpa using h, hx⟩

theorem Sound.tail (h : Sound x strict prev (a :: as)) : Sound x strict (some a) as :=
  ⟨h.order.sublist (List.sublist_append_right _ _), fun b hb => h.below b (List.mem_cons_of_mem a hb)⟩

theorem Sound.prev_before (h : Sound x strict (some b) as) (ha : a ∈ as) : if strict then b < a else b ≤ a :=
  (List.pairwise_cons.mp h.order).1 a ha

theorem Sound.le_of_mem (h : Sound x strict prev (a :: as)) (hb : b ∈ a :: as) : a ≤ b := by
  rcases List.mem_cons.mp hb with rfl | hb
  · exact Nat.le_refl b
  · have := h.tail.prev_before hb
    cases strict <;> simp at this <;> omega

theorem Sound.lt_of_mem (h : Sound x true prev (a :: as)) (hb : b ∈ as) : a < b := by
  simpa using h.tail.prev_before hb

theorem headFault_sound (h : Sound x strict prev (a :: as)) : headFault x strict prev a = none := by
  have hx := h.below a (List.mem_cons_self ..)
  unfold headFault
  rw [if_neg (by omega)]
  cases prev with
  | none => rfl
  | some q =>
    have hq := h.prev_before (List.mem_cons_self ..)
    cases strict <;> simp at hq ⊢ <;> omega

theorem restFault_sound (h : Sound x true prev as) : restFault x prev as = none := by
  induction as generalizing prev with
  | nil => rfl
  | cons b bs ih => rw [restFault, headFault_sound h, ih h.tail]

end

/-! ## Coalesce -/

/-- Coalesce goes on from the unique indices found so far, the newest first: each further entry gives the position of its index. -/
theorem mergeCoalesce_sound {x : Nat} {xs : List Nat} {prev : Option Nat} {out uniq : List Nat} (h : Sound x false prev xs)
    (hprev : uniq.head? = prev) (hu : uniq.Pairwise (· > ·)) :
    ∃ ps us, mergeCoalesce x xs prev out uniq = ⟨out.reverse ++ ps, uniq.reverse ++ us, none⟩ ∧
      (uniq.reverse ++ us).Pairwise (· < ·) ∧ List.Forall₂ (fun p a => (uniq.reverse ++ us)[p]? = some a) ps xs := by
  induction xs generalizing prev out uniq with
  | nil => exact ⟨[], [], by simp [mergeCoalesce], by simpa [List.pairwise_reverse] using hu, .nil⟩
  | cons a as ih =>
    rw [mergeCoalesce, headFault_sound h]
    by_cases ha : prev = some a
    · subst hprev
      obtain ⟨r, rfl⟩ := List.head?_eq_some_iff.mp ha
      obtain ⟨ps, us, he, ho, hp⟩ := ih (out := ((a :: r).length - 1) :: out) h.tail rfl hu
      refine ⟨r.length :: ps, us, ?_, ho, .cons (by simp) hp⟩
      simpa using he
    · have hu' : (a :: uniq).Pairwise (· > ·) := by
        refine List.pairwise_cons.mpr ⟨fun u hm => ?_, hu⟩
        cases uniq with
        | nil => cases hm
        | cons q r =>
          subst hprev
          have hqa : q ≤ a := by simpa using h.prev_before (List.mem_cons_self ..)
          have hne : q ≠ a := fun e => ha (congrArg some e)
          have huq : u ≤ q := by
            rcases List.mem_cons.mp hm with rfl | hm
            · exact Nat.le_refl u
            · exact Nat.le_of_lt ((List.pairwise_cons.mp hu).1 u hm)
          show u < a
          omega
      obtain ⟨ps, us, he, ho, hp⟩ := ih (out := uniq.length :: out) h.tail rfl hu'
      rw [List.reverse_cons, List.append_assoc] at he ho hp
      refine ⟨uniq.length :: ps, a :: us, ?_, ho, .cons (by simp) hp⟩
      simpa [if_neg ha] using he

/-! ## Match -/

/-- What match answers for index `a` when the entries `bs` of the second stream, from its position `j` on, are left. -/
def matchAnswer (bs : List Nat) (j a : Nat) : Nat :=
  match bs.findIdx? (· == a) with
  | some i => j + i
  | none => 0xFFFFFFFF

section
variable {bs : List Nat} {j a b : Nat}

theorem matchAnswer_head : matchAnswer (a :: bs) j a = j := by simp [matchAnswer, List.findIdx?_cons]

theorem matchAnswer_absent (h : a ∉ bs) : matchAnswer bs j a = 0xFFFFFFFF := by
  have hf : bs.findIdx? (· == a) = none := by
    rw [List.findIdx?_eq_none_iff]
    rintro b hb
    exact beq_eq_false_iff_ne.mpr fun e => h (e ▸ hb)
  rw [matchAnswer, hf]

theorem matchAnswer_skip (h : b ≠ a) : matchAnswer (b :: bs) j a = matchAnswer bs (j + 1) a := by
  have hb : (b == a) = false := by simpa using h
  simp only [matchAnswer, List.findIdx?_cons, hb, Bool.false_eq_true, if_false]
  cases bs.findIdx? (· == a) with
  | none => rfl
  | some i => exact (Nat.add_right_comm j 1 i).symm

end

theorem mergeMatch_sound {x n : Nat} {as bs : List Nat} {j : Nat} {pa pb : Option Nat} {out : List Nat} (ha : Sound x false pa as)
    (hb : Sound x true pb bs) (hn : as.length + bs.length < n) :
    mergeMatch x n as bs j pa pb out = ⟨out.reverse ++ as.map (matchAnswer bs j), [], none⟩ := by
  induction n generalizing as bs j pa pb out with
  | zero => omega
  | succ n ih =>
    cases as with
    | nil => simp [mergeMatch, restFault_sound hb]
    | cons a as =>
      cases bs with
      | nil =>
        rw [mergeMatch, headFault_sound ha]
        refine (ih ha.tail hb (by simp at hn ⊢; omega)).trans ?_
        simp [matchAnswer_absent]
      | cons b bt =>
        rw [mergeMatch, headFault_sound ha]
        simp only [headFault_sound hb]
        simp only [List.length_cons] at hn
        rcases Nat.lt_trichotomy a b with hlt | rfl | hgt
        · have hab : a ∉ b :: bt := fun hm => absurd (hb.le_of_mem hm) (by omega)
          rw [if_neg (by omega), if_pos hlt, ih ha.tail hb (by simp; omega)]
          simp [matchAnswer_absent hab]
        · rw [if_pos rfl, ih ha.tail hb (by simp; omega)]
          simp [matchAnswer_head]
        · rw [if_neg (by omega), if_neg (by omega), ih ha hb.tail (by simp; omega)]
          have hskip : (a :: as).map (matchAnswer (b :: bt) j) = (a :: as).map (matchAnswer bt (j + 1)) :=
            List.map_congr_left fun c hc => matchAnswer_skip (by have := ha.le_of_mem hc; omega)
          rw [hskip]

/-! ## Union -/

/-- The entry of a union for index `i` (Table 4.4). -/
def unionEntry (as bs : List Nat) (i : Nat) : Nat := i + (if i ∈ as then 2 ^ 32 else 0) + (if i ∈ bs then 2 ^ 33 else 0)

/-- `es` holds one entry for each index of `as` and `bs`, in order. -/
def IsUnion (as bs es : List Nat) : Prop :=
  ∃ is : List Nat, es = is.map (unionEntry as bs) ∧ is.Pairwise (· < ·) ∧ ∀ i, i ∈ is ↔ i ∈ as ∨ i ∈ bs

theorem IsUnion.nil : IsUnion [] [] [] := ⟨[], rfl, .nil, by simp⟩

/-- The least index of two streams goes before the union of what they hold above it. -/
theorem IsUnion.cons {as bs as' bs' es : List Nat} {i : Nat} (h : IsUnion as' bs' es) (hi : i ∈ as ∨ i ∈ bs)
    (ha : ∀ j, j ∈ as' ↔ j ∈ as ∧ i < j) (hb : ∀ j, j ∈ bs' ↔ j ∈ bs ∧ i < j) (hmin : ∀ j, j ∈ as ∨ j ∈ bs → i ≤ j) :
    IsUnion as bs (unionEntry as bs i :: es) := by
  obtain ⟨is, rfl, ho, hm⟩ := h
  have hgt : ∀ j ∈ is, i < j := fun j hj => ((hm j).mp hj).elim (fun h => ((ha j).mp h).2) (fun h => ((hb j).mp h).2)
  refine ⟨i :: is, ?_, List.pairwise_cons.mpr ⟨hgt, ho⟩, fun j => ?_⟩
  · have hsame : is.map (unionEntry as' bs') = is.map (unionEntry as bs) :=
      List.map_congr_left fun j hj => by simp [unionEntry, ha, hb, hgt j hj]
    rw [hsame, List.map_cons]
  · rw [List.mem_cons, hm, ha, hb]
    constructor
    · rintro (rfl | h | h)
      · exact hi
      · exact .inl h.1
      · exact .inr h.1
    · intro h
      rcases Nat.lt_or_eq_of_le (hmin j h) with hlt | rfl
      · exact .inr (h.imp (⟨·, hlt⟩) (⟨·, hlt⟩))
      · exact .inl rfl

section
variable {x : Nat} {p : Option Nat} {a b : Nat} {as : List Nat}

/-- What a strictly rising stream holds above its head is its tail. -/
theorem Sound.mem_tail_iff (h : Sound x true p (a :: as)) : b ∈ as ↔ b ∈ a :: as ∧ a < b := by
  constructor
  · exact fun hb => ⟨List.mem_cons_of_mem a hb, h.lt_of_mem hb⟩
  · rintro ⟨hb, hlt⟩
    exact (List.mem_cons.mp hb).resolve_left (Nat.ne_of_gt hlt)

/-- Above an index before its head, a stream holds all that it holds. -/
theorem mem_iff_above (h : ∀ j ∈ as, a < j) : b ∈ as ↔ b ∈ as ∧ a < b := ⟨fun hb => ⟨hb, h b hb⟩, And.left⟩

theorem Sound.above_of_lt (h : Sound x true p (b :: as)) (hlt : a < b) : ∀ j ∈ b :: as, a < j :=
  fun _ hj => Nat.lt_of_lt_of_le hlt (h.le_of_mem hj)

end

section
variable {x n : Nat} {as bs : List Nat} {pa pb : Option Nat} {a b : Nat} {es : List Nat}

theorem IsUnion.left (ha : Sound x true pa (a :: as)) (hb : ∀ j ∈ bs, a < j) (h : IsUnion as bs es) :
    IsUnion (a :: as) bs ((a + 2 ^ 32) :: es) := by
  have hne : a ∉ bs := fun hm => Nat.lt_irrefl a (hb a hm)
  have he : unionEntry (a :: as) bs a = a + 2 ^ 32 := by simp [unionEntry, hne]
  rw [← he]
  exact h.cons (.inl (List.mem_cons_self ..)) (fun _ => ha.mem_tail_iff) (fun _ => mem_iff_above hb)
    (fun j hj => hj.elim ha.le_of_mem (fun h => Nat.le_of_lt (hb j h)))

theorem IsUnion.right (hb : Sound x true pb (b :: bs)) (ha : ∀ j ∈ as, b < j) (h : IsUnion as bs es) :
    IsUnion as (b :: bs) ((b + 2 ^ 33) :: es) := by
  have hne : b ∉ as := fun hm => Nat.lt_irrefl b (ha b hm)
  have he : unionEntry as (b :: bs) b = b + 2 ^ 33 := by simp [unionEntry, hne]
  rw [← he]
  exact h.cons (.inr (List.mem_cons_self ..)) (fun _ => mem_iff_above ha) (fun _ => hb.mem_tail_iff)
    (fun j hj => hj.elim (fun h => Nat.le_of_lt (ha j h)) hb.le_of_mem)

theorem IsUnion.both (ha : Sound x true pa (a :: as)) (hb : Sound x true pb (a :: bs)) (h : IsUnion as bs es) :
    IsUnion (a :: as) (a :: bs) ((a + 3 * 2 ^ 32) :: es) := by
  have he : unionEntry (a :: as) (a :: bs) a = a + 3 * 2 ^ 32 := by
    simp only [unionEntry, List.mem_cons_self, if_true]
    omega
  rw [← he]
  exact h.cons (.inl (List.mem_cons_self ..)) (fun _ => ha.mem_tail_iff) (fun _ => hb.mem_tail_iff)
    (fun j hj => hj.elim ha.le_of_mem hb.le_of_mem)

theorem mergeUnion_sound {out : List Nat} (ha : Sound x true pa as) (hb : Sound x true pb bs) (hn : as.length + bs.length < n) :
    ∃ es, mergeUnion x n as bs pa pb out = ⟨out.reverse ++ es, [], none⟩ ∧ IsUnion as bs es := by
  induction n generalizing as bs pa pb out with
  | zero => omega
  | succ n ih =>
    rw [mergeUnion.eq_def]
    cases as with
    | nil =>
      cases bs with
      | nil => exact ⟨[], by simp, .nil⟩
      | cons b bt =>
        obtain ⟨es, he, hu⟩ := ih (out := (b + 2 ^ 33) :: out) ha hb.tail (by simp at hn ⊢; omega)
        exact ⟨_, by simpa [headFault_sound hb] using he, hu.right hb (by simp)⟩
    | cons a at' =>
      cases bs with
      | nil =>
        obtain ⟨es, he, hu⟩ := ih (out := (a + 2 ^ 32) :: out) ha.tail hb (by simp at hn ⊢; omega)
        exact ⟨_, by simpa [headFault_sound ha] using he, hu.left ha (by simp)⟩
      | cons b bt =>
        simp only [headFault_sound ha, headFault_sound hb]
        simp only [List.length_cons] at hn
        rcases Nat.lt_trichotomy a b with hlt | rfl | hgt
        · obtain ⟨es, he, hu⟩ := ih (out := (a + 2 ^ 32) :: out) ha.tail hb (by simp; omega)
          exact ⟨_, by simpa [Nat.ne_of_lt hlt, hlt] using he, hu.left ha (hb.above_of_lt hlt)⟩
        · obtain ⟨es, he, hu⟩ := ih (out := (a + 3 * 2 ^ 32) :: out) ha.tail hb.tail (by omega)
          exact ⟨_, by simpa using he, hu.both ha hb⟩
        · obtain ⟨es, he, hu⟩ := ih (out := (b + 2 ^ 33) :: out) ha hb.tail (by simp; omega)
          exact ⟨_, by simpa [Nat.ne_of_gt hgt, Nat.lt_asymm hgt] using he, hu.right hb (ha.above_of_lt hgt)⟩

/-- The entries of a union of indices of 32 bits rise by their index fields. -/
theorem IsUnion.index_pairwise (h : IsUnion as bs es) (ha : ∀ i ∈ as, i < 2 ^ 32) (hb : ∀ i ∈ bs, i < 2 ^ 32) :
    (es.map (· % 2 ^ 32)).Pairwise (· < ·) := by
  obtain ⟨is, rfl, ho, hm⟩ := h
  have hidx : (is.map (unionEntry as bs)).map (· % 2 ^ 32) = is := by
    rw [List.map_map]
    refine (List.map_congr_left fun i hi => ?_).trans (List.map_id is)
    have hlt : i < 2 ^ 32 := ((hm i).mp hi).elim (ha i) (hb i)
    simp only [Function.comp_apply, unionEntry, id_eq]
    split <;> split <;> omega
  rwa [hidx]

theorem IsUnion.mem_iff {e : Nat} (h : IsUnion as bs es) : e ∈ es ↔ ∃ i, (i ∈ as ∨ i ∈ bs) ∧ e = unionEntry as bs i := by
  obtain ⟨is, rfl, _, hm⟩ := h
  simp only [List.mem_map, hm, eq_comm]

end

end Sys2Proof.Machine

open Sys2Proof Sys2Proof.Machine

/-- Settles O28, by what each merge gives on sound streams. -/
theorem mergeResultsAreRight : Obligations.MergeResultsAreRight := by
  refine ⟨?_, ?_, ?_⟩
  · intro x xs hxs hx
    obtain ⟨ps, us, he, ho, hp⟩ := mergeCoalesce_sound (out := []) (.of_le hxs hx) (uniq := []) rfl .nil
    simp only [he, List.reverse_nil, List.nil_append] at ho hp ⊢
    refine ⟨trivial, ho, hp.length_eq, fun i hi => ?_⟩
    have hi' : i < ps.length := hp.length_eq ▸ hi
    simpa [hi, hi'] using hp.get hi' hi
  · intro x n xs ys hxs hys hx hy hn
    rw [mergeMatch_sound (.of_le hxs hx) (.of_lt hys hy) hn]
    refine ⟨rfl, by simp, fun i hi => ?_⟩
    rw [List.reverse_nil, List.nil_append, List.getElem?_map, List.getElem?_eq_getElem hi, Option.map_some,
      List.getD_eq_getElem _ _ hi, matchAnswer]
    cases ys.findIdx? (· == xs[i]) with
    | none => rfl
    | some j => exact congrArg some (Nat.zero_add j)
  · intro x n xs ys hxs hys hx hy h32 hn
    obtain ⟨es, he, hu⟩ := mergeUnion_sound (out := []) (.of_lt hxs hx) (.of_lt hys hy) hn
    rw [he]
    exact ⟨rfl, hu.index_pairwise (fun i hi => by have := hx i hi; omega) (fun i hi => by have := hy i hi; omega),
      fun e => hu.mem_iff⟩
end

section
/-! What the sparsity unit's writes leave in a pond without errors (O26, O27). -/

namespace Sys2Proof.Machine
open Sys2Proof

/-! ## Writes of the pruning unit -/

theorem pruneWrite_pond {s : State} {x : Word} {st cl off : Nat} (hp : s.pondMark = []) (hx : place x = .pond st cl off) (k : Nat)
    (bs : List (Option Byte)) : s.pruneWrite k x bs = setMem s (memWriteMask s.mem x.toNat bs) := by
  simp only [State.pruneWrite, State.eccWrite, hx, hp, List.isEmpty_nil, if_true]

/-- Bytes written in a pond without errors. -/
theorem pruneWrite_present {s : State} {x : Word} {st cl off : Nat} (hp : s.pondMark = []) (hx : place x = .pond st cl off) (k : Nat)
    (bs : List Byte) : s.pruneWrite k x (present bs) = setMem s (memWrite s.mem x.toNat bs) := by
  rw [pruneWrite_pond hp hx, memWriteMask_present]

theorem memRead_congr {m m' : List Host.Cell} {a n : Nat} (h : ∀ x, a ≤ x → x < a + n → memByte m x = memByte m' x) :
    memRead m a n = memRead m' a n := by
  induction n generalizing a with
  | zero => rfl
  | succ n ih => rw [memRead, memRead, h a (by omega) (by omega), ih fun x h1 h2 => h x (by omega) (by omega)]

theorem memRead_write_outside {m : List Host.Cell} {k a n : Nat} {bs : List Byte} (h : k + bs.length ≤ a ∨ a + n ≤ k) :
    memRead (memWrite m k bs) a n = memRead m a n :=
  memRead_congr fun x h1 h2 => memByte_write_outside _ _ _ _ (by omega)

@[simp] theorem length_flatMap_leBytes (w : Nat) (xs : List Nat) : (xs.flatMap (leBytes w)).length = w * xs.length := by
  simp [List.length_flatMap, Nat.mul_comm]

theorem memRead_write_entries (m : List Host.Cell) (k w : Nat) (xs : List Nat) :
    memRead (memWrite m k (xs.flatMap (leBytes w))) k (w * xs.length) = xs.flatMap (leBytes w) := by
  simpa only [length_flatMap_leBytes] using memRead_write m k (xs.flatMap (leBytes w))

end Sys2Proof.Machine
end

section
/-! Index merges write their outputs and retire (O27). `smerge_retires` says that an accepted `smerge` without a fault writes
and retires, `mergeWrite_eq` that its writes leave the memory `mergeMem`, and the lemmas about `mergeMem` what that memory reads. -/

namespace Sys2Proof.Machine
open Sys2Proof

/-! ## The memory after a merge -/

/-- The bytes of an output entry (Table 4.4). -/
def mergeWidth (op : Nat) : Nat := if op = 2 then 8 else 4

/-- The counts in the record of a merge of `na` entries (Table 4.4). -/
def mergeCounts (op : Nat) (r : MergeRes) (na : Nat) : Nat × Nat :=
  let hits := (r.out.filter (· != 0xFFFFFFFF)).length
  if op = 0 then (hits, na - hits) else if op = 1 then (r.uniq.length, na - r.uniq.length) else (r.out.length, 0)

/-- The record of a merge without a fault. -/
def mergeRecord (c : Nat × Nat) : List Byte := leBytes 4 c.1 ++ leBytes 4 c.2 ++ leBytes 8 0

/-- Memory with the outputs of a merge at `o`, the unique indices of a coalesce at `b`. -/
def mergeOuts (m : List Host.Cell) (op o b : Nat) (r : MergeRes) : List Host.Cell :=
  let m1 := memWrite m o (r.out.flatMap (leBytes (mergeWidth op)))
  if op = 1 then memWrite m1 b (r.uniq.flatMap (leBytes 4)) else m1

/-- Memory after a merge without a fault, its record at `rec`. -/
def mergeMem (m : List Host.Cell) (op o b rec : Nat) (r : MergeRes) (c : Nat × Nat) : List Host.Cell :=
  memWrite (mergeOuts m op o b r) rec (mergeRecord c)

section
variable (m : List Host.Cell) {op o b rec : Nat} {r : MergeRes} (c : Nat × Nat)

theorem length_mergeRecord : (mergeRecord c).length = 16 := by simp [mergeRecord]

theorem mergeMem_record : memRead (mergeMem m op o b rec r c) rec 16 = mergeRecord c := by
  simpa only [mergeMem, length_mergeRecord] using memRead_write (mergeOuts m op o b r) rec (mergeRecord c)

theorem mergeOuts_outside {x : Nat} (ho : x < o ∨ o + mergeWidth op * r.out.length ≤ x)
    (hb : op = 1 → x < b ∨ b + 4 * r.uniq.length ≤ x) : memByte (mergeOuts m op o b r) x = memByte m x := by
  have h1 : memByte (memWrite m o (r.out.flatMap (leBytes (mergeWidth op)))) x = memByte m x :=
    memByte_write_outside _ _ _ _ (by rwa [length_flatMap_leBytes])
  unfold mergeOuts
  split
  next hop => exact (memByte_write_outside _ _ _ _ (by rw [length_flatMap_leBytes]; exact hb hop)).trans h1
  next => exact h1

theorem mergeMem_outside {x : Nat} (hrec : x < rec ∨ rec + 16 ≤ x) (ho : x < o ∨ o + mergeWidth op * r.out.length ≤ x)
    (hb : op = 1 → x < b ∨ b + 4 * r.uniq.length ≤ x) : memByte (mergeMem m op o b rec r c) x = memByte m x :=
  (memByte_write_outside _ _ _ _ (by rwa [length_mergeRecord])).trans (mergeOuts_outside m ho hb)

/-- The record leaves what it does not meet. -/
theorem mergeMem_read {a n : Nat} (h : rec + 16 ≤ a ∨ a + n ≤ rec) :
    memRead (mergeMem m op o b rec r c) a n = memRead (mergeOuts m op o b r) a n :=
  memRead_write_outside (by rwa [length_mergeRecord])

theorem mergeMem_out (hrec : rec + 16 ≤ o ∨ o + mergeWidth op * r.out.length ≤ rec)
    (hb : op = 1 → o + 4 * r.out.length ≤ b ∨ b + 4 * r.uniq.length ≤ o) :
    memRead (mergeMem m op o b rec r c) o (mergeWidth op * r.out.length) = r.out.flatMap (leBytes (mergeWidth op)) := by
  rw [mergeMem_read m c hrec, mergeOuts]
  split
  next hop =>
    subst hop
    exact (memRead_write_outside (by rw [length_flatMap_leBytes]; exact (hb rfl).symm)).trans (memRead_write_entries ..)
  next => exact memRead_write_entries ..

theorem mergeMem_uniq (hop : op = 1) (hrec : rec + 16 ≤ b ∨ b + 4 * r.uniq.length ≤ rec) :
    memRead (mergeMem m op o b rec r c) b (4 * r.uniq.length) = r.uniq.flatMap (leBytes 4) := by
  rw [mergeMem_read m c hrec, mergeOuts, if_pos hop]
  exact memRead_write_entries ..

end

/-! ## `smerge` -/

/-- The ranges that `smerge` reads and writes. -/
def mergeRanges (op : Nat) (p : Proc) (f : BitVec 57) : List (Word × Nat) :=
  let a := p.getD (lD1 f)
  let b := p.getD (lD2 f)
  [(dBase a, 4 * dCount a), (dBase b, 4 * (if op = 1 then dCount a else dCount b)),
    (dBase (p.getD (lD3 f)), mergeWidth op * (dCount a + (if op = 2 then dCount b else 0))), (p.getS (lRa f), 16)]

/-- A merge of core `k` is performed: no store is out, its operands are legal and granted, and no pond word is in error. -/
structure Merges (s : State) (k op : Nat) (f : BitVec 57) : Prop where
  ready   : s.storesOut k = false
  legal   : smergeTrap op f ((s.proc k).getD (lD1 f)) ((s.proc k).getD (lD2 f)) ((s.proc k).getD (lD3 f)) ((s.proc k).getS (lRa f)) = none
  clean   : s.pondMark = []
  granted : refusedIn k (mergeRanges op (s.proc k) f) = none

/-- The merge of the streams of registers `p`, as memory holds them. -/
def State.mergeResult (s : State) (op : Nat) (p : Proc) (f : BitVec 57) : MergeRes :=
  let xs := s.indices (p.getD (lD1 f))
  let ys := if op = 1 then [] else s.indices (p.getD (lD2 f))
  let x := dX (p.getD (lD1 f))
  if op = 0 then mergeMatch x (xs.length + ys.length + 1) xs ys 0 none none []
  else if op = 1 then mergeCoalesce x xs none [] []
  else mergeUnion x (xs.length + ys.length + 1) xs ys none none []

section
variable {s : State} {k op : Nat} {f : BitVec 57}

/-- What is granted: the two inputs, the output and the record lie in the own pond. -/
theorem Merges.own (h : Merges s k op f) :
    ownPond k (dBase ((s.proc k).getD (lD1 f))) (4 * dCount ((s.proc k).getD (lD1 f))) = true ∧
    ownPond k (dBase ((s.proc k).getD (lD2 f)))
      (4 * (if op = 1 then dCount ((s.proc k).getD (lD1 f)) else dCount ((s.proc k).getD (lD2 f)))) = true ∧
    ownPond k (dBase ((s.proc k).getD (lD3 f))) (mergeWidth op *
      (dCount ((s.proc k).getD (lD1 f)) + (if op = 2 then dCount ((s.proc k).getD (lD2 f)) else 0))) = true ∧
    ownPond k ((s.proc k).getS (lRa f)) 16 = true := by
  have hown := refusedIn_eq_none.mp h.granted
  simp only [mergeRanges, List.forall_mem_cons] at hown
  obtain ⟨ha, hb, ho, hrec, _⟩ := hown
  exact ⟨ha, hb, ho, hrec⟩

theorem mergeWrite_eq {r : MergeRes} (h : Merges s k op f) (hr : r.fault = none) (na : Nat) :
    s.mergeWrite k op f r na = setMem s (mergeMem s.mem op (dBase ((s.proc k).getD (lD3 f))).toNat
      (dBase ((s.proc k).getD (lD2 f))).toNat ((s.proc k).getS (lRa f)).toNat r (mergeCounts op r na)) := by
  obtain ⟨_, hb, ho, hrec⟩ := h.own
  obtain ⟨_, _, _, hb⟩ := place_of_ownPond hb
  obtain ⟨_, _, _, ho⟩ := place_of_ownPond ho
  obtain ⟨_, _, _, hrec⟩ := place_of_ownPond hrec
  unfold State.mergeWrite
  extract_lets p w s1 s2 hits c
  have h1 : s1 = setMem s (memWrite s.mem (dBase (p.getD (lD3 f))).toNat (r.out.flatMap (leBytes w))) :=
    pruneWrite_present h.clean ho k _
  have h2 : s2 = setMem s (mergeOuts s.mem op (dBase (p.getD (lD3 f))).toNat (dBase (p.getD (lD2 f))).toNat r) := by
    simp only [s2, h1, mergeOuts]
    split
    · exact pruneWrite_present (by exact h.clean) hb k _
    · rfl
  simp only [hr, h2]
  exact pruneWrite_present (by exact h.clean) hrec k _

end

/-- The counts of that merge's record, and memory after it. -/
def State.mergedCounts (s : State) (op : Nat) (p : Proc) (f : BitVec 57) : Nat × Nat :=
  mergeCounts op (s.mergeResult op p f) (s.indices (p.getD (lD1 f))).length
def State.mergedMem (s : State) (op : Nat) (p : Proc) (f : BitVec 57) : List Host.Cell :=
  mergeMem s.mem op (dBase (p.getD (lD3 f))).toNat (dBase (p.getD (lD2 f))).toNat (p.getS (lRa f)).toNat (s.mergeResult op p f)
    (s.mergedCounts op p f)

theorem smerge_retires {c : CoreId} {f : BitVec 57} {s s' : State} {k op : Nat} {p : Proc} (hk : k = coreKey c) (hp : p = s'.proc k)
    (hi : Issues s s' k [.d (lD1 f), .d (lD2 f), .d (lD3 f), .s (lRa f)] 8) (hok : lOk f ['1', '2', '3', 'a'] 3 = true)
    (hop : lFlags f = op) (h : Merges s' k op f) (hr : (s'.mergeResult op p f).fault = none) :
    s.smerge (.core c) f op = (setMem s' (s'.mergedMem op p f)).retire k p 8 false 1 := by
  subst hk hp
  have hwf : (isCore (coreKey c) && lOk f ['1', '2', '3', 'a'] 3 && lFlags f == op) = true := by
    rw [isCore_coreKey, hok, hop, beq_self_eq_true]
    rfl
  obtain ⟨ha, hb, _, _⟩ := h.own
  unfold State.smerge
  rw [unitKey, issue64_eq hi hwf]
  extract_lets p a b o rec' w outLen bLen
  rw [if_neg (by rw [h.ready]; exact Bool.false_ne_true)]
  split
  next t ht => cases h.legal.symm.trans ht
  split
  next x hx => cases h.granted.symm.trans hx
  split
  next s2 e1 h2 =>
  obtain ⟨rfl, rfl⟩ := Prod.mk.inj ((eccRead_ownPond h.clean ha _).symm.trans h2)
  split
  next s3 e2 h3 =>
  have hread : (if op = 1 then (s', none) else s'.eccRead (dBase b) (4 * dCount b) (uidUnit (coreKey c))) = (s', none) := by
    split
    next => rfl
    next hop => exact eccRead_ownPond h.clean (by rwa [if_neg hop] at hb) _
  obtain ⟨rfl, rfl⟩ := Prod.mk.inj (hread.symm.trans h3)
  simp only [Option.or_none]
  split
  next x sub hx => cases hr.symm.trans hx
  next => exact congrArg (fun t : State => t.retire (coreKey c) (t.proc (coreKey c)) 8 false 1) (mergeWrite_eq h hr _)

end Sys2Proof.Machine

open Sys2Proof Sys2Proof.Machine

/-- Settles O27: the merge retires by `smerge_retires`, from the memory `mergeMem` by `mergeWrite_eq`. -/
theorem indexMergesRetire : Obligations.IndexMergesRetire := by
  rintro c f s s' k op w p a b o rec' xs ys r hk hp rfl rfl rfl rfl hi hok hop hready hlegal hclean rfl hgrant rfl rfl hr hf
  obtain rfl : r = s'.mergeResult op p f := hr
  have h : Merges s' k op f := by
    subst hp
    exact ⟨hready, hlegal, hclean, hgrant⟩
  have hx := smerge_retires hk hp hi hok hop h hf
  have ht := retire_retired (setMem s' (s'.mergedMem op p f)) k p 8 false 1
  refine ⟨_, (s'.mergedCounts op p f).1, (s'.mergedCounts op p f).2, ?_, ?_, ?_, ?_, ht.others, ?_, ?_, ?_, fun hoff => ?_⟩
  iterate 3
    · rintro rfl
      exact congrArg Host.Outcome.next hx
  · subst hp
    exact ht.regs
  iterate 3
    · rintro rfl
      exact ⟨rfl, rfl⟩
  · have hmem : _ = s'.mergedMem op p f := (ht.mem hoff).2
    simp only [State.bytesAt]
    rw [hmem, State.mergedMem]
    exact ⟨mergeMem_record .., fun _ => mergeMem_outside _ _, fun hrec hrecb hob =>
      ⟨mergeMem_out _ _ hrec hob, fun h1 => mergeMem_uniq _ _ h1 (hrecb h1)⟩⟩
end

section
/-! Masks are requested (O26): an accepted `smask` leaves its request behind the others of the cluster's pruning unit
(`smask_requests`), on its tag. -/

namespace Sys2Proof.Machine
open Sys2Proof

/-! ## Reports -/

theorem report_cluster_prune (s : State) (k a : Nat) (sp : Bool) (kind : RepKind) (j : Nat) :
    ((s.report k a sp kind).cluster j).prune = (s.cluster j).prune := by
  by_cases h : j = clOf k
  · subst h
    rw [State.report, State.setCluster_cluster_same]
  · rw [State.report, State.setCluster_cluster_other _ _ _ _ h]

/-! ## `smask` -/

/-- An `smask` of core `k` with the descriptors `x` and `y` is taken at once: no store is out, its tag has room, its operands are
legal and granted, no pond word is in error, and what it validates is good. -/
structure MaskTaken (s : State) (k form : Nat) (f : BitVec 57) (x y : Desc) : Prop where
  ready   : s.storesOut k = false
  room    : (s.proc k).tagCount (lTag f) < 255
  legal   : smaskTrap form f x y = none
  clean   : s.pondMark = []
  granted : refusedIn k (smaskRanges form x y) = none
  dims    : s.hdrDims x = false
  pats    : form = 1 → s.t24Bad (dMd y) = false

/-- What validation reads is granted with the rest. -/
theorem smaskReads_granted {k form : Nat} {x y : Desc} (h : refusedIn k (smaskRanges form x y) = none) :
    refusedIn k (smaskReads form x y) = none := by
  simp only [smaskRanges, refusedIn_append] at h
  obtain ⟨⟨_, hx⟩, hy⟩ := h
  refine refusedIn_append.mpr ⟨hx, ?_⟩
  split
  next h1 =>
    rw [if_neg (by omega), refusedIn_append] at hy
    exact refusedIn_eq_none.mpr fun r hr => refusedIn_eq_none.mp hy.1 r (List.mem_cons_of_mem _ hr)
  next => rfl

/-- The request of an `smask` with registers `p`. -/
def maskReq (k form : Nat) (p : Proc) (f : BitVec 57) : PruneReq :=
  ⟨k % 9, form, p.getD (lD1 f), p.getD (lD3 f), dFmt (p.getD (lD1 f)), p.nf, lTag f, p.span.isSome⟩

theorem smask_requests {c : CoreId} {f : BitVec 57} {s s' : State} {k form : Nat} {p : Proc} (hk : k = coreKey c)
    (hp : p = s'.proc k) (hi : Issues s s' k [.d (lD1 f), .d (lD3 f)] 8) (hok : lOk f ['1', '3', 't'] 3 = true)
    (hform : lFlags f = form) (h : MaskTaken s' k form f (p.getD (lD1 f)) (p.getD (lD3 f))) :
    ∃ cs, s.smask (.core c) f form = (s'.withClusters cs).retire k (p.tagUp (lTag f)) 8 false 1 ∧
      ((s'.withClusters cs).cluster (clOf k)).prune = (s'.cluster (clOf k)).prune ++ [maskReq k form p f] := by
  subst hk hp
  have hwf : (isCore (coreKey c) && lOk f ['1', '3', 't'] 3 && lFlags f == form) = true := by
    rw [isCore_coreKey, hok, hform, beq_self_eq_true]
    rfl
  unfold State.smask
  rw [unitKey, issue64_eq hi hwf]
  extract_lets p x y req
  rw [if_neg (by simpa [h.ready] using h.room)]
  split
  next t ht => cases h.legal.symm.trans ht
  split
  next w hw => cases h.granted.symm.trans hw
  split
  next s2 bad h2 =>
  obtain ⟨rfl, rfl⟩ := Prod.mk.inj ((readMeta_granted h.clean (smaskReads_granted h.granted)).symm.trans h2)
  have hmeta : ¬ (decide (form = 1) && s'.t24Bad (dMd y)) = true := by
    simpa using h.pats
  rw [if_neg Bool.false_ne_true, if_neg (by rw [h.dims]; exact Bool.false_ne_true), if_neg hmeta]
  extract_lets s3 cl s4
  have h3 : ∃ cs, s3 = s'.withClusters cs ∧ (s3.cluster (clOf (coreKey c))).prune = (s'.cluster (clOf (coreKey c))).prune := by
    simp only [s3]
    split
    · exact ⟨_, rfl, report_cluster_prune ..⟩
    · exact ⟨s'.clusters, rfl, rfl⟩
  obtain ⟨cs, hcs, hprune⟩ := h3
  refine ⟨Tbl.put cs (clOf (coreKey c)) { cl with prune := cl.prune ++ [req] }, ?_, ?_⟩
  · simp only [s4, hcs]
    rfl
  · refine (congrArg Cluster.prune (Tbl.get_put_same ..)).trans ?_
    rw [← hprune]
    rfl

end Sys2Proof.Machine
end

section
/-! The pruning unit completes its requests (O26): it takes the rows as memory holds them (`pruneRows_clean`); a prune chooses one of
the 90 patterns for each block, and so leaves no escape block (`pruneTile_best`). -/

namespace Sys2Proof.Machine
open Sys2Proof

/-! ## The source -/

/-- A fold over a state, a list and a flag that leaves state and flag and collects one value a step. -/
theorem foldl_collects_flag {σ β ι : Type} {g : σ × List β × Bool → ι → σ × List β × Bool} {s : σ} {f : ι → β}
    (h : ∀ ys i, g (s, ys, false) i = (s, ys ++ [f i], false)) (ys : List β) (l : List ι) :
    l.foldl g (s, ys, false) = (s, ys ++ l.map f, false) := by
  induction l generalizing ys with
  | nil => simp
  | cons i r ih => simp [h, ih]

/-- The rows of a dense source as memory holds them. -/
def State.denseTile (s : State) (d : Desc) : List (List Nat) := (List.range (dE d 1)).map (s.tileRow d (esize (dFmt d)))

theorem pruneRows_clean {s : State} (hp : s.pondMark = []) (k : Nat) (d : Desc) : s.pruneRows k d = (s, s.denseTile d, false) :=
  foldl_collects_flag (fun ys i => by simp [readElems_clean hp, Function.comp_def, State.tileRow]) [] _

/-! ## Patterns -/

/-- The pattern chosen is one of those given. -/
theorem bestPattern_lt {F : Fmt} {pats : List (List Nat)} (blk : List Nat) (h : 0 < pats.length) :
    bestPattern F pats blk < pats.length := by
  unfold bestPattern
  extract_lets ms
  refine List.foldlRecOn (motive := fun acc : Nat × Nat × Nat => acc.1 < pats.length) _ _ h fun acc hacc i hi => ?_
  dsimp only
  split
  · exact List.mem_range.mp hi
  · exact hacc

/-- How many of the lowest `n` bits of `m` are set. -/
def onesBelow (n m : Nat) : Nat := (List.range n).countP (fun i => m / 2 ^ i % 2 == 1)

/-- The bits of a number whose low nibble is `a` are those of `a` and of the rest. -/
theorem onesBelow_nibble (n : Nat) {a : Nat} (b : Nat) (ha : a < 16) :
    onesBelow (4 + n) (a + 16 * b) = onesBelow 4 a + onesBelow n b := by
  have hlow : ∀ i ∈ List.range 4, ((a + 16 * b) / 2 ^ i % 2 == 1) = (a / 2 ^ i % 2 == 1) := by
    intro i hi
    have h4 : i < 4 := List.mem_range.mp hi
    interval_cases i <;> congr 1 <;> omega
  have hhigh : ∀ i, (a + 16 * b) / 2 ^ (4 + i) = b / 2 ^ i := fun i => by
    rw [Nat.pow_add, ← Nat.div_div_eq_div_mul]
    congr 1
    omega
  rw [onesBelow, List.range_add, List.countP_append, List.countP_map, onesBelow, onesBelow]
  simp only [Function.comp_def, hhigh]
  rw [List.countP_congr fun i hi => iff_of_eq (congrArg (· = true) (hlow i hi))]

/-- A pair code marks two of the four columns (Table 4.1). -/
theorem pairBits_two (p : Nat) : pairBits p < 16 ∧ onesBelow 4 (pairBits p) = 2 := by
  unfold pairBits
  split <;> decide

/-- A pattern marks eight positions of a block (R125), an index without a pattern none. -/
theorem length_maskBits_patMask (i : Nat) : (maskBits (patMask i)).length ≤ 8 := by
  have hbits (m : Nat) : (maskBits m).length = onesBelow 16 m := List.countP_eq_length_filter.symm
  rw [hbits]
  unfold patMask
  generalize t24Patterns.getD i [] = ps
  split
  next _ a b c d =>
    obtain ⟨ha, ha2⟩ := pairBits_two a
    obtain ⟨hb, hb2⟩ := pairBits_two b
    obtain ⟨hc, hc2⟩ := pairBits_two c
    obtain ⟨_, hd2⟩ := pairBits_two d
    have hnest : pairBits a + 16 * pairBits b + 256 * pairBits c + 4096 * pairBits d =
        pairBits a + 16 * (pairBits b + 16 * (pairBits c + 16 * pairBits d)) := by omega
    rw [hnest, onesBelow_nibble 12 _ ha, onesBelow_nibble 8 _ hb, onesBelow_nibble 4 _ hc, ha2, hb2, hc2, hd2]
  next => decide

/-- The positions that the 90 patterns mark. -/
def patMarks : List (List Nat) := (List.range 90).map (fun i => maskBits (patMask i))

theorem length_patMarks : patMarks.length = 90 := by simp [patMarks]

theorem length_getD_patMarks (i : Nat) : (patMarks.getD i []).length ≤ 8 := by
  by_cases h : i < 90
  · rw [patMarks, getD_map_range h]
    exact length_maskBits_patMask i
  · rw [List.getD_eq_default _ _ (by rw [length_patMarks]; omega)]
    exact Nat.zero_le 8

theorem length_valueBlock (es pat : Nat) (blk : List Nat) : (valueBlock es patMarks pat blk).length ≤ 8 * es := by
  unfold valueBlock
  split
  · rw [List.length_replicate]
  · have hlen : (((patMarks.getD pat []).map (fun q => leBytes es (blk.getD q 0))).flatten).length =
        (patMarks.getD pat []).length * es := by
      simp [List.length_flatten, Function.comp_def]
    rw [present, List.length_map, hlen]
    exact Nat.mul_le_mul_right es (length_getD_patMarks pat)

/-- The values of the 1,024 blocks of a tile fit its value area. -/
theorem length_tileValues (es : Nat) (pat : Nat → Nat) (blk : Nat → List Nat) :
    (((List.range 1024).map (fun b => valueBlock es patMarks (pat b) (blk b))).flatten).length ≤ 8192 * es := by
  rw [List.length_flatten, List.map_map]
  refine (List.sum_le_card_nsmul _ (8 * es) ?_).trans (by simp; omega)
  simpa using fun b _ => length_valueBlock es (pat b) (blk b)

/-! ## Addresses behind the base of a granted range -/

theorem place_of_lt {a : Word} (h : a.toNat < 2 ^ 36) :
    place a = .pond (a.toNat / 2 ^ 30 % 64) (a.toNat / 2 ^ 26 % 16) (a.toNat % 2 ^ 26) := by
  have hspace : a.toNat / 2 ^ 56 = 0 := by omega
  have hres : a.toNat / 2 ^ 36 % 2 ^ 20 = 0 := by omega
  simp only [place, hspace, hres, if_true]

/-- An address inside a granted range lies in a pond, without wrapping. -/
theorem ownPond_add {k n i : Nat} {a : Word} (h : ownPond k a n = true) (hi : i < n) :
    (a + BitVec.ofNat 64 i).toNat = a.toNat + i ∧ ∃ st cl off, place (a + BitVec.ofNat 64 i) = .pond st cl off := by
  obtain ⟨_, _, _, ha⟩ := place_of_ownPond h
  have hlt := toNat_lt_of_place ha
  simp only [ownPond, place_of_lt hlt, Bool.and_eq_true, decide_eq_true_eq] at h
  obtain ⟨_, hfit⟩ := h
  have hadd : (a + BitVec.ofNat 64 i).toNat = a.toNat + i := by
    rw [BitVec.toNat_add, BitVec.toNat_ofNat]
    omega
  exact ⟨hadd, _, _, _, place_of_lt (by omega)⟩

/-! ## The tile that prune writes -/

/-- The patterns that prune chooses for the blocks of a source. -/
def bestPatterns (F : Fmt) (rows : List (List Nat)) : List Nat :=
  (List.range 1024).map (fun b => bestPattern F patMarks (blockAt rows b))

theorem getD_bestPatterns {F : Fmt} {rows : List (List Nat)} {b : Nat} (hb : b < 1024) : (bestPatterns F rows).getD b 0 ≠ 0x7F := by
  rw [bestPatterns, getD_map_range hb]
  have h := bestPattern_lt (F := F) (pats := patMarks) (blockAt rows b) (by rw [length_patMarks]; omega)
  rw [length_patMarks] at h
  omega

/-- Memory with the values of a tile at `base`, and the metadata of a tile without escape blocks at `md` (Table 4.5). -/
def tileMem (m : List Host.Cell) (base md : Nat) (vals : List (Option Byte)) (pats : List Nat) : List Host.Cell :=
  memWrite (memWrite (memWriteMask m base vals) md (pats.map (BitVec.ofNat 8))) (md + 1032) (leBytes 2 0 ++ leBytes 54 0)

section
variable (m : List Host.Cell) {base md : Nat} {vals : List (Option Byte)} {pats : List Nat}

theorem memByte_writeMask_outside {k a : Nat} {bs : List (Option Byte)} (h : a < k ∨ k + bs.length ≤ a) :
    memByte (memWriteMask m k bs) a = memByte m a := by
  rw [memByte_writeMask]
  split
  next hk =>
    rw [List.getElem?_eq_none (by omega)]
    rfl
  next => rfl

theorem tileMem_patterns (hlen : pats.length = 1024) : memRead (tileMem m base md vals pats) md 1024 = pats.map (BitVec.ofNat 8) := by
  have hread := memRead_write (memWriteMask m base vals) md (pats.map (BitVec.ofNat 8))
  rw [List.length_map, hlen] at hread
  exact (memRead_write_outside (.inr (by omega))).trans hread

theorem tileMem_escapes : leNat (memRead (tileMem m base md vals pats) (md + 1032) 2) = 0 := by
  simp [tileMem, memRead, memByte_write, leBytes, leNat]

theorem tileMem_outside {x : Nat} (hlen : pats.length = 1024) (hb : x < base ∨ base + vals.length ≤ x) (hm : x < md ∨ md + 1088 ≤ x) :
    memByte (tileMem m base md vals pats) x = memByte m x := by
  rw [tileMem, memByte_write_outside, memByte_write_outside, memByte_writeMask_outside m hb]
  · simp only [List.length_map, hlen]
    omega
  · simp only [List.length_append, leBytes_length]
    omega

end

theorem setMem_setMem (s : State) (m m' : List Host.Cell) : setMem (setMem s m) m' = setMem s m' := rfl

theorem pruneTile_best {s : State} {k : Nat} {r : PruneReq} (hp : s.pondMark = []) (hform : r.form = 0) (hh : dHdrv r.dst = false)
    (hb : ownPond k (dBase r.dst) (8192 * esize r.fmt) = true) (hm : ownPond k (dMd r.dst) 1088 = true) (rows : List (List Nat)) :
    ∃ vals cs, vals.length ≤ 8192 * esize r.fmt ∧
      s.pruneTile k r rows = ((setMem s (tileMem s.mem (dBase r.dst).toNat (dMd r.dst).toNat vals
        (bestPatterns (Fmt.of r.fmt) rows))).withClusters cs, false) ∧
      ∀ j, ((s.withClusters cs).cluster j).prune = (s.cluster j).prune := by
  obtain ⟨_, _, _, hbase⟩ := place_of_ownPond hb
  obtain ⟨_, _, _, hmd⟩ := place_of_ownPond hm
  unfold State.pruneTile
  extract_lets F es md marks olds blks pats esc ea escBytes vals held st s1 s2 s3 s4 s5
  have hpats : pats = bestPatterns F rows := List.map_congr_left fun b hlt => by
    simp only [hform, if_true, blks, getD_map_range (List.mem_range.mp hlt)]
    rfl
  have hesc : esc = [] := by
    simp only [esc, hpats, List.filter_eq_nil_iff, List.mem_range, beq_iff_eq]
    exact fun b hlt => getD_bestPatterns hlt
  have hfit : vals.length ≤ 8192 * es := length_tileValues es _ _
  clear_value pats esc vals st
  obtain ⟨hadd, _, _, _, hcnt⟩ : (md + 1032).toNat = md.toNat + 1032 ∧ ∃ st cl off, place (md + 1032) = .pond st cl off :=
    ownPond_add (i := 1032) hm (by omega)
  refine ⟨vals, ?_⟩
  obtain ⟨m, hm⟩ : ∃ m, m = tileMem s.mem (dBase r.dst).toNat md.toNat vals pats := ⟨_, rfl⟩
  have h1 : s1 = setMem s (memWriteMask s.mem (dBase r.dst).toNat vals) := pruneWrite_pond hp hbase k vals
  have h2 : s2 = setMem s (memWrite (memWriteMask s.mem (dBase r.dst).toNat vals) md.toNat
      (pats.map (BitVec.ofNat 8))) := by
    simp only [s2, h1]
    rw [pruneWrite_present (by exact hp) hmd, setMem_mem, setMem_setMem]
  have h3 : s3 = setMem s m := by
    simp only [s3, h2, hesc]
    rw [pruneWrite_present (by exact hp) hcnt, setMem_mem, setMem_setMem, hadd, hm]
    rfl
  have h5 : s5 = setMem s m := by
    simp only [s5, hh, s4, hesc, List.isEmpty_nil, if_true, h3, Bool.false_eq_true, if_false]
  rw [if_neg (by simp [hesc]), h5, ← hpats, ← hm]
  split
  · exact ⟨_, hfit, rfl, fun j => report_cluster_prune s k 2 (r.inSpan && (s.proc k).span.isSome) .nonfinite j⟩
  · exact ⟨s.clusters, hfit, rfl, fun _ => rfl⟩

/-! ## Completion -/

/-- The pruning unit of cluster `q` performs its oldest request: its polder runs without a fence, and no pond word is in error. -/
structure Prunes (s : State) (q : ClusterId) (r : PruneReq) (rest : List PruneReq) : Prop where
  queue : (s.cluster (clKey q)).prune = r :: rest
  runs  : s.polderOn (clKey q / 10) = true
  fence : s.safety.fence = false
  clean : s.pondMark = []

/-- The state with the oldest request of cluster `q` taken from its queue. -/
def State.pruneTaken (s : State) (q : ClusterId) (rest : List PruneReq) : State :=
  s.setCluster (clKey q) { s.cluster (clKey q) with prune := rest }

/-- The bitmap words of rows of elements, one for each row (Table 4.3). -/
def bitmapBytes (F : Fmt) (rows : List (List Nat)) : List Byte := (rows.map (fun xs => leBytes 16 (bitmapWord F xs))).flatten

section
variable {s : State} {q : ClusterId} {r : PruneReq} {rest : List PruneReq} {k : Nat}

theorem length_bitmapBytes (F : Fmt) (d : Desc) : (bitmapBytes F (s.denseTile d)).length = 16 * dE d 1 := by
  simp [bitmapBytes, State.denseTile, List.length_flatten, Function.comp_def, Nat.mul_comm]

theorem pruneTaken_prune : ((s.pruneTaken q rest).cluster (clKey q)).prune = rest := by
  rw [State.pruneTaken, State.setCluster_cluster_same]

theorem pruneTaken_withClusters (m : List Host.Cell) (cs : Tbl Cluster) :
    (setMem (s.pruneTaken q rest) m).withClusters cs = (setMem s m).withClusters cs := rfl

/-- From `s`, the request `r` has been performed for core `k`: it has left its queue, memory is `m`, and its tag counts one less. -/
structure Completed (s t : State) (q : ClusterId) (r : PruneReq) (rest : List PruneReq) (k : Nat) (m : List Host.Cell) : Prop where
  queue : (t.cluster (clKey q)).prune = rest
  mem   : t.mem = m
  tag   : (t.proc k).tagCount r.tag = (s.proc k).tagCount r.tag - 1

theorem tagDone_completed (m : List Host.Cell) {cs : Tbl Cluster}
    (h : ((s.withClusters cs).cluster (clKey q)).prune = rest) (err : Bool) :
    Completed s (((setMem s m).withClusters cs).tagDone k r.tag err) q r rest k m where
  queue := h
  mem := rfl
  tag := by
    rw [State.tagDone_proc_same, Proc.tagCount_tagDone]
    rfl

/-- A request that is no keep request is performed on the rows as memory holds them. -/
theorem execPruningUnitComplete_eq (h : Prunes s q r rest) (hk : k = 9 * clKey q + r.core) (hform : r.form ≠ 1) :
    exec (.pruningUnitComplete q) s = .next (
      if r.form = 2 then
        ((s.pruneTaken q rest).pruneWrite k (dBase r.dst)
          (present (bitmapBytes (Fmt.of r.fmt) (s.denseTile r.src)))).tagDone k r.tag false
      else
        ((s.pruneTaken q rest).pruneTile k r (s.denseTile r.src)).1.tagDone k r.tag
          ((s.pruneTaken q rest).pruneTile k r (s.denseTile r.src)).2) := by
  subst hk
  change execPruningUnitComplete q s = _
  have hrows := pruneRows_clean (s := s.pruneTaken q rest) h.clean (9 * clKey q + r.core) r.src
  simp only [State.pruneTaken] at hrows
  simp only [execPruningUnitComplete, h.queue, h.runs, h.fence, hrows, if_neg hform, Bool.not_true, Bool.or_false,
    Bool.false_eq_true, if_false]
  rfl

theorem pruningUnit_bitmap (h : Prunes s q r rest) (hk : k = 9 * clKey q + r.core) (hform : r.form = 2) {st cl off : Nat}
    (hbase : place (dBase r.dst) = .pond st cl off) :
    ∃ t, exec (.pruningUnitComplete q) s = .next t ∧
      Completed s t q r rest k (memWrite s.mem (dBase r.dst).toNat (bitmapBytes (Fmt.of r.fmt) (s.denseTile r.src))) := by
  refine ⟨_, execPruningUnitComplete_eq h hk (by omega), ?_⟩
  rw [if_pos hform, pruneWrite_present (by exact h.clean) hbase]
  exact tagDone_completed _ pruneTaken_prune _

theorem pruningUnit_prune (h : Prunes s q r rest) (hk : k = 9 * clKey q + r.core) (hform : r.form = 0) (hh : dHdrv r.dst = false)
    (hb : ownPond k (dBase r.dst) (8192 * esize r.fmt) = true) (hm : ownPond k (dMd r.dst) 1088 = true) :
    ∃ t vals, exec (.pruningUnitComplete q) s = .next t ∧ vals.length ≤ 8192 * esize r.fmt ∧
      Completed s t q r rest k (tileMem s.mem (dBase r.dst).toNat (dMd r.dst).toNat vals
        (bestPatterns (Fmt.of r.fmt) (s.denseTile r.src))) := by
  obtain ⟨vals, cs, hfit, htile, hprune⟩ := pruneTile_best (s := s.pruneTaken q rest) h.clean hform hh hb hm (s.denseTile r.src)
  refine ⟨_, vals, execPruningUnitComplete_eq h hk (by omega), hfit, ?_⟩
  rw [if_neg (by omega), htile, pruneTaken_withClusters]
  have hqueue : ((s.withClusters cs).cluster (clKey q)).prune = rest := (hprune _).trans pruneTaken_prune
  exact tagDone_completed _ hqueue _

end

end Sys2Proof.Machine

open Sys2Proof Sys2Proof.Machine

/-- Settles O26: an `smask` leaves its request by `smask_requests`; what the unit leaves when it performs a request is in
`pruningUnit_bitmap` and `pruningUnit_prune`. -/
theorem maskRequestsAndBitmaps : Obligations.MaskRequestsAndBitmaps := by
  refine ⟨?_, ?_⟩
  · rintro c f s s' k form p x y hk hp rfl rfl hi hok hform hready hroom hlegal hclean hgrant hdims hpats
    have h : MaskTaken s' k form f (p.getD (lD1 f)) (p.getD (lD3 f)) :=
      ⟨hready, hp ▸ hroom, hlegal, hclean, hgrant, hdims, hpats⟩
    obtain ⟨cs, hx, hprune⟩ := smask_requests hk hp hi hok hform h
    have ht := retire_retired (s'.withClusters cs) k (p.tagUp (lTag f)) 8 false 1
    refine ⟨_, ?_, ?_, ?_, (congrArg Cluster.prune (ht.counts (clOf k))).trans hprune, ?_, fun hoff => (ht.mem hoff).2⟩
    iterate 3
      · rintro rfl
        exact congrArg Host.Outcome.next hx
    · subst hp
      exact ht.regs
  · rintro q s r rest k rows hqueue hk hruns hfence hclean ⟨st, cl, off, hbase⟩ hrows
    obtain rfl : rows = s.denseTile r.src := hrows
    have h : Prunes s q r rest := ⟨hqueue, hruns, hfence, hclean⟩
    refine ⟨fun hform => ?_, fun hform hh hb hm => ?_⟩
    · obtain ⟨t, hx, ht⟩ := pruningUnit_bitmap h hk hform hbase
      refine ⟨t, hx, ht.queue, ?_, fun a ha => ?_, ht.tag⟩
      · rw [State.bytesAt, ht.mem, ← length_bitmapBytes (s := s) (Fmt.of r.fmt)]
        exact memRead_write ..
      · rw [ht.mem]
        exact memByte_write_outside _ _ _ _ (by rwa [length_bitmapBytes])
    · obtain ⟨t, vals, hx, hfit, ht⟩ := pruningUnit_prune h hk hform hh hb hm
      have hlen : (bestPatterns (Fmt.of r.fmt) (s.denseTile r.src)).length = 1024 := by simp [bestPatterns]
      refine ⟨t, hx, ht.queue, ?_, ?_, fun x hxb hxm => ?_, ht.tag⟩
      · rw [State.bytesAt, ht.mem, tileMem_patterns _ hlen, bestPatterns, List.map_map]
        rfl
      · rw [State.natAt, ht.mem, tileMem_escapes]
      · rw [ht.mem]
        exact tileMem_outside _ hlen (by omega) hxm
end

section
/-! Remote accesses become requests (O8). -/

namespace Sys2Proof.Machine
open Sys2Proof

/-- An instruction that retires with its request sent: the request is recorded under the fresh identifier and its packet is on the
mesh. -/
theorem Retired.requested {s t : State} {owner node k size op : Nat} {kind : ReqKind} {pk : PKind} {a pc : Word} {data : List Byte}
    {p : Proc} (h : Retired (s.request owner node kind pk a size data op) t k p pc) :
    t.reqs = s.reqs ++ [⟨s.nextId, owner, node, a, kind⟩] ∧
      t.mesh = s.mesh ++ [{ mkPacket pk 1 node (s.targetNode a) s.nextId with addr := a, size := size, data := data, op := op }] ∧
      t.nextId = s.nextId + 1 ∧ t.proc k = { p with pc := pc } := by
  have hregs := h.regs
  obtain ⟨ps, cs, tr, m, rfl⟩ := h.rest
  exact ⟨rfl, rfl, rfl, hregs⟩

/-- An access of `n` bytes at `a` that unit `k` sends over the mesh: granted, held up by no outstanding access, with room at its port. -/
structure RemoteAccess (s : State) (k : Nat) (a : Word) (n : Nat) (write : Bool) : Prop where
  far   : localTo k a = false
  ready : s.hazard k a n write = false
  room  : s.portUse k < 16

variable {u : UnitId} {f : BitVec 25} {s s' : State}

theorem scalarLoad_requests {a : Word} {n : Nat} (hi : Issues s s' (unitKey u) [.s (rdOf f), .s (raOf f)] 4)
    (ha : a = s'.ra (unitKey u) f + sxt 12 (fld f 20 12)) (hn : n = ldSize (fld f 17 3))
    (hg : s'.accessFault (unitKey u) a n n false = none) (h : RemoteAccess s' (unitKey u) a n false) :
    exec (.scalarLoad u f) s = .next ((s'.request (unitKey u) (nodeOfUnit (unitKey u)) (.load (rdOf f) (fld f 17 3)) .rd a n [] 0).retire
      (unitKey u) (s'.proc (unitKey u)) 4 true 1) := by
  subst ha hn
  change execScalarLoad u f s = _
  simp only [State.ra] at hg h ⊢
  simp only [execScalarLoad, issue_eq hi, hg, h.ready, h.far, Nat.not_le_of_lt h.room, Bool.false_eq_true, if_false, ge_iff_le]

theorem scalarStore_requests {a : Word} {n : Nat} (hi : Issues s s' (unitKey u) [.s (rdOf f), .s (raOf f)] 4)
    (ha : a = s'.ra (unitKey u) f + sxt 12 (fld f 20 12)) (hn : n = ldSize (fld f 17 3)) (hf : fld f 17 3 ≤ 3)
    (hg : s'.accessFault (unitKey u) a n n true = none) (h : RemoteAccess s' (unitKey u) a n true) :
    exec (.scalarStore u f) s = .next ((s'.request (unitKey u) (nodeOfUnit (unitKey u)) .store .wr a n
      (leBytes n (s'.rd (unitKey u) f).toNat) 0).retire (unitKey u) (s'.proc (unitKey u)) 4 true 1) := by
  subst ha hn
  have hlegal : ¬ (4 ≤ fld f 17 3 ∧ fld f 17 3 ≤ 6) := by omega
  have hplain : fld f 17 3 ≠ 7 := by omega
  change execScalarStore u f s = _
  simp only [State.ra, State.rd] at hg h ⊢
  simp only [execScalarStore, issue_eq hi, hlegal, hg, h.ready, h.far, storeBytes, hplain, Nat.not_le_of_lt h.room,
    Bool.false_eq_true, if_false, ge_iff_le]

/-- The three atomic operations differ in the code alone. -/
theorem amo_requests {x : Word} {fn : Nat} (hi : Issues s s' (unitKey u) (regs3 f) 4) (hc : isCore (unitKey u) = true)
    (hx : x = s'.ra (unitKey u) f) (hfn : fld f 22 10 = fn) (hg : s'.amoFault (unitKey u) x = none)
    (h : RemoteAccess s' (unitKey u) x 8 true) :
    s.amo u fn f = (s'.request (unitKey u) (nodeOfUnit (unitKey u)) (.amo (rdOf f)) .amo x 8
      (leBytes 8 (s'.rb (unitKey u) f).toNat ++ leBytes 8 (s'.rd (unitKey u) f).toNat) fn).retire
        (unitKey u) (s'.proc (unitKey u)) 4 true 1 := by
  subst hx
  simp only [State.ra, State.rb, State.rd] at hg h ⊢
  simp only [State.amo, issue_eq hi, hc, hfn, hg, h.ready, h.far, Nat.not_le_of_lt h.room, bne_self_eq_false, Bool.not_true,
    Bool.or_self, Bool.false_eq_true, if_false, ge_iff_le]

end Sys2Proof.Machine

open Sys2Proof Sys2Proof.Machine

/-- Settles O8: each access is one request (`scalarLoad_requests`, `scalarStore_requests`, `amo_requests`), and retirement keeps it
(`Retired.requested`). -/
theorem remoteLoadsAndStoresSendRequest : Obligations.RemoteLoadsAndStoresSendRequest := by
  intro u f s s' a n hi ha hn hfar hroom
  refine ⟨fun hg hready => ?_, fun hg hready hf => ?_, fun x fn hc hx hfn _ hi hg hready hfar => ?_⟩
  · exact ⟨_, scalarLoad_requests hi ha hn hg ⟨hfar, hready, hroom⟩, (retire_retired ..).requested⟩
  · exact ⟨_, scalarStore_requests hi ha hn hf hg ⟨hfar, hready, hroom⟩, (retire_retired ..).requested⟩
  · have hr := amo_requests hi hc hx hfn.symm hg ⟨hfar, hready, hroom⟩
    refine ⟨s.amo u fn f, ?_, ?_, ?_, ?_⟩
    · rintro rfl; rfl
    · rintro rfl; rfl
    · rintro rfl; rfl
    · rw [hr]
      exact (retire_retired ..).requested
end

section
/-! Synchronisation and numeric state (O16). Each instruction whose operands are legal and that has nothing to wait for is one
operation of the state after the fetch: entry to the barrier, or a retirement with its registers. -/

namespace Sys2Proof.Machine
open Sys2Proof

/-! ## Which unit a core is -/

/-- A core is no profile unit. -/
theorem profiles_of_isCore {k : Nat} (h : isCore k = true) : isSpring k = false ∧ isSluice k = false ∧ isUe k = false := by
  simp only [isCore, isSpring, isSluice, isUe, decide_eq_true_eq, Bool.and_eq_false_iff, decide_eq_false_iff_not] at *
  omega

/-! ## Instructions -/

variable {c : CoreId} {f : BitVec 25} {s s' : State}

theorem bar_enters (hi : Issues s s' (coreKey c) [] 4) (hrd : rdOf f = 0) (hra : raOf f = 0) (hrb : rbOf f = 0)
    (himm : syImm f < 32) (hmem : s'.member (syImm f % 16) (coreKey c) = true) (hspan : (s'.proc (coreKey c)).span = none)
    (hout : s'.storesOut (coreKey c) = false) :
    exec (.bar (.core c) f) s = .next (s'.enterBar (coreKey c) (syImm f % 16) (syImm f / 16 % 2 == 1)) := by
  change execBar (.core c) f s = _
  have h32 : syImm f / 32 = 0 := by omega
  obtain ⟨-, -, hue⟩ := profiles_of_isCore (isCore_coreKey c)
  simp [execBar, unitKey, issue_eq hi, hrd, hra, hrb, h32, hue, hmem, hspan, hout]

/-- The unit waits in the barrier, and its polder's node has counted it. -/
theorem enterBar_counts (s : State) (k bid : Nat) (scope : Bool) :
    (s.enterBar k bid scope).proc k = { s.proc k with inBar := some (bid, scope) } ∧
      Tbl.get ((s.enterBar k bid scope).bar (polderOf k)).count 0 bid = Tbl.get (s.bar (polderOf k)).count 0 bid + 1 := by
  simp [State.enterBar]

theorem tagwait_retires (hi : Issues s s' (coreKey c) [.s (raOf f)] 4) (hbad : tagwaitBad f = false)
    (hcnt : ∀ i < 32, (tagMask (s'.proc (coreKey c)) f).getLsbD i = true → (s'.proc (coreKey c)).tagCount i = 0)
    (herr : tagMask (s'.proc (coreKey c)) f &&& (s'.proc (coreKey c)).tagErr = 0) :
    exec (.tagwait (.core c) f) s = .next (s'.retire (coreKey c) (s'.proc (coreKey c)) 4 false 1) := by
  change execTagwait (.core c) f s = _
  simp only [execTagwait, unitKey, issue_eq hi, hbad, herr, ne_eq, not_true_eq_false, Bool.false_eq_true, if_false]
  rw [if_neg]
  simp only [List.any_eq_true, List.mem_range, Bool.and_eq_true]
  rintro ⟨t, ht, hm, hpos⟩
  exact Nat.pos_iff_ne_zero.mp (of_decide_eq_true hpos) (hcnt t ht hm)

theorem fence_retires (hi : Issues s s' (coreKey c) [] 4) (hrd : rdOf f = 0) (hra : raOf f = 0) (hrb : rbOf f = 0)
    (hlo : 1 ≤ syImm f) (hhi : syImm f ≤ 3) (hst : syImm f % 2 = 1 → s'.storesOut (coreKey c) = false)
    (hld : 2 ≤ syImm f → s'.loadsOut (coreKey c) = false) :
    exec (.fence (.core c) f) s = .next (s'.retire (coreKey c) (s'.proc (coreKey c)) 4 false 1) := by
  change execFence (.core c) f s = _
  have hlegal : (rdOf f != 0 || raOf f != 0 || rbOf f != 0 || syImm f / 4 != 0 || syImm f == 0) = false := by
    simp [hrd, hra, hrb]
    omega
  have hwait : (syImm f % 2 == 1 && s'.storesOut (coreKey c) || syImm f / 2 == 1 && s'.loadsOut (coreKey c)) = false := by
    simp only [Bool.or_eq_false_iff, Bool.and_eq_false_imp, beq_iff_eq]
    exact ⟨hst, fun h => hld (by omega)⟩
  simp only [execFence, unitKey, issue_eq hi, hlegal, hwait, Bool.false_eq_true, if_false]

theorem nround_retires (hi : Issues s s' (coreKey c) [.s (rdOf f)] 4) (hra : raOf f = 0) (hrb : rbOf f = 0) (hm : syImm f ≤ 4) :
    exec (.nround (.core c) f) s = .next (s'.retire (coreKey c)
      ({ s'.proc (coreKey c) with nround := BitVec.ofNat 3 (syImm f) }.setS (rdOf f)
        ((s'.proc (coreKey c)).nround.zeroExtend 64)) 4 false 1) := by
  change execNround (.core c) f s = _
  have hlegal : (isSpring (coreKey c) || isSluice (coreKey c) || raOf f != 0 || rbOf f != 0 || decide (syImm f ≥ 8) ||
      syImm f == 5 || syImm f == 6) = false := by
    obtain ⟨hspring, hsluice, -⟩ := profiles_of_isCore (isCore_coreKey c)
    simp [hspring, hsluice, hra, hrb]
    omega
  have hmode : syImm f ≠ 7 := by omega
  simp only [execNround, unitKey, runInstr_eq hi, hlegal, hmode, Bool.false_eq_true, if_false]
  rfl

theorem nseed_retires (hi : Issues s s' (coreKey c) [.s (raOf f)] 4) (hrd : rdOf f = 0) (hrb : rbOf f = 0) (himm : syImm f = 0)
    (hx : (s'.ra (coreKey c) f).toNat < 2 ^ 48) :
    exec (.nseed (.core c) f) s = .next (s'.retire (coreKey c)
      ((s'.proc (coreKey c)).setStep ((s'.ra (coreKey c) f).truncate 48)) 4 false 1) := by
  change execNseed (.core c) f s = _
  simp only [State.ra] at hx ⊢
  simp only [execNseed, unitKey, runInstr_eq hi, hrd, hrb, himm, bne_self_eq_false, Bool.or_self, Bool.false_eq_true, if_false,
    ge_iff_le, Nat.not_le_of_lt hx]
  rfl

theorem nfmt_retires (hi : Issues s s' (coreKey c) [.s (rdOf f), .s (raOf f)] 4) (hrb : rbOf f = 0) (himm : syImm f = 0)
    (hx : (s'.ra (coreKey c) f).toNat ≤ 1) :
    exec (.nfmt (.core c) f) s = .next (s'.retire (coreKey c)
      ({ s'.proc (coreKey c) with nf := s'.ra (coreKey c) f == 1 }.setS (rdOf f)
        (if (s'.proc (coreKey c)).nf then 1 else 0)) 4 false 1) := by
  change execNfmt (.core c) f s = _
  simp only [State.ra] at hx ⊢
  simp only [execNfmt, unitKey, runInstr_eq hi, isCore_coreKey c, hrb, himm, bne_self_eq_false, Bool.not_true, Bool.or_self,
    Bool.false_eq_true, if_false, gt_iff_lt, Nat.not_lt_of_le hx]
  rfl

end Sys2Proof.Machine

open Sys2Proof Sys2Proof.Machine

/-- Settles O16: a `bar` enters its barrier (`bar_enters`), and each of the others retires. -/
theorem synchronisationInstructions : Obligations.SynchronisationInstructions := by
  rintro c f s s' k p rfl rfl
  refine ⟨?bar, ?tagwait, ?fence, ?nround, ?nseed, ?nfmt⟩
  case bar =>
    intro hi hrd hra hrb himm hmem hspan hout
    have hin := enterBar_counts s' (coreKey c) (syImm f % 16) (syImm f / 16 % 2 == 1)
    exact ⟨_, bar_enters hi hrd hra hrb himm hmem hspan hout, hin.1, hin.2, rfl⟩
  case tagwait =>
    intro hi hbad hcnt herr
    exact ⟨_, tagwait_retires hi hbad hcnt herr, retire_retired ..⟩
  case fence =>
    intro hi hrd hra hrb hlo hhi hst hld
    exact ⟨_, fence_retires hi hrd hra hrb hlo hhi hst hld, retire_retired ..⟩
  case nround =>
    intro hi hra hrb hm
    exact ⟨_, nround_retires hi hra hrb hm, retire_retired ..⟩
  case nseed =>
    intro hi hrd hrb himm hx
    exact ⟨_, nseed_retires hi hrd hrb himm hx, retire_retired ..⟩
  case nfmt =>
    intro hi hrb himm hx
    exact ⟨_, nfmt_retires hi hrb himm hx, retire_retired ..⟩
end

section
/-! Transfers of a core (O25). A DMA instruction that is accepted and refused ends at once with an error on its tag
(`dmaEnd_refused`); otherwise its near parts are performed and its far ones become requests of one transfer. -/

namespace Sys2Proof.Machine
open Sys2Proof

/-! ## Issue -/

/-- Core `k` issues the transfer `f`, whose word may use the fields `use`, on the descriptors `x` and `y`: it neither stalls nor traps. -/
structure DmaTaken (s s' : State) (k : Nat) (f : BitVec 57) (use : List Char) (regs : List Reg) (x y : Desc) : Prop where
  issues : Issues s s' k regs 8
  word   : lOk f use 1 = true
  ready  : s'.dmaStall k (lTag f) = false
  legal  : dmaTrap f x y = none
  src    : x = (s'.proc k).getD (lD1 f)
  dst    : y = (s'.proc k).getD (lD3 f)

theorem countEv_withClusters (s : State) (k ev arr n : Nat) : ∃ cs, s.countEv k ev arr n = s.withClusters cs := by
  rcases countEv_cases s k ev arr n with h | ⟨c, cnt, h⟩
  · exact ⟨s.clusters, h⟩
  · exact ⟨_, h⟩

theorem lTag_lt (f : BitVec 57) : lTag f < 32 := fld_lt f 24 5

/-! ## A transfer that ends at once -/

theorem dmaEnd_retired (s : State) (k tag : Nat) (err : Bool) :
    Retired s (s.dmaEnd k tag err) k (((s.proc k).tagUp tag).tagDone tag err) ((s.proc k).pc + 8) := retire_retired ..

/-- The tag of a transfer that ends at once counts as before. -/
theorem Proc.tagCount_tagUp_tagDone (p : Proc) (t : Nat) (err : Bool) : ((p.tagUp t).tagDone t err).tagCount t = p.tagCount t := by
  rw [Proc.tagCount_tagDone, show (p.tagUp t).tagCount t = p.tagCount t + 1 from Tbl.get_put_same .., Nat.add_sub_cancel]

theorem dmaEnd_tagCount (s : State) (k tag : Nat) (err : Bool) :
    ((s.dmaEnd k tag err).proc k).tagCount tag = (s.proc k).tagCount tag := by
  rw [(dmaEnd_retired s k tag err).regs]
  exact Proc.tagCount_tagUp_tagDone _ tag err

theorem dmaEnd_mem {s : State} {k : Nat} (h : s.traced k = false) (tag : Nat) (err : Bool) : (s.dmaEnd k tag err).mem = s.mem :=
  ((dmaEnd_retired s k tag err).mem h).2

theorem dmaEnd_pc (s : State) (k tag : Nat) (err : Bool) : ((s.dmaEnd k tag err).proc k).pc = (s.proc k).pc + 8 := by
  rw [(dmaEnd_retired s k tag err).regs]

/-- A transfer refused after the record of an event: the record is the last, the tag has an error and counts as before. -/
theorem dmaEnd_refused (s : State) {k tag : Nat} (htag : tag < 32) (code src unit : Nat) (pay : List (Nat × Nat)) :
    let t := (s.emit code src unit pay).dmaEnd k tag true
    t.evrec.queue.getLast?.map (·.code) = some code ∧ (t.proc k).tagCount tag = (s.proc k).tagCount tag ∧
      (t.proc k).tagErr.getLsbD tag = true ∧ (t.proc k).pc = (s.proc k).pc + 8 ∧ (s.traced k = false → t.mem = s.mem) := by
  intro t
  have h : Retired (s.emit code src unit pay) t k _ _ := dmaEnd_retired ..
  refine ⟨?_, dmaEnd_tagCount .., ?_, dmaEnd_pc .., fun ht => (h.mem ht).2⟩
  · obtain ⟨ps, cs, tr, m, ht⟩ := h.rest
    rw [ht]
    exact congrArg (Option.map Event.code) List.getLast?_concat
  · rw [h.regs]
    exact Proc.tagErr_tagDone _ htag

theorem dget_refused {c : CoreId} {f : BitVec 57} {s s' : State} {x y : Desc} {w : Word}
    (h : DmaTaken s s' (coreKey c) f ['1', '3', 't'] [.d (lD1 f), .d (lD3 f)] x y)
    (hw : s'.dmaRefused (coreKey c) true (dmaParts x y) = some w) :
    exec (.dget (.core c) f) s = .next ((s'.refusedEvent (coreKey c) w).dmaEnd (coreKey c) (lTag f) true) := by
  change execDget (.core c) f s = _
  simp only [execDget, unitKey, issue64_eq h.issues h.word, h.ready, ← h.src, ← h.dst, h.legal, hw, Bool.false_eq_true, if_false]

theorem dput_refused {c : CoreId} {f : BitVec 57} {s s' : State} {x y : Desc} {w : Word}
    (h : DmaTaken s s' (coreKey c) f ['1', '3', 't'] [.d (lD1 f), .d (lD3 f)] x y)
    (hw : s'.dmaRefused (coreKey c) false (dmaParts x y) = some w) :
    exec (.dput (.core c) f) s = .next ((s'.refusedEvent (coreKey c) w).dmaEnd (coreKey c) (lTag f) true) := by
  change execDput (.core c) f s = _
  simp only [execDput, unitKey, issue64_eq h.issues h.word, h.ready, ← h.src, ← h.dst, h.legal, hw, Bool.false_eq_true, if_false]

/-! ## A transfer that goes on -/

/-- A transfer that goes on retires with its tag counted up, whatever `s` has sent for it. -/
theorem xferRetire_eq {s t : State} {k tag : Nat} {xf : Xfer}
    (h : Retired { s with xfers := s.xfers ++ [xf] } t k ((s.proc k).tagUp tag) ((s.proc k).pc + 8)) :
    t.xfers = s.xfers ++ [xf] ∧ t.reqs = s.reqs ∧ t.mesh = s.mesh ∧
      (t.proc k).tagCount tag = (s.proc k).tagCount tag + 1 ∧ (t.proc k).pc = (s.proc k).pc + 8 := by
  have hregs := h.regs
  obtain ⟨ps, cs, tr, m, rfl⟩ := h.rest
  refine ⟨rfl, rfl, rfl, ?_, ?_⟩
  · rw [hregs]
    exact Tbl.get_put_same ..
  · rw [hregs]

/-- A `dget` of one part that the mesh must fetch: one read request of a new transfer. -/
theorem dget_far {c : CoreId} {f : BitVec 57} {s s' : State} {x y : Desc} {a d : Word} {n : Nat}
    (h : DmaTaken s s' (coreKey c) f ['1', '3', 't'] [.d (lD1 f), .d (lD3 f)] x y)
    (hg : s'.dmaRefused (coreKey c) true (dmaParts x y) = none) (hps : dmaParts x y = [(a, d, n)])
    (hfar : localTo (coreKey c) a = false) :
    ∃ t cs, exec (.dget (.core c) f) s = .next t ∧
      let s1 := (s'.takeId.2.request (coreKey c) (nodeOfUnit (coreKey c)) (.xferRd s'.nextId d) .rd a n [] 0).withClusters cs
      Retired { s1 with xfers := s1.xfers ++ [⟨s'.nextId, coreKey c, .tag (lTag f), 1, 1, false, true, []⟩] } t (coreKey c)
        ((s1.proc (coreKey c)).tagUp (lTag f)) ((s1.proc (coreKey c)).pc + 8) := by
  change ∃ t cs, execDget (.core c) f s = .next t ∧ _
  rw [hps] at hg
  simp only [execDget, unitKey, issue64_eq h.issues h.word, h.ready, ← h.src, ← h.dst, h.legal, hps, hg, State.getParts, hfar,
    Bool.false_eq_true, if_false, Nat.zero_add, Nat.one_ne_zero]
  obtain ⟨cs, hcs⟩ := countEv_withClusters (s'.takeId.2.request (coreKey c) (nodeOfUnit (coreKey c)) (.xferRd s'.nextId d) .rd a n [] 0)
    (coreKey c) 0x1C 2 (totalBytes [(a, d, n)])
  refine ⟨_, cs, rfl, ?_⟩
  rw [← hcs]
  exact retire_retired ..

/-! ## Ponds without errors -/

theorem localRead_pond {s : State} (hp : s.pondMark = []) {a : Word} (ha : ∃ st cl off, place a = .pond st cl off) (k n : Nat) :
    s.localRead k a n = (s, s.bytesAt a.toNat n, none) := by
  obtain ⟨st, cl, off, ha⟩ := ha
  simp [State.localRead, State.eccRead, keyFor, ha, hp]

theorem localWrite_pond {s : State} (hp : s.pondMark = []) {a : Word} (ha : ∃ st cl off, place a = .pond st cl off) (k : Nat)
    (bs : List Byte) : s.localWrite k a bs = setMem s (memWrite s.mem a.toNat bs) := by
  obtain ⟨st, cl, off, ha⟩ := ha
  simp [State.localWrite, State.localWriteMask, State.eccWrite, ha, hp, memWriteMask_present]

/-- The bytes of the parts of a transfer, by destination. -/
def State.partBytes (s : State) (ps : List DmaPart) : List (Word × List Byte) := ps.map (fun q => (q.2.1, s.bytesAt q.1.toNat q.2.2))

theorem readParts_ponds {s : State} (hp : s.pondMark = []) {ps : List DmaPart}
    (h : ∀ q ∈ ps, ∃ st cl off, place q.1 = .pond st cl off) (k : Nat) : s.readParts k ps = (s, s.partBytes ps, false) := by
  induction ps with
  | nil => rfl
  | cons q r ih =>
    obtain ⟨h1, h2⟩ := List.forall_mem_cons.mp h
    simp [State.readParts, State.readSide, localRead_pond hp h1, ih h2, State.partBytes]

/-! ## `dput` within the own pond -/

theorem dput_near {c : CoreId} {f : BitVec 57} {s s' : State} {x y : Desc} {a d : Word} {n : Nat}
    (h : DmaTaken s s' (coreKey c) f ['1', '3', 't'] [.d (lD1 f), .d (lD3 f)] x y)
    (hg : s'.dmaRefused (coreKey c) false (dmaParts x y) = none) (hps : dmaParts x y = [(a, d, n)])
    (hd : localTo (coreKey c) d = true) (hp : s'.pondMark = [])
    (hsrc : ∃ st cl off, place a = .pond st cl off) (hdst : ∃ st cl off, place d = .pond st cl off) :
    ∃ u : State, exec (.dput (.core c) f) s = .next (u.dmaEnd (coreKey c) (lTag f) false) ∧
      u.mem = memWrite s'.mem d.toNat (s'.bytesAt a.toNat n) ∧ u.proc = s'.proc ∧ u.traced = s'.traced := by
  change ∃ u : State, execDput (.core c) f s = _ ∧ _
  rw [hps] at hg
  have hr : s'.readParts (coreKey c) [(a, d, n)] = (s', s'.partBytes [(a, d, n)], false) :=
    readParts_ponds hp (by simpa using hsrc) _
  obtain ⟨cs1, h1⟩ := countEv_withClusters s' (coreKey c) 0x1C 2 (totalBytes [(a, d, n)])
  have hw := localWrite_pond (s := (s'.withClusters cs1).takeId.2) hp hdst (coreKey c) (s'.bytesAt a.toNat n)
  simp only [execDput, unitKey, issue64_eq h.issues h.word, h.ready, ← h.src, ← h.dst, h.legal, hps, hg, hr, h1, State.partBytes,
    List.map_cons, List.map_nil, State.putParts, hd, hw, Bool.false_eq_true, if_false, if_true]
  obtain ⟨cs2, h2⟩ := countEv_withClusters (setMem (s'.withClusters cs1).takeId.2 (memWrite (s'.withClusters cs1).takeId.2.mem d.toNat
    (s'.bytesAt a.toNat n))) (coreKey c) 0x1D 2 (totalBytes [(a, d, n)])
  rw [h2]
  exact ⟨_, rfl, rfl, rfl, rfl⟩

/-! ## `dcast` -/

/-- The own side of every part lies in the core's pond, the other in a pond, past no pond's end (R242). -/
structure CastParts (k : Nat) (ps : List DmaPart) : Prop where
  own : ∀ q ∈ ps, ownPond k q.1 q.2.2 = true
  far : ∀ q ∈ ps, ∃ st cl off, place q.2.1 = .pond st cl off ∧ off + q.2.2 ≤ 2 ^ 26

/-- Multicasts of a transfer send one packet and record one request each. -/
theorem sendMcs_sends {s u : State} {k node x group root : Nat} {ps : List (Word × List Byte)}
    (h : s.sendMcs k node x group root ps = u) :
    u.mesh.length = s.mesh.length + ps.length ∧ u.reqs.length = s.reqs.length + ps.length ∧ u.proc = s.proc := by
  unfold State.sendMcs at h
  induction ps generalizing s with
  | nil =>
    subst h
    exact ⟨rfl, rfl, rfl⟩
  | cons q r ih =>
    obtain ⟨hm, hr, hp⟩ := ih h
    have hm1 : (s.sendMc k node x group root (q.1.toNat % 2 ^ 26) q.2).mesh.length = s.mesh.length + 1 := List.length_append
    have hr1 : (s.sendMc k node x group root (q.1.toNat % 2 ^ 26) q.2).reqs.length = s.reqs.length + 1 := List.length_append
    refine ⟨?_, ?_, hp⟩
    · rw [hm, hm1, List.length_cons, Nat.add_assoc, Nat.add_comm 1]
    · rw [hr, hr1, List.length_cons, Nat.add_assoc, Nat.add_comm 1]

/-- The entry of the group that a `dcast` names, in its node's table. -/
def State.castEntry (s : State) (k : Nat) (f : BitVec 57) : Word :=
  Tbl.get (s.node (nodeOfUnit k)).multi 0 ((s.proc k).getS (lRa f)).toNat

/-- A `dcast` whose parts are granted: without a valid entry it ends at once, with one it sends a multicast for each part. -/
theorem dcast_sends {c : CoreId} {f : BitVec 57} {s s' : State} {x y : Desc}
    (h : DmaTaken s s' (coreKey c) f ['1', '3', 't', 'a'] [.d (lD1 f), .d (lD3 f), .s (lRa f)] x y)
    (hgroup : ((s'.proc (coreKey c)).getS (lRa f)).toNat < 256) (hps : CastParts (coreKey c) (dmaParts x y)) :
    (mcValid (s'.castEntry (coreKey c) f) = false → ∃ src unit pay,
      exec (.dcast (.core c) f) s = .next ((s'.emit 0x4106 src unit pay).dmaEnd (coreKey c) (lTag f) true)) ∧
    (mcValid (s'.castEntry (coreKey c) f) = true → s'.pondMark = [] → ∃ (t u : State) (xf : Xfer), exec (.dcast (.core c) f) s = .next t ∧
      u.mesh.length = s'.mesh.length + (dmaParts x y).length ∧ u.reqs.length = s'.reqs.length + (dmaParts x y).length ∧
      u.proc = s'.proc ∧ Retired { u with xfers := u.xfers ++ [xf] } t (coreKey c) ((u.proc (coreKey c)).tagUp (lTag f))
        ((u.proc (coreKey c)).pc + 8)) := by
  have hgrp : firstTrap [dmaTrap f x y, when' (((s'.proc (coreKey c)).getS (lRa f)).toNat / 256 != 0)
      (opTrap ((s'.proc (coreKey c)).getS (lRa f)))] = none := by
    simp [firstTrap_eq_none, h.legal, when'_eq_none, Nat.div_eq_of_lt hgroup]
  have hexec : exec (.dcast (.core c) f) s = execDcast (.core c) f s := rfl
  simp only [hexec, execDcast, unitKey, issue64_eq h.issues (Bool.and_eq_true_iff.mpr ⟨isCore_coreKey c, h.word⟩), h.ready, ← h.src,
    ← h.dst, hgrp, Nat.mod_eq_of_lt hgroup, Bool.false_eq_true, if_false]
  split
  next w hw =>
    obtain ⟨q, hq, he⟩ := List.exists_of_findSome?_eq_some hw
    obtain ⟨st, cl, off, hplace, hfit⟩ := hps.far q hq
    simp [hps.own q hq, hplace, hfit, -Nat.reducePow] at he
  refine ⟨fun hv => ?_, fun hv hp => ?_⟩
  · simp only [State.castEntry] at hv
    simp only [hv, Bool.not_false, if_true]
    exact ⟨_, _, _, rfl⟩
  · simp only [State.castEntry] at hv
    have hr := readParts_ponds hp (fun q hq => place_of_ownPond (hps.own q hq)) (coreKey c)
    obtain ⟨cs, hcs⟩ := countEv_withClusters s' (coreKey c) 0x1C 2 (totalBytes (dmaParts x y))
    simp only [hv, hr, hcs, Bool.not_true, Bool.false_eq_true, if_false]
    generalize hu : State.sendMcs _ _ _ _ _ _ _ = u
    obtain ⟨hmesh, hreqs, hproc⟩ := sendMcs_sends hu
    rw [State.partBytes, List.length_map] at hmesh hreqs
    exact ⟨_, u, _, rfl, hmesh, hreqs, hproc, retire_retired ..⟩

/-! ## `dwait` -/

theorem dwait_retires {c : CoreId} {f : BitVec 57} {s s' : State} (hi : Issues s s' (coreKey c) [] 8) (hok : lOk f [] 1 = true)
    (hnone : s'.xfers.any (fun z => z.owner == coreKey c && z.dma && decide (z.srcLeft > 0)) = false) :
    exec (.dwait (.core c) f) s = .next (s'.retire (coreKey c) (s'.proc (coreKey c)) 8 false 1) := by
  change execDwait (.core c) f s = _
  simp only [execDwait, unitKey, issue64_eq hi hok]
  exact congrArg _ (if_neg (Bool.eq_false_iff.mp hnone))

end Sys2Proof.Machine

open Sys2Proof Sys2Proof.Machine

/-- Settles O25: what is refused ends at once (`dmaEnd_refused`); a far part of a `dget` is requested (`dget_far`), a near `dput` is
performed (`dput_near`), and a `dcast` sends its parts (`dcast_sends`). -/
theorem dmaTransfers : Obligations.DmaTransfers := by
  rintro c f s s' k p x y rfl rfl hx hy
  refine ⟨fun hi hok hready hlegal => ?_, fun hi hok hready hlegal hgroup hown hfar => ?_, fun hi hok hnone => ?_⟩
  · have h : DmaTaken s s' (coreKey c) f _ _ x y := ⟨hi, hok, hready, hlegal, hx, hy⟩
    refine ⟨fun w hw => ?_, fun w hw => ?_, fun a d n hg hps hl => ?_, fun a d n hg hps _ hd hp hsrc hdst htr => ?_⟩
    · exact ⟨_, dget_refused h hw, dmaEnd_refused s' (lTag_lt f) ..⟩
    · obtain ⟨hev, _, herr, hpc, hmem⟩ := dmaEnd_refused s' (k := coreKey c) (lTag_lt f) 0x7101 (polderOf (coreKey c))
        (uidUnit (coreKey c)) [(8, w.toNat)]
      exact ⟨_, dput_refused h hw, hev, herr, hpc, hmem⟩
    · obtain ⟨t, cs, ht, hret⟩ := dget_far h hg hps hl
      obtain ⟨hxf, hreq, _, htag, hpc⟩ := xferRetire_eq hret
      exact ⟨t, ht, hxf, hreq, htag, hpc⟩
    · obtain ⟨u, ht, hu, hproc, htraced⟩ := dput_near h hg hps hd hp hsrc hdst
      have hmem := (dmaEnd_mem ((congrFun htraced _).trans htr) (lTag f) false).trans hu
      have hlen : (s'.bytesAt a.toNat n).length = n := memRead_length ..
      refine ⟨_, ht, ?_, fun b hb => ?_, ?_, ?_⟩
      · have hread := memRead_write s'.mem d.toNat (s'.bytesAt a.toNat n)
        rwa [hlen, ← hmem] at hread
      · rw [hmem]
        exact memByte_write_outside _ _ _ _ (by rwa [hlen])
      · rw [dmaEnd_tagCount, hproc]
      · rw [dmaEnd_pc, hproc]
  · have h : DmaTaken s s' (coreKey c) f _ _ x y := ⟨hi, hok, hready, hlegal, hx, hy⟩
    obtain ⟨hno, hyes⟩ := dcast_sends h hgroup ⟨hown, hfar⟩
    refine ⟨fun hv => ?_, fun hv hp => ?_⟩
    · obtain ⟨src, unit, pay, ht⟩ := hno hv
      obtain ⟨hev, _, herr, hpc, _⟩ := dmaEnd_refused s' (k := coreKey c) (lTag_lt f) 0x4106 src unit pay
      exact ⟨_, ht, hev, herr, hpc⟩
    · obtain ⟨t, u, xf, ht, hm, hr, hproc, hret⟩ := hyes hv hp
      obtain ⟨_, hreq, hmesh, htag, hpc⟩ := xferRetire_eq hret
      rw [hproc] at htag hpc
      exact ⟨t, ht, by rw [hmesh, hm], by rw [hreq, hr], htag, hpc⟩
  · exact ⟨_, dwait_retires hi hok hnone, retire_retired ..⟩
end

section
/-! What a report leaves (O38, O41, O48): an event is one record in the recorder's queue, a detection one message to the safety
monitor besides, and POISON where it names a polder (R480, R610). -/

namespace Sys2Proof.Machine
open Sys2Proof

variable {s : State}

theorem emit_wrote (code src unit : Nat) (pay : List (Nat × Nat)) : s.Wrote (s.emit code src unit pay) code := ⟨_, rfl, rfl⟩

theorem State.Wrote.of_evrec {t u : State} {code : Nat} (h : s.Wrote t code) (hu : u.evrec = t.evrec) : s.Wrote u code := by
  obtain ⟨e, hq, hc⟩ := h
  exact ⟨e, by rw [hu, hq], hc⟩

theorem State.poison_bar (p : Nat) : ((s.poison p).bar p).poison = true :=
  congrArg BarNode.poison (State.setBar_bar_same ..)

/-- The safety monitor's registers with the message of a detection in its queue. -/
def Safety.told (f : Safety) (code src unit : Nat) (pay : List (Nat × Nat)) : Safety :=
  { f with queue := f.queue ++ [⟨code, src, unit, detAddr code pay, mechOf code⟩] }

section
variable (code src unit : Nat) (pay : List (Nat × Nat))

/-! A detection changes the recorder, the safety monitor and a barrier node. -/

@[simp] theorem detect_evrec : (s.detect code src unit pay).evrec = (s.emit code src unit pay).evrec := by
  simp only [State.detect]; split <;> rfl
@[simp] theorem detect_safety : (s.detect code src unit pay).safety = s.safety.told code src unit pay := by
  simp only [State.detect]; split <;> rfl
@[simp] theorem detect_mesh : (s.detect code src unit pay).mesh = s.mesh := by simp only [State.detect]; split <;> rfl
@[simp] theorem detect_reqs : (s.detect code src unit pay).reqs = s.reqs := by simp only [State.detect]; split <;> rfl
@[simp] theorem detect_pondMark : (s.detect code src unit pay).pondMark = s.pondMark := by simp only [State.detect]; split <;> rfl
@[simp] theorem detect_procs : (s.detect code src unit pay).procs = s.procs := by simp only [State.detect]; split <;> rfl
@[simp] theorem detect_cluster (j : Nat) : (s.detect code src unit pay).cluster j = s.cluster j := by
  simp only [State.detect]; split <;> rfl
@[simp] theorem detect_stack (j : Nat) : (s.detect code src unit pay).stack j = s.stack j := by
  simp only [State.detect]; split <;> rfl

theorem detect_wrote : s.Wrote (s.detect code src unit pay) code := (emit_wrote ..).of_evrec (detect_evrec ..)

end

end Sys2Proof.Machine
end

section
/-! Answers end their requests (O38). A response at its initiator is one `State.answer` of the request that it names
(`response_answers`), and the lemmas about `State.answer` say what each kind of request leaves. -/

namespace Sys2Proof.Machine
open Sys2Proof

variable {s : State} {i : Nat} {p : Packet} {r : Req}

/-! ## Arrival -/

theorem arrive_arrived {k : PKind} (h : s.Arrived i p k) (f : Packet → State) : s.arrive i false (·.kind == k) f = f p := by
  simp [State.arrive, State.atNode, h.place, h.kind, h.home, h.fits, h.home ▸ h.runs]

/-- A good response answers the open request that it names. -/
theorem response_answers {k : PKind} (h : s.Arrived i p k) (hr : s.reqOf p.tid = some r) :
    s.response i false k = (s.dropPacket i).answer r p.status p.data := by
  rw [State.response, arrive_arrived h]
  simp only [show (s.dropPacket i).reqOf p.tid = some r from hr]

/-! ## What an answer leaves -/

variable {status : Nat} {data : List Byte}

/-- The request has ended, its unit has the registers `q`, and memory stands. -/
structure Ended (s t : State) (r : Req) (q : Proc) : Prop where
  reqs   : t.reqs = s.reqs.filter (·.tid != r.tid)
  regs   : t.proc r.owner = q
  others : ∀ j, j ≠ r.owner → t.proc j = s.proc j
  mem    : t.mem = s.mem

/-- The request has ended late (R648): LATEERR and poison besides; no packet, event or detection is added. -/
structure EndedLate (s t : State) (r : Req) (q : Proc) : Prop extends Ended s t r { q with lateerr := true } where
  poison : (t.bar (polderOf r.owner)).poison = true
  mesh   : t.mesh = s.mesh
  evrec  : t.evrec = s.evrec
  safety : t.safety = s.safety

theorem setProc_ended (q : Proc) : Ended s ((s.dropReq r.tid).setProc r.owner q) r q where
  reqs   := rfl
  regs   := State.setProc_proc_same ..
  others := fun j hj => State.setProc_proc_other _ _ _ j hj
  mem    := rfl

theorem lateError_ended (g : Proc → Proc) : EndedLate s ((s.dropReq r.tid).lateError r.owner g) r (g (s.proc r.owner)) where
  toEnded := ⟨rfl, State.setProc_proc_same .., fun j hj => State.setProc_proc_other _ _ _ j hj, rfl⟩
  poison  := congrArg BarNode.poison (State.setBar_bar_same ..)
  mesh    := rfl
  evrec   := rfl
  safety  := rfl

theorem answer_load_done {rd fn3 : Nat} (hk : r.kind = .load rd fn3) (hs : status = 0) :
    Ended s (s.answer r status data) r ((s.proc r.owner).loaded rd fn3 data) := by
  simp only [State.answer, hk, if_pos hs]
  exact setProc_ended _

theorem answer_load_late {rd fn3 : Nat} (hk : r.kind = .load rd fn3) (hs : status ≠ 0) :
    EndedLate s (s.answer r status data) r ((s.proc r.owner).setS rd 0) := by
  simp only [State.answer, hk, if_neg hs]
  exact lateError_ended (·.setS rd 0)

theorem answer_vload_done {vd esz : Nat} {mask : Word} {bc : Bool} (hk : r.kind = .vload vd esz mask bc) (hs : status = 0) :
    Ended s (s.answer r status data) r
      ((s.proc r.owner).setV vd (vloadMerge ((s.proc r.owner).getV vd) esz mask bc data)) := by
  simp only [State.answer, hk, if_pos hs]
  exact setProc_ended _

theorem answer_vload_late {vd esz : Nat} {mask : Word} {bc : Bool} (hk : r.kind = .vload vd esz mask bc) (hs : status ≠ 0) :
    ∃ t, s.answer r status data = t.muteVload r.owner vd ∧ EndedLate s t r ((s.proc r.owner).setV vd 0) := by
  simp only [State.answer, hk, if_neg hs]
  exact ⟨_, rfl, lateError_ended (·.setV vd 0)⟩

/-- No open request of the unit writes any more of the register that a failed vector load names. -/
theorem muteVload_muted {k vd : Nat} {q : Req} (h : q ∈ (s.muteVload k vd).reqs) :
    (∃ x ∈ s.reqs, x.tid = q.tid) ∧ (q.owner = k → ∀ z m b, q.kind = .vload vd z m b → m = 0) := by
  obtain ⟨x, hx, rfl⟩ := List.mem_map.mp h
  split
  next v esz m bc hk =>
    split
    next hv => exact ⟨⟨x, hx, rfl⟩, by rintro - z m b he; injection he with _ _ hm; exact hm.symm⟩
    next hv => exact ⟨⟨x, hx, rfl⟩, fun ho z m b he => absurd ⟨ho, by rw [hk] at he; injection he⟩ hv⟩
  next hk => exact ⟨⟨x, hx, rfl⟩, fun _ z m b he => absurd he (hk vd z m b)⟩

theorem answer_amo_done {rd : Nat} (hk : r.kind = .amo rd) (hs : status = 0) :
    Ended s (s.answer r status data) r ((s.proc r.owner).setS rd (BitVec.ofNat 64 (leNat data))) := by
  simp only [State.answer, hk, if_pos hs]
  exact setProc_ended _

theorem answer_store_done (hk : r.kind = .store) (hs : status = 0) :
    Ended s (s.answer r status data) r (s.proc r.owner) ∧ (s.answer r status data).mesh = s.mesh := by
  simp only [State.answer, hk, if_pos hs]
  exact ⟨setProc_ended _, rfl⟩

theorem answer_mcast {x : Nat} (hk : r.kind = .mcast x) : s.answer r status data = (s.dropReq r.tid).partDone x status none := by
  simp only [State.answer, hk]

/-! ## The last part of a transfer -/

/-- A transfer with a new record is dropped like the old one. -/
theorem dropXfer_setXfer (s : State) (y : Xfer) : (s.setXfer y).dropXfer y.id = s.dropXfer y.id := by
  have h : (s.xfers.map (fun z => if z.id = y.id then y else z)).filter (·.id != y.id) = s.xfers.filter (·.id != y.id) := by
    induction s.xfers with
    | nil => rfl
    | cons z l ih => by_cases hz : z.id = y.id <;> simp [hz, ih]
  exact congrArg (fun l => { s with xfers := l }) h

theorem partDone_last {x tag : Nat} {y : Xfer} (hx : s.xfer x = some y) (hleft : y.left = 1) (hfin : y.fin = .tag tag)
    (hbuf : y.buf = []) : s.partDone x 0 none = (s.dropXfer x).tagDone y.owner tag y.err := by
  have hid : y.id = x := by simpa using List.find?_some hx
  subst hid
  have hdrop (z : Xfer) (hz : z.id = y.id) : (s.setXfer z).dropXfer y.id = s.dropXfer y.id := hz ▸ dropXfer_setXfer s z
  simp [State.partDone, hx, State.xferOn, hleft, hfin, XferEnd.note, hbuf, hdrop]

/-! ## Requests without an answer -/

/-- The access of request `tid`, which has had no answer, is taken off the mesh, written down and detected. -/
def State.timedOut (s : State) (tid : Nat) (r : Req) : State :=
  { s with mesh := s.mesh.filter (fun p => !(p.cls == 1 && p.tid == tid && s.isAccess p)) }.detect 0x4105
    (polderOfNode r.node) (uidOwner r.owner) [(2, r.node), (4, uidOwner r.owner), (2, r.tid), (8, r.addr.toNat)]

theorem timedOut_wrote (tid : Nat) (r : Req) : s.Wrote (s.timedOut tid r) 0x4105 :=
  ⟨_, by rw [State.timedOut, detect_evrec]; rfl, rfl⟩

theorem requestTimeout_answers {tid rd fn3 : Nat} (hr : s.reqOf tid = some r) (hk : r.kind = .load rd fn3)
    (hon : s.polderOn (polderOfNode r.node) = true) :
    exec (.requestTimeout tid) s = .next ((s.timedOut tid r).answer r 1 []) := by
  change execRequestTimeout tid s = _
  simp only [execRequestTimeout, hr, hk, hon]
  rfl

theorem isAccess_load {tid rd fn3 : Nat} {q : Packet} (hr : s.reqOf tid = some r) (hk : r.kind = .load rd fn3) (hq : q.tid = tid) :
    s.isAccess q = true := by
  simp [State.isAccess, hq, hr, hk]

/-- Of a load, every class-1 packet is taken off. -/
theorem mem_timedOut_mesh {tid rd fn3 : Nat} (hr : s.reqOf tid = some r) (hk : r.kind = .load rd fn3) (q : Packet) :
    q ∈ (s.timedOut tid r).mesh ↔ q ∈ s.mesh ∧ ¬ (q.cls = 1 ∧ q.tid = tid) := by
  rw [State.timedOut, detect_mesh, List.mem_filter]
  refine and_congr_right fun _ => ?_
  by_cases hq : q.tid = tid
  · simp [hq, isAccess_load hr hk hq]
  · simp [hq]

/-! ## Acknowledgements of a multicast -/

/-- A `MACK` that no tree node of this router waits for answers the request that it names. -/
theorem mack_answers (ha : s.Arrived i p .mack) (hno : s.mcnodes.find? (fun z => z.mc == p.tid && z.node == p.loc) = none)
    (hr : s.reqOf p.tid = some r) : exec (.mack i false) s = .next ((s.dropPacket i).answer r p.status []) := by
  change execMack i false s = _
  rw [execMack, arrive_arrived ha]
  simp only [show (s.dropPacket i).mcNodeOf p = none from hno, show (s.dropPacket i).reqOf p.tid = some r from hr]

end Sys2Proof.Machine

open Sys2Proof Sys2Proof.Machine

/-- Settles O38: a response is one answer (`response_answers`, `mack_answers`), a request without one is answered with an error
(`requestTimeout_answers`), and each kind of request ends as its lemma about `State.answer` says. -/
theorem answersEndTheirRequests : Obligations.AnswersEndTheirRequests := by
  refine ⟨fun i p s r hr => ⟨?load, ?vload, ?store, ?amo, ?mack⟩, ?timeout⟩
  case load =>
    intro rd fn3 ha hk
    have hx : exec (.rdrResponse i false) s = .next _ := congrArg Host.Outcome.next (response_answers ha hr)
    refine ⟨fun hs => ?_, fun hs => ?_⟩
    · have h := answer_load_done (s := s.dropPacket i) (data := p.data) hk hs
      exact ⟨_, hx, h.reqs, h.regs, h.others, h.mem⟩
    · have h := answer_load_late (s := s.dropPacket i) (data := p.data) hk hs
      exact ⟨_, hx, h.reqs, h.regs, h.poison, h.mem⟩
  case vload =>
    intro vd esz mask bc ha hk
    have hx : exec (.rdrResponse i false) s = .next _ := congrArg Host.Outcome.next (response_answers ha hr)
    refine ⟨fun hs => ?_, fun hs => ?_⟩
    · have h := answer_vload_done (s := s.dropPacket i) (data := p.data) hk hs
      exact ⟨_, hx, h.reqs, h.regs, h.mem⟩
    · obtain ⟨t, ht, h⟩ := answer_vload_late (s := s.dropPacket i) (data := p.data) hk hs
      refine ⟨_, hx.trans (congrArg _ ht), h.regs, h.poison, fun q hq => ?_, h.mem⟩
      obtain ⟨⟨x, hxr, hxt⟩, hmute⟩ := muteVload_muted hq
      rw [h.reqs] at hxr
      exact ⟨hxt ▸ by simpa using (List.mem_filter.mp hxr).2, hmute⟩
  case store =>
    intro ha hk hs
    have hx : exec (.wackResponse i false) s = .next _ := congrArg Host.Outcome.next (response_answers ha hr)
    obtain ⟨h, hmesh⟩ := answer_store_done (s := s.dropPacket i) (data := p.data) hk hs
    refine ⟨_, hx, h.reqs, hmesh, fun j => ?_, h.mem⟩
    by_cases hj : j = r.owner
    · rw [hj]
      exact h.regs
    · exact h.others j hj
  case amo =>
    intro rd ha hk hs
    have hx : exec (.amorResponse i false) s = .next _ := congrArg Host.Outcome.next (response_answers ha hr)
    have h := answer_amo_done (s := s.dropPacket i) (data := p.data) hk hs
    exact ⟨_, hx, h.reqs, h.regs, h.mem⟩
  case mack =>
    intro x y tag ha hno hk hy hleft hfin hbuf hs
    refine ⟨_, mack_answers ha hno hr, ?_⟩
    rw [answer_mcast hk, hs, partDone_last (s := (s.dropPacket i).dropReq r.tid) hy hleft hfin hbuf]
    exact ⟨rfl, State.setProc_proc_same .., rfl⟩
  case timeout =>
    intro tid s r rd fn3 hr hk hon
    have h := answer_load_late (s := s.timedOut tid r) (data := []) hk Nat.one_ne_zero
    refine ⟨_, requestTimeout_answers hr hk hon, (timedOut_wrote tid r).of_evrec h.evrec, ?_, ?_, h.poison, fun q => ?_, ?_, ?_⟩
    · rw [h.reqs, State.timedOut, detect_reqs]
    · rw [h.regs, State.timedOut, State.detect_proc]
      rfl
    · rw [h.mesh, mem_timedOut_mesh hr hk]
    · rw [h.safety, State.timedOut, detect_safety]
      exact List.length_append
    · rw [h.mem, State.timedOut, State.detect_mem]
end

section
/-! The patrol of the Lake and the scrub of the ponds go on (O41). `patrolAccess` and `readWord` are described by what stands in error
at what they read; the detections that they add are then turned over to their own mechanism (`latent_told`). -/

namespace Sys2Proof.Machine
open Sys2Proof

variable {s : State}

/-! ## Detections of the own mechanism -/

/-- What has added no detection turns none over. -/
theorem latent_of_safety {t s0 : State} (h : t.safety = s0.safety) (mech : Nat) : (t.latent s0 mech).safety = s0.safety := by
  simp [State.latent, h]

theorem latent_told {t s0 : State} {code src unit : Nat} {pay : List (Nat × Nat)} (h : t.safety = s0.safety.told code src unit pay)
    (mech : Nat) : (t.latent s0 mech).safety.queue = s0.safety.queue ++ [⟨code, src, unit, detAddr code pay, mech⟩] := by
  simp [State.latent, h, Safety.told]

/-! ## A stack that fails -/

theorem stackFail_safety (s : State) (st : Nat) : (s.stackFail st).safety = s.safety := by
  unfold State.stackFail
  dsimp only
  split <;> rfl

theorem stackFail_stack (s : State) (st : Nat) : (s.stackFail st).stack st = { s.stack st with failed := true } := by
  unfold State.stackFail
  dsimp only
  split
  next h => rw [← h]
  next h => exact State.setStack_stack_same ..

theorem stackFail_of_good {st : Nat} (h : (s.stack st).failed = false) :
    s.stackFail st = ((s.setStack st { s.stack st with failed := true }).emit 0x5303 srcWarden (uidStack st) [(1, st)]).poison
      (56 + st / 11) := by
  simp [State.stackFail, h]

/-! ## An access that is lost -/

theorem accessLost_safety (s : State) (st acc : Nat) (off : Option Nat) :
    (s.accessLost st acc off).safety = s.safety.told 0x5302 (56 + st / 11) (uidStack st) [(1, st), (8, 64 * acc)] := by
  unfold State.accessLost
  extract_lets s1 x y s2 susp s3 s4
  have h : s4.safety = s.safety.told 0x5302 (56 + st / 11) (uidStack st) [(1, st), (8, 64 * acc)] := detect_safety ..
  split
  · exact (stackFail_safety ..).trans h
  · exact h

theorem accessLost_patrol (s : State) (st acc : Nat) (off : Option Nat) :
    ((s.accessLost st acc off).stack st).patrol = (s.stack st).patrol := by
  unfold State.accessLost
  extract_lets s1 x y s2 susp s3 s4
  have h : s4.stack st = y := (detect_stack ..).trans (State.setStack_stack_same ..)
  split
  · rw [stackFail_stack, h]
    rfl
  · rw [h]
    rfl

/-! ## The patrol's access -/

theorem countEmb_ecnt (s : State) (u i n : Nat) : ∃ c, s.countEmb u i n = { s with ecnt := c } := by
  unfold State.countEmb
  dsimp only
  split
  · exact ⟨s.ecnt, rfl⟩
  · exact ⟨_, rfl⟩

theorem patrolAccess_good {st acc : Nat} (h : Tbl.get s.lakeMark none (st * 2 ^ 30 + acc) = none) : s.patrolAccess st acc none = s := by
  simp only [State.patrolAccess, State.readAccess, h]

/-- A correctable error is mended and written down (R390). -/
structure Mended (s t : State) (key : Nat) : Prop where
  wrote  : s.Wrote t 0x5301
  safety : t.safety = s.safety
  count  : t.lkCorr = min (s.lkCorr + 1) (2 ^ 32 - 1)
  mark   : Tbl.get t.lakeMark none key = none
  stack  : t.stackCtl = s.stackCtl

theorem patrolAccess_corr {st acc : Nat} (h : Tbl.get s.lakeMark none (st * 2 ^ 30 + acc) = some .corr) :
    Mended s (s.patrolAccess st acc none) (st * 2 ^ 30 + acc) := by
  simp only [State.patrolAccess, State.readAccess, h]
  generalize ht : State.countEmb _ _ _ _ = t
  obtain ⟨c, hc⟩ := countEmb_ecnt (State.emit { s with
    lakeMark := Tbl.put s.lakeMark (st * 2 ^ 30 + acc) none, lkCorr := min (s.lkCorr + 1) (2 ^ 32 - 1) }
    0x5301 (56 + st / 11) (uidStack st) [(1, st), (8, 64 * acc)]) (32 + st) 2 1
  rw [← ht, hc]
  exact ⟨⟨_, rfl, rfl⟩, rfl, rfl, Tbl.get_put_same .., rfl⟩

theorem patrolAccess_uncorr {st acc : Nat} (h : Tbl.get s.lakeMark none (st * 2 ^ 30 + acc) = some .uncorr) :
    s.patrolAccess st acc none = s.accessLost st acc (lakeInv s.slots st (64 * acc)) := by
  simp only [State.patrolAccess, State.readAccess, h]

/-- A parity error that a retry does not clear is uncorrectable; a second within 1,024 accesses fails the stack (R393). -/
theorem patrolAccess_retry (s : State) (st acc n : Nat) :
    (s.patrolAccess st acc (some n)).safety = s.safety.told 0x5302 (56 + st / 11) (uidStack st) [(1, st), (8, 64 * acc)] ∧
      (n < 1024 → ((s.patrolAccess st acc (some n)).stack st).failed = true) := by
  unfold State.patrolAccess
  dsimp only
  split
  next hn => exact ⟨(stackFail_safety ..).trans (accessLost_safety ..), fun _ => by rw [stackFail_stack]⟩
  next hn => exact ⟨accessLost_safety .., fun h => absurd h hn⟩

theorem patrolAccess_patrol (s : State) (st acc : Nat) :
    ((s.patrolAccess st acc none).stack st).patrol = (s.stack st).patrol := by
  rcases hm : Tbl.get s.lakeMark none (st * 2 ^ 30 + acc) with _ | _ | _
  · rw [patrolAccess_good hm]
  · rw [State.stack, State.stack, (patrolAccess_corr hm).stack]
  · rw [patrolAccess_uncorr hm, accessLost_patrol]

/-! ## The patrol goes on -/

/-- A stack once the patrol has read an access of it. -/
def Stack.patrolled (x : Stack) : Stack :=
  if x.patrol + 64 ≥ stackBytes then { x with patrol := 0, passes := x.passes + 1, unc := 0 } else { x with patrol := x.patrol + 64 }

/-- The state in which the patrol reads: an error that nature brings stands in its mark, and the read is counted. -/
def State.patrolSees (s : State) (k : Fin 44) (found : Option (Fin 805306368 × Mark)) (c : Tbl Word) : State :=
  { s with lakeMark := (match found with | some (a, m) => Tbl.put s.lakeMark (k * 2 ^ 30 + a) (some m) | none => s.lakeMark), ecnt := c }

/-- After the read `t`, what the patrol leaves: the detections are its own, and its place on the stack moves on. -/
structure PatrolEnd (s t u : State) (k : Nat) : Prop where
  stack  : u.stack k = (t.stack k).patrolled
  evrec  : u.evrec = t.evrec
  safety : u.safety = (t.latent s 11).safety
  marks  : u.lakeMark = t.lakeMark
  corr   : u.lkCorr = t.lkCorr
  mem    : u.mem = t.mem

/-- The patrol's step once the access is read. -/
def State.patrolOn (t s : State) (k : Nat) : State :=
  let s1 := t.latent s 11
  let x := s1.stack k
  let s2 := if x.patrol + 64 ≥ stackBytes then s1.setStack k { x with patrol := 0, passes := x.passes + 1, unc := 0 }
    else s1.setStack k { x with patrol := x.patrol + 64 }
  { s2 with lkPatrols := s2.patrolPasses }

theorem patrolOn_ends (t s : State) (k : Nat) : PatrolEnd s t (t.patrolOn s k) k := by
  unfold State.patrolOn
  extract_lets s1 x s2
  have h2 : s2 = s1.setStack k (t.stack k).patrolled := (apply_ite (s1.setStack k) _ _ _).symm
  have hs : (s1.setStack k (t.stack k).patrolled).stack k = (t.stack k).patrolled := State.setStack_stack_same ..
  rw [h2]
  exact ⟨hs, rfl, rfl, rfl, rfl, rfl⟩

theorem lakePatrolRead_ends (k : Fin 44) (found : Option (Fin 805306368 × Mark)) (retry : Option Nat)
    (hon : s.polderOn (56 + k / 11) = true) : ∃ c, exec (.lakePatrolRead k found retry) s =
      .next (((s.patrolSees k found c).patrolAccess k ((s.stack k).patrol / 64) retry).patrolOn s k) := by
  change ∃ c, execLakePatrolRead k found retry s = _
  simp only [execLakePatrolRead, hon, Bool.not_true, Bool.false_eq_true, if_false]
  rcases found with _ | ⟨a, m⟩
  · obtain ⟨c, hc⟩ := countEmb_ecnt s (32 + k) 0 1
    exact ⟨c, by rw [hc]; rfl⟩
  · obtain ⟨c, hc⟩ := countEmb_ecnt { s with lakeMark := Tbl.put s.lakeMark (k * 2 ^ 30 + a) (some m) } (32 + k) 0 1
    exact ⟨c, by dsimp only; rw [hc]; rfl⟩

theorem Stack.patrolled_inside {x : Stack} (h : x.patrol + 64 < stackBytes) : x.patrolled.patrol = x.patrol + 64 := by
  rw [Stack.patrolled, if_neg (Nat.not_le_of_lt h)]

theorem Stack.patrolled_failed (x : Stack) : x.patrolled.failed = x.failed := by
  unfold Stack.patrolled
  split <;> rfl

theorem Stack.patrolled_end {x : Stack} (h : stackBytes ≤ x.patrol + 64) :
    x.patrolled.patrol = 0 ∧ x.patrolled.passes = x.passes + 1 ∧ x.patrolled.unc = 0 := by
  rw [Stack.patrolled, if_pos h]
  exact ⟨rfl, rfl, rfl⟩

/-! ## The scrub -/

theorem readWord_good {a : Nat} (h : Tbl.get s.pondMark none (a / 8) = none) (req : Nat) : s.readWord a req = (s, false) := by
  simp only [State.readWord, h]

/-- A correctable pond word is mended and written down (R171). -/
theorem readWord_corr {a : Nat} (h : Tbl.get s.pondMark none (a / 8) = some .corr) (req : Nat) :
    s.Wrote (s.readWord a req).1 0x5101 ∧ (s.readWord a req).1.safety = s.safety ∧
      (s.readWord a req).1.pondMark = Tbl.put s.pondMark (a / 8) none := by
  simp only [State.readWord, h]
  generalize ht : State.countCl _ _ _ _ _ _ = t
  rcases countCl_cases (State.emit { s with pondMark := Tbl.put s.pondMark (a / 8) none } 0x5101 (a / 2 ^ 30 % 64) req
    [(8, a / 8 * 8), (4, Config.syndrome 0x5101 req (a / 8 * 8) s.ref)]) (10 * (a / 2 ^ 30 % 64) + a / 2 ^ 26 % 16) 0x1B 15 2 1
    with hc | ⟨cnt, hc⟩ <;> rw [← ht, hc] <;> exact ⟨⟨_, rfl, rfl⟩, rfl, rfl⟩

/-- An uncorrectable pond word is detected, and its mark stays. -/
theorem readWord_uncorr {a : Nat} (h : Tbl.get s.pondMark none (a / 8) = some .uncorr) (req : Nat) :
    s.Wrote (s.readWord a req).1 0x5102 ∧ (∃ src pay, (s.readWord a req).1.safety = s.safety.told 0x5102 src req pay) ∧
      (s.readWord a req).1.pondMark = s.pondMark := by
  simp only [State.readWord, h]
  exact ⟨detect_wrote .., ⟨_, _, detect_safety ..⟩, detect_pondMark ..⟩

/-- Reading a word leaves the marks of the others. -/
theorem readWord_marks (s : State) (a req : Nat) {w : Nat} (hw : w ≠ a / 8) :
    Tbl.get (s.readWord a req).1.pondMark none w = Tbl.get s.pondMark none w := by
  rcases hm : Tbl.get s.pondMark none (a / 8) with _ | _ | _
  · rw [readWord_good hm]
  · rw [(readWord_corr hm req).2.2, Tbl.get_put_other _ _ _ _ _ hw]
  · rw [(readWord_uncorr hm req).2.2]

theorem scrubWords_good {a n : Nat} (h : ∀ i < n, Tbl.get s.pondMark none (a / 8 + i) = none) (req : Nat) :
    s.scrubWords a req n = s := by
  induction n generalizing a with
  | zero => rfl
  | succ n ih =>
    rw [State.scrubWords, readWord_good (h 0 (by omega))]
    exact ih fun i hi => by rw [Nat.add_div_right a (by omega), Nat.succ_add_eq_add_succ]; exact h (i + 1) (by omega)

/-- Of a line with one word in error, the scrub's read is the read of that word. -/
theorem scrubWords_one {a n j : Nat} (hj : j < n) (h : ∀ i < n, i ≠ j → Tbl.get s.pondMark none (a / 8 + i) = none) (req : Nat) :
    s.scrubWords a req n = (s.readWord (a + 8 * j) req).1 := by
  induction n generalizing a j with
  | zero => omega
  | succ n ih =>
    have hnext (i : Nat) : (a + 8) / 8 + i = a / 8 + (i + 1) := by omega
    rw [State.scrubWords]
    cases j with
    | zero =>
      refine scrubWords_good (fun i hi => ?_) req
      rw [hnext, readWord_marks _ _ _ (by omega)]
      exact h (i + 1) (by omega) (by omega)
    | succ j =>
      rw [readWord_good (h 0 (by omega) (by omega)), ih (Nat.lt_of_succ_lt_succ hj) fun i hi hne => ?_]
      · rw [Nat.add_assoc, Nat.mul_succ, Nat.add_comm 8]
      · rw [hnext]
        exact h (i + 1) (by omega) (by omega)

theorem countCl_keeps (s : State) (c ev core arr n : Nat) :
    (s.countCl c ev core arr n).procs = s.procs ∧ ∀ j, ((s.countCl c ev core arr n).cluster j).scrub = (s.cluster j).scrub := by
  rcases countCl_cases s c ev core arr n with h | ⟨cnt, h⟩ <;> rw [h]
  · exact ⟨rfl, fun _ => rfl⟩
  · refine ⟨rfl, fun j => ?_⟩
    by_cases hj : j = c
    · rw [hj, State.setCluster_cluster_same]
    · rw [State.setCluster_cluster_other _ _ _ _ hj]

/-- Reading a word keeps units' registers and the scrub's place. -/
theorem readWord_keeps (s : State) (a req : Nat) :
    (s.readWord a req).1.procs = s.procs ∧ ∀ j, ((s.readWord a req).1.cluster j).scrub = (s.cluster j).scrub := by
  unfold State.readWord
  split
  · exact ⟨rfl, fun _ => rfl⟩
  · exact countCl_keeps ..
  · exact ⟨detect_procs .., fun j => congrArg Cluster.scrub (detect_cluster ..)⟩

theorem scrubWords_keeps (s : State) (a req n : Nat) :
    (s.scrubWords a req n).procs = s.procs ∧ ∀ j, ((s.scrubWords a req n).cluster j).scrub = (s.cluster j).scrub := by
  induction n generalizing s a with
  | zero => exact ⟨rfl, fun _ => rfl⟩
  | succ n ih =>
    obtain ⟨hp, hc⟩ := ih (s.readWord a req).1 (a + 8)
    obtain ⟨hp1, hc1⟩ := readWord_keeps s a req
    exact ⟨hp.trans hp1, fun j => (hc j).trans (hc1 j)⟩

/-- The device address of the line at which the scrub of a cluster stands (R172). -/
def scrubAt (c : ClusterId) (x : Cluster) : Nat := c.site.val * 2 ^ 30 + c.cl.val * 2 ^ 26 + scrubOff x.scrub

/-- The line's words, by their place in the pond. -/
theorem scrubAt_div (c : ClusterId) (x : Cluster) :
    scrubAt c x / 8 = (c.site.val * 2 ^ 30 + c.cl.val * 2 ^ 26) / 8 + 8 * (scrubOff x.scrub / 64) := by
  unfold scrubAt scrubOff
  omega

/-- The state in which the scrub reads: an error that nature brings stands in its mark, and the place has moved on. -/
def State.scrubSees (s : State) (c : ClusterId) (found : Option (Fin 8388608 × Mark)) : State :=
  ({ s with pondMark := match found with
      | some (w, m) => Tbl.put s.pondMark ((c.site.val * 2 ^ 30 + c.cl.val * 2 ^ 26) / 8 + w.val) (some m)
      | none => s.pondMark } : State).setCluster (clKey c) { s.cluster (clKey c) with
    scrub := if (s.cluster (clKey c)).scrub + 1 ≥ 2 ^ 20 then 0 else (s.cluster (clKey c)).scrub + 1 }

/-- The scrub's reads, from the state in which it reads. -/
def State.scrubLine (s : State) (c : ClusterId) (found : Option (Fin 8388608 × Mark)) : State :=
  (s.scrubSees c found).scrubWords (scrubAt c (s.cluster (clKey c))) (uidCluster (clKey c) 0) 8

theorem pondScrub_reads (c : ClusterId) (found : Option (Fin 8388608 × Mark)) (hon : s.polderOn (clKey c / 10) = true) :
    exec (.pondScrub c found) s = .next ((s.scrubLine c found).latent (s.scrubSees c found) 6) := by
  change execPondScrub c found s = _
  simp only [execPondScrub, hon, Bool.not_true, Bool.false_eq_true, if_false]
  rcases found with _ | ⟨w, m⟩ <;> rfl

theorem scrubLine_keeps (s : State) (c : ClusterId) (found : Option (Fin 8388608 × Mark)) :
    (s.scrubLine c found).mem = s.mem ∧ (s.scrubLine c found).procs = s.procs ∧
      ((s.scrubLine c found).cluster (clKey c)).scrub =
        if (s.cluster (clKey c)).scrub + 1 ≥ 2 ^ 20 then 0 else (s.cluster (clKey c)).scrub + 1 := by
  obtain ⟨hprocs, hscrub⟩ := scrubWords_keeps (s.scrubSees c found) (scrubAt c (s.cluster (clKey c))) (uidCluster (clKey c) 0) 8
  exact ⟨State.scrubWords_mem, hprocs, (hscrub _).trans (congrArg Cluster.scrub (State.setCluster_cluster_same ..))⟩

/-- No word of the line is in error: the scrub reads and does no more. -/
theorem scrubLine_good {c : ClusterId} {found : Option (Fin 8388608 × Mark)} (hp : s.pondMark = [])
    (h : ∀ w m, found = some (w, m) → w.val / 8 ≠ scrubOff (s.cluster (clKey c)).scrub / 64) :
    s.scrubLine c found = s.scrubSees c found := by
  refine scrubWords_good (fun i hi => ?_) _
  rw [scrubAt_div]
  rcases found with _ | ⟨w, m⟩
  · exact congrArg (Tbl.get · none _) hp
  · have hw := h w m rfl
    refine (Tbl.get_put_other _ _ _ _ _ ?_).trans (congrArg (Tbl.get · none _) hp)
    omega

/-- Nature's error is the only one. -/
theorem scrubSees_mark (c : ClusterId) (w : Fin 8388608) (m : Mark) (hp : s.pondMark = []) (b : Nat) :
    Tbl.get (s.scrubSees c (some (w, m))).pondMark none b =
      if b = (c.site.val * 2 ^ 30 + c.cl.val * 2 ^ 26) / 8 + w.val then some m else none := by
  rw [State.scrubSees, State.setCluster_pondMark, Tbl.get_put, hp, Tbl.get_nil]

/-- The word in error lies in the line: the scrub's read is the read of that word. -/
theorem scrubLine_bad {c : ClusterId} {w : Fin 8388608} {m : Mark} (hp : s.pondMark = [])
    (h : w.val / 8 = scrubOff (s.cluster (clKey c)).scrub / 64) : ∃ a req, s.scrubLine c (some (w, m)) =
      ((s.scrubSees c (some (w, m))).readWord a req).1 ∧
      ∀ b, Tbl.get (s.scrubSees c (some (w, m))).pondMark none b = if b = a / 8 then some m else none := by
  have hdiv := scrubAt_div c (s.cluster (clKey c))
  have hword : (scrubAt c (s.cluster (clKey c)) + 8 * (w.val % 8)) / 8 = (c.site.val * 2 ^ 30 + c.cl.val * 2 ^ 26) / 8 + w.val := by omega
  refine ⟨_, _, scrubWords_one (j := w.val % 8) (by omega) (fun i hi hne => ?_) _, fun b => ?_⟩
  · rw [scrubSees_mark c w m hp, if_neg (by omega)]
  · rw [scrubSees_mark c w m hp, hword]

/-! ## Retraining -/

theorem retraining_fails {k : Fin 44} (hk : k.val ∈ s.slots) :
    exec (.lakeInterfaceRetraining k false) s = .next (s.stackFail k).loseLake := by
  change execLakeInterfaceRetraining k false s = _
  simp [execLakeInterfaceRetraining, hk]

/-- The Lake's content is gone, and nothing outside it (R399). -/
theorem loseLake_outside (s : State) : s.SameMemOutside s.loseLake (2 ^ 56) (2 ^ 41) := fun a ha => by
  rw [State.loseLake, memByte_clear, if_neg (by omega)]

theorem loseLake_needCkpt {j : JobSt} (h : s.loseLake.job = some j) : j.needCkpt = true := by
  obtain ⟨j0, -, rfl⟩ := Option.map_eq_some_iff.mp h
  rfl

end Sys2Proof.Machine

open Sys2Proof Sys2Proof.Machine

/-- Settles O41: the patrol's step keeps what its read has left (`lakePatrolRead_ends`, `patrolOn_ends`), the scrub reads at most one word in
error (`scrubLine_good`, `scrubLine_bad`), and the detections of both become their own (`latent_told`). -/
theorem patrolAndScrubGoOn : Obligations.PatrolAndScrubGoOn := by
  refine ⟨fun k s key hon hkey hgood => ⟨fun found hin => ?reads, fun n => ?retry, fun hend => ?wraps⟩, ?scrub,
    fun k s => ⟨rfl, fun hk hf => ?trains⟩⟩
  case reads =>
    obtain ⟨c, hx⟩ := lakePatrolRead_ends k found none hon
    have h := patrolOn_ends ((s.patrolSees k found c).patrolAccess k ((s.stack k).patrol / 64) none) s k
    refine ⟨_, hx, ?_, ?_, ?_, ?_⟩
    · have hplace := patrolAccess_patrol (s.patrolSees k found c) k ((s.stack k).patrol / 64)
      rw [h.stack, Stack.patrolled_inside (by rw [hplace]; exact hin), hplace]
      rfl
    · rw [h.mem, State.patrolAccess_mem]
      rfl
    · rintro rfl
      have hread := patrolAccess_good (s := s.patrolSees k none c) (hkey ▸ hgood)
      exact ⟨by rw [h.evrec, hread]; rfl, by rw [h.safety, latent_of_safety (by rw [hread]; rfl)]⟩
    · rintro x m rfl
      refine ⟨fun hne => ?_, ?_, ?_⟩
      · have hmark : Tbl.get (s.patrolSees k (some (x, m)) c).lakeMark none key = none :=
          (Tbl.get_put_other _ _ _ _ _ hne).trans hgood
        have hread := patrolAccess_good (hkey ▸ hmark)
        exact ⟨by rw [h.evrec, hread]; rfl, by rw [h.marks, hread]; exact Tbl.get_put_same ..⟩
      · rintro heq rfl
        have hmark : Tbl.get (s.patrolSees k (some (x, .corr)) c).lakeMark none key = some .corr := heq ▸ Tbl.get_put_same ..
        have hread := patrolAccess_corr (hkey ▸ hmark)
        refine ⟨hread.wrote.of_evrec h.evrec, h.safety.trans (latent_of_safety hread.safety 11), h.corr.trans hread.count, ?_⟩
        rw [h.marks, hkey]
        exact hread.mark
      · rintro heq rfl
        have hmark : Tbl.get (s.patrolSees k (some (x, .uncorr)) c).lakeMark none key = some .uncorr := heq ▸ Tbl.get_put_same ..
        have hread := patrolAccess_uncorr (hkey ▸ hmark)
        exact ⟨_, (congrArg Safety.queue h.safety).trans (latent_told (hread ▸ accessLost_safety ..) 11), rfl, rfl⟩
  case retry =>
    obtain ⟨c, hx⟩ := lakePatrolRead_ends k none (some n) hon
    have h := patrolOn_ends ((s.patrolSees k none c).patrolAccess k ((s.stack k).patrol / 64) (some n)) s k
    obtain ⟨hsafety, hfail⟩ := patrolAccess_retry (s.patrolSees k none c) k ((s.stack k).patrol / 64) n
    refine ⟨_, _, hx, (congrArg Safety.queue h.safety).trans (latent_told hsafety 11), rfl, rfl, fun hn => ?_, ?_⟩
    · rw [h.stack, Stack.patrolled_failed]
      exact hfail hn
    · rw [h.mem, State.patrolAccess_mem]
      rfl
  case wraps =>
    obtain ⟨c, hx⟩ := lakePatrolRead_ends k none none hon
    have h := patrolOn_ends ((s.patrolSees k none c).patrolAccess k ((s.stack k).patrol / 64) none) s k
    rw [patrolAccess_good (s := s.patrolSees k none c) (hkey ▸ hgood)] at h hx
    refine ⟨_, hx, ?_⟩
    rw [h.stack]
    exact Stack.patrolled_end hend
  case scrub =>
    rintro c s found line base hon hp rfl rfl
    obtain ⟨hmem, hprocs, hscrub⟩ := scrubLine_keeps s c found
    have hx := pondScrub_reads c found hon
    generalize hu : s.scrubLine c found = u at hmem hprocs hscrub hx
    refine ⟨_, hx, hmem, hprocs, hscrub, ?_, ?_⟩
    · rintro rfl
      have hread := hu.symm.trans (scrubLine_good hp nofun)
      rw [hread]
      exact ⟨rfl, latent_of_safety rfl 6⟩
    · rintro w m rfl
      refine ⟨fun hne => ?_, ?_, ?_⟩
      · rw [hu.symm.trans (scrubLine_good hp (by rintro w m ⟨⟩; exact hne))]
        exact ⟨rfl, Tbl.get_put_same ..⟩
      · rintro heq rfl
        obtain ⟨a, req, hread, hmarks⟩ := scrubLine_bad (m := .corr) hp heq
        obtain ⟨hw, hs, hmark⟩ := readWord_corr ((hmarks _).trans (if_pos rfl)) req
        rw [hu.symm.trans hread]
        refine ⟨hw, latent_of_safety hs 6, fun b => ?_⟩
        refine (congrArg (Tbl.get · none b) hmark).trans ?_
        rw [Tbl.get_put, hmarks, ite_eq_left_iff]
        exact fun h => if_neg h
      · rintro heq rfl
        obtain ⟨a, req, hread, hmarks⟩ := scrubLine_bad (m := .uncorr) hp heq
        obtain ⟨hw, ⟨src, pay, hs⟩, -⟩ := readWord_uncorr ((hmarks _).trans (if_pos rfl)) req
        rw [hu.symm.trans hread]
        exact ⟨hw, _, latent_told hs 6, rfl, rfl⟩
  case trains =>
    have hs := stackFail_of_good hf
    refine ⟨_, retraining_fails hk, ?_, rfl, ?_, ?_, fun j hj => loseLake_needCkpt hj, fun a ha => ?_⟩
    · exact congrArg Stack.failed (stackFail_stack s k)
    · exact ⟨_, congrArg (·.evrec.queue) hs, rfl⟩
    · exact (congrArg (fun t => (t.bar (56 + k / 11)).poison) hs).trans (State.poison_bar ..)
    · rw [loseLake_outside _ a ha, State.stackFail_mem]
end

section
/-! What the fence keeps (O48). Raising the fence and telling the group reach into most of the state, but write no register of a unit
and nothing of the safety monitor beyond the fence itself, lower no POISON and take no record back: `Reacts`. -/

namespace Sys2Proof.Machine
open Sys2Proof

/-- From `s` to `t`, the reaction to a fault has gone on: registers of units and of the safety monitor stand, POISON that is up stays
up, and records are only added. -/
structure Reacts (s t : State) : Prop where
  safety : t.safety = s.safety
  procs  : ∀ j, t.proc j = s.proc j
  poison : ∀ p, (s.bar p).poison = true → (t.bar p).poison = true
  events : s.evrec.queue ⊆ t.evrec.queue

variable {s t u : State}

theorem Reacts.refl (s : State) : Reacts s s := ⟨rfl, fun _ => rfl, fun _ => id, List.Subset.refl _⟩

theorem Reacts.trans (h : Reacts s t) (g : Reacts t u) : Reacts s u where
  safety := g.safety.trans h.safety
  procs  := fun j => (g.procs j).trans (h.procs j)
  poison := fun p => g.poison p ∘ h.poison p
  events := List.Subset.trans h.events g.events

/-- A change elsewhere in the state. -/
theorem Reacts.of_eq (h1 : t.safety = s.safety := by rfl) (h2 : ∀ j, t.proc j = s.proc j := by exact fun _ => rfl)
    (h3 : t.bars = s.bars := by rfl) (h4 : t.evrec = s.evrec := by rfl) : Reacts s t := ⟨h1, h2, fun p => by simp [State.bar, h3], by rw [h4]; exact List.Subset.refl _⟩

theorem Reacts.ite {c : Prop} [Decidable c] (h : c → Reacts s t) (g : ¬ c → Reacts s u) : Reacts s (if c then t else u) := by
  split
  · exact h ‹_›
  · exact g ‹_›

theorem Reacts.foldl {β : Type} {f : State → β → State} (hf : ∀ s x, Reacts s (f s x)) (s : State) (l : List β) :
    Reacts s (l.foldl f s) := by
  induction l generalizing s with
  | nil => exact .refl s
  | cons x r ih => exact (hf s x).trans (ih _)

theorem Reacts.emit (s : State) (code src unit : Nat) (pay : List (Nat × Nat)) : Reacts s (s.emit code src unit pay) :=
  ⟨rfl, fun _ => rfl, fun _ => id, List.subset_append_left ..⟩

theorem Reacts.setBar {p : Nat} {x : BarNode} (h : (s.bar p).poison = true → x.poison = true) : Reacts s (s.setBar p x) where
  safety := rfl
  procs  := fun _ => rfl
  events := List.Subset.refl _
  poison := fun q hq => by
    by_cases hqp : q = p
    · subst hqp
      rw [State.setBar_bar_same]
      exact h hq
    · rwa [State.setBar_bar_other _ _ _ _ hqp]

theorem Reacts.raisePoison (s : State) (p : Nat) : Reacts s (s.poison p) := .setBar fun _ => rfl

/-! ## What a core leaves as it stops -/

theorem reacts_traceAtom (s : State) (k : Nat) (pc : Word) (atom : Nat) : Reacts s (s.traceAtom k pc atom) := by
  obtain ⟨m, tr, h⟩ := traceAtom_only s k pc atom
  rw [h]
  exact .of_eq

theorem reacts_setCluster (s : State) (c : Nat) (x : Cluster) : Reacts s (s.setCluster c x) := .of_eq

theorem reacts_cancelRecord (s : State) (cl core arr : Nat) (sp : Option Span) (n : Nat) :
    Reacts s (s.cancelRecord cl core arr sp n) := by
  unfold State.cancelRecord
  exact .ite (fun _ => (Reacts.emit ..).trans (.raisePoison ..)) (fun _ => .emit ..)

theorem reacts_flushCancels (s : State) (k : Nat) : Reacts s (s.flushCancels k) := by
  unfold State.flushCancels
  split
  · exact .refl s
  · extract_lets cl core e s1 s2
    have h1 : Reacts s s1 := .ite (fun _ => reacts_cancelRecord ..) (fun _ => .refl s)
    have h2 : Reacts s s2 := .ite (fun _ => h1.trans (reacts_cancelRecord ..)) (fun _ => h1)
    exact .ite (fun _ => h2) (fun _ => h2.trans (reacts_setCluster ..))

theorem reacts_fenceExec (s : State) (k : Nat) : Reacts s (s.fenceExec k) := by
  unfold State.fenceExec
  extract_lets cl mine x e s1
  have h1 : Reacts s s1 := .ite (fun _ => (reacts_setCluster ..).trans (reacts_setCluster ..)) (fun _ => .refl s)
  refine .ite (fun _ => ?_) (fun _ => h1.trans (reacts_flushCancels ..))
  exact .ite (fun _ => reacts_flushCancels ..) (fun _ => .refl s)

theorem reacts_fenceCore (s : State) (k : Nat) : Reacts s (s.fenceCore k) := by
  unfold State.fenceCore
  refine .ite (fun _ => .refl s) (fun _ => ?_)
  exact (Reacts.ite (fun _ => .refl s) (fun _ => reacts_traceAtom ..)).trans (reacts_fenceExec ..)

/-! ## What the fence stops elsewhere -/

theorem reacts_dropXfer (s : State) (id : Nat) : Reacts s (s.dropXfer id) := .of_eq

theorem reacts_setSpring (s : State) (n : Nat) (x : Spring) : Reacts s (s.setSpring n x) := .of_eq

theorem reacts_fenceSpring (s : State) (n : Nat) : Reacts s (s.fenceSpring n) :=
  .ite (fun _ => .refl s) (fun _ => (reacts_setSpring ..).trans (Reacts.foldl (fun t (v : RsServ) => reacts_dropXfer t v.xfer) ..))

theorem reacts_flEnd (s : State) (q : Nat) (c : FlCmd) (status bytes : Nat) : Reacts s (s.flEnd q c status bytes) :=
  .ite (fun _ => .of_eq) (fun _ => .of_eq)

theorem reacts_flAbandon (s : State) (q n : Nat) : Reacts s (s.flAbandon q n) := by
  induction n generalizing s with
  | zero => exact .refl s
  | succ n ih =>
    rw [State.flAbandon]
    split
    · exact .refl s
    · exact (reacts_flEnd ..).trans (ih _)

theorem reacts_fenceFlash (s : State) : Reacts s s.fenceFlash := Reacts.foldl (fun t q => reacts_flAbandon t q 64) ..

theorem reacts_lapse (s : State) : Reacts s s.lapse := by
  unfold State.lapse
  split
  · exact .refl s
  next n hn =>
    have h : Reacts s { s with flash := { s.flash with teeStep := none, teeBegun := false } } := .of_eq
    exact .ite (fun _ => h) (fun _ => h.trans (.emit ..))

theorem reacts_setPort (s : State) (p : Nat) (x : LPort) : Reacts s (s.setPort p x) := .of_eq

theorem reacts_fencePort (s : State) (p : Nat) : Reacts s (s.fencePort p) :=
  .ite (fun _ => .refl s) (fun _ => reacts_setPort ..)

theorem reacts_setHport (s : State) (h : Nat) (x : HPort) : Reacts s (s.setHport h x) := .of_eq

theorem reacts_fenceHost (s : State) (h : Nat) : Reacts s (s.fenceHost h) :=
  .ite (fun _ => .refl s) (fun _ => reacts_setHport ..)

theorem reacts_fenceJob (s : State) : Reacts s s.fenceJob := by
  unfold State.fenceJob
  split
  · exact .refl s
  · exact .of_eq

theorem reacts_fenceBars (s : State) : Reacts s s.fenceBars :=
  Reacts.foldl (f := fun t q => t.setBar q { t.bar q with fence := true }) (fun _ _ => .setBar id) ..

theorem reacts_setGroup (s : State) (g : Group) : Reacts s { s with group := g } := .of_eq

/-! ## The fence -/

/-- The safety monitor once the fence is up (R486): raised already, it stands as it is. -/
def Safety.fenced (f : Safety) (step : Nat) : Safety :=
  if f.fence then f else { f with fence := true, fences := min (f.fences + 1) 65535, pstep := BitVec.ofNat 48 step }

theorem Safety.fenced_of_fence {f : Safety} (h : f.fence = true) (step : Nat) : f.fenced step = f := if_pos h

/-- Raising the fence changes three registers of the safety monitor. -/
theorem Safety.fenced_eq (f : Safety) (step : Nat) : ∃ n p, f.fenced step = { f with fence := true, fences := n, pstep := p } ∧
    (f.fence = false → n = min (f.fences + 1) 65535) := by
  unfold Safety.fenced
  split
  next h => exact ⟨f.fences, f.pstep, by rw [← h], fun hf => absurd h (by simp [hf])⟩
  next h => exact ⟨_, _, rfl, fun _ => rfl⟩

/-- `s` with the fence up in the safety monitor and nothing else done. -/
def State.fenceUp (s : State) : State := setSafety s (s.safety.fenced s.jobStep)

theorem fenceUp_of_fence (h : s.safety.fence = true) : s.fenceUp = s := by
  rw [State.fenceUp, Safety.fenced_of_fence h]
  rfl

theorem raiseFence_reacts (s : State) (code : Nat) : Reacts s.fenceUp (s.raiseFence code) := by
  unfold State.raiseFence
  split
  next h => rw [fenceUp_of_fence (Bool.and_eq_true_iff.mp h).1]; exact .refl s
  split
  next h =>
    rw [fenceUp_of_fence h]
    have hjob : Reacts s { s with job := s.job.map (fun (j : JobSt) => { j with state := 3 }), group := { s.group with recover := none } } :=
      .of_eq
    exact hjob.trans (.emit ..)
  next h =>
    extract_lets f s1 s2 s3 s4 s5 s6
    have h1 : s.fenceUp = s1 := congrArg (setSafety s) (if_neg h)
    have h2 : Reacts s1 s2 := .emit ..
    have h3 : Reacts s2 s3 := Reacts.foldl reacts_fenceCore ..
    have h4 : Reacts s3 s4 := Reacts.foldl reacts_fenceSpring ..
    have h5 : Reacts s4 s5 := ((reacts_fenceFlash s4).trans (reacts_lapse _)).trans (Reacts.foldl reacts_fencePort ..)
    have h6 : Reacts s5 s6 :=
      (((reacts_fenceHost s5 0).trans (reacts_fenceHost _ 1)).trans (reacts_fenceJob _)).trans (reacts_fenceBars _)
    exact h1 ▸ ((((h2.trans h3).trans h4).trans h5).trans h6).trans (reacts_setGroup ..)

/-! ## Word to the group -/

theorem reacts_routeCell (s : State) (c : CtlCell) (goal : BitVec 12) : Reacts s (s.routeCell c goal) := by
  unfold State.routeCell
  split
  · exact .refl s
  · split
    · exact .refl s
    · exact reacts_setPort ..

theorem reacts_broadcast (s : State) (body : CellBody) : Reacts s (s.broadcast body) :=
  Reacts.foldl (fun t n => reacts_routeCell t _ n) ..

theorem reacts_setUe (s : State) (k : Nat) (x : UpEng) : Reacts s (s.setUe k x) := .of_eq

theorem reacts_voidStep (s : State) (step verdict nrep : Nat) : Reacts s (s.voidStep step verdict nrep) :=
  (reacts_setGroup ..).trans (Reacts.foldl (fun t k => reacts_setUe t k _) ..)

theorem reacts_mgrFence (s : State) (step reason : Nat) : Reacts s (s.mgrFence step reason) := by
  unfold State.mgrFence
  refine .ite (fun _ => .refl s) (fun _ => ?_)
  extract_lets g s1
  have h1 : Reacts s s1 := (reacts_setGroup ..).trans (reacts_broadcast ..)
  exact .ite (fun _ => (h1.trans (reacts_broadcast ..)).trans (reacts_voidStep ..)) (fun _ => h1)

theorem faultReaction_reacts (s : State) (code src : Nat) : Reacts s.fenceUp (s.faultReaction code src) := by
  unfold State.faultReaction
  split
  next h => rw [fenceUp_of_fence (Bool.and_eq_true_iff.mp h).1]; exact .refl s
  extract_lets s1 s2
  have h1 : Reacts s.fenceUp s1 := raiseFence_reacts ..
  have h2 : Reacts s1 s2 := by
    simp only [s2]
    split
    · exact reacts_routeCell ..
    · exact .refl s1
  exact .ite (fun _ => h1) (fun _ => .ite (fun _ => (h1.trans h2).trans (reacts_mgrFence ..)) (fun _ => h1.trans h2))

/-- Nothing follows under a fence that is raised (R488). -/
theorem faultReaction_of_stopped (h : s.stopped = true) (code src : Nat) : s.faultReaction code src = s := if_pos h

/-! ## Latching -/

/-- Latching a detection keeps what stands behind it, a failure record of it, and the fence. -/
theorem latchDet_latches (s : State) (d : Det) : ∃ (u : State) (f : FailRec), f.code = d.code ∧ f.unit = d.unit ∧ f.addr = d.addr ∧
    u = setSafety s { s.safety.latch d with recs := s.safety.recs ++ [f] } ∧ s.latchDet d = u.faultReaction d.code d.src := by
  have hrecs : (s.safety.latch d).recs = s.safety.recs := by
    unfold Safety.latch
    dsimp only
    split <;> rfl
  exact ⟨_, _, rfl, rfl, rfl, by rw [← hrecs]; rfl, rfl⟩

/-- The safety monitor after a detection is latched. -/
structure Latched (f g : Safety) (d : Det) : Prop where
  fence  : g.fence = true
  queue  : g.queue = f.queue
  count  : g.dets = min (f.dets + 1) (2 ^ 32 - 1)
  set    : g.detSet = true
  first  : f.detSet = false → g.detCode = d.code ∧ g.detMech = d.mech ∧ g.detSrc = if d.src < 60 then d.src else 63
  later  : f.detSet = true → g.detCode = f.detCode ∧ g.detSrc = f.detSrc
  record : ∃ r ∈ g.recs, r.code = d.code ∧ r.unit = d.unit ∧ r.addr = d.addr
  fences : f.fence = false → g.fences = min (f.fences + 1) 65535

theorem Safety.latch_dets (f : Safety) (d : Det) : (f.latch d).dets = min (f.dets + 1) (2 ^ 32 - 1) := by
  unfold Safety.latch
  dsimp only
  split <;> rfl

theorem Safety.latch_fence (f : Safety) (d : Det) : (f.latch d).fence = f.fence := by
  unfold Safety.latch
  dsimp only
  split <;> rfl

theorem latched_fenced (f : Safety) (d : Det) {r : FailRec} (hc : r.code = d.code) (hu : r.unit = d.unit) (ha : r.addr = d.addr)
    (step : Nat) : Latched f (({ f.latch d with recs := f.recs ++ [r] } : Safety).fenced step) d := by
  obtain ⟨n, p, h, hn⟩ := Safety.fenced_eq { f.latch d with recs := f.recs ++ [r] } step
  have hr : ∃ x ∈ f.recs ++ [r], x.code = d.code ∧ x.unit = d.unit ∧ x.addr = d.addr := ⟨r, by simp, hc, hu, ha⟩
  rw [h]
  unfold Safety.latch at hn ⊢
  dsimp only at hn ⊢
  split at hn
  next hs =>
    rw [if_pos hs]
    exact ⟨rfl, rfl, rfl, hs, fun h => absurd hs (by simp [h]), fun _ => ⟨rfl, rfl⟩, hr, hn⟩
  next hs =>
    rw [if_neg hs]
    exact ⟨rfl, rfl, rfl, rfl, fun _ => ⟨rfl, rfl, rfl⟩, fun h => absurd h hs, hr, hn⟩

/-- Latching leaves the monitor with the detection, keeps the units' registers and POISON, and does nothing more under a raised fence. -/
theorem latchDet_latched (s : State) (d : Det) :
    Latched s.safety (s.latchDet d).safety d ∧ (∀ j, (s.latchDet d).proc j = s.proc j) ∧
      (∀ p, (s.bar p).poison = true → ((s.latchDet d).bar p).poison = true) ∧
      (s.stopped = true → (s.latchDet d).job = s.job ∧ (s.latchDet d).group = s.group ∧ (s.latchDet d).ports = s.ports) := by
  obtain ⟨u, f, hc, hu, ha, rfl, ht⟩ := latchDet_latches s d
  have h := faultReaction_reacts (setSafety s { s.safety.latch d with recs := s.safety.recs ++ [f] }) d.code d.src
  rw [ht]
  refine ⟨?_, h.procs, h.poison, fun hs => ?_⟩
  · rw [h.safety]
    exact latched_fenced _ _ hc hu ha _
  · rw [faultReaction_of_stopped]
    · exact ⟨rfl, rfl, rfl⟩
    · rw [← hs]
      exact congrArg (· && !s.recovering) (Safety.latch_fence s.safety d)

/-! ## A check of a core fails -/

theorem polderOf_coreKey (c : CoreId) : polderOf (coreKey c) = c.site := by
  have h1 := c.cl.isLt
  have h2 := c.core.isLt
  rw [polderOf, if_pos (isCore_coreKey c), coreKey]
  omega

/-- A live core whose check fails: it halts, with POISON, a record and a detection of the code. -/
structure CoreFailed (s t : State) (c : CoreId) (code : Nat) : Prop where
  regs   : t.proc (coreKey c) = { s.proc (coreKey c) with halted := true }
  poison : (t.bar c.site).poison = true
  wrote  : s.Wrote t code
  safety : ∃ src unit pay, t.safety = s.safety.told code src unit pay
  mem    : t.mem = s.mem

theorem coreFail_failed {c : CoreId} (h : s.coreLive (coreKey c) = true) (code : Nat) :
    CoreFailed s (s.coreFail code (coreKey c)) c code := by
  rw [State.coreFail, if_pos h]
  have hpol := polderOf_coreKey c
  exact
    { regs := by simp [State.halt, State.poison]
      poison := hpol ▸ State.poison_bar ..
      wrote := (detect_wrote ..).of_evrec rfl
      safety := ⟨_, _, _, detect_safety ..⟩
      mem := by simp }

/-! ## The Warden -/

theorem holdWarden_fails (code mech : Nat) (hp : s.powered = true) (hw : s.safety.wfail = false) :
    (s.holdWarden code mech).safety.wfail = true ∧ (s.holdWarden code mech).safety.fence = true ∧
      (s.holdWarden code mech).safety.dets = min (s.safety.dets + 1) (2 ^ 32 - 1) ∧
      ∃ e ∈ (s.holdWarden code mech).evrec.queue, e.code = code := by
  have hgo : (!s.powered || s.safety.wfail) = false := by simp [hp, hw]
  unfold State.holdWarden
  rw [hgo, if_neg Bool.false_ne_true]
  extract_lets f
  generalize hu : State.failRec _ code 6 1 srcWarden uidWarden = u
  have hev : ∃ e ∈ u.evrec.queue, e.code = code := ⟨_, by rw [← hu]; exact List.mem_append_right _ (List.mem_singleton_self _), rfl⟩
  have hsafe : u.safety.wfail = true ∧ u.safety.dets = f.dets := by rw [← hu]; exact ⟨rfl, rfl⟩
  have h := raiseFence_reacts u code
  obtain ⟨n, p, hfen, -⟩ := Safety.fenced_eq u.safety u.jobStep
  obtain ⟨e, he, hc⟩ := hev
  refine ⟨?_, ?_, ?_, e, h.events he, hc⟩
  all_goals rw [h.safety, State.fenceUp, setSafety_safety, hfen]
  · exact hsafe.1
  · exact hsafe.2.trans (Safety.latch_dets ..)

/-! ## Self-tests -/

/-- A write of `SFTEST` with REQ set: the test starts, or waits for the one that runs. -/
theorem writeSftest_eq (s : State) {v : Word} (hv : v.getLsbD 0 = true) :
    ∃ b, s.writeSftest v = if s.safety.tbusy || !s.devUp then setSafety s { s.safety with tdone := b, treq := true }
      else (setSafety s { s.safety with tdone := b }).startTest := by
  simp only [State.writeSftest, hv, Bool.not_true, Bool.false_eq_true, if_false]
  cases v.getLsbD 2
  · exact ⟨s.safety.tdone, rfl⟩
  · exact ⟨false, rfl⟩

theorem partUsed_of_no_job (hj : s.job = none) (p : Part) : s.partUsed p = false := by
  simp [State.partUsed, hj]

/-- Marking a part that has failed writes no record. -/
theorem markPart_keeps (s : State) (p : Part) : (s.markPart p).evrec = s.evrec ∧ (s.markPart p).safety.recs = s.safety.recs ∧
    (s.markPart p).safety.treq = s.safety.treq := by
  cases p with
  | link n q =>
    simp only [State.markPart, State.markLink]
    split <;> exact ⟨rfl, rfl, rfl⟩
  | _ => exact ⟨rfl, rfl, rfl⟩

/-- The end of the commands of an opcode changes the host ports alone. -/
theorem endRunning_hports (s : State) (opc status r0 : Nat) : ∃ hs, s.endRunning opc status r0 = { s with hports := hs } := by
  unfold State.endRunning
  generalize [0, 1] = l
  induction l generalizing s with
  | nil => exact ⟨s.hports, rfl⟩
  | cons h r ih =>
    rw [List.foldl_cons]
    dsimp only
    split
    · exact ih s
    · obtain ⟨hs, e⟩ := ih (s.setHport h _)
      exact ⟨hs, e⟩

theorem endRunning_safety (s : State) (opc status r0 : Nat) : (s.endRunning opc status r0).safety = s.safety := by
  obtain ⟨hs, h⟩ := endRunning_hports s opc status r0
  rw [h]

theorem endRunning_evrec (s : State) (opc status r0 : Nat) : (s.endRunning opc status r0).evrec = s.evrec := by
  obtain ⟨hs, h⟩ := endRunning_hports s opc status r0
  rw [h]

/-- The test of the parts at hand has ended. -/
structure TestEnded (s t : State) (fail : Bool) : Prop where
  busy    : t.safety.tbusy = false
  done    : t.safety.tdone = true
  testing : t.safety.stesting = false
  failed  : t.safety.tfailed = (s.safety.tfailed || fail)
  evrec   : t.evrec = s.evrec
  recs    : t.safety.recs = s.safety.recs

/-- Without a job every part at hand is free: those that fail are marked and written down, and the test ends. -/
theorem selfTestComplete_ends (hb : s.safety.tbusy = true) (hj : s.job = none) (failed : List Part) (hu : u = failed.foldl State.testFail s)
    (hr : u.safety.treq = false) :
    ∃ t, exec (.selfTestComplete failed) s = .next t ∧ TestEnded u t (!failed.isEmpty) := by
  have hfree : failed.filter (fun p => !s.partUsed p) = failed := List.filter_eq_self.mpr fun p _ => by simp [partUsed_of_no_job hj]
  have hlent : (if s.safety.lent.isSome then failed.filter (fun p => s.partUsed p && s.lendable p) else []) = [] := by
    simp [partUsed_of_no_job hj]
  have hx : exec (.selfTestComplete failed) s = execSelfTestComplete failed s := rfl
  simp only [hx, execSelfTestComplete, hb, hfree, hlent, List.foldl_nil, ← hu, hj, hr, Option.isSome_none, Bool.and_false, Bool.not_true,
    Bool.false_eq_true, if_false, List.isEmpty_nil, Bool.or_false]
  refine ⟨_, rfl, ?_⟩
  exact
    { busy := congrArg Safety.tbusy (endRunning_safety ..)
      done := congrArg Safety.tdone (endRunning_safety ..)
      testing := congrArg Safety.stesting (endRunning_safety ..)
      failed := congrArg Safety.tfailed (endRunning_safety ..)
      evrec := endRunning_evrec ..
      recs := by rw [endRunning_safety]; rfl }

end Sys2Proof.Machine

open Sys2Proof Sys2Proof.Machine

/-- Settles O48: latching leaves the monitor as `Latched` says and the fence's reaction keeps it (`latchDet_latched`), a check of a core
that fails leaves its detection in the queue (`coreFail_failed`), and a self-test ends by `selfTestComplete_ends`. -/
theorem detectionsRaiseTheFence : Obligations.DetectionsRaiseTheFence := by
  refine ⟨fun s d r hq => ?latch, fun c s hlive => ⟨?parity, ?watchdog, ?signature, rfl⟩, fun s hp hw _ i code hi => ?warden,
    fun s v hp hv => ⟨?start, ?again⟩, fun s hb hr hj => ⟨?passed, ?failed⟩⟩
  case latch =>
    refine ⟨(setSafety s { s.safety with queue := r }).latchDet d, ?_, ?_⟩
    · change execDetectionLatch none s = _
      simp only [execDetectionLatch, hq]
    · obtain ⟨h, -, -, hstop⟩ := latchDet_latched (setSafety s { s.safety with queue := r }) d
      exact ⟨h.fence, h.queue, h.count, h.set, h.first, h.later, h.record, h.fences, hstop⟩
  case parity =>
    intro hq
    have h := coreFail_failed hlive 0x2502
    obtain ⟨src, unit, pay, hs⟩ := h.safety
    have hq1 : (s.coreFail 0x2502 (coreKey c)).safety.queue = [⟨0x2502, src, unit, detAddr 0x2502 pay, mechOf 0x2502⟩] := by
      rw [hs, Safety.told, hq]
      rfl
    obtain ⟨hl, hproc, hpoison, -⟩ := latchDet_latched (setSafety (s.coreFail 0x2502 (coreKey c))
      { (s.coreFail 0x2502 (coreKey c)).safety with queue := [] }) ⟨0x2502, src, unit, detAddr 0x2502 pay, mechOf 0x2502⟩
    obtain ⟨f, hf, hc, -⟩ := hl.record
    refine ⟨_, ?_, hl.fence, ?_, hpoison _ h.poison, hl.queue, f, hf, hc⟩
    · change execDetectionLatch (some c) s = _
      simp only [execDetectionLatch, hq1]
    · rw [hproc]
      exact congrArg Proc.halted h.regs
  case watchdog =>
    intro hf hb
    have h := coreFail_failed hlive 0x2503
    obtain ⟨src, unit, pay, hs⟩ := h.safety
    have hx : exec (.sequencerWatchdog c) s = .next (s.coreFail 0x2503 (coreKey c)) := by
      change execSequencerWatchdog c s = _
      simp [execSequencerWatchdog, hf, hb]
    exact ⟨_, hx, h.regs, h.poison, h.wrote, hs ▸ List.length_append, h.mem⟩
  case signature =>
    have h := coreFail_failed hlive 0x2503
    obtain ⟨src, unit, pay, hs⟩ := h.safety
    exact ⟨_, rfl, h.regs, h.poison, h.wrote, hs ▸ List.length_append, h.mem⟩
  case warden =>
    rcases hi with ⟨rfl, rfl⟩ | ⟨rfl, rfl⟩
    · exact ⟨_, rfl, holdWarden_fails _ _ hp hw⟩
    · exact ⟨_, rfl, holdWarden_fails _ _ hp hw⟩
  case start =>
    intro hb hup
    obtain ⟨b, h⟩ := writeSftest_eq s hv
    rw [hb, hup, Bool.not_true, Bool.or_self, if_neg Bool.false_ne_true] at h
    exact ⟨_, congrArg Host.Outcome.next ((if_pos hp).trans h), rfl, rfl, rfl, rfl, rfl⟩
  case again =>
    intro hb
    obtain ⟨b, h⟩ := writeSftest_eq s hv
    rw [hb, Bool.true_or, if_pos rfl] at h
    exact ⟨_, congrArg Host.Outcome.next ((if_pos hp).trans h), rfl, hb⟩
  case passed =>
    obtain ⟨t, ht, h⟩ := selfTestComplete_ends hb hj [] rfl hr
    exact ⟨t, ht, h.busy, h.done, h.testing, by simpa using h.failed, h.evrec⟩
  case failed =>
    intro p
    obtain ⟨hev, hrecs, htreq⟩ := markPart_keeps s p
    obtain ⟨t, ht, h⟩ := selfTestComplete_ends hb hj [p] rfl (htreq.trans hr)
    refine ⟨t, ht, h.busy, h.done, by simpa using h.failed, ?_, ?_⟩
    · obtain ⟨e, hq, hc⟩ := emit_wrote (s := s.markPart p) 0x2509 srcWarden (partUid p) [(4, partUid p)]
      exact ⟨e, by rw [h.evrec, ← hev]; exact hq, hc⟩
    · rw [h.recs, ← hrecs]
      exact List.length_append
end

section
/-! What an instruction that touches only its unit's registers leaves (O2 to O6, O12 to O14): by its result, a retirement, a transfer
or a trap. -/

namespace Sys2Proof.Machine
open Sys2Proof

variable {s s' : State} {k : Nat} {regs : List Reg} {g : Proc → IRes}

theorem runInstr_retired {p : Proc} (hi : Issues s s' k regs 4) (b : Bool) (hg : g (s'.proc k) = .ok p) :
    Retired s' (s.runInstr k regs b g) k p ((s'.proc k).pc + 4) := by
  rw [runInstr_eq hi, hg]
  exact retire_retired ..

theorem runInstr_not_taken {p : Proc} (hi : Issues s s' k regs 4) (b : Bool) (hg : g (s'.proc k) = .branch p) :
    Retired s' (s.runInstr k regs b g) k p ((s'.proc k).pc + 4) := by
  rw [runInstr_eq hi, hg]
  exact retire_retired ..

theorem runInstr_transfers {p : Proc} {pc : Word} {atom : Nat} (hi : Issues s s' k regs 4) (b : Bool)
    (hg : g (s'.proc k) = .jump p pc atom) (hf : s'.fetchFault k pc = none) : Retired s' (s.runInstr k regs b g) k p pc := by
  rw [runInstr_eq hi, hg]
  exact transfer_retired _ _ _ _ _ _ hf

theorem runInstr_traps {cause sub : Nat} {tval : Word} (hi : Issues s s' k regs 4) (b : Bool)
    (hg : g (s'.proc k) = .trap cause sub tval) (ht : CanTrap s' k) :
    Trapped s' (s.runInstr k regs b g) k cause sub tval false := by
  rw [runInstr_eq hi, hg]
  exact trap_trapped _ _ _ _ _ _ ht

end Sys2Proof.Machine
end

section
/-! Integer instructions (O2, O3): each function code that Table 6.3 assigns has a result, and it is the one of the table. -/

namespace Sys2Proof.Machine
open Sys2Proof

/-! ## Positions of bits -/

/-- `y` is the first position below `n` where `p` holds, or `n` where there is none. -/
def IsFirst (p : Nat → Bool) (n y : Nat) : Prop := y ≤ n ∧ (∀ i < y, p i = false) ∧ (y < n → p y = true)

theorem isFirst_find (p : Nat → Bool) (n : Nat) : IsFirst p n (((List.range n).find? p).getD n) := by
  rcases h : (List.range n).find? p with _ | y
  · have hno := List.find?_range_eq_none.mp h
    exact ⟨le_rfl, fun i hi => by simpa using hno i hi, fun hn => absurd hn (lt_irrefl _)⟩
  · obtain ⟨hy, hmem, hlow⟩ := List.find?_range_eq_some.mp h
    exact ⟨(List.mem_range.mp hmem).le, fun i hi => by simpa using hlow i hi, fun _ => hy⟩

theorem IsFirst.unique {p : Nat → Bool} {n y z : Nat} (hy : IsFirst p n y) (hz : IsFirst p n z) : y = z := by
  obtain ⟨hyn, hylow, hyp⟩ := hy
  obtain ⟨hzn, hzlow, hzp⟩ := hz
  rcases Nat.lt_trichotomy y z with h | h | h
  · exact absurd (hyp (by omega)) (by simp [hzlow y h])
  · exact h
  · exact absurd (hzp (by omega)) (by simp [hylow z h])

theorem ctz64_isFirst (a : Word) : IsFirst a.getLsbD 64 (ctz64 a) := by
  have h := isFirst_find a.getLsbD 64
  unfold ctz64
  split <;> rename_i he <;> rwa [he] at h

theorem clz64_isFirst (a : Word) : IsFirst a.getMsbD 64 (clz64 a) := by
  unfold clz64
  split
  · next h => exact ⟨le_rfl, fun i _ => by simp [h], fun hn => absurd hn (lt_irrefl _)⟩
  · next h =>
    have hne : a.toNat ≠ 0 := fun h0 => h (BitVec.eq_of_toNat_eq h0)
    have hlog : a.toNat.log2 < 64 := (Nat.log2_lt hne).mpr a.isLt
    refine ⟨by omega, fun i hi => ?_, fun _ => ?_⟩
    · have hsmall : a.toNat < 2 ^ (64 - 1 - i) := (Nat.log2_lt hne).mp (by omega)
      simp [BitVec.getMsbD_eq_getLsbD, ← BitVec.testBit_toNat, Nat.testBit_lt_two_pow hsmall]
    · have hpos : 64 - 1 - (63 - a.toNat.log2) = a.toNat.log2 := by omega
      have hlt : 63 - a.toNat.log2 < 64 := by omega
      simp only [BitVec.getMsbD_eq_getLsbD, hpos, hlt, ← BitVec.testBit_toNat, Nat.testBit_log2 hne, decide_true, Bool.and_true]

theorem popc64_eq_countP (a : Word) : popc64 a = (List.range 64).countP (fun i => a.getLsbD i) :=
  List.countP_eq_length_filter.symm

theorem IsFirst.toNat_ofNat {p : Nat → Bool} {y : Nat} (h : IsFirst p 64 y) : IsFirst p 64 (BitVec.ofNat 64 y : Word).toNat := by
  rwa [BitVec.toNat_ofNat, Nat.mod_eq_of_lt (by have := h.1; omega)]

/-! ## OP 0x01 -/

theorem boolWord_toNat (b : Bool) : (boolWord b).toNat = if b then 1 else 0 := by cases b <;> rfl

theorem toNat_shiftLeft_word (a : Word) (n : Nat) : (a <<< n).toNat = a.toNat * 2 ^ n % 2 ^ 64 := by
  rw [BitVec.toNat_shiftLeft, Nat.shiftLeft_eq]

theorem toNat_shiftRight_word (a : Word) (n : Nat) : (a >>> n).toNat = a.toNat / 2 ^ n := by
  rw [BitVec.toNat_ushiftRight, Nat.shiftRight_eq_div_pow]

theorem toInt_sshiftRight_word (a : Word) (n : Nat) : (a.sshiftRight n).toInt = a.toInt / 2 ^ n := by
  rw [BitVec.toInt_sshiftRight, Int.shiftRight_eq_div_pow, Nat.cast_pow, Nat.cast_ofNat]

theorem toNat_boolWord_slt (a b : Word) : (boolWord (a.slt b)).toNat = if a.toInt < b.toInt then 1 else 0 := by
  simp [boolWord_toNat, BitVec.slt_eq_decide]

theorem toNat_boolWord_ult (a b : Word) : (boolWord (a.ult b)).toNat = if a.toNat < b.toNat then 1 else 0 := by
  simp [boolWord_toNat, BitVec.ult]

/-- Every function code of `intCode` has the result of Table 6.3. -/
theorem aluRR_result {fn rb : Nat} (a b : Word) (h : fn ≤ 14 ∨ (16 ≤ fn ∧ fn ≤ 18 ∧ rb = 0)) :
    ∃ x, aluRR fn rb a b = some x ∧ IntResult fn a b x := by
  match fn with
  | 0 => exact ⟨_, rfl, BitVec.toNat_add a b⟩
  | 1 => exact ⟨_, rfl, BitVec.toInt_sub⟩
  | 2 => exact ⟨_, rfl, fun _ => BitVec.getLsbD_and⟩
  | 3 => exact ⟨_, rfl, fun _ => BitVec.getLsbD_or⟩
  | 4 => exact ⟨_, rfl, fun _ => BitVec.getLsbD_xor⟩
  | 5 => exact ⟨_, rfl, fun i hi => by simp [hi]⟩
  | 6 => exact ⟨_, rfl, toNat_shiftLeft_word a _⟩
  | 7 => exact ⟨_, rfl, toNat_shiftRight_word a _⟩
  | 8 => exact ⟨_, rfl, toInt_sshiftRight_word a _⟩
  | 9 => exact ⟨_, rfl, toNat_boolWord_slt a b⟩
  | 10 => exact ⟨_, rfl, toNat_boolWord_ult a b⟩
  | 11 => exact ⟨_, rfl, by simp only [IntResult, BitVec.slt_eq_decide]; grind⟩
  | 12 => exact ⟨_, rfl, by simp only [IntResult, BitVec.slt_eq_decide]; grind⟩
  | 13 => exact ⟨_, rfl, by simp only [IntResult, BitVec.ult]; grind⟩
  | 14 => exact ⟨_, rfl, by simp only [IntResult, BitVec.ult]; grind⟩
  | 15 => omega
  | 16 => exact ⟨_, if_pos (by omega), (clz64_isFirst a).toNat_ofNat⟩
  | 17 => exact ⟨_, if_pos (by omega), (ctz64_isFirst a).toNat_ofNat⟩
  | 18 =>
    refine ⟨_, if_pos (by omega), ?_⟩
    have hle : (List.range 64).countP (fun i => a.getLsbD i) ≤ 64 := by simpa using List.countP_le_length (l := List.range 64)
    rw [IntResult, popc64_eq_countP, BitVec.toNat_ofNat, Nat.mod_eq_of_lt (by omega)]
  | n + 19 => omega

/-- The other function codes have none. -/
theorem aluRR_reserved {fn rb : Nat} (a b : Word) (h : ¬ (fn ≤ 14 ∨ (16 ≤ fn ∧ fn ≤ 18 ∧ rb = 0))) : aluRR fn rb a b = none := by
  have hfn : fn = 15 ∨ fn = 16 ∨ fn = 17 ∨ fn = 18 ∨ 18 < fn := by omega
  rcases hfn with rfl | rfl | rfl | rfl | hfn
  · rfl
  · exact if_neg (by omega)
  · exact if_neg (by omega)
  · exact if_neg (by omega)
  · match fn with
    | n + 19 => rfl

/-! ## OP 0x02 -/

theorem aluRI_result {fn3 imm : Nat} (a : Word) (h : fn3 ≤ 5 ∨ (fn3 = 6 ∧ imm < 256)) :
    ∃ x, aluRI fn3 imm a = some x ∧ ImmResult fn3 imm a x := by
  rcases h with h | ⟨rfl, himm⟩
  · match fn3 with
    | 0 => exact aluRR_result (rb := 0) a (sxt 12 imm) (fn := 0) (by omega)
    | 1 => exact aluRR_result (rb := 0) a (sxt 12 imm) (fn := 9) (by omega)
    | 2 => exact aluRR_result (rb := 0) a (sxt 12 imm) (fn := 10) (by omega)
    | 3 => exact aluRR_result (rb := 0) a (sxt 12 imm) (fn := 2) (by omega)
    | 4 => exact aluRR_result (rb := 0) a (sxt 12 imm) (fn := 3) (by omega)
    | 5 => exact aluRR_result (rb := 0) a (sxt 12 imm) (fn := 4) (by omega)
    | n + 6 => omega
  · have hok : ¬ imm / 256 ≠ 0 := by omega
    have hsh : (BitVec.ofNat 64 imm : Word).toNat % 64 = imm % 64 := by rw [BitVec.toNat_ofNat]; omega
    have hkind : imm / 64 % 4 = imm / 64 := by omega
    simp only [aluRI, if_neg hok, hkind]
    have hlt : imm / 64 < 4 := by omega
    rcases hq : imm / 64 with _ | _ | _ | _ | n
    · exact ⟨_, rfl, by simp only [ImmResult, hq, IntResult, hsh, toNat_shiftLeft_word]⟩
    · exact ⟨_, rfl, by simp only [ImmResult, hq, IntResult, hsh, toNat_shiftRight_word]⟩
    · exact ⟨_, rfl, by simp only [ImmResult, hq, IntResult, hsh, toInt_sshiftRight_word]⟩
    · refine ⟨_, rfl, ?_⟩
      simp only [ImmResult, hq]
      intro i hi
      rw [BitVec.getLsbD_rotateRight, Nat.mod_mod]
      by_cases hlow : i < 64 - imm % 64
      · rw [decide_eq_true hlow, cond_true, show imm % 64 + i = (i + imm) % 64 by omega]
      · rw [decide_eq_false hlow, cond_false, decide_eq_true hi, Bool.true_and, show i - (64 - imm % 64) = (i + imm) % 64 by omega]
    · omega

/-! ## OP 0x04 -/

/-- The high half of a signed product fits a word. -/
theorem toInt_mulh (a b : Word) : (BitVec.ofInt 64 (a.toInt * b.toInt / 2 ^ 64)).toInt = a.toInt * b.toInt / 2 ^ 64 := by
  have ha : |a.toInt| ≤ 2 ^ 63 := abs_le.mpr ⟨BitVec.le_toInt a, (BitVec.toInt_lt (x := a)).le⟩
  have hb : |b.toInt| ≤ 2 ^ 63 := abs_le.mpr ⟨BitVec.le_toInt b, (BitVec.toInt_lt (x := b)).le⟩
  have hab : |a.toInt * b.toInt| ≤ 2 ^ 63 * 2 ^ 63 := by
    rw [abs_mul]
    exact mul_le_mul ha hb (abs_nonneg _) (by norm_num)
  obtain ⟨hlo, hhi⟩ := abs_le.mp hab
  rw [BitVec.toInt_ofInt, Int.bmod_eq_of_le] <;> omega

theorem toNat_mulhu (a b : Word) : (BitVec.ofNat 64 (a.toNat * b.toNat / 2 ^ 64)).toNat = a.toNat * b.toNat / 2 ^ 64 := by
  have h : a.toNat * b.toNat < 2 ^ 64 * 2 ^ 64 := Nat.mul_lt_mul'' a.isLt b.isLt
  rw [BitVec.toNat_ofNat, Nat.mod_eq_of_lt (Nat.div_lt_of_lt_mul h)]

theorem divS_result (a b : Word) :
    if b = 0 then (divS a b).toNat = 2 ^ 64 - 1 else (divS a b).toInt = (a.toInt.tdiv b.toInt).bmod (2 ^ 64) := by
  by_cases hb : b = 0
  · simp [divS, hb]
  · simp only [divS, if_neg hb, BitVec.toInt_sdiv]

theorem toNat_divU (a b : Word) : (divU a b).toNat = if b = 0 then 2 ^ 64 - 1 else a.toNat / b.toNat := by
  by_cases hb : b = 0
  · simp [divU, hb]
  · simp only [divU, if_neg hb, BitVec.toNat_udiv]

theorem remS_result (a b : Word) : if b = 0 then remS a b = a else (remS a b).toInt = a.toInt.tmod b.toInt := by
  by_cases hb : b = 0
  · simp [remS, hb]
  · simp only [remS, if_neg hb, BitVec.toInt_srem]

theorem toNat_remU (a b : Word) : (remU a b).toNat = if b = 0 then a.toNat else a.toNat % b.toNat := by
  by_cases hb : b = 0
  · simp [remU, hb]
  · simp only [remU, if_neg hb, BitVec.toNat_umod]

theorem mulDiv_result {fn : Nat} (a b : Word) (h : fn ≤ 6) : ∃ x, mulDiv fn a b = some x ∧ MulDivResult fn a b x := by
  match fn with
  | 0 => exact ⟨_, rfl, BitVec.toNat_mul a b⟩
  | 1 => exact ⟨_, rfl, toInt_mulh a b⟩
  | 2 => exact ⟨_, rfl, toNat_mulhu a b⟩
  | 3 => exact ⟨_, rfl, divS_result a b⟩
  | 4 => exact ⟨_, rfl, toNat_divU a b⟩
  | 5 => exact ⟨_, rfl, remS_result a b⟩
  | 6 => exact ⟨_, rfl, toNat_remU a b⟩
  | n + 7 => omega

theorem mulDiv_reserved {fn : Nat} (a b : Word) (h : 7 ≤ fn) : mulDiv fn a b = none := by
  match fn with
  | n + 7 => rfl

/-! ## `lic` -/

theorem getLsbD_quarter {imm q i : Nat} (himm : imm < 2 ^ 16) (hi : i < 64) :
    (BitVec.ofNat 64 imm <<< (16 * q) : Word).getLsbD i = (decide (i / 16 = q) && imm.testBit (i % 16)) := by
  simp only [BitVec.getLsbD_shiftLeft, BitVec.getLsbD_ofNat, hi, decide_true, Bool.true_and]
  rcases Nat.lt_trichotomy (i / 16) q with h | h | h
  · have h1 : i < 16 * q := by omega
    simp [h1, h.ne]
  · have h1 : ¬ i < 16 * q := by omega
    have h2 : i - 16 * q = i % 16 := by omega
    have h3 : i % 16 < 64 := by omega
    simp [h1, h2, h3, h]
  · have h1 : imm.testBit (i - 16 * q) = false :=
      Nat.testBit_lt_two_pow (himm.trans_le (Nat.pow_le_pow_right (by norm_num) (by omega)))
    simp [h1, h.ne']

/-- The quarter is IMM16; another bit is kept with KEEP = 1, else zero. -/
theorem getLsbD_licValue (f : BitVec 25) (old : Word) {i : Nat} (hi : i < 64) :
    (licValue f old).getLsbD i =
      if i / 16 = fld f 12 2 then (fld f 15 16).testBit (i % 16) else (fld f 14 1 == 1 && old.getLsbD i) := by
  have hones : (0xFFFF : Nat).testBit (i % 16) = true := by
    rw [show 0xFFFF = 2 ^ 16 - 1 by norm_num, Nat.testBit_two_pow_sub_one, decide_eq_true (Nat.mod_lt _ (by norm_num))]
  have hmask := getLsbD_quarter (imm := 0xFFFF) (q := fld f 12 2) (by norm_num) hi
  have hpart := getLsbD_quarter (q := fld f 12 2) (fld_lt f 15 16) hi
  unfold licValue
  by_cases hk : fld f 14 1 = 1
  · simp only [hk, if_true, BitVec.getLsbD_or, BitVec.getLsbD_and, BitVec.getLsbD_not, hi, hmask, hpart, hones, beq_self_eq_true]
    split <;> simp_all
  · simp only [hk, if_false, hpart, beq_eq_false_iff_ne.mpr hk, Bool.false_and]
    split <;> simp_all

end Sys2Proof.Machine

open Sys2Proof Sys2Proof.Machine

/-- Settles O2: each instruction retires by `runInstr_retired` with the result that `aluRR_result`, `aluRI_result` and
`mulDiv_result` name. -/
theorem integerInstructionsWriteResult : Obligations.IntegerInstructionsWriteResult := by
  refine ⟨fun p x => ⟨if_pos rfl, if_pos rfl⟩, fun u f s s' => ⟨fun hi hc => ?registers, fun hi hc => ?immediate, fun hi hc => ?product⟩⟩
  case registers =>
    obtain ⟨x, hx, hr⟩ := aluRR_result (s'.ra (unitKey u) f) (s'.rb (unitKey u) f) hc
    exact ⟨x, _, hr, congrArg Host.Outcome.next (if_neg (not_not_intro rfl)), runInstr_retired hi _ (congrArg (writeOr 0x01 f _) hx)⟩
  case immediate =>
    obtain ⟨x, hx, hr⟩ := aluRI_result (s'.ra (unitKey u) f) hc
    exact ⟨x, _, hr, rfl, runInstr_retired hi _ (congrArg (writeOr 0x02 f _) hx)⟩
  case product =>
    obtain ⟨x, hx, hr⟩ := mulDiv_result (s'.ra (unitKey u) f) (s'.rb (unitKey u) f) hc
    exact ⟨x, _, hr, rfl, runInstr_retired hi _ (congrArg (writeOr 0x04 f _) hx)⟩

/-- Settles O3: `lic` retires, and `getLsbD_licValue` says every bit of what it writes. -/
theorem licWritesQuarter : Obligations.LicWritesQuarter := by
  intro u f s s' hi hf
  refine ⟨licValue f (s'.rd (unitKey u) f), _, fun i => getLsbD_licValue f _, rfl, runInstr_retired hi _ ?_⟩
  rw [if_pos hf]
  rfl
end

section
/-! Branches and jumps (O4, O5). -/

namespace Sys2Proof.Machine
open Sys2Proof

theorem branchCond_holds {c : Nat} (a b : Word) (h : c ≤ 5) : ∃ x, branchCond c a b = some x ∧ (x = true ↔ BranchHolds c a b) := by
  match c with
  | 0 => exact ⟨_, rfl, beq_iff_eq⟩
  | 1 => exact ⟨_, rfl, bne_iff_ne⟩
  | 2 => exact ⟨_, rfl, BitVec.slt_iff_toInt_lt⟩
  | 3 => exact ⟨_, rfl, by simp [BranchHolds, BitVec.slt_eq_decide]⟩
  | 4 => exact ⟨_, rfl, BitVec.ult_iff_lt⟩
  | 5 => exact ⟨_, rfl, by simp [BranchHolds, BitVec.ult]⟩
  | n + 6 => omega

theorem branchCond_reserved {c : Nat} (a b : Word) (h : 6 ≤ c) : branchCond c a b = none := by
  match c with
  | n + 6 => rfl

/-- An offset in words is one of four times the bytes. -/
theorem shiftLeft_two (x : Word) : x <<< 2 = x * 4 := BitVec.shiftLeft_eq_mul_twoPow x 2

/-- A signed field of words as a distance in bytes does not overflow a word. -/
theorem toInt_sxt_mul_four {n : Nat} (x : Nat) (hn : n ≤ 62) : (sxt n x * 4).toInt = (BitVec.ofNat n x).toInt * 4 := by
  have hpow : (2 : Int) ^ n ≤ 2 ^ 62 := pow_le_pow_right₀ (by norm_num) hn
  have hlo := BitVec.two_mul_toInt_lt (x := BitVec.ofNat n x)
  have hhi := BitVec.le_two_mul_toInt (x := BitVec.ofNat n x)
  rw [BitVec.toInt_mul, sxt, BitVec.toInt_signExtend_of_le (by omega), show (4 : Word).toInt = 4 from rfl, Int.bmod_eq_of_le] <;> omega

/-- A signed field of `n + 1` bits, in bytes. -/
theorem toInt_sxt_mul_four_mem {n : Nat} (x : Nat) (hn : n < 62) :
    -(2 ^ n) * 4 ≤ (sxt (n + 1) x * 4).toInt ∧ (sxt (n + 1) x * 4).toInt ≤ 2 ^ n * 4 - 4 := by
  have hlo := BitVec.le_toInt (BitVec.ofNat (n + 1) x)
  have hhi := BitVec.toInt_lt (x := BitVec.ofNat (n + 1) x)
  rw [toInt_sxt_mul_four x (n := n + 1) hn]
  rw [Nat.add_sub_cancel] at hlo hhi
  omega

end Sys2Proof.Machine

open Sys2Proof Sys2Proof.Machine

/-- Settles O4: by `branchCond_holds` the branch is taken exactly when its condition holds. -/
theorem branchComparesAndContinues : Obligations.BranchComparesAndContinues := by
  refine ⟨fun u f s s' hi => ⟨fun hc hb hf => ?taken, fun hc hb => ?untaken, fun hc ht => ?reserved⟩,
    fun f => toInt_sxt_mul_four_mem (n := 11) _ (by norm_num)⟩
  case taken =>
    obtain ⟨x, hx, hh⟩ := branchCond_holds (s'.ra (unitKey u) f) (s'.rd (unitKey u) f) hc
    rw [hh.mpr hb, State.ra, State.rd] at hx
    exact ⟨_, rfl, runInstr_transfers (atom := 9) hi _ (by simp only [hx, shiftLeft_two]) hf⟩
  case untaken =>
    obtain ⟨x, hx, hh⟩ := branchCond_holds (s'.ra (unitKey u) f) (s'.rd (unitKey u) f) hc
    rw [Bool.eq_false_iff.mpr (mt hh.mp hb), State.ra, State.rd] at hx
    exact ⟨_, rfl, runInstr_not_taken hi _ (by simp only [hx])⟩
  case reserved =>
    refine ⟨_, rfl, runInstr_traps hi _ ?_ ht⟩
    simp only [branchCond_reserved _ _ hc, illegal32]
    rfl

/-- Settles O5: `jal`, `jalr` and `tret` transfer to their targets, and a reserved `jalr` and a `tret` outside a handler trap. -/
theorem jumpsContinue : Obligations.JumpsContinue := by
  refine fun u f s s' => ⟨fun hi hf => ?jal, fun hi hfn hal hf => ?jalr, toInt_sxt_mul_four_mem (n := 19) _ (by norm_num),
    fun ht => ⟨fun hi hfn => ?reserved, fun hi => ?outside⟩, fun hi hf0 hc hin hf => ?tret⟩
  case jal => exact ⟨_, rfl, runInstr_transfers (atom := 9) hi _ (by simp only [shiftLeft_two]) hf⟩
  case jalr =>
    rw [State.ra] at hal
    exact ⟨_, rfl, runInstr_transfers (atom := 10) hi _ (by simp only [hfn, hal, ne_eq, not_true_eq_false, if_false]; rfl) hf⟩
  case reserved => exact ⟨_, rfl, runInstr_traps hi _ (if_pos hfn) ht⟩
  case outside => exact ⟨_, rfl, runInstr_traps hi _ (if_pos (by simp [ht.outside])) ht⟩
  case tret =>
    exact ⟨_, rfl, runInstr_transfers (atom := 0xC) hi _ (if_neg (by simp [hf0, hc, hin])) hf⟩
end

section
/-! Where a core traps (O6). -/

namespace Sys2Proof.Machine
open Sys2Proof

variable {c : CoreId} {f : BitVec 25} {s s' : State}

/-- A word whose opcode is not assigned traps with the word as TVAL; one that introduces 64 bits, in the slot that its opcode has. -/
theorem reservedOp_traps {k : Nat} {op : BitVec 7} (hi : Issues s s' k [] (if 0x60 ≤ op.toNat ∧ op.toNat ≤ 0x7E then 8 else 4))
    (ht : CanTrap s' k) : ∃ slot, Trapped s' (s.reservedOp k op.toNat f) k causeIllegal 0 ((word32 op f).zeroExtend 64) slot := by
  refine ⟨(if 0x60 ≤ op.toNat ∧ op.toNat ≤ 0x7E then 8 else 4) == 8 && slot1Of op.toNat, ?_⟩
  simp only [State.reservedOp, issue_eq hi, State.finish, illegal32, BitVec.ofNat_toNat, BitVec.setWidth_eq]
  exact trap_trapped _ _ _ _ _ _ ht

theorem ctlReg_core (n : Nat) : s.ctlReg (coreKey c) n = s.coreReg (coreKey c) n := if_pos (isCore_coreKey c)

theorem cread_traps (hi : Issues s s' (coreKey c) [.s (rdOf f)] 4) (hfn : fld f 17 3 = 0) (hra : raOf f = 0)
    (hno : s'.coreReg (coreKey c) (fld f 20 12) = none) :
    exec (.cread (.core c) f) s = .next (s'.trap (coreKey c) causeOperand 0 (BitVec.ofNat 64 (fld f 20 12)) false) := by
  change execCread (.core c) f s = _
  simp only [execCread, unitKey, issue_eq hi, hfn, hra, ctlReg_core, hno, bne_self_eq_false, Bool.or_self, Bool.false_eq_true, if_false]

theorem bar_traps (hi : Issues s s' (coreKey c) [] 4) (hrd : rdOf f = 0) (hra : raOf f = 0) (hrb : rbOf f = 0) (himm : syImm f < 32)
    (hmem : s'.member (syImm f % 16) (coreKey c) = false) :
    exec (.bar (.core c) f) s = .next (s'.trap (coreKey c) causeOperand 0 (BitVec.ofNat 64 (syImm f % 16)) false) := by
  change execBar (.core c) f s = _
  have h32 : syImm f / 32 = 0 := by omega
  obtain ⟨-, -, hue⟩ := profiles_of_isCore (isCore_coreKey c)
  simp [execBar, unitKey, issue_eq hi, hrd, hra, hrb, h32, hue, hmem]

end Sys2Proof.Machine

open Sys2Proof Sys2Proof.Machine

/-- Settles O6: each of the forms ends in `State.trap` of a core that can trap (`runInstr_traps`, `trap_trapped`). -/
theorem coreTrapsPrecisely : Obligations.CoreTrapsPrecisely := by
  refine fun c f s s' ht => ⟨fun op hop hi => ?opcode, fun hi => ⟨fun hfn => ?amo, fun hfn => ?integer, fun hfn => ?product⟩,
    fun hi hfn hal => ?target, fun hi hfn hra hno => ?register, fun hi hrd hra hrb himm hmem => ?bar, fun hi hra hrb hm => ?mode,
    fun hi hrd hrb himm hx => ?seed, fun hi hrb himm hx => ?format⟩
  case opcode =>
    have hne : op ≠ 1#7 := by
      rintro rfl
      cases hop
    obtain ⟨slot, hs⟩ := reservedOp_traps (f := f) hi ht
    exact ⟨_, slot, congrArg Host.Outcome.next (if_pos hne), hs⟩
  case amo =>
    have hne : fld f 22 10 ≠ 0 := by omega
    have hx : s.amo (.core c) 0 f = s'.finish (coreKey c) 4 true false (illegal32 0x07 f) := by
      simp only [State.amo, unitKey, issue_eq hi, isCore_coreKey c, bne_iff_ne.mpr hne, Bool.or_true, if_true]
    exact ⟨_, congrArg Host.Outcome.next hx, trap_trapped _ _ _ _ _ _ ht⟩
  case integer =>
    refine ⟨_, congrArg Host.Outcome.next (if_neg (not_not_intro rfl)), runInstr_traps hi _ ?_ ht⟩
    simp only [aluRR_reserved _ _ hfn]
    rfl
  case product =>
    refine ⟨_, rfl, runInstr_traps hi _ ?_ ht⟩
    simp only [mulDiv_reserved _ _ hfn]
    rfl
  case target => exact ⟨_, rfl, runInstr_traps hi _ ((if_neg (not_not_intro hfn)).trans (if_pos hal)) ht⟩
  case register => exact ⟨_, cread_traps hi hfn hra hno, trap_trapped _ _ _ _ _ _ ht⟩
  case bar => exact ⟨_, bar_traps hi hrd hra hrb himm hmem, trap_trapped _ _ _ _ _ _ ht⟩
  case mode =>
    obtain ⟨hspring, hsluice, -⟩ := profiles_of_isCore (isCore_coreKey c)
    exact ⟨_, rfl, runInstr_traps hi _ (by simp [unitKey, hspring, hsluice, hra, hrb, hm]) ht⟩
  case seed =>
    rw [State.ra] at hx
    exact ⟨_, rfl, runInstr_traps hi _ ((if_neg (by simp [hrd, hrb, himm])).trans (if_pos hx)) ht⟩
  case format =>
    rw [State.ra] at hx
    exact ⟨_, rfl, runInstr_traps hi _ ((if_neg (by simp [unitKey, isCore_coreKey c, hrb, himm])).trans (if_pos hx)) ht⟩
end

section
/-! Control registers of a core (O10). -/

namespace Sys2Proof.Machine
open Sys2Proof

variable {c : CoreId} {f : BitVec 25} {s s' : State}

/-- What is retired after a write of the unit's own registers is retired from the state before it. -/
theorem Retired.of_setProc {t : State} {k : Nat} {q p : Proc} {pc : Word} (h : Retired (s.setProc k q) t k p pc) :
    Retired s t k p pc := by
  obtain ⟨hregs, hothers, ⟨ps, cs, tr, m, hrest⟩, hcounts, hmem⟩ := h
  exact ⟨hregs, fun j hj => (hothers j hj).trans (s.setProc_proc_other k q j hj), ⟨ps, cs, tr, m, hrest⟩, hcounts, hmem⟩

theorem cread_retires {x : Nat} (hi : Issues s s' (coreKey c) [.s (rdOf f)] 4) (hfn : fld f 17 3 = 0) (hra : raOf f = 0)
    (hx : s'.coreReg (coreKey c) (fld f 20 12) = some x) :
    exec (.cread (.core c) f) s =
      .next (s'.retire (coreKey c) ((s'.proc (coreKey c)).setS (rdOf f) (BitVec.ofNat 64 x)) 4 true 1) := by
  change execCread (.core c) f s = _
  simp only [execCread, unitKey, issue_eq hi, hfn, hra, ctlReg_core, hx, State.ctlReadClear, isCore_coreKey c, Bool.or_true,
    bne_self_eq_false, Bool.or_self, Bool.false_eq_true, if_false, if_true]

theorem cwrite_retires {q : Proc} (hi : Issues s s' (coreKey c) [.s (raOf f)] 4) (hfn : fld f 17 3 = 0) (hrd : rdOf f = 0)
    (hq : s'.coreWrite (coreKey c) (fld f 20 12) (s'.ra (coreKey c) f) = some (s'.setProc (coreKey c) q)) :
    exec (.cwrite (.core c) f) s = .next ((s'.setProc (coreKey c) q).retire (coreKey c) q 4 false 1) := by
  change execCwrite (.core c) f s = _
  rw [State.ra] at hq
  simp only [execCwrite, unitKey, issue_eq hi, hfn, hrd, State.ctlWrite, isCore_coreKey c, hq, State.setProc_proc_same,
    bne_self_eq_false, Bool.or_self, Bool.false_eq_true, if_false, if_true]

end Sys2Proof.Machine

open Sys2Proof Sys2Proof.Machine

/-- Settles O10: a read and a write retire (`cread_retires`, `cwrite_retires`), and `coreWrite` of each register named is that
register's write. -/
theorem controlRegistersReadAndWritten : Obligations.ControlRegistersReadAndWritten := by
  rintro c f s s' p v rfl rfl hfn
  refine ⟨fun hi hra x hx => ⟨_, cread_retires hi hfn hra hx, retire_retired ..⟩, fun hi hrd q hq => ?_⟩
  have hw : s'.coreWrite (coreKey c) (fld f 20 12) (s'.ra (coreKey c) f) = some (s'.setProc (coreKey c) q) ∧
      q.pc = (s'.proc (coreKey c)).pc := by
    rcases hq with ⟨hn, rfl⟩ | ⟨hn, rfl⟩ | ⟨hn, rfl⟩ | ⟨hn, hv, rfl⟩ | ⟨hn, rfl⟩ | ⟨hn, rfl⟩ <;> rw [hn]
    case inr.inr.inr.inl => exact ⟨if_neg (by omega), rfl⟩
    all_goals exact ⟨rfl, rfl⟩
  obtain ⟨hw, hpc⟩ := hw
  have hr := (retire_retired (s'.setProc (coreKey c) q) (coreKey c) q 4 false 1).of_setProc
  rw [State.setProc_proc_same, hpc] at hr
  exact ⟨_, cwrite_retires hi hfn hrd hw, hr⟩
end

section
/-! Local scalar accesses (O7, O9). In a pond without errors, or in the unit's own scratch, a read is of the bytes at the access's key
and a write is `memWrite` there. -/

namespace Sys2Proof.Machine
open Sys2Proof

/-! ## Bytes and numbers -/

theorem leNat_lt (bs : List Byte) : leNat bs < 256 ^ bs.length := by
  induction bs with
  | nil => exact Nat.one_pos
  | cons b r ih =>
    have hb := b.isLt
    rw [leNat, List.length_cons, Nat.pow_succ]
    omega

theorem getD_leBytes {n i : Nat} (v : Nat) (hi : i < n) : (leBytes n v).getD i 0 = BitVec.ofNat 8 (v / 256 ^ i) := by
  induction n generalizing v i with
  | zero => omega
  | succ n ih =>
    cases i with
    | zero => simp [leBytes]
    | succ i => rw [leBytes, List.getD_cons_succ, ih _ (by omega), Nat.div_div_eq_div_mul, Nat.pow_succ']

/-- The bytes of a number after they are written. -/
theorem memByte_write_leBytes {m : List Host.Cell} {k n i : Nat} (v : Nat) (hi : i < n) :
    memByte (memWrite m k (leBytes n v)) (k + i) = BitVec.ofNat 8 (v / 256 ^ i) := by
  rw [memByte_write, leBytes_length, if_pos (by omega), Nat.add_sub_cancel_left, getD_leBytes v hi]

/-! ## Access without the mesh -/

theorem place_of_localTo {k : Nat} {a : Word} (h : localTo k a = true) :
    (∃ st cl off, place a = .pond st cl off) ∨ (∃ off, place a = .scratchE off) ∨ ∃ off, place a = .scratchD off := by
  unfold localTo at h
  split at h
  · exact .inl ⟨_, _, _, ‹_›⟩
  · exact .inr (.inl ⟨_, ‹_›⟩)
  · exact .inr (.inr ⟨_, ‹_›⟩)
  · cases h

variable {s s' t : State} {k : Nat} {a : Word}

theorem localRead_near (hp : s.pondMark = []) (h : localTo k a = true) (n : Nat) :
    s.localRead k a n = (s, s.bytesAt (keyFor k a) n, none) := by
  rcases place_of_localTo h with ⟨st, cl, off, ha⟩ | ⟨off, ha⟩ | ⟨off, ha⟩ <;> simp [State.localRead, State.eccRead, ha, hp]

theorem localWrite_near (hp : s.pondMark = []) (h : localTo k a = true) (bs : List Byte) :
    s.localWrite k a bs = setMem s (memWrite s.mem (keyFor k a) bs) := by
  rcases place_of_localTo h with ⟨st, cl, off, ha⟩ | ⟨off, ha⟩ | ⟨off, ha⟩ <;>
    simp [State.localWrite, State.localWriteMask, State.eccWrite, keyFor, ha, hp, memWriteMask_present]

/-- An instruction of a unit that is not traced, retired with memory set to `m`. -/
theorem Retired.of_setMem {p : Proc} {pc : Word} {m : List Host.Cell} (h : Retired (setMem s m) t k p pc) (ht : s.traced k = false) :
    t.mem = m ∧ t.proc k = { p with pc := pc } :=
  ⟨(h.mem ht).2, h.regs⟩

theorem toNat_ofNat_leNat {bs : List Byte} (h : bs.length ≤ 8) : (BitVec.ofNat 64 (leNat bs)).toNat = leNat bs := by
  rw [BitVec.toNat_ofNat, Nat.mod_eq_of_lt ((leNat_lt bs).trans_le (Nat.pow_le_pow_right (by norm_num) h))]

theorem ldSize_le (fn3 : Nat) : ldSize fn3 ≤ 8 := by
  unfold ldSize
  split <;> omega

/-! ## Scalar loads -/

/-- The value of a load that does not convert, which raises no flag. -/
theorem ldValue_result {fn3 : Nat} {bs : List Byte} (hlen : bs.length ≤ 8) (h : fn3 ≠ 7) :
    LoadResult fn3 (leNat bs) (ldValue fn3 bs).1 ∧ (ldValue fn3 bs).2 = 0 := by
  have hplain := toNat_ofNat_leNat hlen
  match fn3 with
  | 0 => exact ⟨BitVec.toInt_signExtend_of_le (by norm_num), rfl⟩
  | 1 => exact ⟨BitVec.toInt_signExtend_of_le (by norm_num), rfl⟩
  | 2 => exact ⟨BitVec.toInt_signExtend_of_le (by norm_num), rfl⟩
  | 3 => exact ⟨hplain, rfl⟩
  | 4 => exact ⟨hplain, rfl⟩
  | 5 => exact ⟨hplain, rfl⟩
  | 6 => exact ⟨hplain, rfl⟩
  | 7 => exact absurd rfl h
  | n + 8 => exact ⟨hplain, rfl⟩

theorem raise_zero (p : Proc) : p.raise 0 = p := by simp [Proc.raise]

variable {u : UnitId} {f : BitVec 25}

theorem scalarLoad_loads (hi : Issues s s' (unitKey u) [.s (rdOf f), .s (raOf f)] 4)
    (ha : a = s'.ra (unitKey u) f + sxt 12 (fld f 20 12))
    (h : LocalAccess s' (unitKey u) a (ldSize (fld f 17 3)) (ldSize (fld f 17 3)) false) :
    exec (.scalarLoad u f) s = .next (s'.retire (unitKey u)
      ((s'.proc (unitKey u)).loaded (rdOf f) (fld f 17 3) (s'.bytesAt (keyFor (unitKey u) a) (ldSize (fld f 17 3)))) 4 true 1) := by
  subst ha
  change execScalarLoad u f s = _
  have hread := localRead_near h.clean h.near (ldSize (fld f 17 3))
  have hnear := h.near
  have hgranted := h.granted
  have hready := h.ready
  simp only [State.ra] at hread hnear hgranted hready ⊢
  simp only [execScalarLoad, issue_eq hi, hgranted, hready, hnear, hread, Bool.false_eq_true, if_false, if_true]

/-! ## Scalar stores -/

theorem scalarStore_stores {bs : List Byte} {p : Proc} (hi : Issues s s' (unitKey u) [.s (rdOf f), .s (raOf f)] 4)
    (ha : a = s'.ra (unitKey u) f + sxt 12 (fld f 20 12)) (hfn : ¬ (4 ≤ fld f 17 3 ∧ fld f 17 3 ≤ 6))
    (h : LocalAccess s' (unitKey u) a (ldSize (fld f 17 3)) (ldSize (fld f 17 3)) true)
    (hb : storeBytes (unitKey u) (s'.proc (unitKey u)) (fld f 17 3) (s'.rd (unitKey u) f) = (bs, p)) :
    exec (.scalarStore u f) s = .next ((setMem s' (memWrite s'.mem (keyFor (unitKey u) a) bs)).retire (unitKey u) p 4 true 1) := by
  subst ha
  change execScalarStore u f s = _
  have hwrite := localWrite_near h.clean h.near bs
  have hnear := h.near
  have hgranted := h.granted
  have hready := h.ready
  simp only [State.ra, State.rd] at hwrite hnear hgranted hready hb ⊢
  simp only [execScalarStore, issue_eq hi, hfn, hgranted, hready, hb, hnear, hwrite, Bool.false_eq_true, if_false, if_true]

/-- What a store of the low `n` bytes of `v` leaves. -/
theorem Retired.stored {p : Proc} {pc : Word} {key n v : Nat} (h : Retired (setMem s (memWrite s.mem key (leBytes n v))) t k p pc)
    (ht : s.traced k = false) : (∀ i < n, memByte t.mem (key + i) = BitVec.ofNat 8 (v / 256 ^ i)) ∧ s.SameMemOutside t key n ∧
      t.proc k = { p with pc := pc } := by
  obtain ⟨hmem, hproc⟩ := h.of_setMem ht
  rw [State.SameMemOutside, hmem]
  exact ⟨fun i hi => memByte_write_leBytes v hi, fun b hb => memByte_write_outside _ _ _ _ (by rwa [leBytes_length]), hproc⟩

/-! ## Atomic operations -/

/-- The word that an atomic operation leaves. -/
def amoValue (fn : Nat) (old b e : Word) : Word := (amoNew fn old b e).getD old

theorem amoValue_cas (old b e : Word) : amoValue 2 old b e = if old = e then b else old := by
  simp only [amoValue, amoNew]
  split <;> rfl

theorem amoAt_updates {fn : Nat} {b e old : Word} (hp : s.pondMark = []) (hpond : ∃ st cl off, place a = .pond st cl off)
    (hold : old = BitVec.ofNat 64 (leNat (s.bytesAt a.toNat 8))) (requestor : Nat) :
    ∃ m, s.amoAt fn a b e requestor = (setMem s m, old, false) ∧ leNat (memRead m a.toNat 8) = (amoValue fn old b e).toNat ∧
      s.SameMemOutside (setMem s m) a.toNat 8 := by
  obtain ⟨st, cl, off, hplace⟩ := hpond
  have hread : s.eccRead a 8 requestor = (s, none) := by simp [State.eccRead, hplace, hp]
  have hold' : BitVec.ofNat 64 (s.natAt a.toNat 8) = old := hold.symm
  simp only [State.amoAt, hread, hold', amoValue]
  rcases amoNew fn old b e with _ | x
  · refine ⟨s.mem, rfl, ?_, fun _ _ => rfl⟩
    rw [Option.getD_none, hold, State.bytesAt, toNat_ofNat_leNat (memRead_length ..).le]
  · refine ⟨memWrite s.mem a.toNat (leBytes 8 x.toNat), ?_, ?_, fun b hb => memByte_write_outside _ _ _ _ (by rwa [leBytes_length])⟩
    · simp [State.eccWrite, hplace, hp, memWriteMask_present]
    · have hw := memRead_write s.mem a.toNat (leBytes 8 x.toNat)
      rw [leBytes_length] at hw
      rw [hw, leNat_leBytes, Option.getD_some]
      exact Nat.mod_eq_of_lt x.isLt

/-- An atomic operation on a word of the own pond: rd takes the old value, the word the new one, and no other byte changes. -/
theorem amo_updates {c : CoreId} {fn : Nat} {old : Word} (hi : Issues s s' (coreKey c) (regs3 f) 4) (hfn : fld f 22 10 = fn)
    (ha : a = s'.ra (coreKey c) f) (h : LocalAccess s' (coreKey c) a 8 8 true) (hpond : ∃ st cl off, place a = .pond st cl off)
    (hold : old = BitVec.ofNat 64 (leNat (s'.bytesAt a.toNat 8))) (ht : s'.traced (coreKey c) = false) :
    leNat ((s.amo (.core c) fn f).bytesAt a.toNat 8) = (amoValue fn old (s'.rb (coreKey c) f) (s'.rd (coreKey c) f)).toNat ∧
      s'.SameMemOutside (s.amo (.core c) fn f) a.toNat 8 ∧
      (s.amo (.core c) fn f).proc (coreKey c) =
        { (s'.proc (coreKey c)).setS (rdOf f) old with pc := (s'.proc (coreKey c)).pc + 4 } := by
  obtain ⟨m, hm, hval, hout⟩ := amoAt_updates (fn := fn) (b := s'.rb (coreKey c) f) (e := s'.rd (coreKey c) f) h.clean hpond hold
    (uidUnit (coreKey c))
  have hfault : s'.amoFault (coreKey c) a = none := by
    obtain ⟨st, cl, off, hplace⟩ := hpond
    simp only [State.amoFault, hplace, h.granted]
  have hx : s.amo (.core c) fn f =
      (setMem s' m).retire (coreKey c) ((s'.proc (coreKey c)).setS (rdOf f) old) 4 true 1 := by
    have hready := h.ready
    have hnear := h.near
    subst ha
    simp only [State.ra, State.rb, State.rd] at hm hfault hready hnear
    simp only [State.amo, unitKey, issue_eq hi, isCore_coreKey c, hfn, hfault, hready, hnear, hm, bne_self_eq_false, Bool.not_true,
      Bool.or_self, Bool.false_eq_true, if_false, if_true]
    rfl
  rw [hx]
  obtain ⟨hmem, hproc⟩ := (retire_retired (setMem s' m) (coreKey c) ((s'.proc (coreKey c)).setS (rdOf f) old) 4 true 1).of_setMem ht
  rw [State.SameMemOutside, State.bytesAt, hmem]
  exact ⟨hval, hout, hproc⟩

end Sys2Proof.Machine

open Sys2Proof Sys2Proof.Machine

/-- Settles O7: a local load retires with `Proc.loaded` of the bytes at its key (`scalarLoad_loads`), a local store with its bytes
written there (`scalarStore_stores`, `Retired.stored`). -/
theorem scalarLoadsAndStoresLocal : Obligations.ScalarLoadsAndStoresLocal := by
  intro u f s s' a hi ha
  refine ⟨fun h => ⟨fun hfn => ?plain, fun hfn => ?converting⟩, fun h hfn ht => ?store, fun h hfn ht ds p1 g hd hg => ?convert⟩
  case plain =>
    have hlen : (s'.bytesAt (keyFor (unitKey u) a) (ldSize (fld f 17 3))).length ≤ 8 := by
      rw [State.bytesAt, memRead_length]
      exact ldSize_le _
    obtain ⟨hv, hfl⟩ := ldValue_result hlen hfn
    have hr := retire_retired s' (unitKey u)
      ((s'.proc (unitKey u)).loaded (rdOf f) (fld f 17 3) (s'.bytesAt (keyFor (unitKey u) a) (ldSize (fld f 17 3)))) 4 true 1
    rw [Proc.loaded, hfl, raise_zero] at hr
    refine ⟨_, _, hv, scalarLoad_loads hi ha h, ?_⟩
    rw [Proc.loaded, hfl, raise_zero]
    exact hr
  case converting =>
    have hx := scalarLoad_loads hi ha h
    rw [hfn] at hx
    exact ⟨_, hx, retire_retired ..⟩
  case store =>
    have hb : storeBytes (unitKey u) (s'.proc (unitKey u)) (fld f 17 3) (s'.rd (unitKey u) f) =
        (leBytes (ldSize (fld f 17 3)) (s'.rd (unitKey u) f).toNat, s'.proc (unitKey u)) := if_neg (by omega)
    exact ⟨_, scalarStore_stores hi ha (by omega) h hb, (retire_retired ..).stored ht⟩
  case convert =>
    have hb : storeBytes (unitKey u) (s'.proc (unitKey u)) (fld f 17 3) (s'.rd (unitKey u) f) = (leBytes 2 g.bits, p1.raise g.fl) := by
      simp only [storeBytes, hfn, if_true, hd, hg]
    have h2 : ldSize (fld f 17 3) = 2 := by rw [hfn]; rfl
    obtain ⟨hbytes, hout, hproc⟩ := (retire_retired (setMem s' (memWrite s'.mem (keyFor (unitKey u) a) (leBytes 2 g.bits))) (unitKey u)
      (p1.raise g.fl) 4 true 1).stored ht
    exact ⟨_, scalarStore_stores hi ha (by omega) (by rwa [h2]) hb, hout, hbytes, hproc⟩

/-- Settles O9: the three operations are one lemma, `amo_updates`, and differ in the value of `amoNew`. -/
theorem atomicsUpdateWordAndReturnOld : Obligations.AtomicsUpdateWordAndReturnOld := by
  rintro c f s s' a old b e hi ht ha rfl rfl h hpond hold
  refine ⟨fun hfn => ⟨_, rfl, amo_updates hi hfn ha h hpond hold ht⟩, fun hfn => ⟨_, rfl, amo_updates hi hfn ha h hpond hold ht⟩,
    fun hfn => ⟨_, rfl, ?_⟩⟩
  obtain ⟨hval, hrest⟩ := amo_updates hi hfn ha h hpond hold ht
  exact ⟨hval.trans (congrArg _ (amoValue_cas ..)), hrest⟩
end

section
/-! Floating-point results fit their format (O12): every operation gives an encoding of the format's width, so that an element takes it
whole. -/

namespace Sys2Proof.Machine
open Sys2Proof

namespace Fmt

theorem width_pow (F : Fmt) : 2 ^ F.width = 2 * F.signBit := by
  rw [width, signBit, Nat.add_assoc, Nat.pow_add, Nat.pow_one]

theorem inf_lt (F : Fmt) : F.inf < F.signBit := by
  rw [inf, signBit, Nat.pow_add]
  exact Nat.mul_lt_mul_of_pos_right (Nat.sub_lt (Nat.two_pow_pos _) Nat.one_pos) (Nat.two_pow_pos _)

theorem fb_pos (c : Nat) : 0 < (Fmt.of c).fb := by
  unfold Fmt.of
  split <;> decide

theorem quietBit_lt {F : Fmt} (h : 0 < F.fb) : 2 ^ (F.fb - 1) < 2 ^ F.fb := Nat.pow_lt_pow_right (by norm_num) (by omega)

theorem qnan_lt {F : Fmt} (h : 0 < F.fb) : F.qnan < F.signBit := by
  have hinf : F.inf + 2 ^ F.fb = F.signBit := by
    rw [inf, signBit, Nat.pow_add, ← Nat.succ_mul, Nat.succ_eq_add_one, Nat.sub_add_cancel Nat.one_le_two_pow]
  have := quietBit_lt h
  rw [qnan]
  omega

/-- `x` is an encoding of the format. -/
def Fits (F : Fmt) (x : Nat) : Prop := x < 2 * F.signBit

theorem fits_signed {F : Fmt} {x : Nat} (c : Prop) [Decidable c] (h : x < F.signBit) : F.Fits ((if c then F.signBit else 0) + x) := by
  unfold Fits
  split <;> omega

theorem fits_zero {F : Fmt} (c : Prop) [Decidable c] : F.Fits (if c then F.signBit else 0) := fits_signed c (Nat.two_pow_pos _)

theorem fits_of_lt {F : Fmt} {x : Nat} (h : x < F.signBit) : F.Fits x := by
  unfold Fits
  omega

end Fmt

variable {F : Fmt} {x y z : Nat}

theorem fits_of_ite {c : Prop} [Decidable c] {r q : FRes} (hr : F.Fits r.bits) (hq : F.Fits q.bits) : F.Fits (if c then r else q).bits := by
  split <;> assumption

/-! ## Rounding -/

theorem roundNZ_fits (F : Fmt) (mode : Nat) (sign : Bool) (mant : Nat) (exp : Int) (sticky : Bool) (r : Nat) :
    F.Fits (roundNZ F mode sign mant exp sticky r).bits := by
  have hinf := F.inf_lt
  unfold roundNZ
  extract_lets
  split
  extract_lets
  split
  extract_lets
  split
  · exact Fmt.fits_signed _ (by split <;> omega)
  · refine Fmt.fits_signed _ ?_
    omega

theorem roundTo_fits (F : Fmt) (mode : Nat) (sign : Bool) (mant : Nat) (exp : Int) (sticky : Bool) (r : Nat) :
    F.Fits (roundTo F mode sign mant exp sticky r).bits := fits_of_ite (Fmt.fits_zero _) (roundNZ_fits ..)

theorem sumRes_fits (F : Fmt) (mode : Nat) (a ea : Int) (sa : Bool) (b eb : Int) (sb : Bool) (r : Nat) :
    F.Fits (sumRes F mode a ea sa b eb sb r).bits := by
  unfold sumRes
  extract_lets
  refine fits_of_ite ?_ (roundNZ_fits ..)
  dsimp only
  split
  · exact Fmt.fits_zero _
  · exact Fmt.fits_zero _

/-! ## Data that are not rounded -/

theorem quiet_fits (hF : 0 < F.fb) (hx : F.Fits x) : F.Fits (quiet F x) := by
  unfold Fmt.Fits at hx ⊢
  rw [← Fmt.width_pow] at hx ⊢
  refine Nat.or_lt_two_pow hx (Nat.pow_lt_pow_right (by norm_num) ?_)
  rw [Fmt.width]
  omega

theorem nanRes_fits (hF : 0 < F.fb) {xs : List Nat} (h : ∀ x ∈ xs, F.Fits x) : F.Fits (nanRes F xs).bits := by
  unfold nanRes
  extract_lets
  split
  · next x hx => exact quiet_fits hF (h x (List.mem_of_find?_eq_some hx))
  · exact Fmt.fits_of_lt (Fmt.qnan_lt hF)

theorem fpNeg_fits (hx : F.Fits x) : F.Fits (fpNeg F x) := by
  unfold Fmt.Fits at hx ⊢
  unfold fpNeg
  have hpos : 0 < F.signBit := Nat.two_pow_pos _
  split
  · omega
  · next h =>
    have hdiv : x / F.signBit < 2 := Nat.div_lt_of_lt_mul (by rwa [Nat.mul_comm])
    have heven : ∀ q < 2, ¬ q % 2 = 1 → q = 0 := by decide
    have hlow : x < F.signBit := (Nat.div_eq_zero_iff_lt hpos).mp (heven _ hdiv h)
    omega

/-! ## Operations -/

section
variable (hF : 0 < F.fb) (hx : F.Fits x) (hy : F.Fits y) (hz : F.Fits z)
include hF hx hy

theorem fpAdd_fits (mode r : Nat) : F.Fits (fpAdd F mode x y r).bits := by
  unfold fpAdd
  extract_lets
  refine fits_of_ite (nanRes_fits hF (by simp [hx, hy])) (fits_of_ite (fits_of_ite (Fmt.fits_of_lt (Fmt.qnan_lt hF)) hx)
    (fits_of_ite hy (fits_of_ite (sumRes_fits ..) (fits_of_ite (roundTo_fits ..) (fits_of_ite (roundTo_fits ..) (sumRes_fits ..))))))

theorem fpSub_fits (mode r : Nat) : F.Fits (fpSub F mode x y r).bits :=
  fits_of_ite (nanRes_fits hF (by simp [hx, hy])) (fpAdd_fits hF hx (fpNeg_fits hy) mode r)

theorem fpMul_fits (mode r : Nat) : F.Fits (fpMul F mode x y r).bits := by
  unfold fpMul
  extract_lets
  exact fits_of_ite (nanRes_fits hF (by simp [hx, hy])) (fits_of_ite (fits_of_ite (Fmt.fits_of_lt (Fmt.qnan_lt hF))
    (Fmt.fits_signed _ F.inf_lt)) (roundTo_fits ..))

theorem fpDiv_fits (mode r : Nat) : F.Fits (fpDiv F mode x y r).bits := by
  unfold fpDiv
  extract_lets
  have hnan : F.Fits F.qnan := Fmt.fits_of_lt (Fmt.qnan_lt hF)
  exact fits_of_ite (nanRes_fits hF (by simp [hx, hy])) (fits_of_ite (fits_of_ite hnan (Fmt.fits_signed _ F.inf_lt))
    (fits_of_ite (Fmt.fits_zero _) (fits_of_ite (fits_of_ite hnan (Fmt.fits_signed _ F.inf_lt)) (roundTo_fits ..))))

theorem fpMinMax_fits (mx num : Bool) : F.Fits (fpMinMax F mx num x y).bits := by
  unfold fpMinMax
  extract_lets
  refine fits_of_ite hy (fits_of_ite hx (fits_of_ite (nanRes_fits hF (by simp [hx, hy])) ?_))
  dsimp only
  split <;> assumption

include hz in
theorem fpFma_fits (mode : Nat) (np na : Bool) (r : Nat) : F.Fits (fpFma F mode np na x y z r).bits := by
  unfold fpFma
  extract_lets
  have hnan : F.Fits F.qnan := Fmt.fits_of_lt (Fmt.qnan_lt hF)
  exact fits_of_ite (nanRes_fits hF (by simp [hx, hy, hz])) (fits_of_ite hnan (fits_of_ite (fits_of_ite hnan (Fmt.fits_signed _ F.inf_lt))
    (fits_of_ite (Fmt.fits_signed _ F.inf_lt) (fits_of_ite (sumRes_fits ..) (fits_of_ite (roundTo_fits ..)
      (fits_of_ite (roundTo_fits ..) (sumRes_fits ..)))))))

omit hy in
theorem fpSqrt_fits (mode r : Nat) : F.Fits (fpSqrt F mode x r).bits := by
  unfold fpSqrt
  extract_lets
  exact fits_of_ite (nanRes_fits hF (by simp [hx])) (fits_of_ite hx (fits_of_ite (Fmt.fits_of_lt (Fmt.qnan_lt hF))
    (fits_of_ite hx (roundTo_fits ..))))

end

end Sys2Proof.Machine
end

section
/-! Elements of a vector register (O12 to O14): what a register formed of elements holds, how predication merges, and the flags of the
active elements. -/

namespace Sys2Proof.Machine
open Sys2Proof

/-! ## Elements -/

theorem elemOf_lt (w : Nat) (v : VReg) (i : Nat) : elemOf w v i < 2 ^ w := Nat.mod_lt _ (Nat.two_pow_pos w)

theorem elemAt_map_range {n i : Nat} (h : i < n) (g : Nat → Nat) : elemAt ((List.range n).map g) i = g i := getD_map_range h g 0

theorem elemAt_elems {w i : Nat} (v : VReg) (h : i < 512 / w) : elemAt (elems w v) i = elemOf w v i := elemAt_map_range h _

theorem packElems_lt (w : Nat) (xs : List Nat) : packElems w xs < 2 ^ (w * xs.length) := by
  induction xs with
  | nil => exact Nat.two_pow_pos _
  | cons x r ih =>
    have hx : x % 2 ^ w < 2 ^ w := Nat.mod_lt _ (Nat.two_pow_pos w)
    have hr := Nat.mul_le_mul_left (2 ^ w) (Nat.succ_le_of_lt ih)
    change x % 2 ^ w + 2 ^ w * packElems w r < _
    rw [List.length_cons, Nat.mul_succ, Nat.add_comm (w * r.length), Nat.pow_add]
    rw [Nat.mul_succ] at hr
    omega

theorem packElems_lt_of_le {w n : Nat} {xs : List Nat} (h : w * xs.length ≤ n) : packElems w xs < 2 ^ n :=
  (packElems_lt w xs).trans_le (Nat.pow_le_pow_right Nat.two_pos h)

theorem packElems_elem (w : Nat) (xs : List Nat) (i : Nat) : packElems w xs / 2 ^ (w * i) % 2 ^ w = elemAt xs i % 2 ^ w := by
  induction xs generalizing i with
  | nil => simp [packElems, elemAt]
  | cons x r ih =>
    change (x % 2 ^ w + 2 ^ w * packElems w r) / 2 ^ (w * i) % 2 ^ w = _
    cases i with
    | zero => simp [elemAt]
    | succ i =>
      rw [Nat.mul_succ, Nat.add_comm (w * i), Nat.pow_add, ← Nat.div_div_eq_div_mul, Nat.add_mul_div_left _ _ (Nat.two_pow_pos w),
        Nat.div_eq_of_lt (Nat.mod_lt _ (Nat.two_pow_pos w)), Nat.zero_add, ih]
      rfl

theorem elemOf_ofElems {w : Nat} {xs : List Nat} (h : xs.length ≤ 512 / w) (i : Nat) :
    elemOf w (ofElems w xs) i = elemAt xs i % 2 ^ w := by
  have hfit := packElems_lt_of_le ((Nat.mul_le_mul_left w h).trans (Nat.mul_div_le 512 w))
  simp only [elemOf, ofElems, BitVec.toNat_ofNat, Nat.mod_eq_of_lt hfit, packElems_elem]

/-- A register formed element by element. -/
theorem elemOf_ofElems_range {w i : Nat} (g : Nat → Nat) (h : i < 512 / w) :
    elemOf w (ofElems w ((List.range (512 / w)).map g)) i = g i % 2 ^ w := by
  rw [elemOf_ofElems (by simp), elemAt_map_range h]

theorem merged_mergeElems {w : Nat} (pg : Word) (mz : Bool) (old : VReg) {g : Nat → Nat} (hg : ∀ i, g i < 2 ^ w) :
    Merged w pg mz old (ofElems w (mergeElems pg mz (elems w old) ((List.range (512 / w)).map g))) g := by
  intro i hi
  rw [mergeElems, List.length_map, List.length_range, elemOf_ofElems_range _ hi, elemAt_map_range hi, elemAt_elems old hi, active]
  refine Nat.mod_eq_of_lt ?_
  split
  · exact hg i
  · split
    · exact Nat.two_pow_pos w
    · exact elemOf_lt w old i

/-! ## Flags -/

theorem getLsbD_foldl_or (n : Nat) (c : Nat → Bool) (fl : Nat → Flg) (b : Nat) :
    ((List.range n).foldl (fun a i => if c i then a ||| fl i else a) (0 : Flg)).getLsbD b = true ↔
      ∃ i, i < n ∧ c i = true ∧ (fl i).getLsbD b = true := by
  induction n with
  | zero => simp
  | succ n ih =>
    rw [List.range_succ, List.foldl_append, List.foldl_cons, List.foldl_nil]
    simp only [Nat.lt_succ_iff_lt_or_eq, or_and_right, exists_or, exists_eq_left]
    split
    · next h => rw [BitVec.getLsbD_or, Bool.or_eq_true, ih, and_iff_right h]
    · next h => rw [ih, iff_self_or]; exact fun hn => absurd hn.1 h

theorem flagsOfActive_activeFlags (n : Nat) (pg : Word) (g : Nat → FRes) :
    FlagsOfActive n pg g (activeFlags pg ((List.range n).map g)) := by
  intro b
  rw [activeFlags, List.length_map, List.length_range, getLsbD_foldl_or]
  refine exists_congr fun i => and_congr_right fun hi => ?_
  rw [getD_map_range hi, active]

/-! ## Element by element -/

theorem mapM_eq_some {α β : Type} {l : List α} {h : α → Option β} {g : α → β} (hg : ∀ a ∈ l, h a = some (g a)) :
    l.mapM h = some (l.map g) := by
  induction l with
  | nil => rfl
  | cons a r ih =>
    obtain ⟨ha, hr⟩ := List.forall_mem_cons.mp hg
    simp [List.mapM_cons, ha, ih hr]

end Sys2Proof.Machine
end

section
/-! Vector floating point, integer lanes and moves (O12). -/

namespace Sys2Proof.Machine
open Sys2Proof

/-- An element is an encoding of its format. -/
theorem elemOf_fits (c : Nat) (v : VReg) (i : Nat) : (Fmt.of c).Fits (elemOf (fmtWidth c) v i) :=
  (elemOf_lt _ v i).trans_eq (Fmt.width_pow _)

theorem lt_of_fits {c x : Nat} (h : (Fmt.of c).Fits x) : x < 2 ^ fmtWidth c := h.trans_eq (Fmt.width_pow _).symm

/-- Every operation of Table 6.5 has a result on an element, an encoding of the format. -/
theorem vfElem_result {op rm fm m x y z : Nat} (r : Nat) (hop : op < 11) (hmm : op = 5 ∨ op = 6 → rm ≤ 1) (hsg : op = 10 → rm ≤ 2)
    (hx : (Fmt.of fm).Fits x) (hy : (Fmt.of fm).Fits y) (hz : (Fmt.of fm).Fits z) :
    ∃ g, vfElem op rm fm (some m) x y z r = some g ∧ VfResult op rm (Fmt.of fm) m x y z r g ∧ (Fmt.of fm).Fits g.bits := by
  have hF := Fmt.fb_pos fm
  match op with
  | 0 => exact ⟨_, rfl, rfl, fpAdd_fits hF hx hy m r⟩
  | 1 => exact ⟨_, rfl, rfl, fpSub_fits hF hx hy m r⟩
  | 2 => exact ⟨_, rfl, rfl, fpMul_fits hF hx hy m r⟩
  | 3 => exact ⟨_, rfl, rfl, fpDiv_fits hF hx hy m r⟩
  | 4 => exact ⟨_, rfl, rfl, fpSqrt_fits hF hx m r⟩
  | 5 => exact ⟨_, if_pos (hmm (.inl rfl)), ⟨hmm (.inl rfl), rfl⟩, fpMinMax_fits hF hx hy _ _⟩
  | 6 => exact ⟨_, if_pos (hmm (.inr rfl)), ⟨hmm (.inr rfl), rfl⟩, fpMinMax_fits hF hx hy _ _⟩
  | 7 => exact ⟨_, rfl, rfl, fpFma_fits hF hx hy hz m _ _ r⟩
  | 8 => exact ⟨_, rfl, rfl, fpFma_fits hF hx hy hz m _ _ r⟩
  | 9 => exact ⟨_, rfl, rfl, fpFma_fits hF hx hy hz m _ _ r⟩
  | 10 =>
    have hlow : x % (Fmt.of fm).signBit < (Fmt.of fm).signBit := Nat.mod_lt _ (Nat.two_pow_pos _)
    match rm, hsg rfl with
    | 0, _ => exact ⟨_, rfl, ⟨rfl, .inl ⟨rfl, rfl⟩⟩, Fmt.fits_of_lt hlow⟩
    | 1, _ => exact ⟨_, rfl, ⟨rfl, .inr (.inl ⟨rfl, rfl⟩)⟩, fpNeg_fits hx⟩
    | 2, _ =>
      refine ⟨_, rfl, ⟨rfl, .inr (.inr ⟨rfl, rfl⟩)⟩, ?_⟩
      have hbit : y / (Fmt.of fm).signBit % 2 * (Fmt.of fm).signBit ≤ 1 * (Fmt.of fm).signBit := Nat.mul_le_mul_right _ (by omega)
      change x % (Fmt.of fm).signBit + y / (Fmt.of fm).signBit % 2 * (Fmt.of fm).signBit < 2 * (Fmt.of fm).signBit
      omega

/-- Every lane operation has a result of the lane's width. -/
theorem viLane_result {op rm w x y : Nat} (hx : x < 2 ^ w) (hy : y < 2 ^ w)
    (h : (op ≤ 1 ∧ rm = 0) ∨ (op = 2 ∧ rm ≤ 3) ∨ (op = 3 ∧ rm ≤ 2)) :
    ∃ r, viLane op rm w x y = some r ∧ LaneResult op rm w x y r ∧ r < 2 ^ w := by
  have hxm := Nat.mod_eq_of_lt hx
  have hym := Nat.mod_eq_of_lt hy
  match op, rm with
  | 0, 0 => exact ⟨_, rfl, by simp [LaneResult], BitVec.isLt _⟩
  | 1, 0 => exact ⟨_, rfl, by simp [LaneResult, BitVec.toNat_sub, hxm, hym, Nat.add_comm], BitVec.isLt _⟩
  | 2, 0 => exact ⟨_, rfl, by simp [LaneResult, hxm, hym], BitVec.isLt _⟩
  | 2, 1 => exact ⟨_, rfl, by simp [LaneResult, hxm, hym], BitVec.isLt _⟩
  | 2, 2 => exact ⟨_, rfl, by simp [LaneResult, hxm, hym], BitVec.isLt _⟩
  | 2, 3 =>
    refine ⟨_, rfl, fun i hi => ?_, BitVec.isLt _⟩
    simp only [BitVec.testBit_toNat, BitVec.getLsbD_and, BitVec.getLsbD_not, BitVec.getLsbD_ofNat, hi, decide_true, Bool.true_and]
  | 3, 0 => exact ⟨_, rfl, by simp [LaneResult, hxm, Nat.shiftLeft_eq], BitVec.isLt _⟩
  | 3, 1 => exact ⟨_, rfl, by simp [LaneResult, hxm, Nat.shiftRight_eq_div_pow], BitVec.isLt _⟩
  | 3, 2 =>
    refine ⟨_, rfl, ⟨?_, BitVec.isLt _⟩, BitVec.isLt _⟩
    simp [BitVec.toInt_sshiftRight, Int.shiftRight_eq_div_pow]
  | 0, _ + 1 | 1, _ + 1 | 2, _ + 4 | 3, _ + 3 | _ + 4, _ => omega

variable {u : UnitId} {f : BitVec 25} {s s' : State} {k w : Nat} {p : Proc} {pg : Word}

/-- A vector floating-point instruction whose element operation answers `g` retires with `g` merged into vd and the flags of its active
elements raised. -/
theorem vectorFloat_retires {op : Fin 11} {m : Nat} {ds : List Nat} {p1 : Proc} {g : Nat → FRes} (hk : k = unitKey u)
    (hp : p = s'.proc k) (hw : w = fmtWidth (vaFm f)) (hpg : pg = p.getP (vaPg f)) (hi : Issues s s' k (vregs f) 4)
    (hok : vaOk k f = true) (hm : rmMode p (vaRm f) = some m) (hvb : op.val = 4 → vaVb f = 0)
    (hd : p.draws k true (if vfRounds op.val then m else 0) (512 / w) = (ds, p1))
    (hg : ∀ i, vfElem op.val (vaRm f) (vaFm f) (some m) (elemOf w (p.getV (vaVa f)) i) (elemOf w (p.getV (vaVb f)) i)
      (elemOf w (p.getV (vaVd f)) i) (elemAt ds i) = some (g i)) :
    ∃ t, exec (.vectorFloatingPoint u op f) s = .next t ∧
      Retired s' t k ((p1.raise (activeFlags pg ((List.range (512 / w)).map g))).setV (vaVd f)
        (ofElems w (mergeElems pg (vaMz f) (elems w (p.getV (vaVd f))) ((List.range (512 / w)).map fun i => (g i).bits)))) (p.pc + 4) := by
  subst hk hp hw hpg
  refine ⟨_, rfl, runInstr_retired hi _ ?_⟩
  have hlegal : (!vaOk (unitKey u) f || (op.val == 4 && vaVb f != 0)) = false := by simpa [hok] using hvb
  have hmap : mapElems (512 / fmtWidth (vaFm f)) _ = some _ := mapM_eq_some (g := g) fun i hi => by
    have hlt := List.mem_range.mp hi
    rw [← hg i, ← elemAt_elems _ hlt, ← elemAt_elems _ hlt, ← elemAt_elems _ hlt]
  simp only [hm, Option.getD_some, hd, hlegal, Bool.false_eq_true, if_false, hmap, List.map_map]
  rfl

/-- An integer vector instruction whose lane operation answers `g` retires with `g` merged into vd. -/
theorem vectorInteger_retires {op : Fin 4} {g : Nat → Nat} (hk : k = unitKey u)
    (hp : p = s'.proc k) (hw : w = fmtWidth (vaFm f)) (hpg : pg = p.getP (vaPg f)) (hi : Issues s s' k (vregs f) 4)
    (hok : vaOk k f = true) (hfm : 2 ≤ vaFm f)
    (hg : ∀ i, viLane op.val (vaRm f) w (elemOf w (p.getV (vaVa f)) i) (elemOf w (p.getV (vaVb f)) i) = some (g i)) :
    ∃ t, exec (.vectorInteger u op f) s = .next t ∧
      Retired s' t k (p.setV (vaVd f)
        (ofElems w (mergeElems pg (vaMz f) (elems w (p.getV (vaVd f))) ((List.range (512 / w)).map g)))) (p.pc + 4) := by
  subst hk hp hw hpg
  refine ⟨_, rfl, runInstr_retired hi _ ?_⟩
  have hlegal : (!vaOk (unitKey u) f || decide (vaFm f < 2)) = false := by
    rw [hok, Bool.not_true, Bool.false_or, decide_eq_false_iff_not]
    omega
  have hmap := mapM_eq_some (l := List.range (512 / fmtWidth (vaFm f))) (g := g) fun i hi => by
    have hlt := List.mem_range.mp hi
    rw [← hg i, ← elemAt_elems _ hlt, ← elemAt_elems _ hlt]
  simp only [hlegal, Bool.false_eq_true, if_false, hmap]

/-! ## Moves -/

theorem length_elems (w : Nat) (v : VReg) : (elems w v).length = 512 / w := by simp [elems]

theorem elems_set {w i j x : Nat} (v : VReg) (hi : i < 512 / w) (hx : x < 2 ^ w) :
    elemOf w (ofElems w ((elems w v).set j x)) i = if i = j then x else elemOf w v i := by
  have hlen : i < (elems w v).length := by rwa [length_elems]
  rw [elemOf_ofElems (by simp [length_elems]), elemAt, List.getD_eq_getElem?_getD, List.getElem?_set]
  by_cases hj : i = j
  · subst hj
    simp [hlen, Nat.mod_eq_of_lt hx]
  · rw [if_neg (Ne.symm hj), if_neg hj, ← List.getD_eq_getElem?_getD, ← elemAt, elemAt_elems v hi, Nat.mod_eq_of_lt (elemOf_lt w v i)]

/-- A predicate register has a bit for every element. -/
theorem elements_le (c : Nat) : 512 / fmtWidth c ≤ 64 := by
  unfold fmtWidth Fmt.of
  split <;> decide

/-- A register whose every element is `g` is a merge under the predicate of all ones. -/
theorem merged_allOnes {c : Nat} (mz : Bool) (old : VReg) {g : Nat → Nat} (hg : ∀ i, g i < 2 ^ fmtWidth c) :
    Merged (fmtWidth c) (BitVec.allOnes 64) mz old (ofElems (fmtWidth c) ((List.range (512 / fmtWidth c)).map g)) g := by
  intro i hi
  rw [elemOf_ofElems_range g hi, Nat.mod_eq_of_lt (hg i), BitVec.getLsbD_allOnes, decide_eq_true (hi.trans_le (elements_le c)), if_pos rfl]

variable {u : UnitId} {f : BitVec 25} {s s' : State} {k w : Nat} {p : Proc} {pg : Word} {g : Nat → Nat}

/-- A move that merges vd with a broadcast (RM = 0) or with va (RM = 4). -/
theorem vectorMove_merges (hk : k = unitKey u) (hp : p = s'.proc k) (hok : vaOk k f = true) (hw : w = fmtWidth (vaFm f))
    (hpg : pg = p.getP (vaPg f)) (hi : Issues s s' k (vmoveRegs f) 4)
    (hg : (vaRm f = 0 ∧ ∀ i, g i = (p.getS (vaVa f)).toNat % 2 ^ w) ∨ (vaRm f = 4 ∧ g = elemOf w (p.getV (vaVa f)))) :
    ∃ t v, exec (.vectorMove u f) s = .next t ∧ Retired s' t k (p.setV (vaVd f) v) (p.pc + 4) ∧
      Merged w pg (vaMz f) (p.getV (vaVd f)) v g := by
  subst hk hp hw hpg
  have hlegal : (!vaOk (unitKey u) f) = false := by rw [hok, Bool.not_true]
  rcases hg with ⟨hrm, hg⟩ | ⟨hrm, rfl⟩
  · have hlow (i : Nat) : g i < 2 ^ fmtWidth (vaFm f) := hg i ▸ Nat.mod_lt _ (Nat.two_pow_pos _)
    have hall : List.replicate (512 / fmtWidth (vaFm f)) (((s'.proc (unitKey u)).getS (vaVa f)).toNat % 2 ^ fmtWidth (vaFm f)) =
        (List.range (512 / fmtWidth (vaFm f))).map g := by
      rw [funext hg, List.map_const', List.length_range]
    refine ⟨_, _, rfl, runInstr_retired hi _ ?_, merged_mergeElems _ _ _ hlow⟩
    simp only [hlegal, hrm, hall, Bool.false_eq_true, if_false]
  · refine ⟨_, _, rfl, runInstr_retired hi _ ?_, merged_mergeElems _ _ _ (elemOf_lt _ _)⟩
    simp only [hlegal, hrm, Bool.false_eq_true, if_false]
    rfl

/-- A move that selects each element from va or vb (RM = 3). -/
theorem vectorMove_selects (hk : k = unitKey u) (hp : p = s'.proc k) (hok : vaOk k f = true) (hw : w = fmtWidth (vaFm f))
    (hpg : pg = p.getP (vaPg f)) (hi : Issues s s' k (vmoveRegs f) 4) (hrm : vaRm f = 3) (hmz : vaMz f = false)
    (hg : ∀ i, g i = if pg.getLsbD i then elemOf w (p.getV (vaVa f)) i else elemOf w (p.getV (vaVb f)) i) :
    ∃ t v, exec (.vectorMove u f) s = .next t ∧ Retired s' t k (p.setV (vaVd f) v) (p.pc + 4) ∧
      Merged w (BitVec.allOnes 64) (vaMz f) (p.getV (vaVd f)) v g := by
  subst hk hp hw hpg
  have hlegal : (!vaOk (unitKey u) f) = false := by rw [hok, Bool.not_true]
  have hlow (i : Nat) : g i < 2 ^ fmtWidth (vaFm f) := by
    rw [hg i]
    split <;> exact elemOf_lt ..
  have hall : (List.range (512 / fmtWidth (vaFm f))).map g = (List.range (512 / fmtWidth (vaFm f))).map fun i =>
      if active ((s'.proc (unitKey u)).getP (vaPg f)) i then elemAt (elems (fmtWidth (vaFm f)) ((s'.proc (unitKey u)).getV (vaVa f))) i
      else elemAt (elems (fmtWidth (vaFm f)) ((s'.proc (unitKey u)).getV (vaVb f))) i := List.map_congr_left fun i hi => by
    rw [elemAt_elems _ (List.mem_range.mp hi), elemAt_elems _ (List.mem_range.mp hi), hg i]
    rfl
  refine ⟨_, _, rfl, runInstr_retired hi _ ?_, merged_allOnes _ _ hlow⟩
  simp only [hlegal, hrm, hmz, hall, Bool.false_eq_true, if_false]

end Sys2Proof.Machine

open Sys2Proof Sys2Proof.Machine

/-- Settles O12: on every element the operation has a result of the element's width (`vfElem_result`, `viLane_result`), the instruction
retires with these results merged, and a merge is what `Merged` says (`merged_mergeElems`). -/
theorem vectorElementsUnderPredicate : Obligations.VectorElementsUnderPredicate := by
  intro u f s s' k w p pg hk hp hok hw hpg
  refine ⟨fun hi => ⟨fun op m ds p1 hm hvb hmm hsg hd => ?float, fun op hfm hop => ?integer⟩,
    fun hi => ⟨fun g hg => ?merging, fun hmz hidx => ⟨fun hrm => ⟨fun hact => ?insert, fun hact => ?keep⟩, fun hrm hpg0 => ?extract⟩⟩⟩
  case float =>
    have hfit (v : VReg) (i : Nat) : (Fmt.of (vaFm f)).Fits (elemOf w v i) := hw ▸ elemOf_fits (vaFm f) v i
    choose g hg hr hgf using fun i => vfElem_result (m := m) (elemAt ds i) op.isLt hmm hsg (hfit (p.getV (vaVa f)) i)
      (hfit (p.getV (vaVb f)) i) (hfit (p.getV (vaVd f)) i)
    obtain ⟨t, hx, ht⟩ := vectorFloat_retires hk hp hw hpg hi hok hm hvb hd hg
    exact ⟨t, _, _, g, hx, ht, flagsOfActive_activeFlags _ _ _, merged_mergeElems _ _ _ fun i => hw ▸ lt_of_fits (hgf i), fun i _ => hr i⟩
  case integer =>
    choose g hg hr hgf using fun i => viLane_result (elemOf_lt w (p.getV (vaVa f)) i) (elemOf_lt w (p.getV (vaVb f)) i) hop
    obtain ⟨t, hx, ht⟩ := vectorInteger_retires hk hp hw hpg hi hok hfm hg
    exact ⟨t, _, g, hx, ht, merged_mergeElems _ _ _ hgf, fun i _ => hr i⟩
  case merging =>
    rcases hg with ⟨hrm, hg⟩ | ⟨hrm, hmz, hg⟩ | ⟨hrm, hg⟩
    · rw [if_neg (by omega)]
      exact vectorMove_merges hk hp hok hw hpg hi (.inl ⟨hrm, hg⟩)
    · rw [if_pos hrm]
      exact vectorMove_selects hk hp hok hw hpg hi hrm hmz hg
    · rw [if_neg (by omega)]
      exact vectorMove_merges hk hp hok hw hpg hi (.inr ⟨hrm, hg⟩)
  all_goals
    subst hk hp hw hpg
    have hlegal : (!vaOk (unitKey u) f) = false := by rw [hok, Bool.not_true]
    have hin : decide (vaVb f ≥ 512 / fmtWidth (vaFm f)) = false := decide_eq_false (Nat.not_le.mpr hidx)
  case insert =>
    refine ⟨_, _, rfl, runInstr_retired hi _ ?_, fun i hi => elems_set _ hi (Nat.mod_lt _ (Nat.two_pow_pos _))⟩
    simp only [hlegal, hrm, hmz, hin, active, hact, Bool.or_self, Bool.false_eq_true, if_false, if_true]
  case keep =>
    refine ⟨_, rfl, runInstr_retired hi _ ?_⟩
    simp only [hlegal, hrm, hmz, hin, active, hact, Bool.or_self, Bool.false_eq_true, if_false]
  case extract =>
    refine ⟨_, rfl, runInstr_retired hi _ ?_⟩
    simp only [hlegal, hrm, hpg0, hmz, hin, elemAt_elems _ hidx, bne_self_eq_false, Bool.or_self, Bool.false_eq_true, if_false]
end

section
/-! Predicates (O13). -/

namespace Sys2Proof.Machine
open Sys2Proof

/-! ## Bits as a value -/

theorem testBit_bitsVal (bs : List Bool) (i : Nat) : (bitsVal bs).testBit i = bs.getD i false := by
  induction bs generalizing i with
  | nil => simp [bitsVal]
  | cons b r ih =>
    change ((if b then 1 else 0) + 2 * bitsVal r).testBit i = _
    cases i with
    | zero => cases b <;> simp [Nat.testBit_zero]
    | succ i =>
      have hdiv : ((if b then 1 else 0) + 2 * bitsVal r) / 2 = bitsVal r := by split <;> omega
      rw [Nat.testBit_succ, hdiv, ih, List.getD_cons_succ]

/-- A word given bit by bit. -/
theorem getLsbD_bitsVal (bit : Nat → Bool) {i : Nat} (hi : i < 64) :
    (BitVec.ofNat 64 (bitsVal ((List.range 64).map bit))).getLsbD i = bit i := by
  rw [BitVec.getLsbD_ofNat, testBit_bitsVal, getD_map_range hi, decide_eq_true hi, Bool.true_and]

/-- What `vcmp` writes: the results of the active elements below `n`, the other bits kept, or cleared with `mz`. -/
def cmpWord (n : Nat) (pg old : Word) (mz : Bool) (g : Nat → Bool × Flg) : Word :=
  BitVec.ofNat 64 (bitsVal ((List.range 64).map fun i =>
    if i < n && active pg i then (((List.range n).map g).getD i (false, 0)).1 else !mz && old.getLsbD i))

theorem getLsbD_cmpWord (n : Nat) (pg old : Word) (mz : Bool) (g : Nat → Bool × Flg) {i : Nat} (hi : i < 64) :
    (cmpWord n pg old mz g).getLsbD i = if i < n ∧ pg.getLsbD i then (g i).1 else !mz && old.getLsbD i := by
  rw [cmpWord, getLsbD_bitsVal _ hi]
  by_cases hn : i < n
  · simp only [getD_map_range hn, hn, active, decide_true, Bool.true_and, true_and]
  · simp only [hn, decide_false, Bool.false_and, Bool.false_eq_true, false_and, if_false]

/-- The lowest `n` bits. -/
theorem getLsbD_lowBits (n : Nat) {i : Nat} (hi : i < 64) : (BitVec.ofNat 64 (2 ^ min n 64 - 1)).getLsbD i = decide (i < n) := by
  rw [BitVec.getLsbD_ofNat, Nat.testBit_two_pow_sub_one, decide_eq_true hi, Bool.true_and]
  exact decide_eq_decide.mpr (by omega)

theorem eq_lowBits {n : Nat} {y : Word} (h : ∀ i < 64, y.getLsbD i = decide (i < n)) : y = BitVec.ofNat 64 (2 ^ min n 64 - 1) :=
  BitVec.eq_of_getLsbD_eq fun i hi => (h i hi).trans (getLsbD_lowBits n hi).symm

theorem eq_ofNat_of_toNat {y : Word} {n : Nat} (h : y.toNat = n) : y = BitVec.ofNat 64 n := by
  rw [← h, BitVec.ofNat_toNat, BitVec.setWidth_eq]

/-- The units that have predicates: cores and update engines. -/
theorem has_predicates {k : Nat} (h : isCore k = true ∨ isUe k = true) : isSpring k = false ∧ isSluice k = false := by
  simp only [isCore, isUe, isSpring, isSluice, decide_eq_true_eq, Bool.and_eq_true, Bool.and_eq_false_iff, decide_eq_false_iff_not] at *
  omega

theorem setP_getP_zero (p : Proc) (x : Word) : (p.setP 0 x).getP 0 = BitVec.allOnes 64 := rfl

end Sys2Proof.Machine

open Sys2Proof Sys2Proof.Machine

/-- Settles O13: `vcmp` writes its bits one by one (`getLsbD_bitsVal`); each predicate operation retires with its word, which its bits
determine. -/
theorem predicatesWritten : Obligations.PredicatesWritten := by
  rintro u f s s' k w p rfl rfl rfl
  refine ⟨fun hi hok hvd cond sig g hc hg => ?compare, fun hi hk hz a b x ha hb hx => ⟨fun y hrd hy => ?toPredicate, fun y hy => ?toScalar⟩,
    setP_getP_zero _⟩
  case compare =>
    have hmap : (List.range (512 / fmtWidth (vaFm f))).map (fun i => fpCmp (Fmt.of (vaFm f)) cond sig
        (elemAt (elems (fmtWidth (vaFm f)) ((s'.proc (unitKey u)).getV (vaVa f))) i)
        (elemAt (elems (fmtWidth (vaFm f)) ((s'.proc (unitKey u)).getV (vaVb f))) i)) = (List.range (512 / fmtWidth (vaFm f))).map g :=
      List.map_congr_left fun i hi => by rw [elemAt_elems _ (List.mem_range.mp hi), elemAt_elems _ (List.mem_range.mp hi), hg i]
    have hlegal : (!vaOk (unitKey u) f || decide (vaVd f ≥ 8)) = false := by
      rw [hok, Bool.not_true, Bool.false_or, decide_eq_false_iff_not]
      omega
    refine ⟨_, cmpWord (512 / fmtWidth (vaFm f)) ((s'.proc (unitKey u)).getP (vaPg f)) ((s'.proc (unitKey u)).getP (vaVd f)) (vaMz f) g, _,
      rfl, runInstr_retired hi _ ?_, flagsOfActive_activeFlags _ _ _, fun i hi => getLsbD_cmpWord _ _ _ _ _ hi⟩
    simp only [hlegal, hc, hmap, Bool.false_eq_true, if_false, List.map_map]
    rfl
  all_goals
    obtain ⟨hspring, hsluice⟩ := has_predicates hk
    have hlegal : (decide (fld f 12 3 ≠ 0) || isSpring (unitKey u) || isSluice (unitKey u)) = false := by
      simp only [hz, hspring, hsluice, ne_eq, not_true_eq_false, decide_false, Bool.or_self]
    subst ha hb hx
    refine ⟨_, rfl, runInstr_retired hi _ ?_⟩
    simp only [hlegal, Bool.false_eq_true, if_false]
  case toPredicate =>
    rcases hy with ⟨hfn, rfl⟩ | ⟨hfn, rfl⟩ | ⟨hfn, rfl⟩ | ⟨hfn, rfl⟩ | ⟨hfn, hpb, rfl⟩ | ⟨hfn, rfl⟩ | ⟨hfn, hy⟩ <;> simp only [hfn, hrd, if_true]
    · rw [if_pos hpb]
    · rw [eq_lowBits hy]
  case toScalar =>
    rcases hy with ⟨hfn, rfl⟩ | ⟨hfn, hy⟩ | ⟨hfn, hy⟩ <;> simp only [hfn]
    · rw [eq_ofNat_of_toNat hy, List.countP_eq_length_filter]
    · rw [eq_ofNat_of_toNat (IsFirst.unique hy (isFirst_find _ 64))]
end

section
/-! Reductions (O14, R219). A level combines neighbours with the next draws, and `redAll` goes level by level to the one element that is
left. -/

namespace Sys2Proof.Machine
open Sys2Proof

theorem getLsbD_flagsOf (n : Nat) (h : Nat → FRes) (b : Nat) :
    (flagsOf ((List.range n).map h)).getLsbD b = true ↔ ∃ i, i < n ∧ (h i).fl.getLsbD b = true := by
  have hor := getLsbD_foldl_or n (fun _ => true) (fun i => (h i).fl) b
  simp only [if_true, true_and] at hor
  rw [flagsOf, List.foldl_map, hor]

variable {g : Nat → Nat → Nat → FRes} {ds : List Nat}

/-- The results of one level over `m` pairs of neighbours, with the draws from place `d` on. -/
def levelRes (g : Nat → Nat → Nat → FRes) (ds : List Nat) (d : Nat) (xs : List Nat) (m : Nat) : List FRes :=
  (List.range m).map fun i => g (elemAt xs (2 * i)) (elemAt xs (2 * i + 1)) (elemAt ds (d + i))

theorem redLevel_pairs {m : Nat} {xs : List Nat} (h : xs.length = 2 * m) (d : Nat) :
    redLevel g xs (ds.drop d) = (levelRes g ds d xs m, ds.drop (d + m)) := by
  induction m generalizing xs d with
  | zero => rw [List.length_eq_zero_iff.mp h]; rfl
  | succ m ih =>
    match xs with
    | x :: y :: r =>
      have hr : r.length = 2 * m := by simp only [List.length_cons] at h; omega
      have hhead : (ds.drop d).headD 0 = elemAt ds d := by
        rw [elemAt, List.headD_eq_head?_getD, List.head?_drop, List.getD_eq_getElem?_getD]
      simp only [redLevel, levelRes, List.tail_drop, ih hr, List.range_succ_eq_map, List.map_cons, List.map_map, hhead,
        Nat.add_right_comm d 1, Nat.add_assoc d]
      rfl

/-- Where the operation takes no draw, any draws will do. -/
theorem Reduces.of_no_draw (hg : ∀ x y r r', g x y r = g x y r') {ds' : List Nat} {d : Nat} {xs : List Nat} {v : Nat} {fl : Flg}
    (h : Reduces g ds d xs v fl) : Reduces g ds' d xs v fl := by
  induction h with
  | one d v => exact .one d v
  | level d xs ys v fl gl half more comb flags rest ih =>
    refine .level d xs ys v fl gl half more (fun i hi => ?_) (fun b => ?_) ih
    · rw [comb i hi, hg]
    · rw [flags b]
      exact exists_congr fun i => and_congr_right fun _ => by rw [hg]

/-- A level in `redAll` is a level of R219. -/
theorem Reduces.of_levelRes {d m v : Nat} {xs : List Nat} {fl : Flg} (h : xs.length = 2 * m) (hm : 0 < m)
    (hr : Reduces g ds (d + m) ((levelRes g ds d xs m).map (·.bits)) v fl) :
    Reduces g ds d xs v (flagsOf (levelRes g ds d xs m) ||| fl) := by
  have hlen : ((levelRes g ds d xs m).map (·.bits)).length = m := by simp [levelRes]
  refine .level d xs _ v fl _ (by rw [hlen, h]) (by omega) (fun i hi => ?_) (fun b => ?_) (by rwa [hlen])
  · rw [hlen] at hi
    simp [levelRes, hi]
  · rw [hlen]
    exact getLsbD_flagsOf m _ b

theorem redAll_reduces {j : Nat} {xs : List Nat} (hlen : xs.length = 2 ^ j) {fuel : Nat} (hj : j ≤ fuel) (d : Nat) (fl : Flg) :
    ∃ v gl, redAll g fuel xs (ds.drop d) fl = ⟨v, fl ||| gl⟩ ∧ Reduces g ds d xs v gl := by
  induction j generalizing xs fuel d fl with
  | zero =>
    obtain ⟨v, rfl⟩ := List.length_eq_one_iff.mp hlen
    refine ⟨v, 0, ?_, .one d v⟩
    cases fuel <;> simp [redAll, elemAt]
  | succ j ih =>
    match fuel with
    | fuel + 1 =>
      have hhalf : xs.length = 2 * 2 ^ j := by rw [hlen, Nat.pow_succ']
      have hpos : 0 < 2 ^ j := Nat.two_pow_pos j
      have hmore : ¬ xs.length ≤ 1 := by omega
      obtain ⟨v, gl, hv, hr⟩ := ih (xs := (levelRes g ds d xs (2 ^ j)).map (·.bits)) (by simp [levelRes]) (Nat.le_of_succ_le_succ hj)
        (d + 2 ^ j) (fl ||| flagsOf (levelRes g ds d xs (2 ^ j)))
      refine ⟨v, _, ?_, .of_levelRes hhalf hpos hr⟩
      simp only [redAll, hmore, if_false, redLevel_pairs hhalf, hv, BitVec.or_assoc]

theorem elements_two_pow (c : Nat) : ∃ j ≤ 6, 512 / (Fmt.of c).width = 2 ^ j := by
  unfold Fmt.of
  split
  · exact ⟨5, by decide, by decide⟩
  · exact ⟨5, by decide, by decide⟩
  · exact ⟨4, by decide, by decide⟩
  · exact ⟨3, by decide, by decide⟩

variable {u : UnitId} {f : BitVec 25} {s s' : State} {k n m ident : Nat} {p p1 : Proc} {F : Fmt}

/-- What a reduction starts from: the active elements, and the identity in the place of the others. -/
def redStart (w n ident : Nat) (pg : Word) (v : VReg) : List Nat :=
  (List.range n).map fun i => if pg.getLsbD i then elemOf w v i else ident

theorem vectorReduction_retires (hk : k = unitKey u) (hp : p = s'.proc k) (hF : F = Fmt.of (vaFm f)) (hn : n = 512 / F.width)
    (hi : Issues s s' k [.v (vaVd f), .v (vaVa f)] 4) (hok : vaOk k f = true) (hop : redOp F (vaRm f) p.nround.toNat = some (g, ident))
    (hd : p.draws k true (if vaRm f = 0 then p.nround.toNat else 0) (n - 1) = (ds, p1)) :
    ∃ t v fl, exec (.vectorReduction u f) s = .next t ∧
      Retired s' t k ((p1.raise fl).setV (vaVd f) (BitVec.ofNat 512 v)) (p.pc + 4) ∧
      Reduces g ds 0 (redStart F.width n ident (p.getP (vaPg f)) (p.getV (vaVa f))) v fl := by
  subst hk hp hF hn
  obtain ⟨j, hj, hpow⟩ := elements_two_pow (vaFm f)
  obtain ⟨v, fl, hv, hr⟩ := redAll_reduces (g := g) (ds := ds) (xs := redStart (Fmt.of (vaFm f)).width (512 / (Fmt.of (vaFm f)).width) ident
    ((s'.proc (unitKey u)).getP (vaPg f)) ((s'.proc (unitKey u)).getV (vaVa f))) (by simp [redStart, hpow]) hj 0 0
  have hstart : (List.range (512 / (Fmt.of (vaFm f)).width)).map (fun i => if active ((s'.proc (unitKey u)).getP (vaPg f)) i
      then elemAt (elems (Fmt.of (vaFm f)).width ((s'.proc (unitKey u)).getV (vaVa f))) i else ident) =
      redStart (Fmt.of (vaFm f)).width (512 / (Fmt.of (vaFm f)).width) ident
        ((s'.proc (unitKey u)).getP (vaPg f)) ((s'.proc (unitKey u)).getV (vaVa f)) :=
    List.map_congr_left fun i hi => by rw [elemAt_elems _ (List.mem_range.mp hi), active]
  rw [List.drop_zero, show (0 : Flg) ||| fl = fl from BitVec.zero_or] at hv
  refine ⟨_, v, fl, rfl, runInstr_retired hi _ ?_, hr⟩
  simp only [hd, hok, Bool.not_true, Bool.false_eq_true, if_false, hop, hstart, hv]

end Sys2Proof.Machine
end

section
/-! Vector conversions (O14, R223 to R227), and the reductions and conversions together. -/

namespace Sys2Proof.Machine
open Sys2Proof

variable {u : UnitId} {f : BitVec 25} {s s' : State} {k src dst n s0 d0 m : Nat} {p p1 : Proc} {ds : List Nat} {g : Nat → FRes}

/-- The flags of a conversion of `n` elements into the elements from `d0` on: those of the active ones. -/
def cvtFlags (n d0 : Nat) (pg : Word) (g : Nat → FRes) : Flg :=
  (List.range n).foldl (fun acc i => if active pg (d0 + i) then acc ||| (g (d0 + i)).fl else acc) 0

/-- Element `j` of the destination of a conversion of `n` elements into the elements from `d0` on. -/
def cvtDest (w n d0 : Nat) (pg : Word) (mz : Bool) (old : VReg) (g : Nat → FRes) (j : Nat) : Nat :=
  if j < d0 ∨ d0 + n ≤ j then elemOf w old j else if active pg j then (g j).bits else if mz then 0 else elemOf w old j

theorem getLsbD_cvtFlags (pg : Word) (b : Nat) : (cvtFlags n d0 pg g).getLsbD b = true ↔
    ∃ j, d0 ≤ j ∧ j < d0 + n ∧ pg.getLsbD j = true ∧ (g j).fl.getLsbD b = true := by
  rw [cvtFlags, getLsbD_foldl_or]
  constructor
  · rintro ⟨i, hi, ha, hb⟩
    exact ⟨d0 + i, by omega, by omega, ha, hb⟩
  · rintro ⟨j, hlow, hhigh, ha, hb⟩
    obtain ⟨i, rfl⟩ := Nat.exists_eq_add_of_le hlow
    exact ⟨i, by omega, ha, hb⟩

theorem cvtDest_mod (w : Nat) (pg : Word) (mz : Bool) (old : VReg) (j : Nat) : cvtDest w n d0 pg mz old g j % 2 ^ w =
    if d0 ≤ j ∧ j < d0 + n then
      (if pg.getLsbD j then (g j).bits % 2 ^ w else if mz then 0 else elemOf w old j)
    else elemOf w old j := by
  have hold : elemOf w old j % 2 ^ w = elemOf w old j := Nat.mod_eq_of_lt (elemOf_lt w old j)
  by_cases h : d0 ≤ j ∧ j < d0 + n
  · have hin : ¬(j < d0 ∨ d0 + n ≤ j) := by omega
    rw [cvtDest, if_neg hin, if_pos h, active]
    split_ifs <;> simp [hold]
  · have hout : j < d0 ∨ d0 + n ≤ j := by omega
    rw [cvtDest, if_pos hout, if_neg h, hold]

/-- The half of the source that a widening conversion takes lies within the source. -/
theorem source_half_within {ws wd h i : Nat} (hs : ws = 16 ∨ ws = 32 ∨ ws = 64) (hd : wd = 16 ∨ wd = 32 ∨ wd = 64)
    (h4 : wd ≠ 4 * ws) (hh : h < 2) (hi : i < 512 / max ws wd) :
    (if ws < wd then h * (512 / max ws wd) else 0) + i < 512 / ws := by
  have hbit : h = 0 ∨ h = 1 := by omega
  rcases hs with rfl | rfl | rfl <;> rcases hd with rfl | rfl | rfl <;> rcases hbit with rfl | rfl <;> simp at * <;> omega

theorem typeWidth_cases (t : Nat) : typeWidth t = 16 ∨ typeWidth t = 32 ∨ typeWidth t = 64 := by
  unfold typeWidth
  split <;> simp

/-- A conversion of a pair of types of Table 6.8 whose element conversion gives `g` retires with the results in the elements from `d0`
on. -/
theorem vcvt_retires (hk : k = unitKey u) (hp : p = s'.proc k) (hi : Issues s s' k [.v (fld f 7 5), .v (fld f 12 5)] 4)
    (hz : fld f 17 1 = 0) (hs : src = fld f 19 3) (hd : dst = fld f 25 3) (hok : vcvtOk k src dst = true)
    (hn : n = 512 / max (typeWidth src) (typeWidth dst))
    (hs0 : s0 = if typeWidth src < typeWidth dst then fld f 31 1 * n else 0)
    (hd0 : d0 = if typeWidth dst < typeWidth src then fld f 31 1 * n else 0)
    (hm : rmMode p (fld f 28 3) = some m) (hdraw : p.draws k true m n = (ds, p1))
    (hg : ∀ i, g (d0 + i) = cvtElem src dst m (elemOf (typeWidth src) (p.getV (fld f 12 5)) (s0 + i)) (elemAt ds i)) :
    ∃ t, exec (.vcvt u f) s = .next t ∧
      Retired s' t k ((p1.raise (cvtFlags n d0 (p.getP (fld f 22 3)) g)).setV (fld f 7 5)
        (ofElems (typeWidth dst) ((List.range (512 / typeWidth dst)).map
          (cvtDest (typeWidth dst) n d0 (p.getP (fld f 22 3)) (fld f 18 1 = 1) (p.getV (fld f 7 5)) g)))) (p.pc + 4) := by
  have hfour : typeWidth dst ≠ 4 * typeWidth src := by
    simp only [vcvtOk, Bool.and_eq_true, bne_iff_ne] at hok
    exact hok.1.2
  have hres : (List.range n).map (fun i =>
      cvtElem src dst m (elemAt (elems (typeWidth src) (p.getV (fld f 12 5))) (s0 + i)) (elemAt ds i)) =
      (List.range n).map fun i => g (d0 + i) := List.map_congr_left fun i hlt => by
    have hin : s0 + i < 512 / typeWidth src := by
      rw [List.mem_range, hn] at hlt
      rw [hs0, hn]
      exact source_half_within (typeWidth_cases src) (typeWidth_cases dst) hfour (fld_lt ..) hlt
    rw [hg i, elemAt_elems _ hin]
  have hflags : (List.range n).foldl (fun acc i => if active (p.getP (fld f 22 3)) (d0 + i)
      then acc ||| (((List.range n).map fun i => g (d0 + i)).getD i ⟨0, 0⟩).fl else acc) (0 : Flg) =
      cvtFlags n d0 (p.getP (fld f 22 3)) g := List.foldl_ext _ _ _ fun acc i hlt => by
    rw [getD_map_range (List.mem_range.mp hlt)]
  have hdest : (List.range (512 / typeWidth dst)).map (fun j =>
      if j < d0 || j ≥ d0 + n then elemAt (elems (typeWidth dst) (p.getV (fld f 7 5))) j
      else if active (p.getP (fld f 22 3)) j then (((List.range n).map fun i => g (d0 + i)).getD (j - d0) ⟨0, 0⟩).bits
      else if fld f 18 1 = 1 then 0 else elemAt (elems (typeWidth dst) (p.getV (fld f 7 5))) j) =
      (List.range (512 / typeWidth dst)).map
        (cvtDest (typeWidth dst) n d0 (p.getP (fld f 22 3)) (fld f 18 1 = 1) (p.getV (fld f 7 5)) g) :=
    List.map_congr_left fun j hlt => by
    rw [elemAt_elems _ (List.mem_range.mp hlt), cvtDest]
    by_cases h : j < d0 ∨ d0 + n ≤ j
    · simp [h]
    · have hin : j - d0 < n := by omega
      rw [getD_map_range hin, show d0 + (j - d0) = j by omega]
      simp
  subst hk hp hs hd hn hs0 hd0
  refine ⟨_, rfl, runInstr_retired hi _ ?_⟩
  simp only [hz, hok, hm, hdraw, gt_iff_lt, hres, hflags, hdest, ne_eq, not_true_eq_false, decide_false, Bool.not_true, Bool.or_self,
    Bool.false_eq_true, if_false]

end Sys2Proof.Machine

open Sys2Proof Sys2Proof.Machine

/-- Settles O14: `redAll` goes level by level as R219 says (`redAll_reduces`), and a conversion writes the elements of its half from their
sources (`vcvt_retires`). -/
theorem reductionsAndConversions : Obligations.ReductionsAndConversions := by
  intro u f s s' k p hk hp
  refine ⟨fun hi hok F n m g ident ds p1 hF hn hm hop => ?reduction,
    fun hi hz src dst n s0 d0 m ds p1 g hs hd hok hn hs0 hd0 hm hdraw hg => ?conversion⟩
  case reduction =>
    have hdraw (h : vaRm f ≠ 0) : p.draws k true (if vaRm f = 0 then p.nround.toNat else 0) (n - 1) = (List.replicate (n - 1) 0, p) := by
      rw [if_neg h, Proc.draws_of_not_sr (by decide)]
    rcases hop with ⟨hrm, rfl, rfl, hd⟩ | ⟨hrm, rfl, rfl, rfl⟩ | ⟨hrm, rfl, rfl, rfl⟩
    · exact vectorReduction_retires hk hp hF hn hi hok (by rw [hrm, hm]; rfl) (by rwa [if_pos hrm, ← hm])
    all_goals
      obtain ⟨t, v, fl, hx, ht, hr⟩ := vectorReduction_retires hk hp hF hn hi hok (by rw [hrm]; rfl) (hdraw (by omega))
      exact ⟨t, v, fl, hx, ht, hr.of_no_draw fun _ _ _ _ => rfl⟩
  case conversion =>
    obtain ⟨t, hx, ht⟩ := vcvt_retires hk hp hi hz hs hd hok hn hs0 hd0 hm hdraw hg
    refine ⟨t, _, _, hx, ht, getLsbD_cvtFlags _, fun j hj => ?_⟩
    rw [elemOf_ofElems_range _ hj, cvtDest_mod]
    simp only [decide_eq_true_eq]
end

section
/-! Vector broadcast loads with no active element (O15). -/

namespace Sys2Proof.Machine
open Sys2Proof

/-- A `vldb` with no active element retires without a write to vd, and without an access. -/
theorem vldb_no_active {u : UnitId} {f : BitVec 25} {s s' : State} {esz : Nat}
    (hi : Issues s s' (unitKey u) [.v (fld f 7 5), .s (fld f 12 5)] 4) (hesz : eszOf (unitKey u) (fld f 20 2) = some esz)
    (hmask : vmPg (s'.proc (unitKey u)) f &&& runMask 0 (64 / esz) = 0) :
    exec (.vldb u f) s = .next (s'.retire (unitKey u) (s'.proc (unitKey u)) 4 true 1) := by
  change execVldb u f s = _
  simp only [execVldb, issue_eq hi, hesz, hmask, if_true]

theorem put_ne_nil (t : Tbl VReg) (r : Nat) (v : VReg) : Tbl.put t r v ≠ [] := by
  cases t with
  | nil => simp [Tbl.put]
  | cons e t =>
    simp only [Tbl.put]
    split_ifs <;> simp

/-- The registers after an instruction that wrote nothing are not those after a write to a table without entries. -/
theorem setV_ne_of_empty {p q : Proc} {r : Nat} {v : VReg} {pc pc' : Word} (h : q.v = []) :
    { q with pc := pc } ≠ { p.setV r v with pc := pc' } :=
  fun heq => put_ne_nil p.v r v ((congrArg Proc.v heq).symm.trans h)

/-- `vldb v1, 0(s2)` under p1, of elements of two bytes. -/
def vldbUnderP1 : BitVec 25 := BitVec.ofNat 25 (1 + 2 ^ 5 * 2 + 2 ^ 10 * 1 + 2 ^ 13 * 1)

/-- Core 0 of cluster 0 of site 0. -/
def coreZero : CoreId := ⟨0, 0, 0⟩

/-- A running core 0 with an address of its own pond in s2; every other register, p1 among them, is zero. -/
def coreAt400 : State := { State.reset with
  powered := true
  sec := { Sec.reset with stage := 9 }
  polders := [(0, { Polder.reset with state := 2 })]
  procs := [(0, { Proc.reset with run := true, pc := 0x1000, s := [(2, 0x400)] })] }

theorem coreAt400_issues (regs : List Reg) (len : Nat) : Issues coreAt400 coreAt400 (coreKey coreZero) regs len :=
  ⟨rfl, rfl, rfl, fun _ => rfl⟩

theorem vldbUnderP1_address : (0x400 : Word) = vmAddr (coreAt400.proc (coreKey coreZero)) vldbUnderP1 ∧
    eszOf (coreKey coreZero) (fld vldbUnderP1 20 2) = some 2 ∧ localTo (coreKey coreZero) 0x400 = true := by decide +kernel

theorem vldbUnderP1_no_active : vmPg (coreAt400.proc (coreKey coreZero)) vldbUnderP1 &&& runMask 0 (64 / 2) = 0 := by decide +kernel

theorem coreAt400_ready : coreAt400.pondMark = [] ∧ coreAt400.traced (coreKey coreZero) = false ∧
    coreAt400.portUse (coreKey coreZero) = 0 ∧ coreAt400.accessFault (coreKey coreZero) 0x400 2 2 false = none ∧
    coreAt400.hazard (coreKey coreZero) 0x400 2 false = false := by decide +kernel

end Sys2Proof.Machine

open Sys2Proof Sys2Proof.Machine

/-- Refutes O15 in its `vldb` clause: with no active element `vldb` writes no vector register (`vldb_no_active`), where the statement has
an entry for vd put in the table of vector registers. On core 0 with no vector register written before, `vldb` under p1 = 0 leaves that
table empty; no `v` makes it the table that the statement asks for. -/
theorem not_vectorLoadsAndStoresLocal : ¬ Obligations.VectorLoadsAndStoresLocal := by
  intro h
  obtain ⟨haddr, hesz, hnear⟩ := vldbUnderP1_address
  obtain ⟨hclean, htrace, hport, hgranted, hready⟩ := coreAt400_ready
  obtain ⟨-, hvldb⟩ := h coreZero vldbUnderP1 coreAt400 coreAt400 _ 2 _ 0x400 _ rfl rfl (coreAt400_issues _ 4) haddr hesz
    (fun _ => rfl) hclean htrace hport
  obtain ⟨t, v, hx, hr, -⟩ := hvldb hgranted hready hnear
  obtain rfl := Host.Outcome.next.inj ((vldb_no_active (u := .core coreZero) (coreAt400_issues _ 4) hesz vldbUnderP1_no_active).symm.trans hx)
  exact setV_ne_of_empty rfl ((retire_retired ..).regs.symm.trans hr.regs)
end

section
/-! Spans (O17). What the Weir and the packets of a span do lies in clusters, barrier nodes, the recorder and the mesh: `WeirOnly`. The
registers of a unit, memory, and which addresses it may fetch do not depend on them. -/

namespace Sys2Proof.Machine
open Sys2Proof

/-- `t` is `s` but for clusters, packets in the mesh, barrier nodes and event records. -/
def WeirOnly (s t : State) : Prop := ∃ cs ms bs ev, t = { s with clusters := cs, mesh := ms, bars := bs, evrec := ev }

variable {s s' t u : State}

namespace WeirOnly

theorem refl (s : State) : WeirOnly s s := ⟨_, _, _, _, rfl⟩

theorem trans (h : WeirOnly s t) (g : WeirOnly t u) : WeirOnly s u := by
  obtain ⟨cs, ms, bs, ev, rfl⟩ := h
  obtain ⟨cs', ms', bs', ev', rfl⟩ := g
  exact ⟨cs', ms', bs', ev', rfl⟩

theorem ite {c : Prop} [Decidable c] (h : WeirOnly s t) (g : WeirOnly s u) : WeirOnly s (if c then t else u) := by
  split
  · exact h
  · exact g

theorem proc (h : WeirOnly s t) (j : Nat) : t.proc j = s.proc j := by
  obtain ⟨cs, ms, bs, ev, rfl⟩ := h
  rfl

theorem fetchFault (h : WeirOnly s t) (k : Nat) (pc : Word) : t.fetchFault k pc = s.fetchFault k pc := by
  obtain ⟨cs, ms, bs, ev, rfl⟩ := h
  unfold State.fetchFault State.accessFault State.refuses
  rfl

/-- An instruction retired after the Weir's part: the unit's registers, and memory as it was before. -/
theorem retired {k : Nat} {p : Proc} {pc : Word} (h : WeirOnly s u) (hr : Retired u t k p pc) :
    t.proc k = { p with pc := pc } ∧ (s.traced k = false → t.mem = s.mem) := by
  obtain ⟨cs, ms, bs, ev, rfl⟩ := h
  exact ⟨hr.regs, fun ht => (hr.mem ht).2⟩

end WeirOnly

/-- Retirement leaves the Weir's tables and records. -/
theorem Retired.span {k : Nat} {p : Proc} {pc : Word} (h : Retired s t k p pc) (cl id : Nat) :
    (t.cluster cl).span id = (s.cluster cl).span id := congrArg (·.span id) (h.counts cl)

theorem Retired.evrec {k : Nat} {p : Proc} {pc : Word} (h : Retired s t k p pc) : t.evrec = s.evrec := by
  obtain ⟨ps, cs, tr, m, rfl⟩ := h.rest
  rfl

/-! ## The Weir's records and a span's packets -/

theorem weirOnly_emit (s : State) (code src unit : Nat) (pay : List (Nat × Nat)) : WeirOnly s (s.emit code src unit pay) :=
  ⟨_, _, _, _, rfl⟩

theorem weirOnly_poison (s : State) (p : Nat) : WeirOnly s (s.poison p) := ⟨_, _, _, _, rfl⟩

theorem weirOnly_setCluster (s : State) (c : Nat) (x : Cluster) : WeirOnly s (s.setCluster c x) := ⟨_, _, _, _, rfl⟩

theorem weirOnly_send (s : State) (p : Packet) : WeirOnly s (s.send p) := ⟨_, _, _, _, rfl⟩

theorem weirOnly_countEv (s : State) (k ev arr n : Nat) : WeirOnly s (s.countEv k ev arr n) := by
  rcases countEv_cases s k ev arr n with h | ⟨c, cnt, h⟩ <;> rw [h]
  · exact .refl s
  · exact weirOnly_setCluster ..

theorem weirOnly_cancelRecord (s : State) (cl core arr : Nat) (sp : Option Span) (n : Nat) :
    WeirOnly s (s.cancelRecord cl core arr sp n) := by
  unfold State.cancelRecord
  exact .ite ((weirOnly_emit ..).trans (weirOnly_poison ..)) (weirOnly_emit ..)

theorem weirOnly_flushCancels (s : State) (k : Nat) : WeirOnly s (s.flushCancels k) := by
  unfold State.flushCancels
  split
  · exact .refl s
  · extract_lets cl core e s1 s2
    have h1 : WeirOnly s s1 := .ite (weirOnly_cancelRecord ..) (.refl s)
    have h2 : WeirOnly s s2 := .ite (h1.trans (weirOnly_cancelRecord ..)) h1
    exact .ite h2 (h2.trans (weirOnly_setCluster ..))

theorem weirOnly_sendRelease (s : State) (k : Nat) (sp : Span) : WeirOnly s (s.sendRelease k sp) :=
  .ite (.refl s) (weirOnly_send ..)

/-- A re-stream request is a packet at most. -/
theorem sendRestream_mesh (s : State) (k : Nat) (sp : Span) : ∃ ms, s.sendRestream k sp = { s with mesh := ms } := by
  unfold State.sendRestream
  split <;> exact ⟨_, rfl⟩

/-! ## Replay calls -/

/-- The span state entry of a replayed span (Table 11.2). -/
def SpanEnt.replays (x : SpanEnt) : SpanEnt := { x with replayed := true, wide := true }

/-- A replay call of array `arr`, noted for the span `id` of core `k` (R256, R317): its entry marked, its record written, its stream
requested again. -/
def State.callReplay (s : State) (k id arr : Nat) (sp : Span) : State :=
  let cl := clOf k
  let x := s.cluster cl
  (((s.setCluster cl { x with spans := Tbl.put x.spans id (x.span id).replays }).emit 0x1101 (cl / 10) (uidCluster cl 0)
    (weirPay cl (k % 9) arr (some sp))).countEv k 0x0F 2 1).sendRestream k sp

theorem countEv_span (s : State) (k ev arr n cl id : Nat) : ((s.countEv k ev arr n).cluster cl).span id = (s.cluster cl).span id := by
  rcases countEv_cases s k ev arr n with h | ⟨d, cnt, h⟩ <;> rw [h]
  by_cases hd : cl = d
  · rw [hd, State.setCluster_cluster_same]
    rfl
  · rw [State.setCluster_cluster_other _ _ _ _ hd]

theorem callReplay_weirOnly (s : State) (k id arr : Nat) (sp : Span) : WeirOnly s (s.callReplay k id arr sp) := by
  rw [State.callReplay]
  obtain ⟨ms, h⟩ := sendRestream_mesh (State.countEv _ k 0x0F 2 1) k sp
  rw [h]
  exact ((weirOnly_setCluster ..).trans (weirOnly_emit ..)).trans ((weirOnly_countEv ..).trans ⟨_, _, _, _, rfl⟩)

theorem callReplay_span (s : State) (k id arr : Nat) (sp : Span) :
    ((s.callReplay k id arr sp).cluster (clOf k)).span id = ((s.cluster (clOf k)).span id).replays := by
  rw [State.callReplay]
  obtain ⟨ms, h⟩ := sendRestream_mesh (State.countEv _ k 0x0F 2 1) k sp
  rw [h]
  refine (countEv_span ..).trans ?_
  rw [State.emit_cluster, State.setCluster_cluster_same]
  exact Tbl.get_put_same ..

theorem callReplay_wrote (s : State) (k id arr : Nat) (sp : Span) : s.Wrote (s.callReplay k id arr sp) 0x1101 := by
  rw [State.callReplay]
  obtain ⟨ms, h⟩ := sendRestream_mesh (State.countEv _ k 0x0F 2 1) k sp
  obtain ⟨cs, hcs⟩ := countEv_withClusters (State.emit _ _ _ _ _) k 0x0F 2 1
  rw [h, hcs]
  exact ⟨_, rfl, rfl⟩

/-! ## `span.begin` -/

/-- The word that `span.begin` writes to rd (R255): the wide format, sticky, a replay execution. -/
def spanWord (wide sticky replay : Bool) : Word :=
  BitVec.ofNat 64 ((if wide then 1 else 0) + (if sticky then 2 else 0) + if replay then 4 else 0)

theorem spanWord_bits (wide sticky replay : Bool) :
    (spanWord wide sticky replay).getLsbD 0 = wide ∧ (spanWord wide sticky replay).getLsbD 1 = sticky ∧
      (spanWord wide sticky replay).getLsbD 2 = replay := by
  revert wide sticky replay
  decide

theorem spanWord_high (wide sticky replay : Bool) {i : Nat} (hi : 3 ≤ i) : (spanWord wide sticky replay).getLsbD i = false := by
  have hlt : (spanWord wide sticky replay).toNat < 2 ^ 3 := by
    revert wide sticky replay
    decide
  exact Nat.testBit_lt_two_pow (hlt.trans_le (Nat.pow_le_pow_right (by norm_num) hi))

/-- The registers of a core that opens a span whose state entry is `e`. -/
def Proc.openSpan (p : Proc) (e : SpanEnt) (id : Nat) (stream range : Word) : Proc :=
  { p with nf := e.wide || p.replayNext, span := some ⟨id, p.nf, p.pc, p.replayNext, stream, range⟩, replayNext := false }

/-- The registers of a core whose span `sp` is closed. -/
def Proc.closeSpan (p : Proc) (sp : Span) : Proc := { p with nf := sp.savedNf, span := none }

variable {c : CoreId} {f : BitVec 25} {p : Proc} {sp : Span} {e : Exec}

/-- A `span.begin` that opens its span. -/
theorem spanBegin_opens {ent : SpanEnt} (hi : Issues s s' (coreKey c) [.s (rdOf f), .s (raOf f), .s (rbOf f)] 4)
    (hp : p = s'.proc (coreKey c)) (he : ent = (s'.cluster (clOf (coreKey c))).span (syImm f)) (hspan : p.span = none)
    (hbound : badBound ((s'.rb (coreKey c) f).toNat % 2 ^ 32) = false) :
    ∃ u, WeirOnly s' u ∧ exec (.spanBegin (.core c) f) s = .next (u.retire (coreKey c)
      ((p.openSpan ent (syImm f) (s'.ra (coreKey c) f) (s'.rb (coreKey c) f)).setS (rdOf f)
        (spanWord (ent.wide || p.replayNext) ent.sticky p.replayNext)) 4 false 1) := by
  subst hp he
  have hexec : exec (.spanBegin (.core c) f) s = execSpanBegin (.core c) f s := rfl
  simp only [State.rb] at hbound
  simp only [hexec, execSpanBegin, unitKey, List.map_cons, List.map_nil, issue_eq hi, isCore_coreKey c, hspan, hbound,
    Option.isSome_none, Bool.not_true, Bool.false_eq_true, if_false]
  exact ⟨_, (weirOnly_setCluster ..).trans (weirOnly_countEv ..), rfl⟩

/-! ## `span.end` -/

/-- Core `k` reaches the `span.end` of its open span `sp` with nothing of it outstanding (R256). -/
structure SpanEnds (s s' : State) (k : Nat) (f : BitVec 25) (sp : Span) : Prop where
  issues  : Issues s s' k [] 4
  fields  : rdOf f = 0 ∧ raOf f = 0 ∧ rbOf f = 0
  opened  : (s'.proc k).span = some sp
  named   : sp.id = syImm f
  drained : s'.spanBusy k = false

/-- A core whose span has drained ends it by the verdict on its execution. -/
theorem spanEnd_verdict (h : SpanEnds s s' (coreKey c) f sp) (he : e = (s'.cluster (clOf (coreKey c))).exec (coreKey c % 9)) :
    (e.poison = true ∨ e.replay = none → ∃ u, WeirOnly s' u ∧ exec (.spanEnd (.core c) f) s =
      .next (u.retire (coreKey c) ((s'.proc (coreKey c)).closeSpan sp) 4 false 1)) ∧
    (e.poison = false → ∀ arr, e.replay = some arr → exec (.spanEnd (.core c) f) s =
      .next (((s'.flushCancels (coreKey c)).callReplay (coreKey c) (syImm f) arr sp).transfer (coreKey c)
        { (s'.proc (coreKey c)).closeSpan sp with replayNext := true } sp.pc false 0xD)) := by
  subst he
  obtain ⟨hi, ⟨hrd, hra, hrb⟩, hopen, hid, hbusy⟩ := h
  have hflush := weirOnly_flushCancels s' (coreKey c)
  have hexec : exec (.spanEnd (.core c) f) s = execSpanEnd (.core c) f s := rfl
  simp only [hexec, execSpanEnd, unitKey, issue_eq hi, isCore_coreKey c, hrd, hra, hrb, hopen, hid, hbusy, hflush.proc,
    bne_self_eq_false, Bool.not_true, Bool.or_self, Bool.false_eq_true, if_false, ne_eq, not_true_eq_false]
  refine ⟨fun hclean => ?_, fun hpoison arr harr => ?_⟩
  · split
    next arr hpoison hreplay => simp [hpoison, hreplay] at hclean
    next => exact ⟨_, hflush, rfl⟩
    next => exact ⟨_, .ite (hflush.trans (weirOnly_sendRelease ..)) hflush, rfl⟩
  · simp only [hpoison, harr]
    rfl

end Sys2Proof.Machine

open Sys2Proof Sys2Proof.Machine

/-- Settles O17: a span opens by `spanBegin_opens` with the bits of `spanWord`, and closes by the verdict of `spanEnd_verdict`; what the
Weir does beside (`WeirOnly`) touches no register, and `callReplay` marks the span and writes the record. -/
theorem spansOpenAndClose : Obligations.SpansOpenAndClose := by
  rintro c f s s' k p rfl rfl
  refine ⟨fun hi hspan hbound => ?opens, fun hi hrd hra hrb sp e hopen hid hbusy he => ?ends⟩
  case opens =>
    obtain ⟨u, hu, hx⟩ := spanBegin_opens hi rfl rfl hspan hbound
    obtain ⟨hproc, hmem⟩ := hu.retired (retire_retired u ..)
    rw [hu.proc] at hproc
    obtain ⟨hwide, hsticky, hreplay⟩ := spanWord_bits _ _ _
    exact ⟨_, _, hx, hproc, hwide, hsticky, hreplay, fun i hi => spanWord_high _ _ _ hi, hmem⟩
  case ends =>
    obtain ⟨hcloses, hreplays⟩ := spanEnd_verdict ⟨hi, ⟨hrd, hra, hrb⟩, hopen, hid, hbusy⟩ he
    refine ⟨fun hclean => ?closes, fun hpoison hcall hfetch => ?replays⟩
    case closes =>
      obtain ⟨u, hu, hx⟩ := hcloses hclean
      obtain ⟨hproc, hmem⟩ := hu.retired (retire_retired u ..)
      rw [hu.proc] at hproc
      exact ⟨_, hx, hproc, hmem⟩
    case replays =>
      obtain ⟨arr, harr⟩ := Option.isSome_iff_exists.mp hcall
      have hflush := weirOnly_flushCancels s' (coreKey c)
      have hu := hflush.trans (callReplay_weirOnly _ (coreKey c) (syImm f) arr sp)
      have hr := transfer_retired _ _ { (s'.proc (coreKey c)).closeSpan sp with replayNext := true } sp.pc false 0xD
        ((hu.fetchFault ..).trans hfetch)
      obtain ⟨hproc, hmem⟩ := hu.retired hr
      have hspan := (hr.span (clOf (coreKey c)) (syImm f)).trans (callReplay_span ..)
      obtain ⟨r, hrec, hcode⟩ := (callReplay_wrote (s'.flushCancels (coreKey c)) (coreKey c) (syImm f) arr sp).of_evrec hr.evrec
      refine ⟨_, hreplays hpoison arr harr, hproc, congrArg SpanEnt.wide hspan, congrArg SpanEnt.replayed hspan,
        ⟨r, ?_, hcode⟩, hmem⟩
      rw [hrec]
      exact List.mem_append_right _ (List.mem_singleton_self r)
end

section
/-! Descriptor moves (O24). A pond without errors answers a load or a store at once; `ddset` replaces a word of 64 bits, which is said bit
by bit. -/

namespace Sys2Proof.Machine
open Sys2Proof

/-! ## Words of a descriptor -/

/-- The bits of a number put together from `a` low bits, `n` middle bits and the rest. -/
theorem testBit_parts {a n lo m : Nat} (hi i : Nat) (hlo : lo < 2 ^ a) (hm : m < 2 ^ n) :
    (2 ^ a * (2 ^ n * hi + m) + lo).testBit i =
      if i < a then lo.testBit i else if i - a < n then m.testBit (i - a) else hi.testBit (i - a - n) := by
  rw [Nat.testBit_two_pow_mul_add _ hlo, Nat.testBit_two_pow_mul_add _ hm]

/-- A number is its low bits, the bits of a field and the rest. -/
theorem eq_parts (x a n : Nat) : x = 2 ^ a * (2 ^ n * (x / 2 ^ a / 2 ^ n) + x / 2 ^ a % 2 ^ n) + x % 2 ^ a := by
  rw [Nat.div_add_mod, Nat.div_add_mod]

/-- The bits of a number whose field of `n` bits at `a` is replaced by `m`. -/
theorem testBit_replace {a n m : Nat} (x i : Nat) (hm : m < 2 ^ n) :
    (x - x / 2 ^ a % 2 ^ n * 2 ^ a + m * 2 ^ a).testBit i = if a ≤ i ∧ i < a + n then m.testBit (i - a) else x.testBit i := by
  have hlo : x % 2 ^ a < 2 ^ a := Nat.mod_lt _ (Nat.two_pow_pos a)
  have hnew : x - x / 2 ^ a % 2 ^ n * 2 ^ a + m * 2 ^ a = 2 ^ a * (2 ^ n * (x / 2 ^ a / 2 ^ n) + m) + x % 2 ^ a := by
    have hx := eq_parts x a n
    simp only [Nat.mul_add, Nat.mul_comm _ (2 ^ a)] at hx ⊢
    omega
  have hold := testBit_parts (x / 2 ^ a / 2 ^ n) i hlo (Nat.mod_lt (x / 2 ^ a) (Nat.two_pow_pos n))
  rw [← eq_parts] at hold
  rw [hnew, testBit_parts _ _ hlo hm, hold]
  by_cases hlow : i < a
  · rw [if_pos hlow, if_pos hlow, if_neg (by omega)]
  · by_cases hmid : i - a < n
    · rw [if_neg hlow, if_pos hmid, if_pos (by omega)]
    · rw [if_neg hlow, if_neg hlow, if_neg hmid, if_neg hmid, if_neg (by omega)]

theorem getLsbD_setDescWord (d : Desc) (w : Nat) (x : Word) {i : Nat} (hi : i < 256) :
    (setDescWord d w x).getLsbD i = if i / 64 = w then x.getLsbD (i % 64) else d.getLsbD i := by
  have hb := testBit_replace (a := 64 * w) d.toNat i x.isLt
  simp only [setDescWord, BitVec.getLsbD_ofNat, hi, decide_true, Bool.true_and, dbits, hb]
  by_cases hw : i / 64 = w
  · have hrange : 64 * w ≤ i ∧ i < 64 * w + 64 := by omega
    rw [if_pos hw, if_pos hrange, show i - 64 * w = i % 64 by omega]
    rfl
  · have hrange : ¬ (64 * w ≤ i ∧ i < 64 * w + 64) := by omega
    rw [if_neg hw, if_neg hrange]
    rfl

theorem dBase_setDescWord (d : Desc) (x : Word) : dBase (setDescWord d 0 x) = x := by
  refine BitVec.eq_of_getLsbD_eq fun i hi => ?_
  have h0 : i / 64 = 0 := Nat.div_eq_of_lt hi
  simp only [dBase, BitVec.truncate_eq_setWidth, BitVec.getLsbD_setWidth, hi, decide_true, Bool.true_and,
    getLsbD_setDescWord d 0 x (show i < 256 by omega), h0, if_true, Nat.mod_eq_of_lt hi]

/-- Word 0 is BASE: the others stay. -/
theorem setDescWord_zero_above (d : Desc) (x : Word) {i : Nat} (hi : 64 ≤ i) : (setDescWord d 0 x).getLsbD i = d.getLsbD i := by
  by_cases h : i < 256
  · rw [getLsbD_setDescWord d 0 x h, if_neg (by omega)]
  · rw [BitVec.getLsbD_of_ge _ _ (by omega), BitVec.getLsbD_of_ge _ _ (by omega)]

/-! ## Instructions -/

variable {c : CoreId} {f : BitVec 57} {s s' : State} {a : Word}

/-- A descriptor move that needs no mesh is in a pond, at its device address. -/
theorem keyFor_of_ddFault {k : Nat} {write : Bool} (hnear : localTo k a = true) (h : s.ddFault k a write = none) :
    keyFor k a = a.toNat := by
  rcases place_of_localTo hnear with ⟨st, cl, off, ha⟩ | ⟨off, ha⟩ | ⟨off, ha⟩
  · simp only [keyFor, ha]
  · simp [State.ddFault, ha] at h
  · simp [State.ddFault, ha] at h

theorem ddld_loads (hi : Issues s s' (coreKey c) [.d (lD1 f), .s (lRa f)] 8) (hok : lOk f ['1', 'a'] 1 = true)
    (ha : a = (s'.proc (coreKey c)).getS (lRa f)) (hf : s'.ddFault (coreKey c) a false = none)
    (h : LocalAccess s' (coreKey c) a 32 32 false) :
    exec (.ddld (.core c) f) s = .next (s'.retire (coreKey c)
      ((s'.proc (coreKey c)).setD (lD1 f) (BitVec.ofNat 256 (leNat (s'.bytesAt a.toNat 32)))) 8 true 1) := by
  have hexec : exec (.ddld (.core c) f) s = execDdld (.core c) f s := rfl
  simp only [hexec, execDdld, unitKey, issue64_eq hi hok, ← ha, hf, h.ready, h.near, localRead_near h.clean h.near,
    keyFor_of_ddFault h.near hf, Bool.false_eq_true, if_false, if_true]

theorem ddst_stores (hi : Issues s s' (coreKey c) [.d (lD1 f), .s (lRa f)] 8) (hok : lOk f ['1', 'a'] 1 = true)
    (ha : a = (s'.proc (coreKey c)).getS (lRa f)) (hf : s'.ddFault (coreKey c) a true = none)
    (h : LocalAccess s' (coreKey c) a 32 32 true) :
    exec (.ddst (.core c) f) s = .next ((setMem s' (memWrite s'.mem a.toNat
      (leBytes 32 ((s'.proc (coreKey c)).getD (lD1 f)).toNat))).retire (coreKey c) (s'.proc (coreKey c)) 8 true 1) := by
  have hexec : exec (.ddst (.core c) f) s = execDdst (.core c) f s := rfl
  simp only [hexec, execDdst, unitKey, issue64_eq hi hok, ← ha, hf, h.ready, h.near, localWrite_near h.clean h.near,
    keyFor_of_ddFault h.near hf, Bool.false_eq_true, if_false, if_true]

/-- `ddset` replaces word FLAGS mod 4; the form that adds is of BASE alone. -/
theorem ddset_sets (hi : Issues s s' (coreKey c) [.d (lD1 f), .s (lRa f)] 8) (hok : lOk f ['1', 'a'] 8 = true)
    (hfl : lFlags f ≤ 4) (ha : a = (s'.proc (coreKey c)).getS (lRa f)) :
    exec (.ddset (.core c) f) s = .next (s'.retire (coreKey c) ((s'.proc (coreKey c)).setD (lD1 f)
      (setDescWord ((s'.proc (coreKey c)).getD (lD1 f)) (lFlags f % 4)
        (if lFlags f / 4 == 1 then dBase ((s'.proc (coreKey c)).getD (lD1 f)) + a else a))) 8 true 1) := by
  have hexec : exec (.ddset (.core c) f) s = execDdset (.core c) f s := rfl
  have hform : (lOk f ['1', 'a'] 8 && !(lFlags f / 4 == 1 && lFlags f % 4 != 0)) = true := by
    simp [hok]
    omega
  simp only [hexec, execDdset, unitKey, issue64_eq hi hform, ← ha]

/-- A number of `n` bytes stored is read back. -/
theorem leNat_memRead_write (m : List Host.Cell) (key : Nat) {n v : Nat} (hv : v < 256 ^ n) :
    leNat (memRead (memWrite m key (leBytes n v)) key n) = v := by
  have hw := memRead_write m key (leBytes n v)
  rw [leBytes_length] at hw
  rw [hw, leNat_leBytes, Nat.mod_eq_of_lt hv]

end Sys2Proof.Machine

open Sys2Proof Sys2Proof.Machine

/-- Settles O24: the moves retire by `ddld_loads`, `ddst_stores` and `ddset_sets`, and `getLsbD_setDescWord` says every bit of the
descriptor that `ddset` leaves. -/
theorem descriptorMoves : Obligations.DescriptorMoves := by
  rintro c f s s' k p a rfl rfl ha hi
  refine ⟨fun hok hf h => ?load, fun hok hf h ht => ?store, fun hok hfl => ?word, fun hok hfl => ?base⟩
  case load => exact ⟨_, ddld_loads hi hok ha hf h, retire_retired ..⟩
  case store =>
    have hr := retire_retired (setMem s' (memWrite s'.mem a.toNat (leBytes 32 ((s'.proc (coreKey c)).getD (lD1 f)).toNat)))
      (coreKey c) (s'.proc (coreKey c)) 8 true 1
    obtain ⟨-, hout, hproc⟩ := hr.stored ht
    refine ⟨_, ddst_stores hi hok ha hf h, ?_, hout, hproc⟩
    rw [State.bytesAt, (hr.of_setMem ht).1]
    exact leNat_memRead_write _ _ (BitVec.isLt _)
  case word =>
    have hx := ddset_sets hi hok (by omega) ha
    rw [Nat.div_eq_of_lt hfl, Nat.mod_eq_of_lt hfl] at hx
    exact ⟨_, _, hx, retire_retired .., fun i hi => getLsbD_setDescWord _ _ _ hi⟩
  case base =>
    have hx := ddset_sets hi hok (by omega) ha
    rw [hfl] at hx
    exact ⟨_, _, hx, retire_retired .., dBase_setDescWord .., fun i hi => setDescWord_zero_above _ _ hi⟩
end

section
/-! Routers (O39). A gradient block that finds its output's queue full, and no partner in it, is not taken: the queue offers its oldest
block (R288) and the block's residue is not looked at, so a bad block leaves no detection at that moment. -/

namespace Sys2Proof.Machine
open Sys2Proof

theorem offerOldest_safety (s : State) (n o : Nat) : (s.offerOldest n o).safety = s.safety := by
  unfold State.offerOldest
  dsimp only
  split
  · rfl
  · split <;> rfl

/-- A block that finds the queue of its output full and no partner in it leaves the queue's offer of its oldest block, and no more. -/
theorem gblkCombine_full {s : State} {i o : Nat} {p : Packet} (hi : s.mesh[i]? = some p) (hon : s.polderOn (polderOfNode p.loc) = true)
    (hl : p.listed = true) (hk : p.kind = .gblk) (hout : p.out = none) (hr : s.routeOf p = some o)
    (hup : o = 0 ∨ s.outDown p.loc o = none) (hfull : 32 ≤ (s.gblkQueue p.loc o).length)
    (hno : ∀ q : Packet, q.matches p = false) (adder : Bool) :
    exec (.gblkCombine i adder) s = .next (s.offerOldest p.loc o) := by
  change execGblkCombine i adder s = _
  have hdown : (if o = 0 then none else s.outDown p.loc o) = none := by
    rcases hup with h | h <;> simp [h]
  simp only [execGblkCombine, State.atNode, hi, hon, hk, hout, hl, hr, hdown, bne_self_eq_false, Option.isSome_none, Bool.or_self,
    Bool.not_true, Bool.false_eq_true, if_false, if_true]
  split
  next j q hpartner =>
    obtain ⟨x, -, hx⟩ := List.exists_of_findSome?_eq_some hpartner
    simp only [hno, Bool.false_eq_true, if_false] at hx
    split at hx <;> cases hx
  next => rw [if_pos hfull]

/-- A gradient block at its destination, of another engine, whose residue does not agree with its elements. -/
def badBlock : Packet := { mkPacket .gblk 4 0 0 0 with ue := true, blk := ⟨1, [], false, false, 1⟩ }

/-- A bad block waits at node 0, whose polder runs, before a full queue. -/
def fullQueue : State := { State.reset with
  polders := [(0, { Polder.reset with state := 2 })]
  mesh := badBlock :: List.replicate 32 { badBlock with out := some 0 } }

end Sys2Proof.Machine

open Sys2Proof Sys2Proof.Machine

/-- Refutes O39 in its clause on bad blocks: `fullQueue` holds one before a full queue, which does not take it (`gblkCombine_full`), and no
detection is reported. -/
theorem not_routersForwardCombineAndReplay : ¬ Obligations.RoutersForwardCombineAndReplay := by
  intro ⟨h, _⟩
  have hon : fullQueue.polderOn (polderOfNode badBlock.loc) = true := by decide
  obtain ⟨-, -, hgblk, -⟩ := h 0 badBlock fullQueue rfl hon
  obtain ⟨hbad, -⟩ := hgblk false rfl rfl rfl
  obtain ⟨t, ht, -, d, hd, -⟩ := hbad (by decide)
  rw [gblkCombine_full rfl hon rfl rfl rfl rfl (.inl rfl) (by decide) (fun q => by simp [Packet.matches, badBlock])] at ht
  injection ht with ht
  rw [← ht, offerOldest_safety] at hd
  have hnone : fullQueue.safety.queue = [] := rfl
  simp [hnone] at hd
end

section
/-! Requests at their target (O36). Where no error is stored, a protected access leaves nothing but the counters of the stack controllers
(R605) and the bytes that it writes; what is performed is then answered by one `respond`. -/

namespace Sys2Proof.Machine
open Sys2Proof

variable {s : State} {i : Nat} {p : Packet}

/-! ## Accesses without stored errors -/

/-- `s` after a protected access: other counters of the stack controllers, and memory `m`. -/
def State.accessed (s : State) (c : Tbl Word) (m : List Host.Cell) : State := { s with ecnt := c, mem := m }

theorem State.Clean.accessed (h : s.Clean) (c : Tbl Word) (m : List Host.Cell) : (s.accessed c m).Clean := ⟨h.ponds, h.lake⟩

theorem State.Clean.dropPacket (h : s.Clean) (i : Nat) : (s.dropPacket i).Clean := ⟨h.ponds, h.lake⟩

theorem countLines_accessed (s : State) (i off n : Nat) : ∃ c, s.countLines i off n = s.accessed c s.mem := by
  induction n generalizing s off with
  | zero => exact ⟨s.ecnt, rfl⟩
  | succ n ih =>
    obtain ⟨c, hc⟩ := countEmb_ecnt s (32 + (lakeLoc s.slots off).1) i 1
    obtain ⟨d, hd⟩ := ih (s.countEmb (32 + (lakeLoc s.slots off).1) i 1) (off + 64)
    exact ⟨d, by rw [State.countLines, hd, hc]; rfl⟩

theorem eccRead_clean (h : s.Clean) (a : Word) (n requestor : Nat) :
    ∃ c, s.eccRead a n requestor = (s.accessed c s.mem, none) := by
  unfold State.eccRead
  split
  · rw [h.ponds]
    exact ⟨s.ecnt, rfl⟩
  next off _ =>
    obtain ⟨c, hc⟩ := countLines_accessed s 0 (off / 64 * 64) (lineCount off n)
    have hlake := (h.accessed c s.mem).lake
    simp only [hc, hlake]
    exact ⟨c, rfl⟩
  · exact ⟨s.ecnt, rfl⟩

theorem checkRuns_clean (h : s.Clean) (a : Word) (requestor : Nat) (runs : List (Nat × Nat)) :
    ∃ c, s.checkRuns a requestor runs = (s.accessed c s.mem, false) := by
  induction runs generalizing s with
  | nil => exact ⟨s.ecnt, rfl⟩
  | cons r rest ih =>
    obtain ⟨c, hc⟩ := eccRead_clean h (a + BitVec.ofNat 64 r.1) r.2 requestor
    obtain ⟨d, hd⟩ := ih (h.accessed c s.mem)
    refine ⟨d, ?_⟩
    rw [State.checkRuns, hc]
    simp only [hd]
    rfl

theorem eccWrite_clean (h : s.Clean) (a : Word) (bs : List (Option Byte)) (requestor : Nat) :
    ∃ c, s.eccWrite a bs requestor = (s.accessed c (memWriteMask s.mem a.toNat bs), false) := by
  unfold State.eccWrite
  split
  · simp only [h.ponds]
    exact ⟨s.ecnt, rfl⟩
  next off _ =>
    obtain ⟨c, hc⟩ := countLines_accessed s 1 (off / 64 * 64) (lineCount off bs.length)
    have hlake := (h.accessed c s.mem).lake
    simp only [hc, hlake]
    exact ⟨c, rfl⟩
  · exact ⟨s.ecnt, rfl⟩

/-- The word takes the value of `amoNew`, and no other byte changes (R175). -/
theorem amoAt_clean {a b e old : Word} (h : s.Clean) (fn : Nat) (hold : old = BitVec.ofNat 64 (s.natAt a.toNat 8)) (requestor : Nat) :
    ∃ c m, s.amoAt fn a b e requestor = (s.accessed c m, old, false) ∧
      leNat (memRead m a.toNat 8) = (amoValue fn old b e).toNat ∧ s.SameMemOutside (setMem s m) a.toNat 8 := by
  obtain ⟨c, hc⟩ := eccRead_clean h a 8 requestor
  have hnat : BitVec.ofNat 64 ((s.accessed c s.mem).natAt a.toNat 8) = old := hold.symm
  simp only [State.amoAt, hc, hnat, amoValue]
  rcases amoNew fn old b e with _ | x
  · refine ⟨c, s.mem, rfl, ?_, fun _ _ => rfl⟩
    rw [Option.getD_none, hold, State.natAt, toNat_ofNat_leNat (memRead_length ..).le]
  · obtain ⟨d, hd⟩ := eccWrite_clean (h.accessed c s.mem) a (present (leBytes 8 x.toNat)) requestor
    rw [memWriteMask_present] at hd
    have hread := memRead_write s.mem a.toNat (leBytes 8 x.toNat)
    rw [leBytes_length] at hread
    refine ⟨d, _, by simp only [hd]; rfl, ?_, fun b hb => memByte_write_outside _ _ _ _ (by rwa [leBytes_length])⟩
    rw [hread, leNat_leBytes, Option.getD_some]
    exact Nat.mod_eq_of_lt x.isLt

/-- A write leaves the bytes of its gaps (R221). -/
theorem memByte_writeGaps (m : List Host.Cell) (k : Nat) (bs : List Byte) (gaps : List Nat) {j : Nat} (hj : j < bs.length) :
    memByte (memWriteMask m k (withGaps bs gaps)) (k + j) =
      if gaps.contains j then memByte m (k + j) else bs.getD j 0 := by
  rw [memByte_writeMask, if_pos (Nat.le_add_right k j), Nat.add_sub_cancel_left]
  simp only [withGaps, List.getElem?_map, List.getElem?_zipIdx, List.getElem?_eq_getElem hj, List.getD, Option.map_some, Option.getD_some,
    Nat.zero_add]
  split <;> rfl

theorem memByte_writeGaps_outside (m : List Host.Cell) (k : Nat) (bs : List Byte) (gaps : List Nat) {a : Nat}
    (h : a < k ∨ k + bs.length ≤ a) : memByte (memWriteMask m k (withGaps bs gaps)) a = memByte m a := by
  rw [memByte_writeMask]
  split
  next hk =>
    have hnone : (withGaps bs gaps)[a - k]? = none := by
      rw [List.getElem?_eq_none_iff, withGaps, List.length_map, List.length_zipIdx]
      omega
    rw [hnone]
    rfl
  next => rfl

/-! ## Answers -/

theorem respond_answers (p : Packet) (status : Nat) (data : List Byte) :
    (respond p status data).Answers p (respond p status data).kind status data := ⟨rfl, rfl, rfl, rfl, rfl, rfl, rfl⟩

theorem respond_rd (h : p.kind = .rd) (status : Nat) (data : List Byte) : (respond p status data).Answers p .rdr status data := by
  have hk : (respond p status data).kind = .rdr := by simp [respond, mkPacket, h]
  exact hk ▸ respond_answers ..

theorem respond_wr (h : p.kind = .wr) (status : Nat) (data : List Byte) : (respond p status data).Answers p .wack status data := by
  have hk : (respond p status data).kind = .wack := by simp [respond, mkPacket, h]
  exact hk ▸ respond_answers ..

theorem respond_amo (h : p.kind = .amo) (status : Nat) (data : List Byte) : (respond p status data).Answers p .amor status data := by
  have hk : (respond p status data).kind = .amor := by simp [respond, mkPacket, h]
  exact hk ▸ respond_answers ..

/-- A refused request leaves its answer and one record (R24). -/
structure TurnedAway (s t : State) (i : Nat) (p : Packet) (status : Nat) : Prop where
  mesh  : t.mesh = s.mesh.eraseIdx i ++ [respond p status []]
  wrote : s.Wrote t 0x7101
  mem   : t.mem = s.mem

theorem turnAway_turned (s : State) (i : Nat) (p : Packet) (status : Nat) :
    TurnedAway s ((s.dropPacket i).turnAway p status) i p status := by
  unfold State.turnAway
  extract_lets pol pay
  split
  · exact ⟨by simp [State.send, State.dropPacket], (detect_wrote (s := s.dropPacket i) ..).of_evrec rfl, by simp [State.send]⟩
  · exact ⟨rfl, emit_wrote (s := s.dropPacket i) .., rfl⟩

/-- A packet whose CRC-32 fails is discarded and detected (R273). -/
structure Discarded (s t : State) (i : Nat) : Prop where
  mesh  : t.mesh = s.mesh.eraseIdx i
  wrote : s.Wrote t 0x4103
  mem   : t.mem = s.mem
  reqs  : t.reqs = s.reqs

theorem arrive_discarded {k : PKind} (h : s.Arrived i p k) (f : Packet → State) :
    Discarded s (s.arrive i true (·.kind == k) f) i := by
  have hx : s.arrive i true (·.kind == k) f = (s.dropPacket i).detect 0x4103 (polderOfNode p.loc) (uidNode p.loc)
      [(2, p.loc), (2, nodeCode p.src), (1, p.kind.opc), (2, p.tid)] := by
    simp [State.arrive, State.atNode, h.place, h.kind, h.home, h.fits, h.home ▸ h.runs]
  rw [hx]
  exact ⟨detect_mesh .., (detect_wrote (s := s.dropPacket i) ..).of_evrec rfl, State.detect_mem, detect_reqs ..⟩

/-! ## Requests that are refused -/

theorem rdRequest_refused {status : Nat} (h : s.Arrived i p .rd) (hr : s.refusal p p.size false = some status) :
    exec (.rdRequest i false) s = .next ((s.dropPacket i).turnAway p status) := by
  change execRdRequest i false s = _
  simp only [execRdRequest, arrive_arrived h, hr]

theorem wrRequest_refused {status : Nat} (h : s.Arrived i p .wr) (hr : s.refusal p p.data.length true = some status) :
    exec (.wrRequest i false) s = .next ((s.dropPacket i).turnAway p status) := by
  change execWrRequest i false s = _
  simp only [execWrRequest, arrive_arrived h, hr]

theorem amoRequest_refused {status : Nat} (h : s.Arrived i p .amo) (hr : s.refusal p 8 true = some status) :
    exec (.amoRequest i false) s = .next ((s.dropPacket i).turnAway p status) := by
  change execAmoRequest i false s = _
  simp only [execAmoRequest, arrive_arrived h, hr]

/-! ## Requests that are performed -/

theorem rdRequest_reads (h : s.Arrived i p .rd) (hc : s.Clean) (hplace : ∀ off, place p.addr ≠ .window off)
    (hr : s.refusal p p.size false = none) :
    ∃ c, exec (.rdRequest i false) s = .next (((s.dropPacket i).accessed c s.mem).send (respond p 0 (s.bytesAt p.addr.toNat p.size))) := by
  obtain ⟨c, hx⟩ := checkRuns_clean (hc.dropPacket i) p.addr (s.requestor p) (activeRuns p.gaps p.size)
  refine ⟨c, ?_⟩
  change execRdRequest i false s = _
  simp only [execRdRequest, arrive_arrived h, hr, hx]
  rfl

theorem wrRequest_writes (h : s.Arrived i p .wr) (hc : s.Clean) (hplace : ∀ off, place p.addr ≠ .window off)
    (hr : s.refusal p p.data.length true = none) :
    ∃ c, exec (.wrRequest i false) s =
      .next (((s.dropPacket i).accessed c (memWriteMask s.mem p.addr.toNat (withGaps p.data p.gaps))).send (respond p 0 [])) := by
  obtain ⟨c, hx⟩ := eccWrite_clean (hc.dropPacket i) p.addr (withGaps p.data p.gaps) (s.requestor p)
  refine ⟨c, ?_⟩
  change execWrRequest i false s = _
  simp only [execWrRequest, arrive_arrived h, hr, hx]
  rfl

theorem amoRequest_updates (h : s.Arrived i p .amo) (hc : s.Clean) (hr : s.refusal p 8 true = none) {old b e : Word}
    (hold : old = BitVec.ofNat 64 (s.natAt p.addr.toNat 8)) (hb : b = BitVec.ofNat 64 (leNat (p.data.take 8)))
    (he : e = BitVec.ofNat 64 (leNat ((p.data.drop 8).take 8))) :
    ∃ c m, exec (.amoRequest i false) s = .next (((s.dropPacket i).accessed c m).send (respond p 0 (leBytes 8 old.toNat))) ∧
      leNat (memRead m p.addr.toNat 8) = (amoValue p.op old b e).toNat ∧ s.SameMemOutside (setMem s m) p.addr.toNat 8 := by
  obtain ⟨c, m, hx, hval, hout⟩ := amoAt_clean (a := p.addr) (b := b) (e := e) (hc.dropPacket i) p.op hold
    (s.requestor p)
  refine ⟨c, m, ?_, hval, hout⟩
  change execAmoRequest i false s = _
  rw [hb, he] at hx
  simp only [execAmoRequest, arrive_arrived h, hr, List.drop_zero, hx]

/-- The new word of an atomic operation by its code (R175). -/
theorem amoValue_of_op {op : Nat} (h : op ≤ 2) (old b e : Word) :
    amoValue op old b e = if op = 0 then old + b else if op = 1 then b else if old = e then b else old := by
  obtain rfl | rfl | rfl : op = 0 ∨ op = 1 ∨ op = 2 := by omega
  · rfl
  · rfl
  · exact amoValue_cas ..

/-! ## The flash window (R403) -/

theorem rdRequest_reads_window {off : Nat} (h : s.Arrived i p .rd) (hplace : place p.addr = .window off)
    (hr : s.refusal p p.size false = none) :
    exec (.rdRequest i false) s = .next ((s.dropPacket i).send (respond p 0 (s.windowRead off p.size))) := by
  change execRdRequest i false s = _
  simp only [execRdRequest, arrive_arrived h, hr, hplace]

theorem wrRequest_writes_window {off : Nat} (h : s.Arrived i p .wr) (hplace : place p.addr = .window off)
    (hr : s.refusal p p.data.length true = none) :
    exec (.wrRequest i false) s = .next (((s.dropPacket i).windowWrite off p.data).send (respond p 0 [])) := by
  change execWrRequest i false s = _
  simp only [execWrRequest, arrive_arrived h, hr, hplace]

theorem windowWrite_entries {off : Nat} (h : 0x080200 ≤ off ∨ off < 0x080000) (bs : List Byte) :
    s.windowWrite off bs = setMem s (memWrite s.mem (2 ^ 71 + off) bs) := if_neg (by omega)

theorem windowWrite_doorbell {x : Nat} (h : x < 64) (bs : List Byte) :
    s.windowWrite (0x080000 + 8 * x) bs = s.ringFlash x (leNat bs % 64) := by
  rw [State.windowWrite, if_pos (by omega), show (0x080000 + 8 * x - 0x080000) / 8 = x by omega]

theorem ringFlash_flq (s : State) (x tail : Nat) : (s.ringFlash x tail).flq x = { s.flq x with tail := tail % 64 } :=
  Tbl.get_put_same ..

end Sys2Proof.Machine

open Sys2Proof Sys2Proof.Machine

/-- Settles O36: a request that is granted is performed and answered (`rdRequest_reads`, `wrRequest_writes`, `amoRequest_updates`; in the
flash window `rdRequest_reads_window`, `wrRequest_writes_window`), one that is refused is turned away (`turnAway_turned`), and one whose
CRC-32 fails is discarded (`arrive_discarded`). -/
theorem requestsAreServedAndAnswered : Obligations.RequestsAreServedAndAnswered := by
  refine ⟨fun i p s hc hplace => ⟨fun h => ⟨fun hr => ?read, fun st hr => ?readRefused, ?readBad⟩,
    fun h => ⟨fun hr => ?write, fun st hr => ?writeRefused, ?writeBad⟩, fun h st hr => ?amoRefused,
    fun h hr old b e hold hb he hop => ?amo⟩,
    fun i p s off hplace => ⟨fun h hr => ?windowRead, fun h hr hoff => ?windowWrite, fun x h hr hoff hx => ?doorbell⟩⟩
  case read =>
    obtain ⟨c, hx⟩ := rdRequest_reads h hc hplace hr
    exact ⟨_, _, hx, rfl, respond_rd h.kind .., rfl, rfl⟩
  case readRefused =>
    have ht := turnAway_turned s i p st
    exact ⟨_, _, rdRequest_refused h hr, ht.mesh, respond_rd h.kind .., ht.wrote, ht.mem⟩
  case readBad =>
    have ht := arrive_discarded h
    exact ⟨_, rfl, (ht _).mesh, (ht _).wrote, (ht _).mem, (ht _).reqs⟩
  case write =>
    obtain ⟨c, hx⟩ := wrRequest_writes h hc hplace hr
    exact ⟨_, _, hx, rfl, respond_wr h.kind .., fun j hj => memByte_writeGaps _ _ _ _ hj,
      fun a ha => memByte_writeGaps_outside _ _ _ _ ha, rfl⟩
  case writeRefused =>
    have ht := turnAway_turned s i p st
    exact ⟨_, _, wrRequest_refused h hr, ht.mesh, respond_wr h.kind .., ht.wrote, ht.mem⟩
  case writeBad =>
    have ht := arrive_discarded h
    exact ⟨_, rfl, (ht _).mesh, (ht _).wrote, (ht _).mem⟩
  case amoRefused =>
    have ht := turnAway_turned s i p st
    exact ⟨_, _, amoRequest_refused h hr, ht.mesh, respond_amo h.kind .., ht.wrote, ht.mem⟩
  case amo =>
    obtain ⟨c, m, hx, hval, hout⟩ := amoRequest_updates h hc hr hold hb he
    rw [amoValue_of_op hop] at hval
    exact ⟨_, _, hx, rfl, respond_amo h.kind .., hval, hout, rfl⟩
  case windowRead => exact ⟨_, _, rdRequest_reads_window h hplace hr, rfl, respond_rd h.kind .., rfl⟩
  case windowWrite =>
    have hx := wrRequest_writes_window h hplace hr
    rw [windowWrite_entries hoff] at hx
    exact ⟨_, _, hx, rfl, respond_wr h.kind .., memRead_write .., fun a ha => memByte_write_outside _ _ _ _ ha⟩
  case doorbell =>
    subst hoff
    have hx' := wrRequest_writes_window h hplace hr
    rw [windowWrite_doorbell hx] at hx'
    have hq := ringFlash_flq (s.dropPacket i) x (leNat p.data % 64)
    have htail := (congrArg FlQueue.tail hq).trans (Nat.mod_mod ..)
    have hhead := congrArg FlQueue.head hq
    exact ⟨_, _, hx', rfl, respond_wr h.kind .., htail, hhead, rfl⟩
end

section
/-! The barrier net (O40, R293 to R296, R248, R249). A node's bars are counters by BID; an up frame moves those that are complete, a down
frame adds what the node holds to each child's, and frees the members of the polder. A member's part in a down frame is `Proc.released`. -/

namespace Sys2Proof.Machine
open Sys2Proof

variable {s : State}

/-! ## Bits and counters by BID -/

theorem getLsbD_or_one_shl (t : BitVec 16) (b x : Nat) (hx : x < 16) :
    (t ||| (1#16 <<< b)).getLsbD x = (t.getLsbD x || decide (x = b)) := by
  rw [BitVec.getLsbD_or, BitVec.getLsbD_shiftLeft, BitVec.getLsbD_one]
  by_cases h : x < b
  · simp [h, hx, Nat.ne_of_lt h]
  · simp only [hx, h, decide_true, decide_false, Bool.not_false, Bool.true_and, Nat.zero_lt_succ]
    congr 2
    simp only [eq_iff_iff]
    omega

/-- The bits of BIDs are set. -/
theorem getLsbD_foldl_or_bids (l : List Nat) (t : BitVec 16) {x : Nat} (hx : x < 16) :
    (l.foldl (fun (t : BitVec 16) b => t ||| (1#16 <<< b)) t).getLsbD x = (t.getLsbD x || decide (x ∈ l)) := by
  induction l generalizing t with
  | nil => simp
  | cons b r ih => rw [List.foldl_cons, ih, getLsbD_or_one_shl _ _ _ hx]; simp [Bool.or_assoc]

/-- The counts of BIDs are cleared. -/
theorem get_foldl_put_zero (l : List Nat) (t : Tbl Nat) (x : Nat) :
    Tbl.get (l.foldl (fun t b => Tbl.put t b 0) t) 0 x = if x ∈ l then 0 else Tbl.get t 0 x := by
  induction l generalizing t with
  | nil => simp
  | cons b r ih =>
    rw [List.foldl_cons, ih, Tbl.get_put]
    by_cases hb : x = b <;> simp [hb]

/-- The counts of BIDs go up by one. -/
theorem get_foldl_put_succ {l : List Nat} (hl : l.Nodup) (t : Tbl Nat) (x : Nat) :
    Tbl.get (l.foldl (fun t b => Tbl.put t b (Tbl.get t 0 b + 1)) t) 0 x = Tbl.get t 0 x + if x ∈ l then 1 else 0 := by
  induction l generalizing t with
  | nil => simp
  | cons b r ih =>
    obtain ⟨hb, hr⟩ := List.nodup_cons.mp hl
    rw [List.foldl_cons, ih hr, Tbl.get_put]
    by_cases hx : x = b
    · subst hx
      simp [hb]
    · simp [hx]

/-! ## Up frames -/

/-- The complete barriers of a node. -/
theorem mem_full {p bid : Nat} : bid ∈ (List.range 16).filter (s.barFull p) ↔ bid < 16 ∧ s.barFull p bid = true := by
  simp [List.mem_filter]

theorem nodup_full (p : Nat) : ((List.range 16).filter (s.barFull p)).Nodup := List.nodup_range.filter _

theorem barrierUpFrame_sends {p : Fin 60} {q : Nat} (hp : s.polderOn p = true) (hup : s.barUp p = some q) (hroot : q ≠ 56)
    (hq : s.polderOn q = true) : exec (.barrierUpFrame p) s = .next (s.upFrame p q) := by
  change execBarrierUpFrame p s = _
  simp [execBarrierUpFrame, hp, hup, hq, hroot]

theorem barrierUpFrame_root {p : Fin 60} (hp : s.polderOn p = true) (hup : s.barUp p = none) :
    exec (.barrierUpFrame p) s = .next s.rootPoison.rootLook := by
  change execBarrierUpFrame p s = _
  simp [execBarrierUpFrame, hp, hup]

/-- What an up frame leaves at the sender's node and at its parent's (R294, R296). -/
structure SentUp (s t : State) (p q : Nat) : Prop where
  cleared : (t.bar p).poison = false
  poison  : (t.bar q).poison = ((s.bar q).poison || (s.bar p).poison)
  full    : ∀ bid < 16, s.barFull p bid = true →
    t.barCount p bid = 0 ∧ (t.bar p).sentUp.getLsbD bid = true ∧ t.barCount q bid = s.barCount q bid + 1
  waiting : ∀ bid < 16, s.barFull p bid = false → t.barCount p bid = s.barCount p bid ∧ t.barCount q bid = s.barCount q bid

theorem upFrame_sentUp (s : State) {p q : Nat} (h : q ≠ p) : SentUp s (s.upFrame p q) p q := by
  have hself : (s.upFrame p q).bar p = { s.bar p with
      count := ((List.range 16).filter (s.barFull p)).foldl (fun t b => Tbl.put t b 0) (s.bar p).count
      sentUp := ((List.range 16).filter (s.barFull p)).foldl (fun (t : BitVec 16) b => t ||| (1#16 <<< b)) (s.bar p).sentUp
      poison := false } := by
    rw [State.upFrame, State.setBar_bar_other _ _ _ _ h.symm, State.setBar_bar_same]
  have hpar : (s.upFrame p q).bar q = { s.bar q with
      count := ((List.range 16).filter (s.barFull p)).foldl (fun t b => Tbl.put t b (Tbl.get t 0 b + 1)) (s.bar q).count
      poison := (s.bar q).poison || (s.bar p).poison } := by
    rw [State.upFrame, State.setBar_bar_same, State.setBar_bar_other _ _ _ _ h]
  refine ⟨by rw [hself], by rw [hpar], fun bid hb hf => ?_, fun bid hb hf => ?_⟩
  · have hin : bid ∈ (List.range 16).filter (s.barFull p) := mem_full.mpr ⟨hb, hf⟩
    simp only [State.barCount, hself, hpar, get_foldl_put_zero, getLsbD_foldl_or_bids _ _ hb, get_foldl_put_succ (nodup_full p), hin,
      if_true, decide_true, Bool.or_true, and_self]
  · have hout : bid ∉ (List.range 16).filter (s.barFull p) := fun hm => by simp [hf] at hm
    simp only [State.barCount, hself, hpar, get_foldl_put_zero, get_foldl_put_succ (nodup_full p), hout, if_false, Nat.add_zero,
      and_self]

/-! ## The root -/

/-- What the root does about one barrier as it looks at its counts. -/
def State.lookAt (s : State) (bid : Nat) : State :=
  if s.barFull 56 bid && !(bid == 0 && (s.bar 56).sentUp.getLsbD 0) then s.rootDone bid else s

theorem rootLook_eq (s : State) : s.rootLook = (List.range 16).foldl State.lookAt s := rfl

/-- While nothing is complete the root releases nothing. -/
theorem foldl_lookAt_idle {l : List Nat} (h : ∀ c ∈ l, s.barFull 56 c = false) : l.foldl State.lookAt s = s := by
  induction l with
  | nil => rfl
  | cons c r ih =>
    rw [List.foldl_cons, State.lookAt, h c (List.mem_cons_self ..), Bool.false_and, if_neg Bool.false_ne_true]
    exact ih fun d hd => h d (List.mem_cons_of_mem _ hd)

theorem lookAt_full {b : Nat} (hfull : s.barFull 56 b = true) (hsent : b = 0 → (s.bar 56).sentUp.getLsbD 0 = false) :
    s.lookAt b = s.rootDone b := by
  refine if_pos ?_
  by_cases h : b = 0
  · rw [hfull, hsent h, Bool.and_false]
    rfl
  · simp [hfull, h]

/-- One barrier alone is complete at the root. -/
theorem rootLook_one {b : Nat} (hb : b < 16) (hfull : s.barFull 56 b = true) (hsent : b = 0 → (s.bar 56).sentUp.getLsbD 0 = false)
    (hbefore : ∀ c < 16, c ≠ b → s.barFull 56 c = false) (hafter : ∀ c < 16, c ≠ b → (s.rootDone b).barFull 56 c = false) :
    s.rootLook = s.rootDone b := by
  obtain ⟨l, r, hlr⟩ := List.append_of_mem (List.mem_range.mpr hb)
  have hnd : (l ++ b :: r).Nodup := hlr ▸ List.nodup_range
  have hlt : ∀ c ∈ l ++ b :: r, c < 16 := fun c hc => List.mem_range.mp (hlr ▸ hc)
  rw [List.nodup_append, List.nodup_cons] at hnd
  obtain ⟨-, ⟨hbr, -⟩, hlb⟩ := hnd
  have hl : l.foldl State.lookAt s = s :=
    foldl_lookAt_idle fun c hc => hbefore c (hlt c (by simp [hc])) (hlb c hc b (by simp))
  rw [rootLook_eq, hlr, List.foldl_append, List.foldl_cons, hl, lookAt_full hfull hsent]
  exact foldl_lookAt_idle fun c hc => hafter c (hlt c (by simp [hc])) (fun he => hbr (he ▸ hc))

theorem rootPoison_of_clear (h : (s.bar 56).poison = false) : s.rootPoison = s := by
  simp [State.rootPoison, h]

/-- A barrier of one engine that is complete at the root: its count is cleared, and it is released, or waits for the step (BID 0). -/
theorem rootDone_local {b : Nat} (hscope : s.barScope b = false) :
    s.rootDone b = if b = 0 then (s.setBar 56 { s.bar 56 with count := Tbl.put (s.bar 56).count 0 0 }).setBar 56
        { s.bar 56 with count := Tbl.put (s.bar 56).count 0 0, sentUp := (s.bar 56).sentUp ||| 1 }
      else (s.setBar 56 { s.bar 56 with count := Tbl.put (s.bar 56).count b 0 }).rootRelease b := by
  have hs : (s.setBar 56 { s.bar 56 with count := Tbl.put (s.bar 56).count b 0 }).barScope b = false := hscope
  simp only [State.rootDone, hs, Bool.false_and, Bool.false_eq_true, if_false]
  split
  next h => rw [State.setBar_bar_same, h]
  next => rfl

/-- What the root's release of a barrier leaves at its node. -/
theorem rootRelease_bar (s : State) (b : Nat) : (s.rootRelease b).bar 56 = { s.bar 56 with
    rel := (s.bar 56).rel ||| (1#16 <<< b)
    sentUp := (s.bar 56).sentUp &&& ~~~(1#16 <<< b)
    count := Tbl.put (s.bar 56).count b 0 } :=
  State.setBar_bar_same ..

/-- Clearing the count of one barrier leaves the others'. -/
theorem barFull_of_cleared {t : State} {c : Nat} (hexp : (t.bar 56).expect = (s.bar 56).expect)
    (hcount : Tbl.get (t.bar 56).count 0 c = Tbl.get (s.bar 56).count 0 c) : t.barFull 56 c = s.barFull 56 c := by
  unfold State.barFull State.barExpect State.barCount
  rw [hexp, hcount]

/-- What the root leaves of a barrier of one engine, of BID other than 0. -/
theorem rootLook_releases {b : Nat} (h0 : 0 < b) (hb : b < 16) (hfull : s.barFull 56 b = true) (hscope : s.barScope b = false)
    (hothers : ∀ c < 16, c ≠ b → s.barFull 56 c = false) :
    s.rootLook.bar 56 = { s.bar 56 with
        rel := (s.bar 56).rel ||| (1#16 <<< b)
        sentUp := (s.bar 56).sentUp &&& ~~~(1#16 <<< b)
        count := Tbl.put (Tbl.put (s.bar 56).count b 0) b 0 } ∧
      s.rootLook.mem = s.mem ∧ s.rootLook.procs = s.procs := by
  have hdone := rootDone_local hscope
  rw [if_neg (by omega)] at hdone
  have hbar := rootRelease_bar (s.setBar 56 { s.bar 56 with count := Tbl.put (s.bar 56).count b 0 }) b
  rw [State.setBar_bar_same, ← hdone] at hbar
  rw [rootLook_one hb hfull (by omega) hothers fun c hc hne => ?_]
  · exact ⟨hbar, State.rootDone_mem, by rw [hdone]; rfl⟩
  · rw [barFull_of_cleared (s := s) (by rw [hbar])]
    · exact hothers c hc hne
    · rw [hbar, Tbl.get_put_other _ _ _ _ _ hne, Tbl.get_put_other _ _ _ _ _ hne]

/-- The step-start barrier waits at the root for the step. -/
theorem rootLook_waits (hfull : s.barFull 56 0 = true) (hsent : (s.bar 56).sentUp.getLsbD 0 = false) (hscope : s.barScope 0 = false)
    (hothers : ∀ c < 16, c ≠ 0 → s.barFull 56 c = false) :
    s.rootLook.bar 56 = { s.bar 56 with count := Tbl.put (s.bar 56).count 0 0, sentUp := (s.bar 56).sentUp ||| 1 } ∧
      s.rootLook.mem = s.mem ∧ s.rootLook.procs = s.procs := by
  have hdone := rootDone_local hscope
  rw [if_pos rfl] at hdone
  have hbar : (s.rootDone 0).bar 56 = { s.bar 56 with count := Tbl.put (s.bar 56).count 0 0, sentUp := (s.bar 56).sentUp ||| 1 } := by
    rw [hdone, State.setBar_bar_same]
  rw [rootLook_one (by omega) hfull (fun _ => hsent) hothers fun c hc hne => ?_]
  · exact ⟨hbar, State.rootDone_mem, by rw [hdone]; rfl⟩
  · rw [barFull_of_cleared (s := s) (by rw [hbar])]
    · exact hothers c hc hne
    · rw [hbar, Tbl.get_put_other _ _ _ _ _ hne]

/-! ## Poison at the root -/

/-- The release of a group's barrier keeps what the fence keeps. -/
theorem reacts_rootRelease (s : State) (b : Nat) : Reacts s (s.rootRelease b) := .setBar id

theorem reacts_endRunning (s : State) (opc status r0 : Nat) : Reacts s (s.endRunning opc status r0) := by
  obtain ⟨hs, h⟩ := endRunning_hports s opc status r0
  rw [h]
  exact .of_eq

theorem reacts_cancelTee (s : State) : Reacts s s.cancelTee := .of_eq

theorem reacts_mgrCancel (s : State) : Reacts s s.mgrCancel := by
  unfold State.mgrCancel
  split
  · exact .refl s
  · exact (((reacts_setGroup ..).trans (reacts_broadcast ..)).trans (reacts_cancelTee _)).trans (reacts_endRunning ..)

theorem reacts_groupRelease (s : State) (b gen : Nat) : Reacts s (s.groupRelease b gen) := by
  unfold State.groupRelease
  extract_lets next s0 g s1 s2
  have h0 : Reacts s s0 := .ite (fun _ => reacts_mgrCancel s) (fun _ => .refl s)
  have h1 : Reacts s s1 := h0.trans (reacts_setGroup ..)
  have h2 : Reacts s s2 := .ite (fun _ => h1.trans (reacts_broadcast ..)) (fun _ => h1)
  exact .ite (fun _ => h2.trans (.setBar id)) (fun _ => h2.trans (reacts_rootRelease ..))

theorem reacts_sendCell (s : State) (dst : BitVec 12) (body : CellBody) : Reacts s (s.sendCell dst body) := reacts_routeCell ..

theorem reacts_mgrTry (s : State) (b : Nat) : Reacts s (s.mgrTry b) := by
  unfold State.mgrTry
  refine .ite (fun _ => .refl s) (fun _ => ?_)
  split
  · exact reacts_sendCell ..
  · exact (Reacts.foldl (fun t c => reacts_sendCell t (BitVec.ofNat 12 c) _) s _).trans (reacts_groupRelease ..)

theorem reacts_mgrArrival (s : State) (b gen : Nat) (src : BitVec 12) : Reacts s (s.mgrArrival b gen src) :=
  .ite (fun _ => .emit ..) (fun _ => (reacts_setGroup ..).trans (reacts_mgrTry ..))

theorem reacts_rootDone (s : State) (b : Nat) : Reacts s (s.rootDone b) := by
  unfold State.rootDone
  extract_lets y s1
  have h1 : Reacts s s1 := .setBar id
  refine .ite (fun _ => .ite (fun _ => h1.trans (reacts_mgrArrival ..)) (fun _ => h1.trans (reacts_sendCell ..))) (fun _ => ?_)
  exact .ite (fun _ => h1.trans (.setBar id)) (fun _ => h1.trans (reacts_rootRelease ..))

theorem reacts_rootLook (s : State) : Reacts s s.rootLook :=
  Reacts.foldl (f := State.lookAt) (fun t b => .ite (fun _ => reacts_rootDone t b) (fun _ => .refl t)) ..

/-- Poison of a job's step that reaches the root raises the fence (R296). -/
theorem rootPoison_fences (hpoison : (s.bar 56).poison = true) (hjob : s.job.isSome) : s.rootPoison.safety.fence = true := by
  obtain ⟨j, hj⟩ := Option.isSome_iff_exists.mp hjob
  have hj1 : (s.setBar 56 { s.bar 56 with poison := false }).job = some j := hj
  simp only [State.rootPoison, hpoison, hj1, Bool.not_true, Bool.false_eq_true, if_false]
  generalize hu : ({ s.setBar 56 { s.bar 56 with poison := false } with job := some { j with poisoned := true } } : State) = u
  rw [(faultReaction_reacts u 0 srcWarden).safety]
  obtain ⟨n, p, h, -⟩ := Safety.fenced_eq u.safety u.jobStep
  rw [State.fenceUp, setSafety_safety, h]

end Sys2Proof.Machine
end

section
/-! Release frames (O40, R293 to R295, R248, R249). The frame is a fold over the children's nodes, then over the polder's routers, then over
the BIDs and members; each fold is said by what it leaves at one key. -/

namespace Sys2Proof.Machine
open Sys2Proof

variable {s t : State}

/-! ## Children's nodes and routers -/

theorem foldl_setBar_bar {f : BarNode → BarNode} {l : List Nat} (hl : l.Nodup) (s : State) (c : Nat) :
    (l.foldl (fun t c => t.setBar c (f (t.bar c))) s).bar c = if c ∈ l then f (s.bar c) else s.bar c := by
  induction l generalizing s with
  | nil => simp
  | cons x r ih =>
    obtain ⟨hx, hr⟩ := List.nodup_cons.mp hl
    rw [List.foldl_cons, ih hr]
    by_cases hc : c = x
    · subst hc
      simp [hx]
    · simp [hc, State.setBar_bar_other _ _ _ _ hc]

theorem foldl_setNode_node {f : Node → Node} {l : List Nat} (hl : l.Nodup) (s : State) (n : Nat) :
    (l.foldl (fun t n => t.setNode n (f (t.node n))) s).node n = if n ∈ l then f (s.node n) else s.node n := by
  induction l generalizing s with
  | nil => simp
  | cons x r ih =>
    obtain ⟨hx, hr⟩ := List.nodup_cons.mp hl
    rw [List.foldl_cons, ih hr]
    by_cases hn : n = x
    · subst hn
      simp [hx]
    · simp [hn, State.setNode_node_other _ _ _ _ hn]

/-- A router of a polder with the step number taken (R295). -/
def Node.atStep (n : Node) (step : BitVec 48) : Node := { n with step := step, ctr := 0 }

theorem routersStep_node (s : State) (q : Nat) (step : BitVec 48) (n : Nat) :
    (s.routersStep q step).node n = if n < 662 ∧ polderOfNode n = q then (s.node n).atStep step else s.node n := by
  have h : (s.routersStep q step).node n = _ :=
    foldl_setNode_node (f := (·.atStep step)) (List.nodup_range.filter fun n => polderOfNode n == q) s n
  simpa only [List.mem_filter, List.mem_range, beq_iff_eq] using h

/-! ## The thirds of a step number -/

theorem getLsbD_withThird (n : BitVec 48) {k i : Nat} (x : BitVec 16) (hi : i < 48) :
    (withThird n k x).getLsbD i = if i / 16 = k then x.getLsbD (i % 16) else n.getLsbD i := by
  have hall : (0xFFFF#48).getLsbD (i - 16 * k) = decide (i - 16 * k < 16) := by
    rw [show 0xFFFF#48 = BitVec.setWidth 48 (BitVec.allOnes 16) by decide, BitVec.getLsbD_setWidth, BitVec.getLsbD_allOnes]
    simp only [Bool.and_eq_right_iff_imp, decide_eq_true_eq]
    omega
  simp only [withThird, BitVec.getLsbD_or, BitVec.getLsbD_and, BitVec.getLsbD_not, BitVec.getLsbD_shiftLeft, hall, hi, decide_true,
    Bool.true_and, BitVec.truncate_eq_setWidth, BitVec.getLsbD_setWidth]
  by_cases hk : i / 16 = k
  · have hlow : ¬ i < 16 * k := by omega
    have hin : i % 16 < 16 := Nat.mod_lt _ (by omega)
    have hin' : i % 16 < 48 := by omega
    have hmod : i - 16 * k = i % 16 := by omega
    simp [hlow, hin, hin', hmod, hk]
  · rw [if_neg hk]
    by_cases hlow : i < 16 * k
    · simp [hlow]
    · have hout : ¬ i - 16 * k < 16 := by omega
      simp [hlow, hout, BitVec.getLsbD_of_ge x (i - 16 * k) (by omega)]

/-- The three DATA frames of a step number leave it in the node that takes them (R295). -/
theorem stepFrames_stepNo (y : BitVec 48) (n : Nat) :
    (stepFrames n).foldl (fun m e => withThird m e.1 e.2) y = BitVec.ofNat 48 n := by
  have hf : (stepFrames n).foldl (fun m e => withThird m e.1 e.2) y =
      withThird (withThird (withThird y 0 (BitVec.ofNat 16 (n / 2 ^ (16 * 0)))) 1 (BitVec.ofNat 16 (n / 2 ^ (16 * 1)))) 2
        (BitVec.ofNat 16 (n / 2 ^ (16 * 2))) := rfl
  refine BitVec.eq_of_getLsbD_eq fun i hi => ?_
  have hthird (k : Nat) (hk : i / 16 = k) :
      (BitVec.ofNat 16 (n / 2 ^ (16 * k))).getLsbD (i % 16) = (BitVec.ofNat 48 n).getLsbD i := by
    rw [BitVec.getLsbD_ofNat, BitVec.getLsbD_ofNat, Nat.testBit_div_two_pow, show i % 16 + 16 * k = i by omega]
    simp [Nat.mod_lt, hi]
  rw [hf, getLsbD_withThird _ _ hi, getLsbD_withThird _ _ hi, getLsbD_withThird _ _ hi]
  by_cases h2 : i / 16 = 2
  · rw [if_pos h2, hthird 2 h2]
  by_cases h1 : i / 16 = 1
  · rw [if_neg h2, if_pos h1, hthird 1 h1]
  · have h0 : i / 16 = 0 := by omega
    rw [if_neg h2, if_neg h1, if_pos h0, hthird 0 h0]

/-! ## Members -/

/-- A member's registers after the release of a barrier: its `bar` retires where it waits in that one, unless the fence is raised. -/
def Proc.released (p : Proc) (fence : Bool) (bid : Nat) : Proc :=
  match p.inBar with
  | some (b, _) => if b = bid ∧ ¬ fence then { p with inBar := none, pc := p.pc + 4 } else p
  | none => p

theorem Proc.released_of_out {p : Proc} (h : p.inBar = none) (fence : Bool) (bid : Nat) : p.released fence bid = p := by
  simp [Proc.released, h]

theorem Proc.released_of_other {p : Proc} {b bid : Nat} {sc fence : Bool} (h : p.inBar = some (b, sc)) (hne : fence = true ∨ b ≠ bid) :
    p.released fence bid = p := by
  rcases hne with rfl | hne
  · simp [Proc.released, h]
  · simp [Proc.released, h, hne]

theorem Proc.released_of_in {p : Proc} {b : Nat} {sc : Bool} (h : p.inBar = some (b, sc)) :
    p.released false b = { p with inBar := none, pc := p.pc + 4 } := by
  simp [Proc.released, h]

theorem Proc.released_idem (p : Proc) (fence : Bool) (bid : Nat) : (p.released fence bid).released fence bid = p.released fence bid := by
  rcases h : p.inBar with _ | ⟨b, sc⟩
  · rw [Proc.released_of_out h, Proc.released_of_out h]
  by_cases hb : b = bid ∧ ¬ fence
  · obtain ⟨rfl, hf⟩ := hb
    rw [Bool.not_eq_true] at hf
    rw [hf, Proc.released_of_in h]
    exact Proc.released_of_out rfl ..
  · have hne : fence = true ∨ b ≠ bid := by
      by_cases hf : fence = true
      · exact .inl hf
      · exact .inr fun he => hb ⟨he, hf⟩
    rw [Proc.released_of_other h hne, Proc.released_of_other h hne]

/-- From `s` to `t`, members have retired: the nodes of the barrier net, the routers and the fence stand. -/
structure MembersOnly (s t : State) : Prop where
  bars   : t.bars = s.bars
  nodes  : t.nodes = s.nodes
  safety : t.safety = s.safety

theorem MembersOnly.refl (s : State) : MembersOnly s s := ⟨rfl, rfl, rfl⟩

theorem MembersOnly.trans {u : State} (h : MembersOnly s t) (g : MembersOnly t u) : MembersOnly s u :=
  ⟨g.bars.trans h.bars, g.nodes.trans h.nodes, g.safety.trans h.safety⟩

theorem Retired.membersOnly {k : Nat} {p : Proc} {pc : Word} (h : Retired s t k p pc) : MembersOnly s t := by
  obtain ⟨ps, cs, tr, m, rfl⟩ := h.rest
  exact ⟨rfl, rfl, rfl⟩

theorem freeUnit_membersOnly (s : State) (k bid : Nat) : MembersOnly s (s.freeUnit k bid) := by
  unfold State.freeUnit
  split
  · split
    · exact (retire_retired ..).membersOnly
    · exact .refl s
  · exact .refl s

theorem freeUnit_proc (s : State) (k bid j : Nat) :
    (s.freeUnit k bid).proc j = if j = k then (s.proc k).released s.safety.fence bid else s.proc j := by
  have hsame : s.proc j = if j = k then s.proc k else s.proc j := by
    by_cases hj : j = k <;> simp [hj]
  rcases hin : (s.proc k).inBar with _ | ⟨b, sc⟩
  · rw [Proc.released_of_out hin]
    simp only [State.freeUnit, hin]
    exact hsame
  by_cases hb : b = bid ∧ ¬ s.safety.fence
  · have hr := retire_retired s k { s.proc k with inBar := none } 4 false 1
    obtain ⟨rfl, hf⟩ := hb
    rw [Bool.not_eq_true] at hf
    rw [hf, Proc.released_of_in hin]
    simp only [State.freeUnit, hin, hf, Bool.false_eq_true, not_false_eq_true, and_self, if_true]
    by_cases hj : j = k
    · subst hj
      rw [if_pos rfl]
      exact hr.regs
    · rw [if_neg hj, hr.others j hj]
  · have hne : s.safety.fence = true ∨ b ≠ bid := or_iff_not_imp_left.mpr fun hf he => hb ⟨he, hf⟩
    rw [Proc.released_of_other hin hne]
    simp only [State.freeUnit, hin, if_neg hb]
    exact hsame

theorem foldl_freeUnit (l : List Nat) (s : State) (bid : Nat) :
    MembersOnly s (l.foldl (fun t k => t.freeUnit k bid) s) ∧
      ∀ j, (l.foldl (fun t k => t.freeUnit k bid) s).proc j = if j ∈ l then (s.proc j).released s.safety.fence bid else s.proc j := by
  induction l generalizing s with
  | nil => exact ⟨.refl s, fun j => by simp⟩
  | cons k r ih =>
    obtain ⟨hm, hp⟩ := ih (s.freeUnit k bid)
    have h1 := freeUnit_membersOnly s k bid
    refine ⟨h1.trans hm, fun j => ?_⟩
    rw [List.foldl_cons, hp, freeUnit_proc, h1.safety]
    by_cases hj : j = k
    · subst hj
      by_cases hr : j ∈ r <;> simp [hr, Proc.released_idem]
    · simp [hj]

/-- A unit that waits in a barrier has its registers in the state. -/
theorem mem_procs_of_inBar {k : Nat} (h : (s.proc k).inBar ≠ none) : k ∈ s.procs.map (·.1) := by
  by_contra hno
  have hdef : Tbl.get s.procs { Proc.reset with seedJob := s.seedRest } k = { Proc.reset with seedJob := s.seedRest } := by
    generalize s.procs = l at hno
    induction l with
    | nil => rfl
    | cons e r ih =>
      rw [List.map_cons, List.mem_cons, not_or] at hno
      rw [Tbl.get, if_neg (Ne.symm hno.1), ih hno.2]
  exact h (by rw [State.proc, hdef]; rfl)

theorem freePolder_frees (s : State) (p bid : Nat) : MembersOnly s (s.freePolder p bid) ∧
    ∀ k, (s.freePolder p bid).proc k = if polderOf k = p then (s.proc k).released s.safety.fence bid else s.proc k := by
  obtain ⟨hm, hp⟩ := foldl_freeUnit ((s.procs.map (·.1)).filter (fun k => polderOf k == p)) s bid
  refine ⟨hm, fun k => (hp k).trans ?_⟩
  by_cases hk : polderOf k = p
  · rw [if_pos hk]
    split
    · rfl
    next hout =>
      refine (Proc.released_of_out ?_ ..).symm
      by_contra hin
      exact hout (List.mem_filter.mpr ⟨mem_procs_of_inBar hin, by simp [hk]⟩)
  · simp [List.mem_filter, hk]

/-- The releases `rel` of BIDs in turn, at a member. -/
def Proc.releasedAll (p : Proc) (fence : Bool) (rel : BitVec 16) (l : List Nat) : Proc :=
  l.foldl (fun q bid => if rel.getLsbD bid then q.released fence bid else q) p

/-- The releases of BIDs in turn, at a polder's node. -/
def State.freeAll (s : State) (p : Nat) (rel : BitVec 16) (l : List Nat) : State :=
  l.foldl (fun t bid => if rel.getLsbD bid then t.freePolder p bid else t) s

theorem freeAll_frees (l : List Nat) (s : State) (p : Nat) (rel : BitVec 16) : MembersOnly s (s.freeAll p rel l) ∧
    ∀ k, (s.freeAll p rel l).proc k = if polderOf k = p then (s.proc k).releasedAll s.safety.fence rel l else s.proc k := by
  induction l generalizing s with
  | nil => exact ⟨.refl s, fun k => (ite_self _).symm⟩
  | cons bid r ih =>
    rw [State.freeAll, List.foldl_cons]
    by_cases hb : rel.getLsbD bid = true
    · rw [if_pos hb]
      obtain ⟨h1, hp1⟩ := freePolder_frees s p bid
      obtain ⟨h2, hp2⟩ := ih (s.freePolder p bid)
      refine ⟨h1.trans h2, fun k => (hp2 k).trans ?_⟩
      rw [hp1, h1.safety, Proc.releasedAll, Proc.releasedAll, List.foldl_cons, if_pos hb]
      split <;> rfl
    · rw [if_neg hb]
      obtain ⟨h2, hp2⟩ := ih s
      refine ⟨h2, fun k => (hp2 k).trans ?_⟩
      rw [Proc.releasedAll, Proc.releasedAll, List.foldl_cons, if_neg hb]

theorem Proc.releasedAll_of_out {p : Proc} (h : p.inBar = none) (fence : Bool) (rel : BitVec 16) (l : List Nat) :
    p.releasedAll fence rel l = p := by
  induction l with
  | nil => rfl
  | cons b r ih => rwa [Proc.releasedAll, List.foldl_cons, Proc.released_of_out h, ite_self]

theorem Proc.releasedAll_stays {p : Proc} {bid : Nat} {sc fence : Bool} {rel : BitVec 16} (h : p.inBar = some (bid, sc))
    (hno : fence = true ∨ rel.getLsbD bid = false) (l : List Nat) : p.releasedAll fence rel l = p := by
  induction l with
  | nil => rfl
  | cons b r ih =>
    have hb : (if rel.getLsbD b then p.released fence b else p) = p := by
      by_cases he : bid = b
      · subst he
        rcases hno with hf | hr
        · rw [Proc.released_of_other h (.inl hf), ite_self]
        · rw [hr, if_neg Bool.false_ne_true]
      · rw [Proc.released_of_other h (.inr he), ite_self]
    rwa [Proc.releasedAll, List.foldl_cons, hb]

theorem Proc.releasedAll_goes {p : Proc} {bid : Nat} {sc : Bool} {rel : BitVec 16} (h : p.inBar = some (bid, sc))
    (hrel : rel.getLsbD bid = true) {l : List Nat} (hin : bid ∈ l) :
    p.releasedAll false rel l = { p with inBar := none, pc := p.pc + 4 } := by
  induction l with
  | nil => cases hin
  | cons b r ih =>
    rw [Proc.releasedAll, List.foldl_cons]
    by_cases he : bid = b
    · subst he
      rw [if_pos hrel, Proc.released_of_in h]
      exact Proc.releasedAll_of_out rfl ..
    · rw [Proc.released_of_other h (.inr he), ite_self]
      exact ih ((List.mem_cons.mp hin).resolve_left he)

/-! ## The frame -/

/-- The children's nodes that a down frame of node `p` reaches. -/
def State.barKids (s : State) (p : Nat) : List Nat := (List.range 60).filter (fun c => s.barUp c == some p && s.polderOn c)

/-- The nodes of the barrier net as a down frame of node `p` leaves them. -/
def State.downBars (s : State) (p : Nat) : State :=
  let s1 := (s.barKids p).foldl (fun t c => t.setBar c ((t.bar c).down (s.bar p))) s
  s1.setBar p { s1.bar p with rel := 0, data := [] }

/-- What a down frame of node `p` does before its members go on: its children's nodes, its own, and its routers. -/
def State.downFrame (s : State) (p : Nat) : State :=
  if (s.bar p).rel.getLsbD 0 then (s.downBars p).routersStep p (s.bar p).stepNo else s.downBars p

theorem barrierReleaseFrame_sends {p : Fin 60} (hp : s.polderOn p = true) (h : (s.bar p).rel ≠ 0 ∨ (s.bar p).data ≠ []) :
    exec (.barrierReleaseFrame p) s = .next ((s.downFrame p).freeAll p (s.bar p).rel (List.range 16)) := by
  change execBarrierReleaseFrame p s = _
  have hgo : ¬ (((s.bar p).rel = 0 && (s.bar p).data.isEmpty) || !s.polderOn p) = true := by
    simp only [hp, Bool.not_true, Bool.or_false, Bool.and_eq_true, decide_eq_true_eq, List.isEmpty_iff]
    exact not_and_or.mpr h
  simp only [execBarrierReleaseFrame, if_neg hgo]
  rfl

theorem foldl_setBar_bars (f : State → Nat → BarNode) (l : List Nat) (s : State) :
    ∃ bs, l.foldl (fun t c => t.setBar c (f t c)) s = { s with bars := bs } := by
  induction l generalizing s with
  | nil => exact ⟨s.bars, rfl⟩
  | cons c r ih =>
    obtain ⟨bs, h⟩ := ih (s.setBar c (f s c))
    exact ⟨bs, h⟩

theorem foldl_setNode_nodes (f : State → Nat → Node) (l : List Nat) (s : State) :
    ∃ ns, l.foldl (fun t n => t.setNode n (f t n)) s = { s with nodes := ns } := by
  induction l generalizing s with
  | nil => exact ⟨s.nodes, rfl⟩
  | cons n r ih =>
    obtain ⟨ns, h⟩ := ih (s.setNode n (f s n))
    exact ⟨ns, h⟩

theorem routersStep_nodes (s : State) (q : Nat) (step : BitVec 48) : ∃ ns, s.routersStep q step = { s with nodes := ns } :=
  foldl_setNode_nodes ..

theorem downBars_bars (s : State) (p : Nat) : ∃ bs, s.downBars p = { s with bars := bs } := by
  obtain ⟨bs, h⟩ := foldl_setBar_bars (fun t c => (t.bar c).down (s.bar p)) (s.barKids p) s
  rw [State.downBars, h]
  exact ⟨_, rfl⟩

theorem downBars_kid {p c : Nat} (hc : c ∈ s.barKids p) (hne : c ≠ p) : (s.downBars p).bar c = (s.bar c).down (s.bar p) := by
  have hnd : (s.barKids p).Nodup := List.nodup_range.filter _
  rw [State.downBars, State.setBar_bar_other _ _ _ _ hne, foldl_setBar_bar (f := (·.down (s.bar p))) hnd, if_pos hc]

theorem downBars_own (s : State) (p : Nat) : ((s.downBars p).bar p).rel = 0 ∧ ((s.downBars p).bar p).data = [] := by
  rw [State.downBars, State.setBar_bar_same]
  exact ⟨rfl, rfl⟩

/-- Beyond the barrier net a down frame changes routers, by the step number that it releases (R295). -/
theorem downFrame_nodes (s : State) (p : Nat) : ∃ ns, s.downFrame p = { s.downBars p with nodes := ns } ∧
    ∀ n, (s.downFrame p).node n = if (s.bar p).rel.getLsbD 0 = true ∧ n < 662 ∧ polderOfNode n = p then
      (s.node n).atStep (s.bar p).stepNo else s.node n := by
  obtain ⟨bs, hb⟩ := downBars_bars s p
  have hnode (n : Nat) : (s.downBars p).node n = s.node n := by rw [hb]; rfl
  unfold State.downFrame
  split
  next h0 =>
    obtain ⟨ns, h⟩ := routersStep_nodes (s.downBars p) p (s.bar p).stepNo
    refine ⟨ns, h, fun n => ?_⟩
    rw [routersStep_node, hnode]
    simp [h0]
  next h0 => exact ⟨(s.downBars p).nodes, rfl, fun n => by rw [if_neg fun h => h0 h.1, hnode]⟩

/-- What a release frame of node `p` leaves (R248, R249, R293 to R295). -/
structure FrameSent (s t : State) (p : Nat) : Prop where
  own   : (t.bar p).rel = 0 ∧ (t.bar p).data = []
  kids  : ∀ c ∈ s.barKids p, c ≠ p → t.bar c = (s.bar c).down (s.bar p)
  nodes : ∀ n, t.node n = if (s.bar p).rel.getLsbD 0 = true ∧ n < 662 ∧ polderOfNode n = p then
    (s.node n).atStep (s.bar p).stepNo else s.node n
  procs : ∀ k, t.proc k = if polderOf k = p then (s.proc k).releasedAll s.safety.fence (s.bar p).rel (List.range 16) else s.proc k

theorem releaseFrame_sent (s : State) (p : Nat) : FrameSent s ((s.downFrame p).freeAll p (s.bar p).rel (List.range 16)) p := by
  obtain ⟨bs, hbars⟩ := downBars_bars s p
  obtain ⟨ns, hd, hnode⟩ := downFrame_nodes s p
  obtain ⟨hm, hproc⟩ := freeAll_frees (List.range 16) (s.downFrame p) p (s.bar p).rel
  have hbar (c : Nat) : ((s.downFrame p).freeAll p (s.bar p).rel (List.range 16)).bar c = (s.downBars p).bar c := by
    rw [State.bar, hm.bars, hd]
    rfl
  have hsame (k : Nat) : (s.downFrame p).proc k = s.proc k ∧ (s.downFrame p).safety = s.safety := by
    rw [hd, hbars]
    exact ⟨rfl, rfl⟩
  refine ⟨?_, fun c hc hne => ?_, fun n => ?_, fun k => ?_⟩
  · rw [hbar]
    exact downBars_own s p
  · rw [hbar]
    exact downBars_kid hc hne
  · rw [State.node, hm.nodes]
    exact hnode n
  · obtain ⟨hp, hs⟩ := hsame k
    rw [hproc, hp, hs]

end Sys2Proof.Machine
end

section
/-! The step-start barrier (O40, R295, R325, R328) and the vote at the clear window's end (O40, R347, R361). What precedes the release
of BID 0 writes records and poisons the root, and reads and writes of the Warden leave the job and the group: `State.jobGroup`. -/

namespace Sys2Proof.Machine
open Sys2Proof

variable {s : State}

/-! ## Records of a release -/

theorem WeirOnly.foldl {β : Type} {f : State → β → State} (hf : ∀ s x, WeirOnly s (f s x)) (s : State) (l : List β) :
    WeirOnly s (l.foldl f s) := by
  induction l generalizing s with
  | nil => exact .refl s
  | cons x r ih => exact (hf s x).trans (ih _)

theorem weirOnly_emitStep (s : State) (n code : Nat) (pay : List (Nat × Nat)) : WeirOnly s (s.emitStep n code pay) := ⟨_, _, _, _, rfl⟩

theorem weirOnly_ringCheck (s : State) (n : Nat) (a : Word) : WeirOnly s (s.ringCheck n a) := by
  unfold State.ringCheck
  split
  exact .ite ((weirOnly_emitStep ..).trans (weirOnly_poison ..)) (.refl s)

theorem weirOnly_releaseEvents (s : State) (j : JobSt) (n : Nat) : WeirOnly s (s.releaseEvents j n) := by
  unfold State.releaseEvents
  extract_lets s1
  have h1 : WeirOnly s s1 := by
    simp only [s1]
    split
    · exact .ite (weirOnly_emitStep ..) (.refl s)
    · exact .refl s
  exact h1.trans (.foldl (fun t a => weirOnly_ringCheck t n a) ..)

theorem weirOnly_weirStepCl (s : State) (cl wlimit : Nat) : WeirOnly s (s.weirStepCl cl wlimit) := by
  unfold State.weirStepCl
  exact (weirOnly_setCluster ..).trans (.foldl (fun t e => .ite (weirOnly_emit ..) (.refl t)) ..)

/-- The Weir's tables at a release (R372). -/
theorem weirOnly_weirStep (s : State) : WeirOnly s s.weirStep := .foldl (fun t cl => weirOnly_weirStepCl t cl _) ..

theorem gateRecord_events (s : State) (j : JobSt) (n t0 : Nat) : ∃ ev, s.gateRecord j n t0 = { s with evrec := ev } := by
  unfold State.gateRecord
  split
  · split
    split
    · exact ⟨_, rfl⟩
    · exact ⟨s.evrec, rfl⟩
  · exact ⟨s.evrec, rfl⟩

/-! ## The step-start barrier -/

/-- The job at the start of its next step (R295, R328). -/
def JobSt.started (j : JobSt) (ref : Nat) : JobSt :=
  { j with step := j.nextStep, nextStep := j.nextStep + 1, sched := nextSched j.desc.period j.sched ref, anchor := true,
           gateFrom := none, voted := false, clearAt := none, poisoned := false }

/-- The step has started: its number stands at the root ahead of the release of BID 0 (R295). -/
structure StepStarted (s t : State) (j : JobSt) : Prop where
  rel    : (t.bar 56).rel.getLsbD 0 = true
  sent   : (t.bar 56).sentUp.getLsbD 0 = false
  step   : t.bid0Step = some j.nextStep
  data   : (t.bar 56).data = stepFrames j.nextStep
  stepNo : (t.bar 56).stepNo = BitVec.ofNat 48 j.nextStep
  job    : t.job = some (j.started s.ref)
  mem    : t.mem = s.mem
  procs  : t.procs = s.procs

/-- The start of a step before the Weir's tables and the root: its records, the job's numbers, the energy of the step that ends (R545). -/
def State.numbered (s : State) (j : JobSt) : State :=
  let s1 := s.releaseEvents j j.nextStep
  { s1 with
    job := some (j.started s1.ref)
    power := { s1.power with stepe := s1.power.jobe - s1.power.stepBase, stepBase := s1.power.jobe }
    bid0Step := some j.nextStep
    safety := { s1.safety with lent := none } }

theorem startStep_eq (s : State) (j : JobSt) :
    s.startStep j = ((s.numbered j).weirStep.rootStep j.nextStep).rootRelease 0 := rfl

theorem numbered_job (s : State) (j : JobSt) : (s.numbered j).job = some (j.started s.ref) ∧ (s.numbered j).mem = s.mem ∧
    (s.numbered j).procs = s.procs := by
  obtain ⟨cs, ms, bs, ev, he⟩ := weirOnly_releaseEvents s j j.nextStep
  rw [State.numbered, he]
  exact ⟨rfl, rfl, rfl⟩

theorem startStep_started (s : State) (j : JobSt) : StepStarted s (s.startStep j) j := by
  obtain ⟨hjob, hmem, hprocs⟩ := numbered_job s j
  obtain ⟨cs, ms, bs, ev, hw⟩ := weirOnly_weirStep (s.numbered j)
  have hbar := rootRelease_bar ((s.numbered j).weirStep.rootStep j.nextStep) 0
  have hstep : ((s.numbered j).weirStep.rootStep j.nextStep).bar 56 = { (s.numbered j).weirStep.bar 56 with
    data := stepFrames j.nextStep, stepNo := BitVec.ofNat 48 j.nextStep } := State.setBar_bar_same ..
  rw [← startStep_eq, hstep] at hbar
  have hrest : (s.startStep j).bid0Step = some j.nextStep ∧ (s.startStep j).job = (s.numbered j).job ∧
      (s.startStep j).mem = (s.numbered j).mem ∧ (s.startStep j).procs = (s.numbered j).procs := by
    rw [startStep_eq, hw]
    exact ⟨rfl, rfl, rfl, rfl⟩
  obtain ⟨h0, h1, h2, h3⟩ := hrest
  exact
    { rel := by rw [hbar]; simp
      sent := by rw [hbar]; simp
      step := h0
      data := by rw [hbar]
      stepNo := by rw [hbar]
      job := h1.trans hjob
      mem := h2.trans hmem
      procs := h3.trans hprocs }

/-- With the gate met, the Warden goes on from the state with the wait for the gate written down. -/
def State.pastGate (s : State) (j : JobSt) : State :=
  match j.gateFrom with
  | some t => { s.gateRecord j j.nextStep t with job := some { j with gateFrom := none } }
  | none => s

theorem pastGate_events (hj : s.job = some j) : ∃ ev, s.pastGate j = { s with evrec := ev, job := some { j with gateFrom := none } } := by
  unfold State.pastGate
  split
  next t _ =>
    obtain ⟨ev, h⟩ := gateRecord_events s j j.nextStep t
    exact ⟨ev, by simp only [h]⟩
  next hno =>
    have hsame : s.job = some { j with gateFrom := none } := by rw [hj, ← hno]
    exact ⟨s.evrec, by rw [← hsame]⟩

/-- The release of BID 0 waits at the root for the job's next step. -/
structure StepWaits (s : State) (j : JobSt) : Prop where
  job   : s.job = some j
  fence : s.safety.fence = false
  sent  : (s.bar 56).sentUp.getLsbD 0 = true
  runs  : j.state = 2

theorem bid0Release_closed (h : StepWaits s j) (hg : s.gateMet j = false) :
    exec .bid0Release s = .next { s with job := some { j with gateFrom := some (j.gateFrom.getD s.ref) } } := by
  change execBid0Release s = _
  simp [execBid0Release, h.job, h.fence, h.sent, h.runs, hg]

/-- Is the scheduled start of the step still to come? -/
def JobSt.early (j : JobSt) (ref : Nat) : Bool := match j.sched with | some t => decide (ref < t) | none => false

theorem bid0Release_open (h : StepWaits s j) (hg : s.gateMet j = true) (hl : s.mayLend j = false) :
    exec .bid0Release s = .next (if s.stillLent j || j.early s.ref then s.pastGate j
      else (s.pastGate j).startStep { j with gateFrom := none }) := by
  change execBid0Release s = _
  obtain ⟨ev, hp⟩ := pastGate_events h.job
  have hlend : (s.pastGate j).mayLend { j with gateFrom := none } = false := by rw [hp]; exact hl
  have hlent : (s.pastGate j).stillLent { j with gateFrom := none } = s.stillLent j := by rw [hp]; rfl
  have hx : execBid0Release s = .next (if (s.pastGate j).mayLend { j with gateFrom := none } then (s.pastGate j).lendArrays
      else if (s.pastGate j).stillLent { j with gateFrom := none } || j.early s.ref then s.pastGate j
      else (s.pastGate j).startStep { j with gateFrom := none }) := by
    have hgo : (s.safety.fence || !(s.bar 56).sentUp.getLsbD 0 || j.state != 2) = false := by simp [h.fence, h.sent, h.runs]
    simp only [execBid0Release, h.job, hgo, hg, Bool.not_true, Bool.false_eq_true, if_false]
    rfl
  rw [hx, hlend, hlent, if_neg Bool.false_ne_true]

end Sys2Proof.Machine
end

section
/-! The clear window's end (O40, R347, R361). The Warden's reads of the seals and of the scale table, and its messages, leave the job
and the group: `State.jobGroup`. -/

namespace Sys2Proof.Machine
open Sys2Proof

variable {s : State}

/-! ## What the Warden's accesses leave: the job and the group -/

/-- The job that runs and the engine's place in its group. -/
def State.jobGroup (s : State) : Option JobSt × Group := (s.job, s.group)

theorem State.jobGroup_ite {c : Prop} [Decidable c] (a b : State) :
    (if c then a else b).jobGroup = if c then a.jobGroup else b.jobGroup := apply_ite State.jobGroup c a b

theorem jobGroup_of_eq {α : Type} {t : State} {y : α} {p : State × α} (h : p = (t, y)) : t.jobGroup = p.1.jobGroup := by rw [h]

theorem foldl_jobGroup {β : Type} {f : State → β → State} (hf : ∀ t x, (f t x).jobGroup = t.jobGroup) (s : State) (l : List β) :
    (l.foldl f s).jobGroup = s.jobGroup := by
  induction l generalizing s with
  | nil => rfl
  | cons x r ih => rw [List.foldl_cons, ih, hf]

@[simp] theorem emit_jobGroup {c a u y} : (s.emit c a u y).jobGroup = s.jobGroup := rfl

@[simp] theorem poison_jobGroup {p} : (s.poison p).jobGroup = s.jobGroup := rfl

@[simp] theorem setStack_jobGroup {k x} : (s.setStack k x).jobGroup = s.jobGroup := rfl

@[simp] theorem send_jobGroup {q} : (s.send q).jobGroup = s.jobGroup := rfl

@[simp] theorem setMem_jobGroup {m} : (setMem s m).jobGroup = s.jobGroup := rfl

@[simp] theorem detect_jobGroup {c a u y} : (s.detect c a u y).jobGroup = s.jobGroup := by
  unfold State.detect
  extract_lets s1 s2
  rw [State.jobGroup_ite, poison_jobGroup]
  exact ite_self _

@[simp] theorem countCl_jobGroup {c ev core arr n} : (s.countCl c ev core arr n).jobGroup = s.jobGroup := by
  unfold State.countCl
  extract_lets x
  rw [State.jobGroup_ite]
  exact ite_self _

@[simp] theorem countEmb_jobGroup {u i n} : (s.countEmb u i n).jobGroup = s.jobGroup := by
  obtain ⟨c, h⟩ := countEmb_ecnt s u i n
  rw [h]
  rfl

@[simp] theorem readWord_jobGroup {a req} : (s.readWord a req).1.jobGroup = s.jobGroup := by
  unfold State.readWord
  split
  · rfl
  · exact countCl_jobGroup
  · exact detect_jobGroup

@[simp] theorem stackFail_jobGroup {st} : (s.stackFail st).jobGroup = s.jobGroup := by
  unfold State.stackFail
  extract_lets x
  rw [State.jobGroup_ite]
  exact ite_self _

@[simp] theorem accessLost_jobGroup {st acc off} : (s.accessLost st acc off).jobGroup = s.jobGroup := by
  unfold State.accessLost
  extract_lets s1 x y s2 susp s3 s4
  have h4 : s4.jobGroup = s.jobGroup := detect_jobGroup
  rw [State.jobGroup_ite, stackFail_jobGroup, h4]
  exact ite_self _

@[simp] theorem readAccess_jobGroup {st acc off} : (s.readAccess st acc off).1.jobGroup = s.jobGroup := by
  unfold State.readAccess
  extract_lets key
  split
  · rfl
  · rw [countEmb_jobGroup, emit_jobGroup]
    rfl
  · exact accessLost_jobGroup

@[simp] theorem readLine_jobGroup {off} : (s.readLine off).1.jobGroup = s.jobGroup := by
  simp only [State.readLine, readAccess_jobGroup]

@[simp] theorem countLines_jobGroup {i off fuel} : (s.countLines i off fuel).jobGroup = s.jobGroup := by
  induction fuel generalizing s off with
  | zero => rfl
  | succ m ih => exact ih.trans countEmb_jobGroup

theorem readUnit_jobGroup {lake : Bool} {off a req : Nat} :
    (if lake then s.readLine off else s.readWord a req).1.jobGroup = s.jobGroup := by
  cases lake
  · exact readWord_jobGroup
  · exact readLine_jobGroup

@[simp] theorem scan_jobGroup {lake unit req fuel} : (s.scan lake unit req fuel).1.jobGroup = s.jobGroup := by
  induction fuel generalizing s unit with
  | zero => rfl
  | succ m ih => exact ih.trans readUnit_jobGroup

@[simp] theorem eccRead_jobGroup {a n req} : (s.eccRead a n req).1.jobGroup = s.jobGroup := by
  unfold State.eccRead
  split <;> simp only [scan_jobGroup, countLines_jobGroup, ite_self, State.jobGroup_ite, apply_ite Prod.fst]

@[simp] theorem writeUnit_jobGroup {lake key bs whole req} : (s.writeUnit lake key bs whole req).1.jobGroup = s.jobGroup := by
  unfold State.writeUnit
  split
  · rfl
  split
  · cases lake <;> rfl
  · have hread := readUnit_jobGroup (s := s) (lake := lake) (off := key % 2 ^ 41) (a := key) (req := req)
    generalize (if lake then s.readLine (key % 2 ^ 41) else s.readWord key req) = r at hread ⊢
    obtain ⟨s1, _ | _⟩ := r <;> exact hread

@[simp] theorem writeUnits_jobGroup {lake g key bs req fuel} : (s.writeUnits lake g key bs req fuel).1.jobGroup = s.jobGroup := by
  induction fuel generalizing s key bs with
  | zero => rfl
  | succ m ih =>
    unfold State.writeUnits
    split
    · rfl
    · exact ih.trans writeUnit_jobGroup

@[simp] theorem eccWrite_jobGroup {a bs req} : (s.eccWrite a bs req).1.jobGroup = s.jobGroup := by
  unfold State.eccWrite
  split <;> simp only [setMem_jobGroup, writeUnits_jobGroup, countLines_jobGroup, ite_self, State.jobGroup_ite, apply_ite Prod.fst]

@[simp] theorem wardenLost_jobGroup {a} : (s.wardenLost a).jobGroup = s.jobGroup := detect_jobGroup

@[simp] theorem wardenRead_jobGroup {a n} : (s.wardenRead a n).1.jobGroup = s.jobGroup := by
  unfold State.wardenRead
  grind only [eccRead_jobGroup, wardenLost_jobGroup]

@[simp] theorem wardenWrite_jobGroup {a bs} : (s.wardenWrite a bs).jobGroup = s.jobGroup := by
  unfold State.wardenWrite
  generalize s.spanServed nodeN16 a bs.length = served
  cases served
  · exact wardenLost_jobGroup
  · exact eccWrite_jobGroup

@[simp] theorem fetchSeal_jobGroup {sh unit} : (s.fetchSeal sh unit).1.jobGroup = s.jobGroup := by
  unfold State.fetchSeal
  split
  · exact wardenRead_jobGroup
  split
  all_goals next e => exact (jobGroup_of_eq e).trans eccRead_jobGroup

@[simp] theorem readSeal_jobGroup {sh src unit} : (s.readSeal sh src unit).1.jobGroup = s.jobGroup := by
  have hsuspect : ∀ t : State, ({ t with lkSuspect := true }.detect 0x2304 src unit [(4, sh)]).jobGroup = t.jobGroup :=
    fun _ => detect_jobGroup
  unfold State.readSeal
  grind only [fetchSeal_jobGroup]

end Sys2Proof.Machine
end

section
/-! The vote at the clear window's end (O40, R347, R361). -/

namespace Sys2Proof.Machine
open Sys2Proof

variable {s : State}

@[simp] theorem sealsAll_jobGroup {p l} : (s.sealsAll p l).1.jobGroup = s.jobGroup := by
  have hread := @readSeal_jobGroup
  generalize hf : State.sealsAll = f
  delta State.sealsAll State.sealsAll._f at hf
  revert hread hf
  induction State.readSeal using forAny with | any read =>
  rintro hread rfl
  induction l generalizing s with
  | nil => rfl
  | cons sh l ih => exact ih.trans hread

@[simp] theorem sealedAll_jobGroup {n} : (s.sealedAll n).1.jobGroup = s.jobGroup := by
  simp only [State.sealedAll, sealsAll_jobGroup]

@[simp] theorem quietStep_jobGroup {l n w q} : (s.quietStep l n w q).jobGroup = s.jobGroup := by
  unfold State.quietStep
  split
  · rfl
  · extract_lets x lim
    rw [State.jobGroup_ite]
    exact ite_self _

@[simp] theorem scaleLayer_jobGroup {off n l w} : (s.scaleLayer off n l w).jobGroup = s.jobGroup := by
  unfold State.scaleLayer
  grind only [wardenRead_jobGroup, wardenWrite_jobGroup, emit_jobGroup, quietStep_jobGroup]

@[simp] theorem scaleAll_jobGroup {n ws} : (s.scaleAll n ws).jobGroup = s.jobGroup := by
  unfold State.scaleAll
  split
  · rfl
  · exact foldl_jobGroup (fun _ _ => scaleLayer_jobGroup) ..

@[simp] theorem await_jobGroup {k x} : (s.await k x).2.jobGroup = s.jobGroup := by
  unfold State.await State.xferAdd
  dsimp only
  split <;> rfl

@[simp] theorem sendMessage_jobGroup {node m} : (s.sendMessage node m).jobGroup = s.jobGroup := by
  have hlost : (s.undeliverable node m).jobGroup = s.jobGroup := rfl
  unfold State.sendMessage
  extract_lets g
  split
  · exact hlost
  split
  · exact hlost
  · rfl

@[simp] theorem wardenSend_jobGroup {key x dst dnode a bs fuel} : (s.wardenSend key x dst dnode a bs fuel).jobGroup = s.jobGroup := by
  induction fuel generalizing s a bs with
  | zero => rfl
  | succ m ih => simp only [State.wardenSend, State.jobGroup_ite, ih, sendMessage_jobGroup, await_jobGroup, ite_self]

@[simp] theorem setUe_jobGroup {k x} : (s.setUe k x).jobGroup = s.jobGroup := rfl

@[simp] theorem tellUes_jobGroup {g} : (s.tellUes g).jobGroup = s.jobGroup := by
  unfold State.tellUes
  generalize List.range 44 = units
  exact foldl_jobGroup (fun _ _ => setUe_jobGroup) ..

/-! ## What the vote does -/

/-- Every update engine of a list takes the update. -/
theorem foldl_setUe_all {P : UpEng → Prop} {g : UpEng → UpEng} (hg : ∀ x, P (g x)) (k : Nat) (l : List Nat) (s : State)
    (h : k ∈ l ∨ P (s.ue k)) : P ((l.foldl (fun t k => t.setUe k (g (t.ue k))) s).ue k) := by
  induction l generalizing s with
  | nil => exact h.resolve_left List.not_mem_nil
  | cons a r ih =>
    refine ih _ ?_
    by_cases ha : k = a
    · subst ha
      exact .inr (by rw [State.setUe_ue_same]; exact hg _)
    · rw [State.setUe_ue_other _ _ _ _ ha]
      exact h.imp_left (fun hm => (List.mem_cons.mp hm).resolve_left ha)

theorem tellUes_ue {P : UpEng → Prop} {g : UpEng → UpEng} (hg : ∀ x, P (g x)) {k : Nat} (hk : k < 44) : P ((s.tellUes g).ue k) :=
  foldl_setUe_all hg k _ s (.inl (List.mem_range.mpr hk))

/-- What a commit of step `n` leaves behind. -/
structure Committed (s t : State) (n : Nat) : Prop where
  last    : t.group.last = BitVec.ofNat 48 n
  verdict : t.group.verdict = 0
  job     : t.job = s.job.map (fun j => { j with lastCommit := some n })
  ues     : ∀ k < 44, (t.ue k).commit = BitVec.ofNat 48 n ∧ (t.ue k).valid = true ∧ (t.ue k).vpoison = false

theorem commitStep_committed (s : State) (n : Nat) (ws : List Nat) : Committed s (s.commitStep n ws) n := by
  have hjob : (s.scaleAll n ws).job = s.job := congrArg Prod.fst scaleAll_jobGroup
  unfold State.commitStep
  extract_lets s1 s2
  have htell : s2.jobGroup = s1.jobGroup := tellUes_jobGroup
  have hues : ∀ k < 44, (s2.ue k).commit = BitVec.ofNat 48 n ∧ (s2.ue k).valid = true ∧ (s2.ue k).vpoison = false :=
    fun _ hk => tellUes_ue (P := fun x => x.commit = BitVec.ofNat 48 n ∧ x.valid = true ∧ x.vpoison = false)
      (fun _ => ⟨rfl, rfl, rfl⟩) hk
  clear_value s2
  obtain ⟨htj, htg⟩ := Prod.mk.inj htell
  have hs1 : s1.job = s.job := hjob
  exact
    { last := congrArg Group.last htg
      verdict := congrArg Group.verdict htg
      job := by rw [← hs1, ← htj]
      ues := hues }

theorem sendReport_reports (s : State) (j : JobSt) (m : BitVec 12) (bs : List Byte) :
    (s.sendReport j m bs).group.reportOut = some (bs.length, BitVec.ofNat 32 (crc32 bs)) ∧ (s.sendReport j m bs).job = s.job := by
  have h : (s.sendReport j m bs).jobGroup =
      (s.job, { s.group with reportOut := some (bs.length, BitVec.ofNat 32 (crc32 bs)) }) := wardenSend_jobGroup
  obtain ⟨hjob, hgroup⟩ := Prod.mk.inj h
  exact ⟨by rw [hgroup], hjob⟩

/-- The clear window of a step ends with every owned seal at the step before. -/
structure VoteDue (s s1 : State) (j : JobSt) (t0 : Nat) : Prop where
  job    : s.job = some j
  clear  : j.clearAt = some t0
  past   : t0 ≤ s.ref
  fence  : s.safety.fence = false
  clean  : j.poisoned = false
  voted  : j.voted = false
  runs   : j.state = 2
  quiet  : s.safety.queue = []
  sealed : s.sealedAll (j.step - 1) = (s1, true)

variable {s1 : State} {j : JobSt} {t0 : Nat}

theorem clearWindow_castsVote (h : VoteDue s s1 j t0) : exec .clearWindowExpiry s = .next (s1.castVote j) := by
  change execClearWindowExpiry s = _
  have hgo : (decide (s.ref < t0) || s.safety.fence || j.poisoned || j.voted || j.state != 2 || !s.safety.queue.isEmpty) = false := by
    simp [h.past, h.fence, h.clean, h.voted, h.runs, h.quiet]
  simp only [execClearWindowExpiry, h.job, h.clear, hgo, h.sealed, Bool.false_eq_true, if_false]

theorem VoteDue.jobGroup (h : VoteDue s s1 j t0) : s1.jobGroup = s.jobGroup := by
  rw [← sealedAll_jobGroup (s := s) (n := j.step - 1), h.sealed]

theorem VoteDue.mem (h : VoteDue s s1 j t0) : s1.mem = s.mem := by
  rw [← State.sealedAll_mem (s := s) (n := j.step - 1), h.sealed]

/-- The engine with its vote cast: its mismatch entries cleared, the job past its clear window. -/
def State.voting (s : State) (j : JobSt) : State := { s.clearMis with job := some { j with voted := true, clearAt := none } }

theorem castVote_alone (hsize : s.groupSize = 1) (hsup : s.superior = none) :
    s.castVote j = (s.voting j).commitStep j.step (s.ownReport j.step j.first).layers := by
  have hcase : ((s.voting j).groupSize = 1 && (s.voting j).superior.isNone) = true := by
    change (decide (s.groupSize = 1) && s.superior.isNone) = true
    simp [hsize, hsup]
  exact if_pos hcase

theorem castVote_worker (hmgr : s.isMgr = false) (hsize : s.groupSize ≠ 1) :
    s.castVote j = (s.voting j).sendReport j s.group.mgr (s.ownReport j.step j.first).bytes := by
  have hcase : ¬((s.voting j).groupSize = 1 && (s.voting j).superior.isNone) = true := by
    change ¬(decide (s.groupSize = 1) && s.superior.isNone) = true
    simp [hsize]
  have hmgr' : ¬(s.voting j).isMgr = true := by
    change ¬s.isMgr = true
    simp [hmgr]
  exact (if_neg hcase).trans (if_neg hmgr')

theorem clearWindow_commits (h : VoteDue s s1 j t0) (hsize : s.groupSize = 1) (hsup : s.superior = none) :
    ∃ t, exec .clearWindowExpiry s = .next t ∧ Committed (s.voting j) t j.step := by
  have hgroup : s1.group = s.group := congrArg Prod.snd h.jobGroup
  have hsize1 : s1.groupSize = 1 := by rw [State.groupSize, State.peers, hgroup]; exact hsize
  have hsup1 : s1.superior = none := by rw [State.superior, hgroup]; exact hsup
  refine ⟨_, (clearWindow_castsVote h).trans (congrArg _ (castVote_alone hsize1 hsup1)), ?_⟩
  obtain ⟨hl, hv, hj, hu⟩ := commitStep_committed (s1.voting j) j.step (s1.ownReport j.step j.first).layers
  exact ⟨hl, hv, hj, hu⟩

theorem clearWindow_reports (h : VoteDue s s1 j t0) (hmgr : s.isMgr = false) (hsize : s.groupSize ≠ 1) :
    ∃ t bs, exec .clearWindowExpiry s = .next t ∧ bs = (s1.ownReport j.step j.first).bytes ∧
      t.group.reportOut = some (bs.length, BitVec.ofNat 32 (crc32 bs)) ∧
      t.job = some { j with voted := true, clearAt := none } ∧ t.mem = s.mem := by
  have hgroup : s1.group = s.group := congrArg Prod.snd h.jobGroup
  have hmgr1 : s1.isMgr = false := by rw [State.isMgr, hgroup]; exact hmgr
  have hsize1 : s1.groupSize ≠ 1 := by rw [State.groupSize, State.peers, hgroup]; exact hsize
  refine ⟨_, _, (clearWindow_castsVote h).trans (congrArg _ (castVote_worker hmgr1 hsize1)), rfl, ?_⟩
  obtain ⟨hout, hjob⟩ := sendReport_reports (s1.voting j) j s1.group.mgr (s1.ownReport j.step j.first).bytes
  exact ⟨hout, hjob, State.sendReport_mem.trans h.mem⟩

end Sys2Proof.Machine
end

section
/-! O40, assembled from the clauses on up frames, release frames, the step-start barrier and the clear window. -/

namespace Sys2Proof.Machine
open Sys2Proof

variable {s : State}

theorem barrierUpFrame_carries {p : Fin 60} {q : Nat} (hp : s.polderOn p = true) (hup : s.barUp p = some q) (hne : q ≠ p)
    (hroot : q ≠ 56) (hq : s.polderOn q = true) :
    ∃ t, exec (.barrierUpFrame p) s = .next t ∧ t.mem = s.mem ∧ t.procs = s.procs ∧ SentUp s t p q :=
  ⟨_, barrierUpFrame_sends hp hup hroot hq, State.upFrame_mem, rfl, upFrame_sentUp s hne⟩

theorem barrierUpFrame_releases {p : Fin 60} (hp : s.polderOn p = true) (hup : s.barUp p = none) (hclear : (s.bar 56).poison = false)
    {b : Nat} (h0 : 0 < b) (hb : b < 16) (hfull : s.barFull 56 b = true) (hothers : ∀ c < 16, c ≠ b → s.barFull 56 c = false)
    (hscope : s.barScope b = false) :
    ∃ t, exec (.barrierUpFrame p) s = .next t ∧ (t.bar 56).rel.getLsbD b = true ∧ t.barCount 56 b = 0 ∧ t.mem = s.mem ∧
      t.procs = s.procs := by
  obtain ⟨hbar, hmem, hprocs⟩ := rootLook_releases h0 hb hfull hscope hothers
  refine ⟨_, barrierUpFrame_root hp hup, ?_⟩
  rw [rootPoison_of_clear hclear, State.barCount, hbar]
  exact ⟨by simp [getLsbD_or_one_shl _ _ _ hb], Tbl.get_put_same .., hmem, hprocs⟩

theorem barrierUpFrame_waits {p : Fin 60} (hp : s.polderOn p = true) (hup : s.barUp p = none) (hclear : (s.bar 56).poison = false)
    (hfull : s.barFull 56 0 = true) (hsent : (s.bar 56).sentUp.getLsbD 0 = false) (hothers : ∀ c < 16, c ≠ 0 → s.barFull 56 c = false)
    (hscope : s.barScope 0 = false) :
    ∃ t, exec (.barrierUpFrame p) s = .next t ∧ (t.bar 56).sentUp.getLsbD 0 = true ∧ (t.bar 56).rel = (s.bar 56).rel ∧
      t.barCount 56 0 = 0 ∧ t.mem = s.mem ∧ t.procs = s.procs := by
  obtain ⟨hbar, hmem, hprocs⟩ := rootLook_waits hfull hsent hscope hothers
  refine ⟨_, barrierUpFrame_root hp hup, ?_⟩
  rw [rootPoison_of_clear hclear, State.barCount, hbar]
  exact ⟨by simp, rfl, Tbl.get_put_same .., hmem, hprocs⟩

theorem barrierUpFrame_fences {p : Fin 60} (hp : s.polderOn p = true) (hup : s.barUp p = none) (hpoison : (s.bar 56).poison = true)
    (hjob : s.job.isSome) : ∃ t, exec (.barrierUpFrame p) s = .next t ∧ t.safety.fence = true :=
  ⟨_, barrierUpFrame_root hp hup, by rw [(reacts_rootLook _).safety]; exact rootPoison_fences hpoison hjob⟩

/-- What a child's node takes of a release frame (R295). -/
theorem FrameSent.kid {t : State} {p c : Nat} (h : FrameSent s t p) (hc : c < 60) (hne : c ≠ p) (hup : s.barUp c = some p)
    (hon : s.polderOn c = true) :
    (t.bar c).rel = (s.bar c).rel ||| (s.bar p).rel ∧ (t.bar c).data = (s.bar c).data ++ (s.bar p).data ∧
      (∀ n < 2 ^ 48, (s.bar p).data = stepFrames n → (t.bar c).stepNo = BitVec.ofNat 48 n) := by
  have hkid : c ∈ s.barKids p := List.mem_filter.mpr ⟨List.mem_range.mpr hc, by simp [hup, hon]⟩
  rw [h.kids c hkid hne]
  refine ⟨rfl, rfl, fun n _ hdata => ?_⟩
  rw [BarNode.down, hdata]
  exact stepFrames_stepNo _ n

theorem FrameSent.router {t : State} {p n : Nat} (h : FrameSent s t p) (hn : n < 662) (hp : polderOfNode n = p)
    (h0 : (s.bar p).rel.getLsbD 0 = true) : (t.node n).step = (s.bar p).stepNo ∧ (t.node n).ctr = 0 := by
  rw [h.nodes, if_pos ⟨h0, hn, hp⟩]
  exact ⟨rfl, rfl⟩

theorem FrameSent.router_kept {t : State} {p n : Nat} (h : FrameSent s t p)
    (hout : polderOfNode n ≠ p ∨ (s.bar p).rel.getLsbD 0 = false) : t.node n = s.node n := by
  rw [h.nodes, if_neg]
  rintro ⟨h0, -, hp⟩
  exact hout.elim (fun hne => hne hp) (fun hno => Bool.false_ne_true (hno.symm.trans h0))

theorem FrameSent.member_goes {t : State} {p k bid : Nat} {sc : Bool} (h : FrameSent s t p) (hb : bid < 16) (hk : polderOf k = p)
    (hin : (s.proc k).inBar = some (bid, sc)) (hfence : s.safety.fence = false) (hrel : (s.bar p).rel.getLsbD bid = true) :
    t.proc k = { s.proc k with inBar := none, pc := (s.proc k).pc + 4 } := by
  rw [h.procs, if_pos hk, hfence]
  exact Proc.releasedAll_goes hin hrel (List.mem_range.mpr hb)

theorem FrameSent.member_stays {t : State} {p k bid : Nat} {sc : Bool} (h : FrameSent s t p) (hk : polderOf k = p)
    (hin : (s.proc k).inBar = some (bid, sc)) (hno : s.safety.fence = true ∨ (s.bar p).rel.getLsbD bid = false) :
    t.proc k = s.proc k := by
  rw [h.procs, if_pos hk]
  exact Proc.releasedAll_stays hin hno _

theorem FrameSent.stranger {t : State} {p k : Nat} (h : FrameSent s t p) (hk : polderOf k ≠ p) : t.proc k = s.proc k := by
  rw [h.procs, if_neg hk]

/-- The gate is met and the step's time has come: the step starts (R295, R325, R328). -/
theorem bid0Release_starts {j : JobSt} (h : StepWaits s j) (hg : s.gateMet j = true) (hl : s.mayLend j = false)
    (hlent : s.stillLent j = false) (hdue : ∀ t0, j.sched = some t0 → t0 ≤ s.ref) :
    ∃ t, exec .bid0Release s = .next t ∧ StepStarted s t j := by
  have hearly : j.early s.ref = false := by
    unfold JobSt.early
    split
    next t0 ht => exact decide_eq_false (Nat.not_lt.mpr (hdue t0 ht))
    next => rfl
  have hx := bid0Release_open h hg hl
  rw [hlent, hearly, Bool.or_self, if_neg Bool.false_ne_true] at hx
  refine ⟨_, hx, ?_⟩
  obtain ⟨ev, hp⟩ := pastGate_events h.job
  have hstart := startStep_started (s.pastGate j) { j with gateFrom := none }
  rw [hp] at hstart ⊢
  exact ⟨hstart.rel, hstart.sent, hstart.step, hstart.data, hstart.stepNo, hstart.job, hstart.mem, hstart.procs⟩

/-- The gate is met, but the step waits for its time, or for arrays that are lent: only the wait for the gate ends. -/
theorem bid0Release_holds {j : JobSt} (h : StepWaits s j) (hg : s.gateMet j = true) (hl : s.mayLend j = false)
    (hlate : s.stillLent j = true ∨ ∃ t0, j.sched = some t0 ∧ s.ref < t0) :
    ∃ t, exec .bid0Release s = .next t ∧ t.job = some { j with gateFrom := none } ∧ t.bars = s.bars ∧ t.mem = s.mem ∧
      t.procs = s.procs := by
  have hcase : (s.stillLent j || j.early s.ref) = true := by
    rcases hlate with hl | ⟨t0, ht, hlt⟩
    · rw [hl, Bool.true_or]
    · simp [JobSt.early, ht, hlt]
  have hx := bid0Release_open h hg hl
  rw [if_pos hcase] at hx
  refine ⟨_, hx, ?_⟩
  obtain ⟨ev, hp⟩ := pastGate_events h.job
  rw [hp]
  exact ⟨rfl, rfl, rfl, rfl⟩

end Sys2Proof.Machine

open Sys2Proof Sys2Proof.Machine

/-- Settles O40: an up frame moves complete counts to the parent's node, a release frame is said by what its folds leave at each child,
router and member, the step starts ahead of its release, and the Warden's reads of the seals leave the job and the group that vote. -/
theorem barriersGatherReleaseAndVote : Obligations.BarriersGatherReleaseAndVote := by
  refine ⟨fun p s hp => ⟨fun q hup hne hroot hq => ?_, fun hup _ hclear b h0 hb hfull hothers hscope => ?_,
    fun hup _ hclear hfull hsent hothers hscope => ?_, fun hup _ hpoison hjob _ _ => ?_, fun hframe => ?_⟩,
    fun s j hjob hfence hsent hruns => ?_, fun s s1 j t0 hjob hclear hpast hfence hclean hvoted hruns hquiet hseals => ?_⟩
  · obtain ⟨t, hx, hmem, hprocs, hcleared, hpoison, hfull, hwait⟩ := barrierUpFrame_carries hp hup hne hroot hq
    exact ⟨t, hx, hmem, hprocs, hcleared, hpoison, fun bid hb => ⟨hfull bid hb, hwait bid hb⟩⟩
  · exact barrierUpFrame_releases hp hup hclear h0 hb hfull hothers hscope
  · exact barrierUpFrame_waits hp hup hclear hfull hsent hothers hscope
  · exact barrierUpFrame_fences hp hup hpoison hjob
  · have h := releaseFrame_sent s p
    exact ⟨_, barrierReleaseFrame_sends hp hframe, h.own.1, h.own.2, fun c _ hne hup hon => h.kid c.isLt (Fin.val_ne_of_ne hne) hup hon,
      fun n hn hp h0 => h.router hn hp h0, fun n hout => h.router_kept hout,
      fun k bid sc hb hk hin => ⟨h.member_goes hb hk hin, h.member_stays hk hin⟩, fun k hk => h.stranger hk⟩
  · have h : StepWaits s j := ⟨hjob, hfence, hsent, hruns⟩
    refine ⟨fun hg hl hlent hdue => ?_, bid0Release_holds h, bid0Release_closed h⟩
    obtain ⟨t, hx, ht⟩ := bid0Release_starts h hg hl hlent hdue
    exact ⟨t, hx, ht.rel, ht.sent, ht.step, ht.data, ht.stepNo, ht.job, ht.mem, ht.procs⟩
  · have h : VoteDue s s1 j t0 := ⟨hjob, hclear, hpast, hfence, hclean, hvoted, hruns, hquiet, hseals⟩
    refine ⟨fun hsize hsup => ?_, clearWindow_reports h⟩
    obtain ⟨t, hx, hlast, hverdict, hj, hues⟩ := clearWindow_commits h hsize hsup
    exact ⟨t, hx, hlast, hverdict, hj, hues⟩

end

section
/-! Reads of a Spring (O29, O30). Where no error is stored, a seal that checks (R358) and the rows of a tile (R309) are read and nothing
but the counters of the stack controllers is left. -/

namespace Sys2Proof.Machine
open Sys2Proof

variable {s : State} {u : Nat}

/-- A fold whose every step takes the count one further. -/
theorem foldl_counts {β σ : Type} {P : Nat → σ → Prop} {f : σ → β → σ} (hf : ∀ n t x, P n t → P (n + 1) (f t x)) {n : Nat} {t : σ}
    (h : P n t) (l : List β) : P (n + l.length) (l.foldl f t) := by
  induction l generalizing n t with
  | nil => exact h
  | cons x r ih =>
    rw [List.foldl_cons, List.length_cons, Nat.add_comm r.length, ← Nat.add_assoc]
    exact ih (hf n t x h)

theorem uidUnit_spring (sp : Fin 16) : uidUnit (sprKey + sp) = 2 * 2 ^ 28 + sp := by
  have hlt := sp.isLt
  simp [uidUnit, isCore, isSpring, sprKey, hlt, Nat.add_comm 5040]

theorem polderOf_spring (sp : Fin 16) : polderOf (sprKey + sp) = 56 + sp / 4 := by
  have hlt := sp.isLt
  simp [polderOf, isCore, isSpring, sprKey, hlt, Nat.add_comm 5040]

/-! ## Seals -/

theorem State.SealIs.accessed {sh : Nat} {q : Seal} (h : s.SealIs sh q) (c : Tbl Word) : (s.accessed c s.mem).SealIs sh q :=
  ⟨h.good, h.value⟩

theorem readSeal_good (hc : s.Clean) (sp : Fin 16) {sh : Nat} {q : Seal} (hq : s.SealIs sh q) (src : Nat) :
    ∃ c, s.readSeal sh src (uidUnit (sprKey + sp)) = (s.accessed c s.mem, some q) := by
  obtain ⟨c, hread⟩ := eccRead_clean hc (sealAddr s sh) 64 (uidUnit (sprKey + sp))
  have hunit : uidUnit (sprKey + sp) ≠ uidWarden := by
    have hlt := sp.isLt
    rw [uidUnit_spring, uidWarden]
    omega
  have hf : s.fetchSeal sh (uidUnit (sprKey + sp)) = (s.accessed c s.mem, some (s.bytesAt (sealAddr s sh).toNat 64)) := by
    rw [State.fetchSeal, if_neg hunit, hread]
    rfl
  refine ⟨c, ?_⟩
  rw [State.readSeal, hf]
  simp only [hq.good, hq.value, if_true]

/-! ## Tiles -/

/-- `n` rows of a tile are read from `s`, all of them well. -/
structure RowsRead (s : State) (n : Nat) (acc : State × List (Nat × List Byte) × TileStat × Bool) : Prop where
  state : ∃ c, acc.1 = s.accessed c s.mem
  rows  : acc.2.1.length = n
  good  : acc.2.2.2 = false

theorem readTile_clean (hc : s.Clean) (u : Nat) (d : Desc) (i step : Nat) :
    ∃ c rows st hdr, s.readTile u d i step = (s.accessed c s.mem, some (rows, st, hdr)) ∧ rows.length = dE d 1 := by
  unfold State.readTile
  extract_lets F n go
  have hgo : RowsRead s (0 + (tileRows d i).length) go := by
    refine foldl_counts (t := (s, [], TileStat.fresh, false)) ?_ ⟨⟨s.ecnt, rfl⟩, rfl, rfl⟩ _
    rintro k ⟨t, rows, st, bad⟩ r ⟨⟨c, rfl⟩, rfl, rfl⟩
    obtain ⟨c', hread⟩ := eccRead_clean (hc.accessed c s.mem) r.1 n (uidUnit (sprKey + u))
    simp only [hread]
    exact ⟨⟨c', rfl⟩, List.length_append, rfl⟩
  obtain ⟨⟨c, hstate⟩, hrows, hgood⟩ := hgo
  rw [if_neg (Bool.eq_false_iff.mp hgood), hstate]
  refine ⟨c, _, _, _, rfl, ?_⟩
  rw [hrows, Nat.zero_add, tileRows, List.length_map, List.length_range]

/-! ## Requests -/

/-- `t` is `s` after `n` requests: one packet and one open request each. -/
structure Requested (s : State) (n : Nat) (t : State) : Prop where
  rest : ∃ m r i, t = { s with mesh := m, reqs := r, nextId := i }
  mesh : t.mesh.length = s.mesh.length + n
  reqs : t.reqs.length = s.reqs.length + n

theorem Requested.refl (s : State) : Requested s 0 s := ⟨⟨_, _, _, rfl⟩, rfl, rfl⟩

theorem Requested.sendMc {n : Nat} {t : State} (h : Requested s n t) (k node x group root off : Nat) (bs : List Byte) :
    Requested s (n + 1) (t.sendMc k node x group root off bs) := by
  obtain ⟨⟨m, r, i, rfl⟩, hm, hr⟩ := h
  refine ⟨⟨_, _, _, rfl⟩, ?_, ?_⟩
  · rw [← Nat.add_assoc, ← hm]
    exact List.length_append
  · rw [← Nat.add_assoc, ← hr]
    exact List.length_append

theorem Requested.request {n : Nat} {t : State} (h : Requested s n t) (owner node : Nat) (kind : ReqKind) (pk : PKind) (a : Word)
    (size : Nat) (data : List Byte) (op : Nat) : Requested s (n + 1) (t.request owner node kind pk a size data op) := by
  obtain ⟨⟨m, r, i, rfl⟩, hm, hr⟩ := h
  refine ⟨⟨_, _, _, rfl⟩, ?_, ?_⟩
  · rw [← Nat.add_assoc, ← hm]
    exact List.length_append
  · rw [← Nat.add_assoc, ← hr]
    exact List.length_append

end Sys2Proof.Machine
end

section
/-! Waves move (O29, R307, R308). What streaming changes is `TilesOut`; a poll is described by what it finds in memory, and leaves every
wave that still waits as it stands (`wavesOn_idle`). -/

namespace Sys2Proof.Machine
open Sys2Proof

variable {s t : State} {u : Nat} {w : Wave}

/-! ## Transfers -/

theorem xfer_setXfer {x y : Xfer} (h : s.xfer y.id = some x) : (s.setXfer y).xfer y.id = some y := by
  simp only [State.xfer, State.setXfer] at h ⊢
  generalize s.xfers = l at h
  induction l with
  | nil => cases h
  | cons z l ih =>
    by_cases hz : z.id = y.id
    · simp [hz]
    · simp only [List.find?_cons, beq_eq_false_iff_ne.mpr hz, List.map_cons, if_neg hz] at h ⊢
      exact ih h

theorem xferAdd_xfer {id n : Nat} {x : Xfer} (h : s.xfer id = some x) :
    s.xferAdd id n = s.setXfer { x with left := x.left + n } ∧ (s.xferAdd id n).xfer id = some { x with left := x.left + n } := by
  have hid : x.id = id := by simpa using List.find?_some h
  have hadd : s.xferAdd id n = s.setXfer { x with left := x.left + n } := by simp only [State.xferAdd, h]
  subst hid
  exact ⟨hadd, by rw [hadd]; exact xfer_setXfer (y := { x with left := x.left + n }) h⟩

/-! ## Tiles -/

/-- `t` is `s` after `n` multicasts of the wave whose transfer is `id`: besides packets, requests and transfers only counters, event
records and barrier nodes differ, and the transfer waits for `n` more answers. -/
structure TilesOut (s : State) (id n : Nat) (t : State) : Prop where
  rest : ∃ m r i xs c ev b, t = { s with mesh := m, reqs := r, nextId := i, xfers := xs, ecnt := c, evrec := ev, bars := b }
  mesh : t.mesh.length = s.mesh.length + n
  xfer : ∀ x, s.xfer id = some x → t.xfer id = some { x with left := x.left + n }

namespace TilesOut

theorem of_rest {id : Nat} (c : Tbl Word) (ev : Recorder) (b : Tbl BarNode) : TilesOut s id 0 { s with ecnt := c, evrec := ev, bars := b } :=
  ⟨⟨_, _, _, _, _, _, _, rfl⟩, rfl, fun _ hx => hx⟩

theorem trans {v : State} {id m n : Nat} (h : TilesOut s id m t) (g : TilesOut t id n v) : TilesOut s id (m + n) v := by
  obtain ⟨⟨m1, r1, i1, xs1, c1, ev1, b1, rfl⟩, hm, hx⟩ := h
  obtain ⟨⟨m2, r2, i2, xs2, c2, ev2, b2, rfl⟩, gm, gx⟩ := g
  refine ⟨⟨_, _, _, _, _, _, _, rfl⟩, by rw [gm, hm, Nat.add_assoc], fun x h => ?_⟩
  rw [gx _ (hx x h), Nat.add_assoc]

end TilesOut

theorem readTile_out (hc : s.Clean) (u id : Nat) (d : Desc) (i step : Nat) :
    ∃ v rows st hdr, s.readTile u d i step = (v, some (rows, st, hdr)) ∧ rows.length = dE d 1 ∧ TilesOut s id 0 v := by
  obtain ⟨c, rows, st, hdr, hread, hrows⟩ := readTile_clean hc u d i step
  exact ⟨_, rows, st, hdr, hread, hrows, .of_rest ..⟩

theorem countEmb_out (s : State) (u i n id : Nat) : TilesOut s id 0 (s.countEmb u i n) := by
  obtain ⟨c, hc⟩ := countEmb_ecnt s u i n
  exact hc ▸ .of_rest ..

theorem waveSend_out {x : Xfer} (hx : s.xfer w.xfer = some x) (u : Nat) (ps : List (Nat × List Byte)) :
    TilesOut s w.xfer ps.length (s.waveSend u w ps) := by
  unfold State.waveSend
  extract_lets node s1 bytes
  have hreq : Requested s (0 + ps.length) s1 := foldl_counts (fun n t p h => h.sendMc ..) (.refl s) ps
  rw [Nat.zero_add] at hreq
  have hx1 : s1.xfer w.xfer = some x := by
    obtain ⟨m, r, i, h1⟩ := hreq.rest
    rw [h1]
    exact hx
  obtain ⟨hadd, hleft⟩ := xferAdd_xfer (n := ps.length) hx1
  refine TilesOut.trans (m := ps.length) (n := 0) (t := s1.xferAdd w.xfer ps.length) ⟨?_, ?_, fun y hy => ?_⟩ (countEmb_out ..)
  · obtain ⟨m, r, i, h1⟩ := hreq.rest
    rw [hadd, h1]
    exact ⟨_, _, _, _, _, _, _, rfl⟩
  · rw [hadd]
    exact hreq.mesh
  · rw [hleft, Option.some.inj (hx.symm.trans hy)]

theorem tileSent_out {x : Xfer} (hx : s.xfer w.xfer = some x) (u n : Nat) (rows : List (Nat × List Byte)) (nonfin : Bool) :
    let s2 := (s.waveSend u w rows).countEmb u 0 n
    TilesOut s w.xfer rows.length (if nonfin then s2.nonfiniteHead u w.wave w.step w.sent w.desc else s2) := by
  intro s2
  have hsend : TilesOut s w.xfer rows.length s2 := (waveSend_out hx u rows).trans (countEmb_out ..)
  cases nonfin with
  | false => exact hsend
  | true => exact hsend.trans (.of_rest s2.ecnt ..)

/-- A tile with a shard that has not passed is not sent. -/
theorem streamTiles_blocked {passed : List Nat} (h : (tileShards s w.desc w.sent).all passed.contains = false) (n : Nat) :
    s.streamTiles u w passed n = s.setWave u w := by
  cases n with
  | zero => rfl
  | succ n => rw [State.streamTiles, if_pos (by simp [h])]

/-- The wave in another phase. -/
def Wave.inPhase (w : Wave) (ph : WavePhase) : Wave := { w with phase := ph }

/-- The wave with the shards checked so far and the next one. -/
def Wave.pastShard (w : Wave) : Wave := { w with shardsDone := w.shardsDone + 1 }

/-- The wave with all its tiles sent, and the headers of them all. -/
def Wave.allSent (w : Wave) (hdrs : List Byte) : Wave := { w with sent := tileCount w.desc, hdrs := hdrs }

theorem Wave.allSent_self (h : w.sent = tileCount w.desc) : w.allSent w.hdrs = w := by
  rw [Wave.allSent, ← h]

/-- A tile whose shards have all passed is sent row by row. -/
theorem streamTiles_next (hc : s.Clean) {x : Xfer} (hx : s.xfer w.xfer = some x) {passed : List Nat}
    (hpass : ∀ sh ∈ tileShards s w.desc w.sent, sh ∈ passed) (hsent : w.sent < tileCount w.desc) (n : Nat) :
    ∃ t hdr, s.streamTiles u w passed (n + 1) = t.streamTiles u { w with sent := w.sent + 1, hdrs := w.hdrs ++ hdr } passed n ∧
      TilesOut s w.xfer (dE w.desc 1) t := by
  have hall : (tileShards s w.desc w.sent).all passed.contains = true := by simpa using hpass
  obtain ⟨v, rows, st, hdr, hread, hrows, hv⟩ := readTile_out hc u w.xfer w.desc w.sent w.step
  have hout := hv.trans (tileSent_out (hv.xfer x hx) u (rows.length * 2 * dE w.desc 0) rows st.nonfin)
  rw [hrows, Nat.zero_add] at hout
  refine ⟨_, hdr, ?_, hout⟩
  rw [State.streamTiles, if_neg (by simp [hall, hsent]), hread]
  simp only [hrows]

/-- When every shard has passed, all the tiles still to be sent go out. -/
theorem streamTiles_sends (hc : s.Clean) {x : Xfer} (hx : s.xfer w.xfer = some x) {passed : List Nat}
    (hpass : ∀ i < tileCount w.desc, ∀ sh ∈ tileShards s w.desc i, sh ∈ passed) {k n : Nat} (hsent : w.sent + k = tileCount w.desc)
    (hk : k ≤ n) :
    ∃ t hdrs, s.streamTiles u w passed n = t.setWave u (w.allSent hdrs) ∧
      TilesOut s w.xfer (dE w.desc 1 * k) t := by
  induction k generalizing s w x n with
  | zero =>
    refine ⟨s, w.hdrs, ?_, .of_rest ..⟩
    rw [Wave.allSent_self hsent]
    cases n with
    | zero => rfl
    | succ n => rw [State.streamTiles, if_pos (by simp [← hsent])]
  | succ k ih =>
    obtain ⟨n, rfl⟩ := Nat.exists_eq_add_of_lt hk
    rw [Nat.add_assoc] at *
    obtain ⟨t1, hdr, hnext, hout⟩ := streamTiles_next (u := u) hc hx (hpass w.sent (by omega)) (by omega) (k + n)
    obtain ⟨m, r, i, xs, c, ev, b, h1⟩ := hout.rest
    obtain ⟨t, hdrs, ht, hrest⟩ := ih (s := t1) (w := { w with sent := w.sent + 1, hdrs := w.hdrs ++ hdr })
      (by rw [h1]; exact ⟨hc.ponds, hc.lake⟩) (hout.xfer x hx) (by rw [h1]; exact hpass)
      ((Nat.add_assoc w.sent 1 k).trans ((Nat.add_comm 1 k) ▸ hsent)) (Nat.le_add_right k n)
    refine ⟨t, hdrs, hnext.trans ht, ?_⟩
    rw [Nat.mul_succ, Nat.add_comm]
    exact hout.trans hrest

/-! ## Waves that wait -/

theorem waveOn_waits (hp : w.phase = .gate ∨ w.phase = .seal ∨ w.phase = .stopped) (hx : ∀ x, s.xfer w.xfer = some x → x.err = false)
    (u : Nat) : s.waveOn u w = s := by
  unfold State.waveOn
  split
  · rfl
  next x h =>
    rw [if_neg (Bool.eq_false_iff.mp (hx x h))]
    obtain hp | hp | hp := hp <;> simp only [hp, ite_self]

/-- A wave waits for the answers to its multicasts. -/
theorem waveOn_unanswered {x : Xfer} (hx : s.xfer w.xfer = some x) (herr : x.err = false) (hleft : x.left ≠ 0) (u : Nat) :
    s.waveOn u w = s := by
  simp [State.waveOn, hx, herr, hleft]

theorem wavesOn_idle (h : ∀ w ∈ (s.spring u).waves, s.waveOn u w = s) : s.wavesOn u = s := by
  unfold State.wavesOn
  extract_lets once
  have honce : once s = s := by
    refine List.foldl_fixed' (fun id => ?_) _
    split
    next w hw => exact h w (List.mem_of_find?_eq_some hw)
    next => rfl
  rw [honce, honce, ite_self]

/-! ## The one wave of a Spring -/

/-- The one wave of a Spring at work, and its transfer, which has met no error. No error is stored in memory. -/
structure OneWave (s : State) (u : Nat) (w : Wave) (x : Xfer) : Prop where
  runs  : s.sprRuns u = true
  waves : (s.spring u).waves = [w]
  xfer  : s.xfer w.xfer = some x
  sound : x.err = false
  clean : s.Clean

theorem OneWave.accessed {x : Xfer} (h : OneWave s u w x) (c : Tbl Word) : OneWave (s.accessed c s.mem) u w x :=
  ⟨h.runs, h.waves, h.xfer, h.sound, h.clean.accessed c s.mem⟩

theorem setWave_waves {v : Wave} (h : (s.spring u).waves = [w]) (hv : w.xfer = v.xfer) : ((s.setWave u v).spring u).waves = [v] := by
  simp [State.setWave, h, hv]

theorem pollWaves_one {x : Xfer} (h : OneWave s u w x) {ph : WavePhase} (hph : w.phase = ph) (f : State → Wave → State) :
    s.pollWaves u ph f = (f s w).wavesOn u := by
  simp [State.pollWaves, h.runs, h.waves, hph]

/-- The wave is put down as one that waits, in a state whose reports have left Spring and transfers alone. -/
theorem setWave_waits {x : Xfer} {v : Wave} (h : OneWave s u w x) (hx : w.xfer = v.xfer) (hp : v.phase = .seal ∨ v.phase = .stopped)
    (hs : t.springs = (s.setWave u v).springs) (hxs : t.xfers = s.xfers) :
    (t.spring u).waves = [v] ∧ t.wavesOn u = t := by
  have hw : (t.spring u).waves = [v] := by
    rw [State.spring, hs]
    exact setWave_waves h.waves hx
  refine ⟨hw, wavesOn_idle fun y hy => ?_⟩
  obtain rfl : y = v := by simpa [hw] using hy
  refine waveOn_waits (.inr hp) (fun z hz => ?_) u
  rw [State.xfer, hxs, ← hx] at hz
  rw [Option.some.inj (hz.symm.trans h.xfer)]
  exact h.sound

/-! ## Seals -/

section
variable {shards : List Nat} {sh : Nat} {q : Seal} (hc : s.Clean) (sp : Fin 16) (hsh : shards[w.shardsDone]? = some sh)
  (hq : s.SealIs sh q)
include hc hsh hq

/-- A seal at the step before the wave's passes the shard that is next (R307). -/
theorem sealWave_passes (hstep : q.hstep + 1 = w.step) (n : Nat) :
    ∃ c, s.sealWave sp w shards (n + 1) = (s.accessed c s.mem).sealWave sp w.pastShard shards n := by
  obtain ⟨c, hread⟩ := readSeal_good hc sp hq (polderOf (sprKey + sp))
  refine ⟨c, ?_⟩
  rw [State.sealWave, hsh]
  simp only [hread]
  exact if_pos hstep

/-- Heads newer than the wave's step stop it (R308). -/
theorem sealWave_stops (hstep : w.step < q.hstep + 1) (n : Nat) :
    ∃ c, s.sealWave sp w shards (n + 1) =
      ((s.accessed c s.mem).setWave sp (w.inPhase .stopped)).sealRefused sp w.wave w.step sh (some q) := by
  obtain ⟨c, hread⟩ := readSeal_good hc sp hq (polderOf (sprKey + sp))
  refine ⟨c, ?_⟩
  rw [State.sealWave, hsh]
  simp only [hread, if_neg (Nat.ne_of_gt hstep)]
  exact if_pos hstep

/-- A seal that is behind holds the wave: it streams only what has passed (R28). -/
theorem sealWave_holds (hstep : q.hstep + 1 < w.step) (n : Nat) :
    ∃ c, s.sealWave sp w shards (n + 1) = (s.accessed c s.mem).streamTiles sp w (shards.take w.shardsDone) (tileCount w.desc) := by
  obtain ⟨c, hread⟩ := readSeal_good hc sp hq (polderOf (sprKey + sp))
  refine ⟨c, ?_⟩
  rw [State.sealWave, hsh]
  simp only [hread, if_neg (Nat.ne_of_lt hstep)]
  exact if_neg (Nat.lt_asymm hstep)

end

theorem sealWave_passed {shards : List Nat} (h : shards[w.shardsDone]? = none) (n : Nat) :
    s.sealWave u w shards (n + 1) = s.streamTiles u (w.inPhase .tiles) shards (tileCount w.desc) := by
  rw [State.sealWave, h]
  rfl

theorem mem_waveShards {d : Desc} {i sh : Nat} (hi : i < tileCount d) (h : sh ∈ tileShards s d i) : sh ∈ waveShards s d :=
  List.mem_eraseDups.mpr (List.mem_flatMap.mpr ⟨i, List.mem_range.mpr hi, h⟩)

/-! ## The poll of seals -/

variable {sp : Fin 16} {x : Xfer} {sh : Nat} {q : Seal}

theorem execSealPoll_one (h : OneWave s sp w x) (hph : w.phase = .seal) :
    exec (.sealPoll sp) s = .next ((s.sealTry sp w).wavesOn sp) :=
  congrArg Host.Outcome.next (pollWaves_one h hph _)

theorem execGateWordPoll_one (h : OneWave s sp w x) (hph : w.phase = .gate) :
    exec (.gateWordPoll sp) s = .next ((s.gateTry sp w).wavesOn sp) :=
  congrArg Host.Outcome.next (pollWaves_one h hph _)

/-- The last shard passes: the tiles go out, and the wave waits for their answers. -/
theorem sealPoll_streams (h : OneWave s sp w x) (hph : w.phase = .seal) (hsh : (waveShards s w.desc)[w.shardsDone]? = some sh)
    (hq : s.SealIs sh q) (hstep : q.hstep + 1 = w.step) (hlast : w.shardsDone + 1 = (waveShards s w.desc).length)
    (hsent : w.sent < tileCount w.desc) (hrows : 0 < dE w.desc 1) :
    ∃ t hdrs, let v := (w.pastShard.inPhase .tiles).allSent hdrs
      exec (.sealPoll sp) s = .next (t.setWave sp v) ∧ ((t.setWave sp v).spring sp).waves = [v] ∧
      TilesOut s w.xfer (dE w.desc 1 * (tileCount w.desc - w.sent)) t := by
  obtain ⟨c, hpass⟩ := sealWave_passes h.clean sp hsh hq hstep (waveShards s w.desc).length
  have ha := h.accessed c
  obtain ⟨t, hdrs, hstream, hout⟩ := streamTiles_sends (u := sp) (w := w.pastShard.inPhase .tiles)
    ha.clean ha.xfer (fun i hi sh hs => mem_waveShards (s := s) hi hs) (Nat.add_sub_cancel' hsent.le) (Nat.sub_le ..)
  have htry : s.sealTry sp w = t.setWave sp ((w.pastShard.inPhase .tiles).allSent hdrs) := by
    rw [State.sealTry, hpass, ← hlast, sealWave_passed (List.getElem?_eq_none_iff.mpr hlast.ge)]
    exact hstream
  have hwaves : (t.spring sp).waves = [w] := by
    obtain ⟨m, r, i, xs, d, ev, b, ht⟩ := hout.rest
    rw [ht]
    exact h.waves
  have hset := setWave_waves (v := (w.pastShard.inPhase .tiles).allSent hdrs) hwaves rfl
  have hall : TilesOut s w.xfer _ t := .trans (.of_rest c s.evrec s.bars) hout
  rw [Nat.zero_add] at hall
  refine ⟨t, hdrs, ?_, hset, hall⟩
  rw [execSealPoll_one h hph, htry, wavesOn_idle]
  intro y hy
  obtain rfl := List.mem_singleton.mp (hset ▸ hy)
  refine waveOn_unanswered (s := t.setWave sp ((w.pastShard.inPhase .tiles).allSent hdrs))
    (w := (w.pastShard.inPhase .tiles).allSent hdrs) (hall.xfer x h.xfer) h.sound ?_ sp
  exact Nat.ne_of_gt (Nat.add_pos_right _ (Nat.mul_pos hrows (Nat.sub_pos_of_lt hsent)))

/-- Heads newer than the wave's step stop it (R308). -/
theorem sealPoll_stops (h : OneWave s sp w x) (hph : w.phase = .seal) (hsh : (waveShards s w.desc)[w.shardsDone]? = some sh)
    (hq : s.SealIs sh q) (hstep : w.step < q.hstep + 1) :
    ∃ c, let t := ((s.accessed c s.mem).setWave sp (w.inPhase .stopped)).sealRefused sp w.wave w.step sh (some q)
      exec (.sealPoll sp) s = .next t ∧ (t.spring sp).waves = [w.inPhase .stopped] := by
  obtain ⟨c, hstop⟩ := sealWave_stops h.clean sp hsh hq hstep (waveShards s w.desc).length
  obtain ⟨hwaves, hidle⟩ := setWave_waits (v := w.inPhase .stopped)
    (t := ((s.accessed c s.mem).setWave sp (w.inPhase .stopped)).sealRefused sp w.wave w.step sh (some q))
    (h.accessed c) rfl (.inr rfl) rfl rfl
  exact ⟨c, by rw [execSealPoll_one h hph, State.sealTry, hstop, hidle], hwaves⟩

theorem sealRefused_reports (s : State) (wave step sh : Nat) (x : Option Seal) :
    s.Wrote (s.sealRefused sp wave step sh x) 0x1501 ∧ ((s.sealRefused sp wave step sh x).bar (56 + sp / 4)).poison = true :=
  ⟨⟨_, rfl, rfl⟩, polderOf_spring sp ▸ State.poison_bar _⟩

theorem State.Wrote.last {code : Nat} (h : s.Wrote t code) : t.evrec.queue.getLast?.map (·.code) = some code := by
  obtain ⟨e, hq, hc⟩ := h
  rw [hq, List.getLast?_concat, Option.map_some, hc]

/-! ## The poll of gate words -/

/-- A gate word below the wave's minimum leaves it waiting. -/
theorem gateTry_waits {g : SprGrp} (hc : s.Clean) (hg : (s.spring u).grp w.group = some g)
    (hok : s.accessFault (sprKey + u) g.gate 8 8 false = none) (hlow : s.natAt g.gate.toNat 8 < w.gatemin) :
    ∃ c, s.gateTry u w = s.accessed c s.mem := by
  obtain ⟨c, hread⟩ := eccRead_clean hc g.gate 8 (uidUnit (sprKey + u))
  refine ⟨c, ?_⟩
  simp only [State.gateTry, hg, hok, hread]
  exact if_neg (Nat.not_le.mpr hlow)

theorem gateTry_opens {g : SprGrp} (hc : s.Clean) (hg : (s.spring u).grp w.group = some g)
    (hok : s.accessFault (sprKey + u) g.gate 8 8 false = none) (hmin : w.gatemin ≤ s.natAt g.gate.toNat 8) :
    ∃ c, s.gateTry u w = (s.accessed c s.mem).sealTry u (w.inPhase .seal) := by
  obtain ⟨c, hread⟩ := eccRead_clean hc g.gate 8 (uidUnit (sprKey + u))
  refine ⟨c, ?_⟩
  simp only [State.gateTry, hg, hok, hread]
  exact if_pos hmin

/-- The gate opens while the first shard is behind: the wave waits at its seals. -/
theorem gateWordPoll_opens {g : SprGrp} (h : OneWave s sp w x) (hph : w.phase = .gate)
    (hg : (s.spring sp).grp w.group = some g) (hok : s.accessFault (sprKey + sp) g.gate 8 8 false = none)
    (hmin : w.gatemin ≤ s.natAt g.gate.toNat 8) (hdone : w.shardsDone = 0) (hsent : w.sent = 0)
    (hsh : (waveShards s w.desc)[w.shardsDone]? = some sh) (htile : tileShards s w.desc 0 ≠ []) (hq : s.SealIs sh q) (hold : q.hstep + 1 < w.step) :
    ∃ c, let t := (s.accessed c s.mem).setWave sp (w.inPhase .seal)
      exec (.gateWordPoll sp) s = .next t ∧ (t.spring sp).waves = [w.inPhase .seal] := by
  obtain ⟨c, hopen⟩ := gateTry_opens h.clean hg hok hmin
  obtain ⟨d, hhold⟩ := sealWave_holds (w := w.inPhase .seal) (h.clean.accessed c s.mem) sp hsh (hq.accessed c) hold
    (waveShards s w.desc).length
  have hblocked : (tileShards s w.desc w.sent).all ((waveShards s w.desc).take w.shardsDone).contains = false := by
    obtain ⟨y, ys, hy⟩ := List.exists_cons_of_ne_nil htile
    rw [hsent, hdone, hy]
    rfl
  obtain ⟨hwaves, hidle⟩ := setWave_waits (v := w.inPhase .seal)
    (t := (s.accessed d s.mem).setWave sp (w.inPhase .seal)) (h.accessed d) rfl (.inl rfl) rfl rfl
  refine ⟨d, ?_, hwaves⟩
  have htry : s.gateTry sp w = (s.accessed d s.mem).setWave sp (w.inPhase .seal) :=
    hopen.trans (hhold.trans (streamTiles_blocked (w := w.inPhase .seal) (s := s.accessed d s.mem) hblocked _))
  rw [execGateWordPoll_one h hph, htry, hidle]

end Sys2Proof.Machine
end

section
/-! `wave` (O29, R306, R307): an accepted wave joins the others with a transfer of its own, and its first look at the gate word finds it
still below the minimum. -/

namespace Sys2Proof.Machine
open Sys2Proof

variable {s s' : State} {sp : Fin 16} {f : BitVec 57}

/-- What `wave` names in the registers `p`, as a wave at its gate. -/
def waveNamed (f : BitVec 57) (p : Proc) (id : Nat) : Wave where
  desc       := p.getD (lD1 f)
  group      := (p.getS (lRa f)).toNat % 256
  wave       := (p.getS (lRa f)).toNat / 256 % 65536
  gatemin    := (p.getS (lRa f)).toNat / 2 ^ 32
  off        := (p.getS (lRb f)).toNat
  step       := (p.getS (lRc f)).toNat
  tag        := lTag f
  phase      := .gate
  shardsDone := 0
  sent       := 0
  xfer       := id
  hdrs       := []

/-- The wave that the Spring's next `wave` starts. -/
def State.newWave (s : State) (u : Nat) (f : BitVec 57) : Wave := waveNamed f (s.proc (sprKey + u)) s.nextId

/-- `s` with a new wave of Spring `u` and its transfer. -/
def State.addWave (s : State) (u : Nat) (w : Wave) : State :=
  { s with nextId := s.nextId + 1, xfers := s.xfers ++ [Xfer.mk w.xfer (sprKey + u) (.wave u) 0 0 false false []] }.setSpring u
    { s.spring u with waves := (s.spring u).waves ++ [w] }

/-- Spring `sp` issues a `wave` that neither stalls, traps nor is refused. -/
structure WaveTaken (s s' : State) (sp : Fin 16) (f : BitVec 57) : Prop where
  issues : Issues s s' (sprKey + sp) [.d (lD1 f), .s (lRa f), .s (lRb f), .s (lRc f)] 8
  word   : lOk f ['1', 't', 'a', 'b', 'c'] 1 = true
  stores : s'.storesOut (sprKey + sp) = false
  room   : (s'.spring sp).waves.length < 4
  tag    : (s'.proc (sprKey + sp)).tagCount (lTag f) < 255
  legal  : waveTrap (s'.spring sp) f ((s'.proc (sprKey + sp)).getD (lD1 f)) ((s'.proc (sprKey + sp)).getS (lRa f))
    ((s'.proc (sprKey + sp)).getS (lRb f)) ((s'.proc (sprKey + sp)).getS (lRc f)) = none
  allow  : s'.waveRefused sp ((s'.proc (sprKey + sp)).getD (lD1 f)) = none

theorem isSpring_sprKey (sp : Fin 16) : isSpring (sprKey + sp) = true :=
  Bool.and_eq_true_iff.mpr ⟨decide_eq_true (Nat.le_add_right ..), decide_eq_true (Nat.add_lt_add_left sp.isLt 5040)⟩

/-- The wave joins the others, the instruction retires, and the wave takes its first look at the gate word. -/
theorem wave_joins (h : WaveTaken s s' sp f) :
    ∃ t, Retired (s'.addWave sp (s'.newWave sp f)) t (sprKey + sp) ((s'.proc (sprKey + sp)).tagUp (lTag f))
        ((s'.proc (sprKey + sp)).pc + 8) ∧
      exec (.wave (.spring sp) f) s = .next ((t.gateTry sp (s'.newWave sp f)).wavesOn sp) := by
  have hok := Bool.and_eq_true_iff.mpr ⟨isSpring_sprKey sp, h.word⟩
  refine ⟨(s'.addWave sp (s'.newWave sp f)).retire (sprKey + sp) _ 8 false 1, retire_retired .., ?_⟩
  change execWave (.spring sp) f s = _
  simp only [execWave, unitKey, issue64_eq h.issues hok, Nat.add_sub_cancel_left, h.stores, h.legal, h.allow, ge_iff_le,
    Nat.not_le.mpr h.room, Nat.not_le.mpr h.tag, decide_false, Bool.or_self, Bool.false_eq_true, if_false]
  rfl

/-- Among waves that wait, and with a gate word that is still too low, the new wave waits at its gate. -/
theorem wave_waits (h : WaveTaken s s' sp f) (hc : s'.Clean) (htr : s'.traced (sprKey + sp) = false)
    (hwait : ∀ v ∈ (s'.spring sp).waves, v.phase = .gate ∨ v.phase = .seal ∨ v.phase = .stopped) (hsound : ∀ x ∈ s'.xfers, x.err = false)
    {g : SprGrp} (hg : (s'.spring sp).grp (s'.newWave sp f).group = some g) (hacc : s'.accessFault (sprKey + sp) g.gate 8 8 false = none)
    (hlow : s'.natAt g.gate.toNat 8 < (s'.newWave sp f).gatemin) :
    ∃ t, exec (.wave (.spring sp) f) s = .next t ∧ (t.spring sp).waves = (s'.spring sp).waves ++ [s'.newWave sp f] ∧
      t.proc (sprKey + sp) = { (s'.proc (sprKey + sp)).tagUp (lTag f) with pc := (s'.proc (sprKey + sp)).pc + 8 } ∧ t.mem = s'.mem ∧
      t.mesh = s'.mesh := by
  obtain ⟨t, hret, hx⟩ := wave_joins h
  have hregs := hret.regs
  have hmem : t.mem = s'.mem := (hret.mem htr).2
  obtain ⟨ps, cs, tr, m, rfl⟩ := hret.rest
  obtain rfl : m = s'.mem := hmem
  have hspr : ((s'.addWave sp (s'.newWave sp f)).coreSide ps cs tr s'.mem).spring sp =
      { s'.spring sp with waves := (s'.spring sp).waves ++ [s'.newWave sp f] } := State.setSpring_spring_same ..
  have hwaves := congrArg Spring.waves hspr
  obtain ⟨c, hgate⟩ := gateTry_waits (w := s'.newWave sp f) (s := (s'.addWave sp (s'.newWave sp f)).coreSide ps cs tr s'.mem)
    ⟨hc.ponds, hc.lake⟩ (by rw [hspr]; exact hg) (by unfold State.accessFault State.refuses at hacc ⊢; exact hacc) hlow
  refine ⟨_, hx.trans (congrArg _ ((congrArg (State.wavesOn · sp) hgate).trans (wavesOn_idle fun y hy => ?_))),
    hwaves, hregs, rfl, rfl⟩
  refine waveOn_waits ?_ (fun z hz => ?_) sp
  · rcases List.mem_append.mp ((congrArg (y ∈ ·) hwaves).mp hy) with hy | hy
    · exact hwait y hy
    · exact .inl (congrArg Wave.phase (List.mem_singleton.mp hy))
  · rcases List.mem_append.mp (List.mem_of_find?_eq_some hz) with hz | hz
    · exact hsound z hz
    · exact congrArg Xfer.err (List.mem_singleton.mp hz)

end Sys2Proof.Machine

open Sys2Proof Sys2Proof.Machine

/-- Settles O29: an accepted `wave` waits at its gate (`wave_waits`), the poll of the gate word moves it on to its seals
(`gateWordPoll_opens`), and the poll of the seals sends its tiles (`sealPoll_streams`) or stops it (`sealPoll_stops`). -/
theorem wavesWaitAndStream : Obligations.WavesWaitAndStream := by
  refine ⟨?wave, fun sp s w x hruns hwaves hx herr hleft hpond hlake => ?poll⟩
  case wave =>
    rintro sp f s s' k p d ra g rfl rfl rfl rfl hi hok hstores hroom htag hwait hsound hlegal hallow - hg hacc hpond hlake htr hlow
    obtain ⟨t, hexec, hwaves, hregs, hmem, hmesh⟩ :=
      wave_waits ⟨hi, hok, hstores, hroom, htag, hlegal, hallow⟩ ⟨hpond, hlake⟩ htr hwait hsound hg hacc hlow
    exact ⟨t, s'.newWave sp f, hexec, hwaves, rfl, rfl, rfl, rfl, rfl, rfl, rfl, rfl, hregs, hmem, hmesh⟩
  case poll =>
    have h : OneWave s sp w x := ⟨hruns, hwaves, hx, herr, ⟨hpond, hlake⟩⟩
    refine ⟨?gate, ?seals⟩
    case gate =>
      rintro g sh rest q hph hdone hg hacc hmin hshards - hsent htile hgood rfl hold
      obtain ⟨c, hexec, hafter⟩ := gateWordPoll_opens h hph hg hacc hmin hdone hsent (sh := sh) (by rw [hdone, hshards]; rfl) htile
        ⟨hgood, rfl⟩ hold
      exact ⟨_, hexec, hafter, rfl, rfl, rfl, rfl⟩
    case seals =>
      rintro sh q hph hsh hgood rfl
      refine ⟨fun hstep hlast hsent hrows => ?_, fun hstep => ?_⟩
      · obtain ⟨t, hdrs, hexec, hafter, hout⟩ := sealPoll_streams h hph hsh ⟨hgood, rfl⟩ hstep hlast hsent hrows
        refine ⟨_, _, hexec, hafter, rfl, rfl, rfl, rfl, hout.mesh, ?_⟩
        obtain ⟨m, r, i, xs, c, ev, b, rfl⟩ := hout.rest
        exact ⟨rfl, rfl⟩
      · obtain ⟨c, hexec, hafter⟩ := sealPoll_stops h hph hsh ⟨hgood, rfl⟩ hstep
        obtain ⟨hwrote, hpoison⟩ := sealRefused_reports (sp := sp) ((s.accessed c s.mem).setWave sp (w.inPhase .stopped)) w.wave w.step sh
          (some (sealOf (s.bytesAt (sealAddr s sh).toNat 64)))
        exact ⟨_, hexec, hafter, rfl, hwrote.last, hpoison, rfl⟩
end

section
/-! Re-streams (O30, R317 to R320). A control packet at the front of the mesh reaches the Spring that it names (`ctlAt_head`); a queued
re-stream starts when every shard's state stands at its step less one (`rsCheck_passes`), and then reads and requests its tiles whole
(`rsParts_clean`, `rsSend_requested`). -/

namespace Sys2Proof.Machine
open Sys2Proof

variable {s : State} {sp : Fin 16} {p : Packet} {rest : List Packet} {wv st cl co : Nat}

/-- `s` with another queue of re-streams at Spring `u`. -/
def State.setRsQ (s : State) (u : Nat) (q : List RsReq) : State := s.setSpring u { s.spring u with rsQ := q }

/-- `s` with other re-streams in service at Spring `u`. -/
def State.setRs (s : State) (u : Nat) (l : List RsServ) : State := s.setSpring u { s.spring u with rs := l }

theorem setRsQ_spring (s : State) (u : Nat) (q : List RsReq) : (s.setRsQ u q).spring u = { s.spring u with rsQ := q } :=
  State.setSpring_spring_same ..

theorem setRs_spring (s : State) (u : Nat) (l : List RsServ) : (s.setRs u l).spring u = { s.spring u with rs := l } :=
  State.setSpring_spring_same ..

theorem setRsQ_rsQ (s : State) (u : Nat) (q : List RsReq) : ((s.setRsQ u q).spring u).rsQ = q := by rw [setRsQ_spring]
theorem setRsQ_rs (s : State) (u : Nat) (q : List RsReq) : ((s.setRsQ u q).spring u).rs = (s.spring u).rs := by rw [setRsQ_spring]
theorem setRs_rs (s : State) (u : Nat) (l : List RsServ) : ((s.setRs u l).spring u).rs = l := by rw [setRs_spring]
theorem setRs_rsQ (s : State) (u : Nat) (l : List RsServ) : ((s.setRs u l).spring u).rsQ = (s.spring u).rsQ := by rw [setRs_spring]

/-! ## Requests and releases -/

/-- A control packet for Spring `sp` stands at its node, the first of the mesh, and the Spring works. -/
structure CtlHead (s : State) (sp : Fin 16) (p : Packet) (rest : List Packet) (m : CtlMsg) : Prop where
  runs : s.sprRuns sp = true
  mesh : s.mesh = p :: rest
  kind : p.kind = .ctl
  loc  : p.loc = nodeOfSpring sp
  dst  : p.dst = nodeOfSpring sp
  ctl  : p.ctl = m

theorem ctlAt_head {m : CtlMsg} (h : CtlHead s sp p rest m) {f : CtlMsg → Bool} (hf : f m = true) : s.ctlAt sp f = some (0, m) := by
  simp [State.ctlAt, h.mesh, h.kind, h.loc, h.dst, h.ctl, List.findIdx?_cons, hf]

theorem CtlHead.dropPacket {m : CtlMsg} (h : CtlHead s sp p rest m) : (s.dropPacket 0).mesh = rest :=
  congrArg (List.eraseIdx · 0) h.mesh

theorem reStreamRequest_delivers (h : CtlHead s sp p rest (.restream sp wv st cl co)) {t : State}
    (ht : s.rsRequest sp ⟨wv, st, cl, co⟩ = some t) : exec (.reStreamRequest sp) s = .next (t.dropPacket 0) := by
  change execReStreamRequest sp s = _
  rw [execReStreamRequest, ctlAt_head h (by simp)]
  simp only [State.ctlSpring, h.runs, ht, Bool.not_true, Bool.false_eq_true, if_false]

theorem reStreamRelease_delivers (h : CtlHead s sp p rest (.release sp wv st cl)) :
    exec (.reStreamRelease sp) s = .next ((s.rsRelease sp wv st cl).dropPacket 0) := by
  change execReStreamRelease sp s = _
  rw [execReStreamRelease, ctlAt_head h (by simp)]
  simp only [State.ctlSpring, h.runs, if_true]

theorem rsRequest_queues {u : Nat} {r : RsReq}
    (hnone : ∀ v ∈ (s.spring u).rs, ¬ (v.cluster = r.cluster ∧ v.wave = r.wave ∧ v.step = r.step)) (hroom : (s.spring u).rsQ.length < 8) :
    s.rsRequest u r = some (s.setRsQ u ((s.spring u).rsQ ++ [r])) := by
  have hany : (s.spring u).rs.any (fun v => v.cluster == r.cluster && v.wave == r.wave && v.step == r.step) = false := by
    simpa [and_assoc] using hnone
  simp only [State.rsRequest, hany, Bool.false_eq_true, if_false, if_neg (Nat.not_le.mpr hroom), ge_iff_le, State.setRsQ]

theorem rsRequest_merges {u : Nat} {r : RsReq} {v : RsServ} (hrs : (s.spring u).rs = [v]) (hc : v.cluster = r.cluster)
    (hw : v.wave = r.wave) (hs : v.step = r.step) :
    s.rsRequest u r = some (s.setRs u [{ v with releases := v.releases + 1 }]) := by
  simp [State.rsRequest, State.setRs, hrs, hc, hw, hs]

/-- One release counts one merged request off; the last one frees the slot and its transfer. -/
theorem rsRelease_one {u : Nat} {v : RsServ} (hrs : (s.spring u).rs = [v]) (hc : v.cluster = cl) (hw : v.wave = wv) (hs : v.step = st) :
    s.rsRelease u wv st cl =
      if v.releases ≤ 1 then (s.setRs u []).dropXfer v.xfer else s.setRs u [{ v with releases := v.releases - 1 }] := by
  by_cases hr : v.releases ≤ 1 <;> simp [State.rsRelease, State.setRs, hrs, hc, hw, hs, hr]

/-! ## The start of a re-stream -/

/-- Every shard's seal stands at the step before: the check passes (R319). -/
theorem rsCheck_passes (hc : s.Clean) (sp : Fin 16) {step : Nat} {shards : List Nat}
    (h : ∀ sh ∈ shards, ∃ q, s.SealIs sh q ∧ q.sstep + 1 = step) :
    ∃ c, s.rsCheck sp step shards = (s.accessed c s.mem, none) := by
  induction shards generalizing s with
  | nil => exact ⟨s.ecnt, rfl⟩
  | cons sh r ih =>
    obtain ⟨⟨q, hq, hstep⟩, hrest⟩ := List.forall_mem_cons.mp h
    obtain ⟨c, hread⟩ := readSeal_good hc sp hq (polderOf (sprKey + sp))
    obtain ⟨d, hd⟩ := ih (hc.accessed c s.mem) fun sh hsh => (hrest sh hsh).imp fun q h => ⟨h.1.accessed c, h.2⟩
    refine ⟨d, ?_⟩
    simp only [State.rsCheck, hread, if_pos hstep]
    exact hd

/-- The first shard's seal stands at another step: the check ends there. -/
theorem rsCheck_fails (hc : s.Clean) (sp : Fin 16) {step sh : Nat} {q : Seal} (hq : s.SealIs sh q) (hstep : q.sstep + 1 ≠ step)
    (others : List Nat) : ∃ c, s.rsCheck sp step (sh :: others) = (s.accessed c s.mem, some (sh, some q)) := by
  obtain ⟨c, hread⟩ := readSeal_good hc sp hq (polderOf (sprKey + sp))
  refine ⟨c, ?_⟩
  simp only [State.rsCheck, hread, if_neg hstep]

/-- Where no error is stored, all the rows of a logged wave and one line of headers are read. -/
theorem rsParts_clean (hc : s.Clean) (u : Nat) (e : WaveLog) (n i : Nat) (hdrs : List Byte) (out : List (Nat × List Byte)) :
    ∃ c ps, s.rsParts u e n i hdrs out = (s.accessed c s.mem, some ps) ∧ ps.length = out.length + dE e.desc 1 * n + 1 := by
  induction n generalizing s i hdrs out with
  | zero => exact ⟨s.ecnt, _, rfl, List.length_append⟩
  | succ n ih =>
    obtain ⟨c, rows, stat, hdr, hread, hrows⟩ := readTile_clean hc u e.desc i e.step
    obtain ⟨d, ps, hps, hlen⟩ := ih (hc.accessed c s.mem) (i + 1) (hdrs ++ hdr) (out ++ rows)
    refine ⟨d, ps, ?_, ?_⟩
    · simp only [State.rsParts, hread]
      exact hps
    · rw [hlen, List.length_append, hrows, Nat.mul_succ, Nat.add_assoc out.length, Nat.add_comm (dE e.desc 1)]

theorem rsSend_requested (s : State) (u id cluster off : Nat) (ps : List (Nat × List Byte)) :
    Requested s ps.length (s.rsSend u id cluster off ps) :=
  Nat.zero_add ps.length ▸ foldl_counts (fun _ _ _ h => h.request ..) (.refl s) ps

/-- Requests of the same cluster, wave and step (R320). -/
def RsReq.same (r v : RsReq) : Bool := v.cluster == r.cluster && v.wave == r.wave && v.step == r.step

variable {r : RsReq} {queue : List RsReq}

/-- A wave that is not in the log is refused (R319). -/
theorem reStreamStart_unlogged (hruns : s.sprRuns sp = true) (hq : (s.spring sp).rsQ = r :: queue) (hlog : (s.spring sp).logged r = none) :
    exec (.reStreamStart sp) s = .next ((s.setRsQ sp queue).sealRefused sp r.wave r.step 0 none) := by
  change execReStreamStart sp s = _
  simp [execReStreamStart, hq, hlog, hruns, List.findIdx?_cons, State.setRsQ]

/-- The Spring's first queued re-stream is of a logged wave, and none is in service. -/
structure StartDue (s : State) (sp : Fin 16) (r : RsReq) (queue : List RsReq) (e : WaveLog) : Prop where
  runs  : s.sprRuns sp = true
  queue : (s.spring sp).rsQ = r :: queue
  log   : (s.spring sp).logged r = some e
  idle  : (s.spring sp).rs = []
  clean : s.Clean

variable {e : WaveLog}

/-- No re-stream in service holds the slot of the one that is due. -/
theorem StartDue.slot (h : StartDue s sp r queue e) :
    (s.spring sp).rs.any (fun v => v.cluster == r.cluster && v.group == e.group) = false := by
  rw [h.idle, List.any_nil]

/-- What the log gives a re-stream that goes into service, by its transfer and the requests that it answers. -/
def RsReq.served (r : RsReq) (e : WaveLog) (off releases id : Nat) : RsServ where
  wave     := r.wave
  step     := r.step
  cluster  := r.cluster
  group    := e.group
  desc     := e.desc
  off      := off
  releases := releases
  xfer     := id
  flagOut  := false
  done     := false

/-- `s` with one more re-stream in service at Spring `u`, under the next identifier. -/
def State.addServ (s : State) (u : Nat) (v : RsServ) : State :=
  { s with nextId := s.nextId + 1 }.setSpring u { s.spring u with rs := (s.spring u).rs ++ [v] }

theorem addServ_spring (u : Nat) (q : List RsReq) (c : Tbl Word) (v : RsServ) :
    (((s.setRsQ u q).accessed c s.mem).addServ u v).spring u = { s.spring u with rsQ := q, rs := (s.spring u).rs ++ [v] } := by
  have hset : ((s.setRsQ u q).accessed c s.mem).spring u = { s.spring u with rsQ := q } := setRsQ_spring s u q
  rw [State.addServ, State.setSpring_spring_same, hset]

/-- `s` with one more transfer. -/
def State.addXfer (s : State) (x : Xfer) : State := { s with xfers := s.xfers ++ [x] }

/-- What the check of the shards finds decides: it refuses the re-stream, or all its lines go out as parts of one transfer. -/
theorem reStreamStart_checked (h : StartDue s sp r queue e) {t : State} {bad : Option (Nat × Option Seal)}
    (hcheck : (s.setRsQ sp (queue.filter (fun v => !r.same v))).rsCheck sp r.step (waveShards s e.desc) = (t, bad)) :
    (∀ sh q, bad = some (sh, q) → exec (.reStreamStart sp) s = .next (t.sealRefused sp r.wave r.step sh q)) ∧
    (∀ g t1 ps, bad = none → (s.spring sp).grp e.group = some g →
      (t.addServ sp (r.served e g.rploff (1 + (queue.filter r.same).length) t.nextId)).rsParts sp e (tileCount e.desc) 0 [] [] =
        (t1, some ps) →
      exec (.reStreamStart sp) s =
        .next ((t1.addXfer ⟨t.nextId, sprKey + sp, .restream sp, ps.length, 0, false, false, []⟩).rsSend sp t.nextId r.cluster g.rploff
          ps)) := by
  have hexec : exec (.reStreamStart sp) s = execReStreamStart sp s := rfl
  change State.rsCheck _ _ _ (waveShards (s.setRsQ sp (queue.filter (fun v => !r.same v))) e.desc) = _ at hcheck
  simp only [State.setRsQ, RsReq.same] at hcheck
  simp only [execReStreamStart, h.queue, h.log, h.runs, h.slot, List.findIdx?_cons, List.getD_cons_zero, List.eraseIdx_cons_zero,
    Option.isNone_some, Bool.not_false, Bool.not_true, Bool.false_eq_true, if_true, if_false, hcheck] at hexec
  refine ⟨fun sh q hbad => ?_, fun g t1 ps hbad hg hparts => ?_⟩
  · rw [hexec, hbad]
  · simp only [hexec, hbad, hg]
    generalize hz : State.rsParts _ _ _ _ _ _ _ = z
    obtain rfl : z = (t1, some ps) := hz.symm.trans hparts
    rfl

/-- A shard at another step refuses the re-stream (R319). -/
theorem reStreamStart_refused (h : StartDue s sp r queue e) {sh : Nat} {others : List Nat} {q : Seal}
    (hsh : waveShards s e.desc = sh :: others) (hq : s.SealIs sh q) (hstep : q.sstep + 1 ≠ r.step) :
    ∃ c, exec (.reStreamStart sp) s = .next
      (((s.setRsQ sp (queue.filter (fun v => !r.same v))).accessed c s.mem).sealRefused sp r.wave r.step sh (some q)) := by
  obtain ⟨c, hcheck⟩ := rsCheck_fails (s := s.setRsQ sp (queue.filter (fun v => !r.same v))) ⟨h.clean.ponds, h.clean.lake⟩ sp
    ⟨hq.good, hq.value⟩ hstep others
  rw [← hsh] at hcheck
  exact ⟨c, (reStreamStart_checked h hcheck).1 sh (some q) rfl⟩

/-- The re-stream goes into service for all the queued requests of its cluster, wave and step, and every row and the headers are
requested (R318, R320). -/
theorem reStreamStart_serves (h : StartDue s sp r queue e) {g : SprGrp} (hg : (s.spring sp).grp e.group = some g)
    (hshards : ∀ sh ∈ waveShards s e.desc, ∃ q, s.SealIs sh q ∧ q.sstep + 1 = r.step) :
    ∃ t, exec (.reStreamStart sp) s = .next t ∧ (t.spring sp).rsQ = queue.filter (fun v => !r.same v) ∧
      (t.spring sp).rs = [r.served e g.rploff (1 + (queue.filter r.same).length) s.nextId] ∧
      t.reqs.length = s.reqs.length + dE e.desc 1 * tileCount e.desc + 1 ∧
      t.mesh.length = s.mesh.length + dE e.desc 1 * tileCount e.desc + 1 ∧ t.mem = s.mem ∧ t.procs = s.procs := by
  obtain ⟨c, hcheck⟩ := rsCheck_passes (s := s.setRsQ sp (queue.filter (fun v => !r.same v))) (shards := waveShards s e.desc)
    ⟨h.clean.ponds, h.clean.lake⟩ sp fun sh hsh => (hshards sh hsh).imp fun q h => ⟨⟨h.1.good, h.1.value⟩, h.2⟩
  obtain ⟨d, ps, hparts, hlen⟩ := rsParts_clean (s := ((s.setRsQ sp (queue.filter (fun v => !r.same v))).accessed c s.mem).addServ sp
    (r.served e g.rploff (1 + (queue.filter r.same).length) s.nextId)) ⟨h.clean.ponds, h.clean.lake⟩ sp e (tileCount e.desc) 0 [] []
  obtain ⟨t1, t, hexec, hreq, hspr, hm1, hr1, hmem, hprocs⟩ : ∃ t1 t, exec (.reStreamStart sp) s = .next t ∧
      Requested t1 ps.length t ∧ t1.spring sp = { s.spring sp with
        rsQ := queue.filter (fun v => !r.same v)
        rs  := (s.spring sp).rs ++ [r.served e g.rploff (1 + (queue.filter r.same).length) s.nextId] } ∧
      t1.mesh = s.mesh ∧ t1.reqs = s.reqs ∧ t1.mem = s.mem ∧ t1.procs = s.procs := by
    refine ⟨_, _, (reStreamStart_checked h hcheck).2 g _ ps rfl hg hparts, rsSend_requested ..,
      addServ_spring sp (queue.filter (fun v => !r.same v)) c _, ?_⟩
    simp only [State.addXfer, State.accessed, State.addServ, State.setRsQ, State.setSpring_mesh, State.setSpring_reqs,
      State.setSpring_mem, State.setSpring_procs, and_self]
  obtain ⟨⟨m, q, i, rfl⟩, hmesh, hreqs⟩ := hreq
  rw [List.length_nil, Nat.zero_add] at hlen
  rw [h.idle, List.nil_append] at hspr
  refine ⟨_, hexec, congrArg Spring.rsQ hspr, congrArg Spring.rs hspr, ?_, ?_, hmem, hprocs⟩
  · rw [hreqs, hr1, hlen, Nat.add_assoc]
  · rw [hmesh, hm1, hlen, Nat.add_assoc]

end Sys2Proof.Machine

open Sys2Proof Sys2Proof.Machine

/-- Settles O30: a request is queued (`rsRequest_queues`) or merged (`rsRequest_merges`), a queued one is refused
(`reStreamStart_unlogged`, `reStreamStart_refused`) or served (`reStreamStart_serves`), and a release is counted (`rsRelease_one`). -/
theorem reStreamsServed : Obligations.ReStreamsServed := by
  refine fun sp s hruns => ⟨?request, ?unlogged, ?logged, ?release⟩
  case request =>
    intro p rest wv st cl co hmesh hkind hloc hdst hctl
    have h : CtlHead s sp p rest _ := ⟨hruns, hmesh, hkind, hloc, hdst, hctl⟩
    refine ⟨fun hnone hroom => ?_, fun v hrs hc hw hs => ?_⟩
    · exact ⟨_, reStreamRequest_delivers h (rsRequest_queues (r := ⟨wv, st, cl, co⟩) hnone hroom), h.dropPacket,
        setRsQ_rsQ .., setRsQ_rs .., rfl⟩
    · exact ⟨_, reStreamRequest_delivers h (rsRequest_merges (r := ⟨wv, st, cl, co⟩) hrs hc hw hs), h.dropPacket,
        setRs_rs .., setRs_rsQ .., rfl⟩
  case unlogged =>
    intro r rest hq hlog
    obtain ⟨hwrote, hpoison⟩ := sealRefused_reports (sp := sp) (s.setRsQ sp rest) r.wave r.step 0 none
    exact ⟨_, reStreamStart_unlogged hruns hq hlog, setRsQ_rsQ s sp rest, setRsQ_rs s sp rest, hwrote, hpoison, rfl, rfl⟩
  case logged =>
    intro r rest e same hq hlog hidle hpond hlake hsame
    obtain rfl : same = r.same := funext hsame
    have h : StartDue s sp r rest e := ⟨hruns, hq, hlog, hidle, hpond, hlake⟩
    refine ⟨fun g hg hshards => ?_, fun sh others hsh hgood hstep => ?_⟩
    · obtain ⟨t, hexec, hqueue, hrs, ht⟩ := reStreamStart_serves h hg fun sh hsh => ⟨_, ⟨(hshards sh hsh).1, rfl⟩, (hshards sh hsh).2⟩
      exact ⟨t, _, hexec, hqueue, hrs, rfl, rfl, rfl, rfl, rfl, rfl, rfl, rfl, ht⟩
    · obtain ⟨c, hexec⟩ := reStreamStart_refused h hsh ⟨hgood, rfl⟩ hstep
      obtain ⟨hwrote, hpoison⟩ := sealRefused_reports (sp := sp) ((s.setRsQ sp (rest.filter (fun v => !r.same v))).accessed c s.mem)
        r.wave r.step sh (some (sealOf (s.bytesAt (sealAddr s sh).toNat 64)))
      exact ⟨_, hexec, setRsQ_rsQ s sp _, (setRsQ_rs s sp _).trans hidle, hwrote.last, hpoison, rfl⟩
  case release =>
    intro p rest wv st cl v hmesh hkind hloc hdst hctl hrs hc hw hs
    have h : CtlHead s sp p rest _ := ⟨hruns, hmesh, hkind, hloc, hdst, hctl⟩
    refine ⟨_, reStreamRelease_delivers h, ?_⟩
    rw [rsRelease_one hrs hc hw hs]
    by_cases hlast : v.releases ≤ 1
    · rw [if_pos hlast, if_pos hlast]
      exact ⟨h.dropPacket, setRs_rs s sp _, rfl⟩
    · rw [if_neg hlast, if_neg hlast]
      exact ⟨h.dropPacket, setRs_rs s sp _, rfl⟩
end

section
/-! Units of the embankment (O31, O32, O34). A Sluice or an update engine lies in no cluster, so its instructions retire without a count
or an atom; where no error is stored, it reads a seal that checks (R358) as it stands, and a check of it that fails is one detection. -/

namespace Sys2Proof.Machine
open Sys2Proof

variable {s : State}

/-! ## Which unit a Sluice or an update engine is -/

theorem isCore_sluKey (u : Nat) : isCore (sluKey + u) = false := decide_eq_false (by unfold sluKey; omega)

theorem isCore_ueKey (k : Nat) : isCore (ueKey + k) = false := decide_eq_false (by unfold ueKey; omega)

theorem isSluice_sluKey (sl : Fin 16) : isSluice (sluKey + sl) = true :=
  Bool.and_eq_true_iff.mpr ⟨decide_eq_true (Nat.le_add_right ..), decide_eq_true (Nat.add_lt_add_left sl.isLt 5056)⟩

theorem isUe_ueKey (k : Fin 44) : isUe (ueKey + k) = true :=
  Bool.and_eq_true_iff.mpr ⟨decide_eq_true (Nat.le_add_right ..), decide_eq_true (Nat.add_lt_add_left k.isLt 5072)⟩

theorem polderOf_sluice (sl : Fin 16) : polderOf (sluKey + sl) = 56 + sl / 4 := by
  have hspring : isSpring (sluKey + sl) = false := Bool.and_eq_false_iff.mpr (.inr (decide_eq_false (by unfold sluKey; omega)))
  simp [polderOf, isCore_sluKey, hspring, isSluice_sluKey]

theorem ueUnit_ne_warden (k : Fin 44) : ueUnit k ≠ uidWarden := by
  have hlt := k.isLt
  have hspring : isSpring (ueKey + k) = false := Bool.and_eq_false_iff.mpr (.inr (decide_eq_false (by unfold ueKey; omega)))
  have hsluice : isSluice (ueKey + k) = false := Bool.and_eq_false_iff.mpr (.inr (decide_eq_false (by unfold ueKey; omega)))
  simp only [ueUnit, uidUnit, isCore_ueKey, hspring, hsluice, isUe_ueKey, uidWarden, Bool.false_eq_true, if_false, if_true,
    Nat.add_sub_cancel_left]
  omega

/-! ## Retirement -/

theorem retire_embankment {k : Nat} (h : isCore k = false) (s : State) (p : Proc) (len : Nat) (slot0 : Bool) (atom : Nat) :
    s.retire k p len slot0 atom = s.setProc k { p with pc := (s.proc k).pc + BitVec.ofNat 64 len } := by
  have htr (t : State) : t.traced k = false := by rw [State.traced, h, Bool.and_false, Bool.false_and]
  rw [State.retire, traceAtom_off _ _ _ _ (htr _), State.countEv, h]
  rfl

/-! ## Messages and what waits for them -/

theorem sendMessage_rest (s : State) (node : Nat) (m : Message) :
    ∃ ms ev bs, s.sendMessage node m = { s with mesh := ms, evrec := ev, bars := bs } := by
  unfold State.sendMessage
  extract_lets g
  split
  · exact ⟨_, _, _, rfl⟩
  split
  · exact ⟨_, _, _, rfl⟩
  · exact ⟨_, _, _, rfl⟩

theorem await_rest (s : State) (k x : Nat) :
    ∃ rs xs, s.await k x = (s.nextId, { s with nextId := s.nextId + 1, reqs := rs, xfers := xs }) := by
  unfold State.await State.xferAdd
  dsimp only [State.takeId]
  split
  · exact ⟨_, _, rfl⟩
  · exact ⟨_, _, rfl⟩

/-! ## Accesses -/

section
variable (s : State) (c : Tbl Word) (m : List Host.Cell)

@[simp] theorem State.accessed_mem : (s.accessed c m).mem = m := rfl
@[simp] theorem State.accessed_proc (j : Nat) : (s.accessed c m).proc j = s.proc j := rfl
@[simp] theorem State.accessed_sluice (j : Nat) : (s.accessed c m).sluice j = s.sluice j := rfl
@[simp] theorem State.accessed_ue (j : Nat) : (s.accessed c m).ue j = s.ue j := rfl

theorem countEmb_accessed (u i n : Nat) : ∃ d, (s.accessed c m).countEmb u i n = s.accessed d m := countEmb_ecnt ..

end

theorem bytesAt_of_write {t : State} {a n : Nat} {bs : List Byte} (h : t.mem = memWrite s.mem a bs) (hn : bs.length = n) :
    t.bytesAt a n = bs := by
  rw [State.bytesAt, h, ← hn, memRead_write]

theorem outside_of_write {t : State} {a n : Nat} {bs : List Byte} (h : t.mem = memWrite s.mem a bs) (hn : bs.length = n) :
    s.SameMemOutside t a n := fun b hb => by
  rw [h]
  exact memByte_write_outside _ _ _ _ (by rwa [hn])

/-! ## Seals -/

theorem readSeal_clean (hc : s.Clean) {sh unit : Nat} (hunit : unit ≠ uidWarden) {q : Seal} (hq : s.SealIs sh q) (src : Nat) :
    ∃ c, s.readSeal sh src unit = (s.accessed c s.mem, some q) := by
  obtain ⟨c, hread⟩ := eccRead_clean hc (sealAddr s sh) 64 unit
  have hf : s.fetchSeal sh unit = (s.accessed c s.mem, some (s.bytesAt (sealAddr s sh).toNat 64)) := by
    rw [State.fetchSeal, if_neg hunit, hread]
    rfl
  refine ⟨c, ?_⟩
  rw [State.readSeal, hf]
  simp only [hq.good, hq.value, if_true]

@[simp] theorem length_sealBytes (q : Seal) : (sealBytes q).length = 64 := by
  simp [sealBytes, sealBody]

theorem ueSeal_clean (hc : s.Clean) (k : Fin 44) (sh : Nat) (q : Seal) :
    ∃ c, s.ueSeal k sh q = s.accessed c (memWrite s.mem (sealAddr s sh).toNat (sealBytes q)) := by
  obtain ⟨c, hw⟩ := eccWrite_clean hc (sealAddr s sh) (present (sealBytes q)) (ueUnit k)
  rw [State.ueSeal, State.writeSeal, if_neg (ueUnit_ne_warden k), hw, memWriteMask_present]
  exact countEmb_accessed ..

theorem resealed_of_mem {t : State} {sh : Nat} {q : Seal} (h : t.mem = memWrite s.mem (sealAddr s sh).toNat (sealBytes q)) :
    s.Resealed t sh q := ⟨bytesAt_of_write h (length_sealBytes q), outside_of_write h (length_sealBytes q)⟩

end Sys2Proof.Machine
end

section
/-! Seals advance (O34, R359, R362, Table 10.5). The one write of a `useal` is `sealWrite`: the seal as `sealNext` says, what goes with
the field (`sealEffect`), and retirement. -/

namespace Sys2Proof.Machine
open Sys2Proof

variable {s s' : State} {k : Fin 44} {f : BitVec 57} {e : UeShard} {q : Seal} {field : Nat} {rc : Word}

/-! ## The all-gather's opening -/

theorem gatherBegin_rest (s : State) (k sh step peer : Nat) :
    ∃ i rs xs ms ev bs g, s.gatherBegin k sh step peer =
      { s with nextId := i, reqs := rs, xfers := xs, mesh := ms, evrec := ev, bars := bs,
               ues := Tbl.put s.ues k { s.ue k with gathers := g } } := by
  unfold State.gatherBegin
  dsimp only [State.takeId]
  obtain ⟨rs, xs, hawait⟩ := await_rest { s with nextId := s.nextId + 1, xfers := s.xfers ++
    [⟨s.nextId, ueKey + k, .gather k sh step peer, 0, 0, false, false, []⟩] } (ueKey + k) s.nextId
  rw [hawait]
  obtain ⟨ms, ev, bs, hsend⟩ := sendMessage_rest _ _ _
  exact ⟨_, rs, xs, ms, ev, bs, _, hsend⟩

theorem gatherAll_proc (s : State) (k sh step j : Nat) : (s.gatherAll k sh step).proc j = s.proc j := by
  refine foldl_proc (fun t c => ?_) s _
  obtain ⟨i, rs, xs, ms, ev, bs, g, h⟩ := gatherBegin_rest t k sh step c.toNat
  rw [h]
  rfl

theorem gatherAll_waiting (s : State) (k sh step : Nat) : ((s.gatherAll k sh step).ue k).waiting = (s.ue k).waiting := by
  unfold State.gatherAll
  generalize s.peers = cs
  induction cs generalizing s with
  | nil => rfl
  | cons c cs ih =>
    obtain ⟨i, rs, xs, ms, ev, bs, g, h⟩ := gatherBegin_rest s k sh step c.toNat
    rw [List.foldl_cons, ih, h]
    exact (congrArg UpEng.waiting (Tbl.get_put_same ..)).trans rfl

/-! ## The write -/

/-- What goes with the write of a field (R359, R360, R362). -/
def State.sealEffect (s : State) (k sh field n digest : Nat) : State :=
  match field with
  | 0 => s.setUe k { s.ue k with ummax := 0 }
  | 1 => s.setUe k { s.ue k with inbox := Tbl.put (s.ue k).inbox sh ⟨0, 0, n + 1⟩ }
  | 2 => s.gatherAll k sh n
  | _ => s.compareDigests k sh digest

theorem sealEffect_mem (s : State) (k sh field n digest : Nat) : (s.sealEffect k sh field n digest).mem = s.mem := by
  unfold State.sealEffect
  split
  · rfl
  · rfl
  · exact State.gatherAll_mem
  · rfl

theorem sealEffect_proc (s : State) (k sh field n digest j : Nat) : (s.sealEffect k sh field n digest).proc j = s.proc j := by
  unfold State.sealEffect
  split
  · rfl
  · rfl
  · exact gatherAll_proc ..
  · rfl

theorem setUe_waiting {x : UpEng} {k : Nat} (h : x.waiting = (s.ue k).waiting) : ((s.setUe k x).ue k).waiting = (s.ue k).waiting :=
  (congrArg UpEng.waiting (State.setUe_ue_same ..)).trans h

theorem sealEffect_waiting (s : State) (k sh field n digest : Nat) :
    ((s.sealEffect k sh field n digest).ue k).waiting = (s.ue k).waiting := by
  unfold State.sealEffect
  split
  · exact setUe_waiting rfl
  · exact setUe_waiting rfl
  · exact gatherAll_waiting ..
  · exact setUe_waiting rfl

theorem ueRetire_id (s : State) (k : Nat) :
    s.ueRetire k id = s.setProc (ueKey + k) { s.proc (ueKey + k) with pc := (s.proc (ueKey + k)).pc + 8 } :=
  retire_embankment (isCore_ueKey k) ..

/-- Engine `k` has written `r` as the seal of shard `sh`, done what goes with the field, and retired. -/
structure SealWritten (s t : State) (k sh field n digest : Nat) (r : Seal) : Prop where
  sealed  : s.Resealed t sh r
  regs    : t.proc (ueKey + k) = { s.proc (ueKey + k) with pc := (s.proc (ueKey + k)).pc + 8 }
  waiting : (t.ue k).waiting = (s.ue k).waiting
  effect  : ∃ c m, t.ue k = ((s.accessed c m).sealEffect k sh field n digest).ue k

theorem sealWrite_written (hc : s.Clean) (k : Fin 44) (sh field : Nat) (rc : Word) (q : Seal) :
    SealWritten s (s.sealWrite k sh field rc q) k sh field (sealStep rc) q.digest (sealNext q field (sealStep rc) (sealScale rc)) := by
  obtain ⟨c, hseal⟩ := ueSeal_clean hc k sh (sealNext q field (sealStep rc) (sealScale rc))
  have hx : s.sealWrite k sh field rc q = ((s.ueSeal k sh (sealNext q field (sealStep rc) (sealScale rc))).sealEffect k sh field
      (sealStep rc) q.digest).ueRetire k id := rfl
  rw [hx, hseal, ueRetire_id]
  refine ⟨resealed_of_mem ?_, ?_, ?_, _, _, rfl⟩
  · rw [State.setProc_mem, sealEffect_mem, State.accessed_mem]
  · rw [State.setProc_proc_same, sealEffect_proc, State.accessed_proc]
  · rw [State.setProc_ue, sealEffect_waiting, State.accessed_ue]

namespace SealWritten

variable {t : State} {k sh n digest : Nat} {r : Seal}

theorem of_accessed {c : Tbl Word} (h : SealWritten (s.accessed c s.mem) t k sh field n digest r) :
    SealWritten s t k sh field n digest r := by
  obtain ⟨d, m, hue⟩ := h.effect
  exact ⟨⟨h.sealed.wrote, h.sealed.other⟩, h.regs, h.waiting, d, m, hue⟩

theorem ummax_pass (h : SealWritten s t k sh 0 n digest r) : (t.ue k).ummax = 0 := by
  obtain ⟨c, m, hue⟩ := h.effect
  rw [hue]
  exact congrArg UpEng.ummax (State.setUe_ue_same ..)

theorem inbox_state (h : SealWritten s t k sh 1 n digest r) : Tbl.get (t.ue k).inbox Inbox.fresh sh = ⟨0, 0, n + 1⟩ := by
  obtain ⟨c, m, hue⟩ := h.effect
  rw [hue]
  exact (congrArg (fun x : UpEng => Tbl.get x.inbox Inbox.fresh sh) (State.setUe_ue_same ..)).trans (Tbl.get_put_same ..)

end SealWritten

/-- The digests of the replicas that differ from the owner's (R362, R462). -/
def UpEng.unequal (x : UpEng) (sh digest : Nat) : List (Nat × Nat × Bool × Nat) :=
  (x.gathers.filter (fun g => g.shard == sh && g.stage == 3 && g.digest != digest)).map (fun g => (sh, g.peer, false, g.digest))

theorem mem_unequal {x : UpEng} {sh digest : Nat} {g : Gather} (hg : g ∈ x.gathers) (hsh : g.shard = sh) (hst : g.stage = 3)
    (hd : g.digest ≠ digest) : (sh, g.peer, false, g.digest) ∈ x.unequal sh digest :=
  List.mem_map.mpr ⟨g, List.mem_filter.mpr ⟨hg, by simp [hsh, hst, hd]⟩, rfl⟩

theorem unequal_eq_nil {x : UpEng} {sh digest : Nat} (h : ∀ g ∈ x.gathers, g.shard = sh → g.stage = 3 → g.digest = digest) :
    x.unequal sh digest = [] := by
  rw [UpEng.unequal, List.map_eq_nil_iff, List.filter_eq_nil_iff]
  intro g hg hall
  simp only [Bool.and_eq_true, beq_iff_eq, bne_iff_ne] at hall
  exact hall.2 (h g hg hall.1.1 hall.1.2)

/-- The digests have been compared: the exchanges of the shard end, and what differs is kept. -/
structure Compared (x y : UpEng) (sh coord digest : Nat) : Prop where
  ended : ∀ g ∈ y.gathers, g.shard ≠ sh
  count : y.compared = x.compared + 1
  kept  : y.mis = if (x.unequal sh digest).isEmpty then x.mis else x.mis ++ (sh, coord, true, digest) :: x.unequal sh digest

theorem SealWritten.compares {t : State} {k sh n digest : Nat} {r : Seal} (h : SealWritten s t k sh 3 n digest r) :
    Compared (s.ue k) (t.ue k) sh s.group.coord.toNat digest := by
  obtain ⟨c, m, hue⟩ := h.effect
  rw [hue]
  change Compared _ (((s.accessed c m).compareDigests k sh digest).ue k) _ _ _
  rw [State.compareDigests, State.setUe_ue_same]
  exact ⟨fun g hg => by simpa using (List.mem_filter.mp hg).2, rfl, rfl⟩

namespace Compared

variable {x y : UpEng} {sh coord digest : Nat}

theorem equal (h : Compared x y sh coord digest) (heq : ∀ g ∈ x.gathers, g.shard = sh → g.stage = 3 → g.digest = digest) :
    y.mis = x.mis := by
  rw [h.kept, unequal_eq_nil heq]
  rfl

theorem differs (h : Compared x y sh coord digest) {g : Gather} (hg : g ∈ x.gathers) (hsh : g.shard = sh) (hst : g.stage = 3)
    (hd : g.digest ≠ digest) : (sh, g.peer, false, g.digest) ∈ y.mis := by
  have hmem := mem_unequal hg hsh hst hd
  rw [h.kept, if_neg (by simpa using List.ne_nil_of_mem hmem)]
  exact List.mem_append_right _ (List.mem_cons_of_mem _ hmem)

end Compared

/-! ## `useal` -/

/-- Update engine `k` issues a `useal` of shard `e`, a field and RC, and the seal `q` stands in the phase that the field needs. -/
structure SealDue (s s' : State) (k : Fin 44) (f : BitVec 57) (e : UeShard) (q : Seal) (field : Nat) (rc : Word) : Prop where
  issues : Issues s s' (ueKey + k) [.s (lRa f), .s (lRb f), .s (lRc f)] 8
  word   : lOk f ['a', 'b', 'c'] 1 = true
  named  : field = ((s'.proc (ueKey + k)).getS (lRb f)).toNat ∧ rc = (s'.proc (ueKey + k)).getS (lRc f)
  clean  : s'.Clean
  stores : s'.storesOut (ueKey + k) = false
  shard  : (s'.ue k).shardOf ((s'.proc (ueKey + k)).getS (lRa f)).toNat = some e
  legal  : usealBad (some e) ((s'.proc (ueKey + k)).getS (lRa f)) ((s'.proc (ueKey + k)).getS (lRb f)) rc = none
  seals  : s'.SealIs e.shard q
  phase  : sealPhaseOk q field (sealStep rc) = true

theorem shard_of_shardOf {x : UpEng} {sh : Nat} (h : x.shardOf sh = some e) : e.shard = sh := by
  simpa using List.find?_some h

/-- Once the seal is read, the write is made or the engine waits. -/
theorem useal_checked (h : SealDue s s' k f e q field rc) :
    ∃ c, exec (.useal (.ue k) f false) s = .next (
      if s'.sealMay k e field (sealStep rc) then (s'.accessed c s'.mem).sealWrite k e.shard field rc q
      else (s'.accessed c s'.mem).setUe k { s'.ue k with waiting := some ⟨e.shard, field, rc⟩ }) := by
  obtain ⟨hi, hok, ⟨rfl, rfl⟩, hc, hstores, hshard, hlegal, hseal, hphase⟩ := h
  obtain ⟨c, hread⟩ := readSeal_clean hc (ueUnit_ne_warden k) hseal (uePol k)
  refine ⟨c, ?_⟩
  change execUseal (.ue k) f false s = _
  rw [shard_of_shardOf hshard] at hread ⊢
  simp only [execUseal, State.ueInstr, issue64_eq hi hok, hstores, hshard, hlegal, hread, hphase, Bool.false_eq_true, if_false,
    Bool.not_true]
  rfl

theorem useal_advances (h : SealDue s s' k f e q field rc) (hmay : s'.sealMay k e field (sealStep rc) = true) :
    ∃ t, exec (.useal (.ue k) f false) s = .next t ∧
      SealWritten s' t k e.shard field (sealStep rc) q.digest (sealNext q field (sealStep rc) (sealScale rc)) := by
  obtain ⟨c, hexec⟩ := useal_checked h
  exact ⟨_, hexec.trans (congrArg _ (if_pos hmay)), (sealWrite_written (h.clean.accessed c s'.mem) k e.shard field rc q).of_accessed⟩

theorem canRun_of_waiting {k : Fin 44} {w : WaitSeal} (h : (s.ue k).waiting = some w) : s.canRun (ueKey + k) = false := by
  have hw : s.sealWaits (ueKey + k) = true := by rw [State.sealWaits, isUe_ueKey, Nat.add_sub_cancel_left, h]; rfl
  rw [State.canRun, hw, Bool.not_true, Bool.and_false]

theorem useal_waits (h : SealDue s s' k f e q field rc) (hmay : s'.sealMay k e field (sealStep rc) = false) :
    ∃ t, exec (.useal (.ue k) f false) s = .next t ∧ (t.ue k).waiting = some ⟨e.shard, field, rc⟩ ∧ t.mem = s'.mem ∧
      t.proc (ueKey + k) = s'.proc (ueKey + k) ∧ t.canRun (ueKey + k) = false := by
  obtain ⟨c, hexec⟩ := useal_checked h
  have hwait : (((s'.accessed c s'.mem).setUe k { s'.ue k with waiting := some ⟨e.shard, field, rc⟩ }).ue k).waiting =
      some ⟨e.shard, field, rc⟩ := congrArg UpEng.waiting (State.setUe_ue_same ..)
  exact ⟨_, hexec.trans (congrArg _ (if_neg (by rw [hmay]; exact Bool.false_ne_true))), hwait, rfl, rfl, canRun_of_waiting hwait⟩

/-- The end of a wait makes the write that the `useal` asked for. -/
theorem usealWaitEnd_advances {w : WaitSeal} (hw : (s.ue k).waiting = some w) (hc : s.Clean) (hshard : (s.ue k).shardOf w.shard = some e)
    (hrun : (s.setUe k { s.ue k with waiting := none }).canRun (ueKey + k) = true) (hmay : s.sealMay k e w.field (sealStep w.rc) = true)
    (hq : s.SealIs w.shard q) :
    ∃ t, exec (.usealWaitEnd k false) s = .next t ∧
      SealWritten (s.setUe k { s.ue k with waiting := none }) t k w.shard w.field (sealStep w.rc) q.digest
        (sealNext q w.field (sealStep w.rc) (sealScale w.rc)) := by
  have hc' : (s.setUe k { s.ue k with waiting := none }).Clean := ⟨hc.ponds, hc.lake⟩
  obtain ⟨c, hread⟩ := readSeal_clean (s := s.setUe k { s.ue k with waiting := none }) hc' (ueUnit_ne_warden k)
    ⟨hq.good, hq.value⟩ (uePol k)
  refine ⟨_, ?_, (sealWrite_written (hc'.accessed c s.mem) k w.shard w.field w.rc q).of_accessed⟩
  change execUsealWaitEnd k false s = _
  simp only [execUsealWaitEnd, hw, hshard, hrun, hmay, hread, Bool.not_true, Bool.or_self, Bool.false_eq_true, if_false]
  rfl

end Sys2Proof.Machine

open Sys2Proof Sys2Proof.Machine

/-- Settles O34: a `useal` that may write does so (`useal_advances`), one that may not waits (`useal_waits`), and the end of the wait
writes (`usealWaitEnd_advances`); the comparison of the digests is `Compared`. -/
theorem sealsAdvance : Obligations.SealsAdvance := by
  refine ⟨?useal, ?waitEnd⟩
  case useal =>
    rintro k f s s' key p e q rc field rfl rfl hrc hfield hi hok hc hstores hshard hlegal hseal hphase
    have h : SealDue s s' k f e q field rc := ⟨hi, hok, ⟨hfield, hrc⟩, hc, hstores, hshard, hrc ▸ hlegal, hseal, hphase⟩
    refine ⟨fun hmay => ?_, useal_waits h⟩
    obtain ⟨t, hexec, ht⟩ := useal_advances h hmay
    refine ⟨t, _, hexec, ht.sealed, ht.regs, ?_, ?_, ?_, ?_⟩
    · rintro rfl
      exact ⟨rfl, ht.ummax_pass⟩
    · rintro rfl
      exact ⟨rfl, ht.inbox_state⟩
    · rintro rfl
      rfl
    · rintro rfl
      have hcmp := ht.compares
      exact ⟨rfl, hcmp.ended, hcmp.count, hcmp.equal, fun g => hcmp.differs⟩
  case waitEnd =>
    intro k s w e q hw hc hshard hrun hmay hq
    obtain ⟨t, hexec, ht⟩ := usealWaitEnd_advances hw hc hshard hrun hmay hq
    refine ⟨t, _, hexec, ⟨ht.sealed.wrote, ht.sealed.other⟩, ?_, ht.regs, ?_, ?_, ?_, ?_⟩
    · rw [ht.waiting, State.setUe_ue_same]
    · intro h0; rw [h0]; rfl
    · intro h1; rw [h1]; rfl
    · intro h2; rw [h2]; rfl
    · intro h3
      obtain ⟨n, hn⟩ := Nat.exists_eq_add_of_le' h3
      rw [hn]
      rfl
end

section
/-! Sluices at work on their entries (O31, O32; Table 10.1, R342, R344). Where no error is stored, an entry is read as memory holds it
and put back whole; what else that work leaves is counters, reports and the Sluice's own registers. -/

namespace Sys2Proof.Machine
open Sys2Proof

variable {s t v : State} {u : Nat} {o : OpenTag}

/-! ## Open tags -/

theorem setTag_sluice (s : State) (u : Nat) (x : OpenTag) : (s.setTag u x).sluice u =
    { s.sluice u with tags := (s.sluice u).tags.map (fun y => if y.gtag = x.gtag ∧ y.step = x.step then x else y) } :=
  State.setSluice_sluice_same ..

theorem openTag_of_tags (h : (t.sluice u).tags = (s.sluice u).tags) (gtag step : Nat) : t.openTag u gtag step = s.openTag u gtag step := by
  rw [State.openTag, State.openTag, h]

theorem openTag_names {gtag step : Nat} (h : s.openTag u gtag step = some o) : o.gtag = gtag ∧ o.step = step := by
  simpa using List.find?_some h

/-- A tag that is open has the record that it is given. -/
theorem setTag_openTag {x : OpenTag} (h : (s.openTag u x.gtag x.step).isSome) : (s.setTag u x).openTag u x.gtag x.step = some x := by
  have hp : ((fun y : OpenTag => y.gtag == x.gtag && y.step == x.step) ∘ fun y => if y.gtag = x.gtag ∧ y.step = x.step then x else y) =
      fun y => y.gtag == x.gtag && y.step == x.step := by
    funext y
    by_cases hy : y.gtag = x.gtag ∧ y.step = x.step
    · simp [hy]
    · simp [hy]
  obtain ⟨y, hy⟩ := Option.isSome_iff_exists.mp h
  rw [State.openTag, setTag_sluice, List.find?_map, hp]
  rw [State.openTag] at hy
  rw [hy, Option.map_some, if_pos (openTag_names hy)]

/-! ## Entries -/

@[simp] theorem length_accBytes (e : AccEntry) : (accBytes e).length = 128 := by
  simp [accBytes, List.length_flatten, Function.comp_def]

theorem accEntry_accBytes_cnt (e : AccEntry) : (accEntry (accBytes e)).cnt = e.cnt % 65536 := by
  have hlen : (((List.range 32).map (fun i => leBytes 3 ((e.acc.s.getD i 0) % 2 ^ 24).toNat)).flatten ++
      [BitVec.ofNat 8 e.acc.e, BitVec.ofNat 8 (b2n e.acc.flush + 2 * b2n e.acc.comb + 4 * b2n e.done + 8 * b2n e.sent)]).length = 98 := by
    simp [List.length_flatten, Function.comp_def]
  have htake : ((accBytes e).drop 98).take 2 = leBytes 2 e.cnt := by
    rw [accBytes, List.append_assoc _ _ (leBytes 26 0), List.append_assoc _ (leBytes 2 e.cnt), List.drop_left' hlen,
      List.take_left' (leBytes_length ..)]
  exact (congrArg leNat htake).trans (leNat_leBytes ..)

/-- Entry `b` of a tag as memory holds it. -/
def State.entryOf (s : State) (o : OpenTag) (b : Nat) : AccEntry := accEntry (s.bytesAt (entryAddr o b).toNat 128)

theorem entryOf_of_mem (h : t.mem = s.mem) (o : OpenTag) (b : Nat) : t.entryOf o b = s.entryOf o b := by
  rw [State.entryOf, State.entryOf, State.bytesAt, State.bytesAt, h]

theorem readEntry_clean (hc : s.Clean) (u : Nat) (o : OpenTag) (b : Nat) :
    ∃ c, s.readEntry u o b = (s.accessed c s.mem, some (s.entryOf o b)) := by
  obtain ⟨c, hread⟩ := eccRead_clean hc (entryAddr o b) 128 (uidUnit (sluKey + u))
  refine ⟨c, ?_⟩
  rw [State.readEntry, hread]
  rfl

theorem writeEntry_clean (hc : s.Clean) (u : Nat) (o : OpenTag) (b : Nat) (e : AccEntry) :
    ∃ c, s.writeEntry u o b e = s.accessed c (memWrite s.mem (entryAddr o b).toNat (accBytes e)) := by
  obtain ⟨c, hw⟩ := eccWrite_clean hc (entryAddr o b) (present (accBytes e)) (uidUnit (sluKey + u))
  refine ⟨c, ?_⟩
  rw [State.writeEntry, hw, memWriteMask_present]

/-! ## What the work leaves -/

/-- `t` is `s` after work of a Sluice on its entries: but for memory, registers of units, counters, reports and Sluices all is as before,
and no message to the safety monitor is lost. -/
structure SluiceWork (s t : State) : Prop where
  rest : ∃ m ps ec ev f bs sl,
    t = { s with mem := m, procs := ps, ecnt := ec, evrec := ev, safety := f, bars := bs, sluices := sl }
  told : ∀ d ∈ s.safety.queue, d ∈ t.safety.queue

namespace SluiceWork

theorem refl (s : State) : SluiceWork s s := ⟨⟨_, _, _, _, _, _, _, rfl⟩, fun _ h => h⟩

theorem trans (h : SluiceWork s t) (g : SluiceWork t v) : SluiceWork s v := by
  obtain ⟨⟨_, _, _, _, _, _, _, rfl⟩, hd⟩ := h
  obtain ⟨⟨_, _, _, _, _, _, _, rfl⟩, gd⟩ := g
  exact ⟨⟨_, _, _, _, _, _, _, rfl⟩, fun d h => gd d (hd d h)⟩

theorem mesh (h : SluiceWork s t) : t.mesh = s.mesh := by
  obtain ⟨⟨_, _, _, _, _, _, _, rfl⟩, -⟩ := h
  rfl

theorem clean (h : SluiceWork s t) (hc : s.Clean) : t.Clean := by
  obtain ⟨⟨_, _, _, _, _, _, _, rfl⟩, -⟩ := h
  exact ⟨hc.ponds, hc.lake⟩

theorem tells (h : SluiceWork s t) {code : Nat} (hd : ∃ d ∈ s.safety.queue, d.code = code) :
    ∃ d ∈ t.safety.queue, d.code = code := by
  obtain ⟨d, hmem, hcode⟩ := hd
  exact ⟨d, h.told d hmem, hcode⟩

end SluiceWork

/-- Work that leaves memory and registers: counts, reports and the Sluices' own records. -/
structure SluiceNotes (s t : State) : Prop where
  work : SluiceWork s t
  mem  : t.mem = s.mem
  proc : ∀ j, t.proc j = s.proc j

theorem SluiceNotes.refl (s : State) : SluiceNotes s s := ⟨.refl s, rfl, fun _ => rfl⟩

theorem SluiceNotes.trans (h : SluiceNotes s t) (g : SluiceNotes t v) : SluiceNotes s v :=
  ⟨h.work.trans g.work, g.mem.trans h.mem, fun j => (g.proc j).trans (h.proc j)⟩

theorem SluiceNotes.ite {c : Prop} [Decidable c] (h : SluiceNotes s t) (g : SluiceNotes s v) : SluiceNotes s (if c then t else v) := by
  split
  · exact h
  · exact g

theorem accessed_work (s : State) (c : Tbl Word) (m : List Host.Cell) : SluiceWork s (s.accessed c m) :=
  ⟨⟨_, _, _, _, _, _, _, rfl⟩, fun _ h => h⟩

theorem setProc_work (s : State) (k : Nat) (x : Proc) : SluiceWork s (s.setProc k x) := ⟨⟨_, _, _, _, _, _, _, rfl⟩, fun _ h => h⟩

theorem accessed_notes (s : State) (c : Tbl Word) : SluiceNotes s (s.accessed c s.mem) := ⟨accessed_work .., rfl, fun _ => rfl⟩

theorem setSluice_notes (s : State) (u : Nat) (x : Sluice) : SluiceNotes s (s.setSluice u x) :=
  ⟨⟨⟨_, _, _, _, _, _, _, rfl⟩, fun _ h => h⟩, rfl, fun _ => rfl⟩

theorem countEmb_notes (s : State) (i j n : Nat) : SluiceNotes s (s.countEmb i j n) := by
  obtain ⟨c, hc⟩ := countEmb_ecnt s i j n
  rw [hc]
  exact accessed_notes s c

theorem detect_notes (s : State) (code src unit : Nat) (pay : List (Nat × Nat)) : SluiceNotes s (s.detect code src unit pay) := by
  refine ⟨?_, State.detect_mem, fun _ => State.detect_proc⟩
  unfold State.detect
  extract_lets s1 s2
  split
  · exact ⟨⟨_, _, _, _, _, _, _, rfl⟩, fun d h => List.mem_append_left _ h⟩
  · exact ⟨⟨_, _, _, _, _, _, _, rfl⟩, fun d h => List.mem_append_left _ h⟩

theorem detect_tells (s : State) (code src unit : Nat) (pay : List (Nat × Nat)) :
    ∃ d ∈ (s.detect code src unit pay).safety.queue, d.code = code := by
  rw [detect_safety]
  exact ⟨_, List.mem_append_right _ (List.mem_singleton.mpr rfl), rfl⟩

/-! ## The check of R73 -/

section
variable (s : State) (u gtag b : Nat) (bad : Bool)

theorem sluCheck_notes : SluiceNotes s (s.sluCheck u gtag b bad) := (detect_notes ..).ite (.refl s)

theorem sluCheck_sluice (j : Nat) : (s.sluCheck u gtag b bad).sluice j = s.sluice j := by
  unfold State.sluCheck State.detect
  dsimp only
  split
  · split <;> rfl
  · rfl

theorem sluCheck_tells {bad : Bool} (h : bad = true) : ∃ d ∈ (s.sluCheck u gtag b bad).safety.queue, d.code = 0x2306 := by
  rw [State.sluCheck, if_pos h]
  exact detect_tells ..

end

/-! ## An entry is put back -/

/-- Sluice `u` has put `e` at `a`, its counter at `c`, with its check failed or not (R73). -/
structure EntryPut (s t : State) (u : Nat) (a : Word) (e : AccEntry) (c : Word) (bad : Bool) : Prop where
  work  : SluiceWork s t
  mem   : t.mem = memWrite s.mem a.toNat (accBytes e)
  regs  : t.proc (sluKey + u) = { s.proc (sluKey + u) with ctrV := c }
  check : bad = true → ∃ d ∈ t.safety.queue, d.code = 0x2306

namespace EntryPut

variable {a : Word} {e : AccEntry} {c : Word} {bad : Bool}

theorem bytes (h : EntryPut s t u a e c bad) : t.bytesAt a.toNat 128 = accBytes e := bytesAt_of_write h.mem (length_accBytes e)

theorem outside (h : EntryPut s t u a e c bad) : s.SameMemOutside t a.toNat 128 := outside_of_write h.mem (length_accBytes e)

theorem followed (h : EntryPut s t u a e c bad) (g : SluiceNotes t v) : EntryPut s v u a e c bad :=
  ⟨h.work.trans g.work, g.mem.trans h.mem, (g.proc _).trans h.regs, fun hb => g.work.tells (h.check hb)⟩

theorem preceded (h : EntryPut t v u a e c bad) (g : SluiceNotes s t) : EntryPut s v u a e c bad :=
  ⟨g.work.trans h.work, by rw [h.mem, g.mem], by rw [h.regs, g.proc], h.check⟩

end EntryPut

theorem putEntry_clean (hc : s.Clean) (u : Nat) (o : OpenTag) (b gtag : Nat) (bad : Bool) (c : Word) (e : AccEntry) :
    EntryPut s (((s.sluCheck u gtag b bad).setSluCtr u c).writeEntry u o b e) u (entryAddr o b) e c bad ∧
      (((s.sluCheck u gtag b bad).setSluCtr u c).writeEntry u o b e).sluice u = s.sluice u := by
  have hnote := sluCheck_notes s u gtag b bad
  have hctr : SluiceWork s ((s.sluCheck u gtag b bad).setSluCtr u c) := hnote.work.trans (setProc_work ..)
  have hmem : ((s.sluCheck u gtag b bad).setSluCtr u c).mem = s.mem := hnote.mem
  have hregs : ((s.sluCheck u gtag b bad).setSluCtr u c).proc (sluKey + u) = { s.proc (sluKey + u) with ctrV := c } := by
    rw [State.setSluCtr, State.setProc_proc_same, hnote.proc]
  have hslu : ((s.sluCheck u gtag b bad).setSluCtr u c).sluice u = s.sluice u := sluCheck_sluice ..
  obtain ⟨d, hd⟩ := writeEntry_clean (hctr.clean hc) u o b e
  have hput := accessed_work ((s.sluCheck u gtag b bad).setSluCtr u c) d (memWrite s.mem (entryAddr o b).toNat (accBytes e))
  rw [hd, hmem]
  exact ⟨⟨hctr.trans hput, State.accessed_mem .., (State.accessed_proc ..).trans hregs,
    fun hb => hput.tells (sluCheck_tells s u gtag b hb)⟩, (State.accessed_sluice ..).trans hslu⟩

end Sys2Proof.Machine
end

section
/-! Gradient blocks reach their entries (O32, R342, R343). `sluTakes_clean` says when an arrival is taken, `sluAdd_adds` what one block
of it leaves; a run is the same over its entries, which lie apart (`entryAddr_apart`). -/

namespace Sys2Proof.Machine
open Sys2Proof

variable {s t v : State} {u i : Nat} {o : OpenTag} {p : Packet}

/-! ## Arrival -/

theorem sluAt_nodeOfSluice : ∀ sl : Fin 16, sluAt (nodeOfSluice sl) = some sl.val := by decide

theorem arrive_good {k : PKind} (h : s.Arrived i p k) {ok : Packet → Bool} (hok : ok p = true) (f : Packet → State) :
    s.arrive i false ok f = f p := by
  simp [State.arrive, State.atNode, h.place, hok, h.home, h.fits, h.home ▸ h.runs]

/-- An arrival at a Sluice that runs is dropped from the mesh and goes to `sluArrive`; one without acknowledgements outside leaves
nothing else. -/
def State.sluTaken (s : State) (i u : Nat) (p : Packet) (adder : Bool) : State := ((s.dropPacket i).sluArrive u p adder).1

theorem gradTaken_inside (hue : p.ue = false) (hacks : p.acks = []) (s : State) : s.gradTaken p = s := by
  rw [State.gradTaken, hue, hacks]
  rfl

section
variable {sl : Fin 16} (hue : p.ue = false) (hloc : p.loc = nodeOfSluice sl) (hacks : p.acks = []) (hruns : s.sluRuns sl = true)
include hue hloc hacks hruns

theorem gblkSluice_arrives (h : s.Arrived i p .gblk) (hout : p.out = some 0) (hheld : p.held = false) (adder : Bool) :
    exec (.gblkSluiceArrival i false adder) s = .next (s.sluTaken i sl p adder) := by
  change execGblkSluiceArrival i false adder s = _
  rw [execGblkSluiceArrival, arrive_good h (by simp [h.kind, hout, hheld, hue])]
  simp only [hloc, sluAt_nodeOfSluice, hruns, Bool.not_true, Bool.false_eq_true, if_false, gradTaken_inside hue hacks, State.sluTaken]
  obtain ⟨t, _ | _⟩ := (s.dropPacket i).sluArrive sl p adder <;> rfl

theorem grunSluice_arrives (h : s.Arrived i p .grun) (adder : Bool) :
    exec (.grunSluiceArrival i false adder) s = .next (s.sluTaken i sl p adder) := by
  change execGrunSluiceArrival i false adder s = _
  rw [execGrunSluiceArrival, arrive_good h (by simp [h.kind, hue])]
  simp only [hloc, sluAt_nodeOfSluice, hruns, Bool.not_true, Bool.false_eq_true, if_false, gradTaken_inside hue hacks, State.sluTaken]
  obtain ⟨t, _ | _⟩ := (s.dropPacket i).sluArrive sl p adder <;> rfl

end

/-! ## What a Sluice takes -/

/-- Entry `b` of an open tag takes `cnt` more contributions (R343). -/
structure Takes (s : State) (o : OpenTag) (cnt b : Nat) : Prop where
  block : b < o.nb
  opens : (s.entryOf o b).done = false
  room  : (s.entryOf o b).cnt + cnt ≤ o.total

theorem sluTakes_clean (hc : s.Clean) {cnt : Nat} {bs : List Nat} (h : ∀ b ∈ bs, Takes s o cnt b) (u : Nat) :
    ∃ c, s.sluTakes u o cnt bs = (s.accessed c s.mem, true) := by
  induction bs generalizing s with
  | nil => exact ⟨s.ecnt, rfl⟩
  | cons b bs ih =>
    obtain ⟨hb, hdone, hcnt⟩ := h b (List.mem_cons_self ..)
    obtain ⟨c, hread⟩ := readEntry_clean hc u o b
    obtain ⟨d, hd⟩ := ih (hc.accessed c s.mem) fun b' hb' =>
      have ⟨h1, h2, h3⟩ := h b' (List.mem_cons_of_mem _ hb')
      ⟨h1, h2, h3⟩
    refine ⟨d, ?_⟩
    rw [State.sluTakes, if_neg (Nat.not_le.mpr hb), hread]
    simp only [hdone, Nat.not_lt.mpr hcnt, decide_false, Bool.or_self, Bool.false_eq_true, if_false, hd]
    rfl

theorem sluDraw_of_proc (h : t.proc (sluKey + u) = s.proc (sluKey + u)) : t.sluDraw u = s.sluDraw u := by
  rw [State.sluDraw, State.sluDraw, h]

/-- The entry `e` of a tag with a sum and `cnt` contributions more (R342). -/
def AccEntry.added (e : AccEntry) (a : Accum) (cnt total : Nat) : AccEntry :=
  { e with acc := a, cnt := e.cnt + cnt, done := e.cnt + cnt == total }

theorem sluAdd_adds (hc : s.Clean) (u b cnt : Nat) (blk : Block) {a : Accum} {c : Word}
    (hadd : addBlock (s.sluDraw u) (s.proc (sluKey + u)).ctrV (s.entryOf o b).acc blk = (a, c)) :
    EntryPut s (s.sluAdd u o b cnt blk) u (entryAddr o b) ((s.entryOf o b).added a cnt o.total) c
      (blk.e != 0 && (s.entryOf o b).resBad) := by
  obtain ⟨d, hread⟩ := readEntry_clean hc u o b
  obtain ⟨hput, -⟩ := putEntry_clean (hc.accessed d s.mem) u o b o.gtag (blk.e != 0 && (s.entryOf o b).resBad) c
    ((s.entryOf o b).added a cnt o.total)
  have hadd' : addBlock ((s.accessed d s.mem).sluDraw u) ((s.accessed d s.mem).proc (sluKey + u)).ctrV (s.entryOf o b).acc blk = (a, c) :=
    hadd
  rw [State.sluAdd, hread]
  simp only [hadd']
  refine (hput.preceded (accessed_notes ..)).followed (.trans ?_ ((setSluice_notes ..).ite (.refl _)))
  exact (countEmb_notes ..).trans (countEmb_notes ..)

/-! ## One block and a run -/

/-- The entries that an arriving packet adds into, and the block that it adds into each. -/
def Packet.blocks (p : Packet) : List Nat := (List.range (if p.kind == .grun then p.nrun else 1)).map (· + p.block)
def Packet.adds (p : Packet) : Block := if p.kind == .grun then zeroBlock else p.blk

/-- The Sluice before it adds a taken arrival: its check is made, and the tag has not stalled. -/
def State.sluBegin (s : State) (u : Nat) (o : OpenTag) (p : Packet) (adder : Bool) : State :=
  (s.sluCheck u p.gtag p.block adder).setTag u { o with stalled := false }

theorem sluBegin_notes (s : State) (u : Nat) (o : OpenTag) (p : Packet) (adder : Bool) : SluiceNotes s (s.sluBegin u o p adder) :=
  (sluCheck_notes ..).trans (setSluice_notes ..)

/-- An arrival that every entry takes is added into each, in order. -/
theorem sluArrive_adds (hc : s.Clean) (hue : p.ue = false) (hbad : p.kind = .gblk → blockBad p.blk = false)
    (htag : (s.sluice u).tagFor p.gtag p.step = some o) (harm : o.arm = .none) (htakes : ∀ b ∈ p.blocks, Takes s o p.cnt b)
    (adder : Bool) :
    ∃ c, s.sluArrive u p adder =
      (p.blocks.foldl (fun t b => t.sluAdd u o b p.cnt p.adds) ((s.accessed c s.mem).sluBegin u o p adder), true) := by
  obtain ⟨c, htake⟩ := sluTakes_clean hc htakes u
  refine ⟨c, ?_⟩
  have hgood : (p.kind == .gblk && blockBad p.blk) = false := by
    rw [Bool.and_eq_false_imp]
    exact fun hk => hbad (by simpa using hk)
  have hunarmed : (o.arm == .none) = true := beq_iff_eq.mpr harm
  rw [Packet.blocks] at htake
  simp only [State.sluArrive, hgood, hue, htag, htake, hunarmed, Bool.false_eq_true, if_false, if_true]
  rfl

theorem sluArrive_block (hc : s.Clean) (hk : p.kind = .gblk) (hue : p.ue = false) (hbad : blockBad p.blk = false)
    (htag : (s.sluice u).tagFor p.gtag p.step = some o) (harm : o.arm = .none) (htakes : Takes s o p.cnt p.block)
    {a : Accum} {ctr : Word} (hadd : addBlock (s.sluDraw u) (s.proc (sluKey + u)).ctrV (s.entryOf o p.block).acc p.blk = (a, ctr))
    (adder : Bool) :
    EntryPut s (s.sluArrive u p adder).1 u (entryAddr o p.block) ((s.entryOf o p.block).added a p.cnt o.total) ctr
      (adder || (p.blk.e != 0 && (s.entryOf o p.block).resBad)) := by
  have hblocks : p.blocks = [p.block] := by simp [Packet.blocks, hk]
  have hadds : p.adds = p.blk := by simp [Packet.adds, hk]
  obtain ⟨c, harr⟩ := sluArrive_adds hc hue (fun _ => hbad) htag harm (by simpa [hblocks] using htakes) adder
  have hbegin : SluiceNotes s ((s.accessed c s.mem).sluBegin u o p adder) := (accessed_notes ..).trans (sluBegin_notes ..)
  have hput := sluAdd_adds (hbegin.work.clean hc) u p.block p.cnt p.blk (o := o) (a := a) (c := ctr)
    (by rw [sluDraw_of_proc (hbegin.proc _), hbegin.proc, entryOf_of_mem hbegin.mem, hadd])
  rw [entryOf_of_mem hbegin.mem] at hput
  obtain ⟨hwork, hmem, hregs, hcheck⟩ := hput.preceded hbegin
  rw [harr, hblocks, hadds, List.foldl_cons, List.foldl_nil]
  refine ⟨hwork, hmem, hregs, fun hb => ?_⟩
  rcases Bool.or_eq_true_iff.mp hb with hadder | hres
  · exact hput.work.tells (sluCheck_tells _ u p.gtag p.block hadder)
  · exact hcheck hres

/-- The entries of a tag lie apart, wherever its region lies. -/
theorem entryAddr_apart (hnb : o.nb ≤ 1048576) {b c : Nat} (hb : b < o.nb) (hc : c < o.nb) (hne : b ≠ c) :
    (entryAddr o c).toNat + 128 ≤ (entryAddr o b).toNat ∨ (entryAddr o b).toNat + 128 ≤ (entryAddr o c).toNat := by
  simp only [entryAddr, BitVec.toNat_add, BitVec.toNat_ofNat]
  omega

theorem sluAdd_entry_other (hc : s.Clean) (hnb : o.nb ≤ 1048576) {b c : Nat} (hb : b < o.nb) (hcn : c < o.nb) (hne : b ≠ c)
    (u cnt : Nat) (blk : Block) : (s.sluAdd u o c cnt blk).entryOf o b = s.entryOf o b := by
  have hput := sluAdd_adds hc u c cnt blk (o := o) (a := _) (c := _) rfl
  refine congrArg accEntry (memRead_congr fun x h1 h2 => hput.outside x ?_)
  rcases entryAddr_apart hnb hb hcn hne with h | h <;> omega

theorem sluAdd_entry_cnt (hc : s.Clean) (u b cnt : Nat) (blk : Block) :
    ((s.sluAdd u o b cnt blk).entryOf o b).cnt = ((s.entryOf o b).cnt + cnt) % 65536 := by
  have hput := sluAdd_adds hc u b cnt blk (o := o) (a := _) (c := _) rfl
  rw [State.entryOf, hput.bytes, accEntry_accBytes_cnt]
  rfl

/-- A block has been added into each of the entries `bs`, and into no other. -/
structure RunAdded (s t : State) (o : OpenTag) (cnt : Nat) (bs : List Nat) : Prop where
  work  : SluiceWork s t
  kept  : ∀ b < o.nb, b ∉ bs → t.entryOf o b = s.entryOf o b
  count : ∀ b ∈ bs, (t.entryOf o b).cnt = ((s.entryOf o b).cnt + cnt) % 65536

theorem foldl_sluAdd (hc : s.Clean) (hnb : o.nb ≤ 1048576) {bs : List Nat} (hin : ∀ b ∈ bs, b < o.nb) (hnd : bs.Nodup) (u cnt : Nat)
    (blk : Block) : RunAdded s (bs.foldl (fun t b => t.sluAdd u o b cnt blk) s) o cnt bs := by
  induction bs generalizing s with
  | nil => exact ⟨.refl s, fun _ _ _ => rfl, fun _ h => absurd h List.not_mem_nil⟩
  | cons c bs ih =>
    obtain ⟨hcbs, hnd⟩ := List.nodup_cons.mp hnd
    have hcn := hin c (List.mem_cons_self ..)
    have hwork := (sluAdd_adds hc u c cnt blk (o := o) (a := _) (c := _) rfl).work
    obtain ⟨hrest, hkept, hcount⟩ := ih (hwork.clean hc) (fun b hb => hin b (List.mem_cons_of_mem _ hb)) hnd
    refine ⟨hwork.trans hrest, fun b hb hnot => ?_, fun b hb => ?_⟩
    · exact (hkept b hb (List.not_mem_of_not_mem_cons hnot)).trans
        (sluAdd_entry_other hc hnb hb hcn (List.ne_of_not_mem_cons hnot) ..)
    · rcases List.mem_cons.mp hb with rfl | hbs
      · exact (congrArg AccEntry.cnt (hkept b hcn hcbs)).trans (sluAdd_entry_cnt hc ..)
      · have hne : b ≠ c := fun h => hcbs (h ▸ hbs)
        exact (hcount b hbs).trans (by rw [sluAdd_entry_other hc hnb (hin b hb) hcn hne])

theorem sluArrive_run (hc : s.Clean) (hk : p.kind = .grun) (hue : p.ue = false) (htag : (s.sluice u).tagFor p.gtag p.step = some o)
    (harm : o.arm = .none) (hnb : o.nb ≤ 1048576) (htakes : ∀ b ∈ p.blocks, Takes s o p.cnt b) (adder : Bool) :
    RunAdded s (s.sluArrive u p adder).1 o p.cnt p.blocks := by
  obtain ⟨c, harr⟩ := sluArrive_adds hc hue (fun h => by rw [hk] at h; cases h) htag harm htakes adder
  have hbegin : SluiceNotes s ((s.accessed c s.mem).sluBegin u o p adder) := (accessed_notes ..).trans (sluBegin_notes ..)
  have hnd : p.blocks.Nodup := (List.nodup_range).map fun _ _ h => Nat.add_right_cancel h
  obtain ⟨hwork, hkept, hcount⟩ := foldl_sluAdd (hbegin.work.clean hc) hnb (fun b hb => (htakes b hb).block) hnd u p.cnt p.adds
  rw [harr]
  refine ⟨hbegin.work.trans hwork, fun b hb hnot => ?_, fun b hb => ?_⟩
  · rw [hkept b hb hnot, entryOf_of_mem hbegin.mem]
  · rw [hcount b hb, entryOf_of_mem hbegin.mem]

/-- A packet that names no open tag is discarded (R343). -/
theorem sluArrive_unknown (hbad : blockBad p.blk = false) (hue : p.ue = false) (htag : (s.sluice u).tagFor p.gtag p.step = none)
    (adder : Bool) : (s.sluArrive u p adder).1 = s.sluDiscard u p := by
  simp only [State.sluArrive, hbad, hue, Bool.and_false, Bool.false_eq_true, if_false, htag]

end Sys2Proof.Machine
end

section
/-! The rest of O32: a tag stalls (R346), `SLUDONE` is written (R347), and a final block comes to the inbox of its shard (R349, R350). -/

namespace Sys2Proof.Machine
open Sys2Proof

variable {s t : State} {i b : Nat} {sl : Fin 16} {k : Fin 44} {o : OpenTag} {p : Packet}

/-! ## A tag that stalls -/

theorem firstOpen_first (hb : b < o.nb) (hopen : (accEntry (s.bytesAt (entryAddr o b).toNat 128)).done = false)
    (hdone : ∀ c < b, (accEntry (s.bytesAt (entryAddr o c).toNat 128)).done = true) : s.firstOpen o = some b := by
  rw [State.firstOpen, List.find?_range_eq_some]
  refine ⟨by rw [hopen]; rfl, List.mem_range.mpr hb, fun c hc => by rw [hdone c hc]; rfl⟩

theorem sluiceTagStall_stalls {g : BitVec 32} (hruns : s.sluRuns sl = true)
    (htag : (s.sluice sl).tags.find? (fun t => t.gtag == g.toNat) = some o) (hfirst : s.firstOpen o = some b) :
    exec (.sluiceTagStall sl g) s =
      .next ((s.setTag sl { o with stalled := true }).sluPoison sl 0x2302 [(4, o.gtag), (4, b), (6, o.step)]) := by
  change execSluiceTagStall sl g s = _
  simp only [execSluiceTagStall, htag, hfirst, hruns, Bool.not_true, Bool.false_eq_true, if_false]

theorem openTag_of_mem {u : Nat} (h : o ∈ (s.sluice u).tags) : (s.openTag u o.gtag o.step).isSome :=
  List.find?_isSome.mpr ⟨o, h, by simp⟩

/-! ## `SLUDONE` -/

/-- `t` is `s` after statistics of layers have been taken: each Sluice's `SLUDONE` stands. -/
structure LayersTaken (s t : State) : Prop where
  rest : ∃ xs sum, t = { s with sluices := xs, layerSum := sum }
  done : ∀ u, (t.sluice u).done = (s.sluice u).done

theorem LayersTaken.clear (h : LayersTaken s t) (u : Nat) (sum : Tbl LayerStat) :
    LayersTaken s { t.setSluice u { t.sluice u with layers := [] } with layerSum := sum } := by
  have hdone (v : Nat) : ((t.setSluice u { t.sluice u with layers := [] }).sluice v).done = (t.sluice v).done := by
    by_cases hv : v = u
    · rw [hv, State.setSluice_sluice_same]
    · rw [State.setSluice_sluice_other _ _ _ _ hv]
  obtain ⟨⟨xs, ls, ht⟩, hd⟩ := h
  exact ⟨⟨_, _, by rw [ht]; rfl⟩, fun v => (hdone v).trans (hd v)⟩

theorem takeLayers_taken (s : State) : LayersTaken s s.takeLayers := by
  refine List.foldlRecOn _ _ (motive := LayersTaken s) ⟨⟨_, _, rfl⟩, fun _ => rfl⟩ fun t h u _ => ?_
  dsimp only
  split
  · exact h
  · exact h.clear ..

theorem LayersTaken.withJob (h : LayersTaken s t) (j : Option JobSt) (u : Nat) :
    (({ t with job := j } : State).sluice u).done = (s.sluice u).done ∧ ({ t with job := j } : State).mem = s.mem ∧
      ({ t with job := j } : State).procs = s.procs := by
  have hd := h.done u
  obtain ⟨⟨xs, sum, rfl⟩, -⟩ := h
  exact ⟨hd, rfl, rfl⟩

/-- `SLUDONE` takes the value, and nothing of the units or of memory changes. -/
theorem writeSludone_writes (s : State) (u : Nat) (v : Word) :
    ((s.writeSludone u v).sluice u).done = v.truncate 48 ∧ (s.writeSludone u v).mem = s.mem ∧ (s.writeSludone u v).procs = s.procs := by
  have hdone : ((s.setSluice u { s.sluice u with done := v.truncate 48 }).sluice u).done = v.truncate 48 := by
    rw [State.setSluice_sluice_same]
  have htaken := takeLayers_taken (s.setSluice u { s.sluice u with done := v.truncate 48 })
  unfold State.writeSludone
  extract_lets s1
  split
  · exact ⟨hdone, rfl, rfl⟩
  split
  · obtain ⟨hd, hmem, hprocs⟩ := htaken.withJob _ u
    exact ⟨hd.trans hdone, hmem, hprocs⟩
  · exact ⟨hdone, rfl, rfl⟩

/-- The last Sluice of the job to show the step starts the clear window (R347). -/
theorem writeSludone_starts {j : JobSt} {v : Word} (hj : s.job = some j) (hstate : j.state = 2) (hclear : j.clearAt = none)
    (hvoted : j.voted = false) (hown : ∃ e ∈ j.desc.sluices, e.1 = sl)
    (hothers : ∀ e ∈ j.desc.sluices, e.1 ≠ sl → (s.sluice e.1).done.toNat = j.step) (hv : (v.truncate 48).toNat = j.step) :
    (s.writeSludone sl v).job = some { j with clearAt := some (s.ref + 100 * j.desc.clearwin) } := by
  have hall : (s.setSluice sl { s.sluice sl with done := v.truncate 48 }).sludoneAll j = true := by
    refine Bool.and_eq_true_iff.mpr ⟨?_, List.all_eq_true.mpr fun e he => beq_iff_eq.mpr ?_⟩
    · obtain ⟨e, he, -⟩ := hown
      simpa using List.ne_nil_of_mem he
    · by_cases h : e.1 = sl
      · rw [h, State.setSluice_sluice_same, hv]
      · rw [State.setSluice_sluice_other _ _ _ _ (fun hx => h (Fin.ext hx)), hothers e he h]
  simp only [State.writeSludone, State.setSluice_job, hj, hstate, hclear, hvoted, hall]
  rfl

/-! ## The inbox -/

theorem ueAt_nodeOfStack : ∀ k : Fin 44, ueAt (nodeOfStack k) = some k.val := by decide

/-- A final block, a gradient packet for the update engine, has arrived at engine `k`, which runs. -/
structure FinalBlock (s : State) (i : Nat) (p : Packet) (k : Fin 44) : Prop where
  arrived : s.Arrived i p .gblk
  out     : p.out = some 0
  held    : p.held = false
  final   : p.ue = true
  home    : p.loc = nodeOfStack k
  runs    : s.ueRuns k = true

theorem ueInboxBlock_arrives (h : FinalBlock s i p k) (adder : Bool) :
    exec (.ueInboxBlock i false adder) s = .next (
      if ((s.dropPacket i).ueArrive k p adder).2 then ((s.dropPacket i).ueArrive k p adder).1.gradTaken p
      else ((s.dropPacket i).ueArrive k p adder).1) := by
  change execUeInboxBlock i false adder s = _
  rw [execUeInboxBlock, arrive_good h.arrived (by simp [h.arrived.kind, h.out, h.held, h.final])]
  simp only [h.home, ueAt_nodeOfStack, h.runs, Bool.not_true, Bool.false_eq_true, if_false]
  obtain ⟨t, _ | _⟩ := (s.dropPacket i).ueArrive k p adder <;> rfl

/-- The engine's check of R73, made as a block arrives. -/
def State.ueCheck (s : State) (k : Nat) (p : Packet) (adder : Bool) : State :=
  if adder then s.detect 0x2306 (uePol k) (ueUnit k) [(4, p.gtag), (5, p.block)] else s

theorem ueArrive_block (hk : p.kind = .gblk) (hbad : blockBad p.blk = false) (s : State) (adder : Bool) :
    s.ueArrive k p adder = (s.ueCheck k p adder).takeBlocks k p (blockBytes p.blk) [p.block] := by
  simp [State.ueArrive, hk, hbad, State.ueCheck]

theorem detect_ue (s : State) (code src unit : Nat) (pay : List (Nat × Nat)) (j : Nat) : (s.detect code src unit pay).ue j = s.ue j := by
  unfold State.detect
  dsimp only
  split <;> rfl

theorem ueCheck_notes (s : State) (k : Nat) (p : Packet) (adder : Bool) :
    SluiceNotes s (s.ueCheck k p adder) ∧ (s.ueCheck k p adder).ue k = s.ue k := by
  cases adder
  · exact ⟨.refl s, rfl⟩
  · exact ⟨detect_notes .., detect_ue ..⟩

theorem ueCheck_tells {adder : Bool} (h : adder = true) (s : State) (k : Nat) (p : Packet) :
    ∃ d ∈ (s.ueCheck k p adder).safety.queue, d.code = 0x2306 := by
  rw [State.ueCheck, if_pos h]
  exact detect_tells ..

/-- A block that the engine does not take is discarded (R350). -/
theorem ueInboxBlock_discards (h : FinalBlock s i p k) (hbad : blockBad p.blk = false) (htakes : (s.ue k).takes p.step p.block = false) :
    exec (.ueInboxBlock i false false) s = .next ((s.dropPacket i).ueDiscard k p) := by
  have htakes' : ((s.dropPacket i).ue k).takes p.step p.block = false := htakes
  rw [ueInboxBlock_arrives h, ueArrive_block h.arrived.kind hbad]
  simp only [State.ueCheck, Bool.false_eq_true, if_false, State.takeBlocks, htakes', Bool.false_and]

@[simp] theorem length_blockBytes (b : Block) : (blockBytes b).length = 64 := by simp [blockBytes]

/-- An inbox with block `b` counted (R350). -/
def Inbox.counted (x : Inbox) (b : Nat) : Inbox := { x with count := x.count + 1, sum := (x.sum + b) % 2 ^ 32 }

/-- Engine `k` has put `bs` as block `blk` of its inbox and counted it. -/
structure InboxPut (s t : State) (k blk : Nat) (bs : List Byte) : Prop where
  mesh   : t.mesh = s.mesh
  safety : t.safety = s.safety
  mem    : t.mem = memWrite s.mem ((s.ue k).inboxAddr (blk / 65536) (blk % 65536)).toNat bs
  count  : (Tbl.get (t.ue k).inbox Inbox.fresh (blk / 65536)).count = (Tbl.get (s.ue k).inbox Inbox.fresh (blk / 65536)).count + 1

theorem inboxPut_puts (hc : s.Clean) (k blk : Nat) (bs : List Byte) : InboxPut s (s.inboxPut k blk bs) k blk bs := by
  obtain ⟨c, hw⟩ := eccWrite_clean hc ((s.ue k).inboxAddr (blk / 65536) (blk % 65536)) (present bs) (ueUnit k)
  rw [memWriteMask_present] at hw
  unfold State.inboxPut
  extract_lets x sh b s1 j
  have hs1 : s1 = s.accessed c (memWrite s.mem (x.inboxAddr sh b).toNat bs) := congrArg Prod.fst hw
  obtain ⟨d, hd⟩ := countEmb_ecnt (s1.setUe k { x with inbox := Tbl.put x.inbox sh (j.counted b) }) (76 + k) 2 1
  rw [Inbox.counted] at hd
  rw [hd, hs1]
  refine ⟨rfl, rfl, rfl, ?_⟩
  refine (congrArg (fun y : UpEng => (Tbl.get y.inbox Inbox.fresh sh).count) (State.setUe_ue_same ..)).trans ?_
  dsimp only
  rw [Tbl.get_put_same]

/-- A block that the engine takes is checked, put into the inbox and acknowledged (R349). -/
theorem ueInboxBlock_puts (h : FinalBlock s i p k) (hbad : blockBad p.blk = false) (htakes : (s.ue k).takes p.step p.block = true)
    (hacks : p.acks = []) (htid : p.tid ≠ 0) (adder : Bool) :
    exec (.ueInboxBlock i false adder) s = .next ((((s.dropPacket i).ueCheck k p adder).inboxPut k p.block (blockBytes p.blk)).send
      { mkPacket .wack 2 p.loc p.src p.tid with status := 0 }) := by
  have htakes' : (((s.dropPacket i).ueCheck k p adder).ue k).takes p.step p.block = true := by
    rw [(ueCheck_notes (s.dropPacket i) k p adder).2]
    exact htakes
  rw [ueInboxBlock_arrives h, ueArrive_block h.arrived.kind hbad]
  simp [State.takeBlocks, htakes', State.gradTaken, h.final, hacks, htid]

end Sys2Proof.Machine

open Sys2Proof Sys2Proof.Machine

/-- Settles O32: a block is added into its entry (`sluArrive_block`), a run into each of its entries (`sluArrive_run`), a packet of no
open tag is discarded (`sluArrive_unknown`), a tag stalls (`sluiceTagStall_stalls`), `SLUDONE` is written (`writeSludone_writes`,
`writeSludone_starts`), and a final block is discarded (`ueInboxBlock_discards`) or put into the inbox (`ueInboxBlock_puts`). -/
theorem gradientBlocksArrive : Obligations.GradientBlocksArrive := by
  refine ⟨?arrivals, ?stall, ?sludone, ?inbox⟩
  case arrivals =>
    intro sl i p s o hue hloc hacks hruns hc
    have hdrop := hc.dropPacket i
    refine ⟨fun harr hout hheld hbad => ⟨?block, ?unknown⟩, ?run⟩
    case block =>
      rintro e a c htag harm hnb rfl hdone hcnt hadd adder
      have hput := sluArrive_block hdrop harr.kind hue hbad htag harm ⟨hnb, hdone, hcnt⟩ hadd adder
      have hmesh : (s.sluTaken i sl p adder).mesh = s.mesh.eraseIdx i := hput.work.mesh
      refine ⟨_, gblkSluice_arrives hue hloc hacks hruns harr hout hheld adder, hmesh, fun hb => hput.check ?_, hput.bytes, hput.outside,
        hput.regs⟩
      rcases hb with hadder | ⟨he, hres⟩
      · exact Bool.or_eq_true_iff.mpr (.inl hadder)
      · exact Bool.or_eq_true_iff.mpr (.inr (Bool.and_eq_true_iff.mpr ⟨bne_iff_ne.mpr he, hres⟩))
    case unknown =>
      intro htag adder
      have hx : s.sluTaken i sl p adder = (s.dropPacket i).sluDiscard sl p :=
        sluArrive_unknown (s := s.dropPacket i) hbad hue htag adder
      refine ⟨_, (gblkSluice_arrives hue hloc hacks hruns harr hout hheld adder).trans (congrArg _ hx), detect_mesh .., detect_wrote ..,
        ?_, State.detect_mem⟩
      rw [State.sluDiscard, detect_safety]
      exact List.length_append
    case run =>
      intro harr htag harm hnb htotal hentries adder
      have hmem (b : Nat) : b ∈ p.blocks ↔ p.block ≤ b ∧ b < p.block + p.nrun := by
        simp only [Packet.blocks, harr.kind, List.mem_map, List.mem_range, beq_self_eq_true, if_true]
        exact ⟨by rintro ⟨a, ha, rfl⟩; omega, fun hb => ⟨b - p.block, by omega, by omega⟩⟩
      have htakes (b : Nat) (hb : b ∈ p.blocks) : Takes (s.dropPacket i) o p.cnt b := by
        obtain ⟨hlo, hhi⟩ := (hmem b).mp hb
        obtain ⟨h1, h2, h3⟩ := hentries b hlo hhi
        exact ⟨h1, h2, h3⟩
      have hrun := sluArrive_run hdrop harr.kind hue htag harm hnb htakes adder
      refine ⟨_, grunSluice_arrives hue hloc hacks hruns harr adder, hrun.work.mesh, fun b hlo hhi => ?_⟩
      have hb := (hmem b).mpr ⟨hlo, hhi⟩
      have hroom := (htakes b hb).room
      exact (hrun.count b hb).trans (Nat.mod_eq_of_lt (by omega))
  case stall =>
    intro sl g s o b hruns htag hb hopen hdone
    have ho := openTag_of_mem (List.mem_of_find?_eq_some htag)
    refine ⟨_, sluiceTagStall_stalls hruns htag (firstOpen_first hb hopen hdone), setTag_openTag (x := { o with stalled := true }) ho,
      emit_wrote .., ?_, rfl⟩
    rw [← polderOf_sluice]
    exact State.poison_bar ..
  case sludone =>
    intro sl v s hrun
    obtain ⟨hdone, hmem, hprocs⟩ := writeSludone_writes s sl v
    have hexec : exec (.sludoneWrite sl v) s = .next (s.writeSludone sl v) := congrArg Host.Outcome.next (if_pos hrun)
    refine ⟨_, hexec, hdone, hmem, hprocs, ?_⟩
    exact fun j hj hstate hclear hvoted hown hothers hv => writeSludone_starts hj hstate hclear hvoted hown hothers hv
  case inbox =>
    intro k i p s harr hout hheld hue hloc hacks htid hruns hc hbad
    have h : FinalBlock s i p k := ⟨harr, hout, hheld, hue, hloc, hruns⟩
    refine ⟨fun htakes => ?discarded, fun htakes adder => ?put⟩
    case discarded =>
      exact ⟨_, ueInboxBlock_discards h hbad htakes, detect_mesh .., detect_wrote .., State.detect_mem,
        congrArg UpEng.inbox (detect_ue ..)⟩
    case put =>
      obtain ⟨hnotes, hue'⟩ := ueCheck_notes (s.dropPacket i) k p adder
      have hput := inboxPut_puts (hnotes.work.clean (hc.dropPacket i)) k p.block (blockBytes p.blk)
      obtain ⟨hmesh, hsafety, hmem, hcount⟩ := hput
      rw [hue'] at hmem hcount
      rw [hnotes.mem] at hmem
      refine ⟨_, { mkPacket .wack 2 p.loc p.src p.tid with status := 0 }, ueInboxBlock_puts h hbad htakes hacks htid adder,
        congrArg (· ++ [_]) (hmesh.trans hnotes.work.mesh), ⟨rfl, rfl, rfl, rfl, rfl, rfl, rfl⟩, fun hadder => ?_,
        bytesAt_of_write hmem (length_blockBytes _), outside_of_write hmem (length_blockBytes _), hcount⟩
      rw [State.send_safety, hsafety]
      exact ueCheck_tells hadder ..
end

section
/-! Tags open and arm (O31, R341, R344). An armed tag sends what is done: `sendEntries_idle` when nothing is, `sendEntries_one` for a tag of
one block, whose packet or message then waits for its acknowledgement (`Sent`), so that the tag stays open (`tagOn_waits`). -/

namespace Sys2Proof.Machine
open Sys2Proof

variable {s s' t v : State} {u : Nat} {sl : Fin 16} {f : BitVec 57} {o x : OpenTag} {z : Block} {c : Word}

/-! ## Opening -/

theorem clearLines_rest (s : State) (off n : Nat) : ∃ lm, s.clearLines off n = { s with lakeMark := lm } := by
  induction n generalizing s off with
  | zero => exact ⟨s.lakeMark, rfl⟩
  | succ n ih => exact ih { s with lakeMark := Tbl.put s.lakeMark (lakeMarkKey s.slots off) none } (off + 64)

theorem zeroLake_rest (s : State) (a : Word) (n : Nat) :
    ∃ lm, s.zeroLake a n = { s with lakeMark := lm, mem := memClear s.mem a.toNat n } := by
  unfold State.zeroLake
  extract_lets s1
  obtain ⟨lm, h⟩ : ∃ lm, s1 = { s with lakeMark := lm } := by
    unfold s1
    split
    · exact ⟨s.lakeMark, rfl⟩
    · exact clearLines_rest ..
  exact ⟨lm, by rw [h]; rfl⟩

/-- The tag that `gopen` opens from the registers `p`, its transfer `id`. -/
def tagNamed (f : BitVec 57) (p : Proc) (id : Nat) : OpenTag :=
  ⟨(p.getS (lRa f)).toNat, p.seedStep.toNat, (p.getS (lRb f)).toNat % 2 ^ 26, (p.getS (lRb f)).toNat / 2 ^ 26,
    (p.getS (lRc f)).toNat, dBase (p.getD (lD1 f)), .none, 0, (p.getS (lRb f)).toNat % 2 ^ 26, id, false⟩

/-- Sluice `sl` issues a `gopen` that neither stalls, traps nor is refused. -/
structure TagTaken (s s' : State) (sl : Fin 16) (f : BitVec 57) (p : Proc) : Prop where
  issues : Issues s s' (sluKey + sl) [.d (lD1 f), .s (lRa f), .s (lRb f), .s (lRc f)] 8
  regs   : s'.proc (sluKey + sl) = p
  word   : lOk f ['1', 'a', 'b', 'c'] 1 = true
  stores : s'.storesOut (sluKey + sl) = false
  legal  : gopenTrap (s'.sluice sl) p.seedStep.toNat f (p.getD (lD1 f)) (p.getS (lRa f)) (p.getS (lRb f)) (p.getS (lRc f)) = none
  allow  : s'.refuses (.unit (sluKey + sl)) (dBase (p.getD (lD1 f))) (128 * ((p.getS (lRb f)).toNat % 2 ^ 26)) true = none

/-- `s` with a new open tag of Sluice `u` and its transfer. -/
def State.addTag (s : State) (u : Nat) (x : OpenTag) : State :=
  { s with nextId := s.nextId + 1
           xfers := s.xfers ++ [Xfer.mk x.xfer (sluKey + u) (.grad u x.gtag x.step) 0 0 false false []] }.setSluice u
    { s.sluice u with tags := (s.sluice u).tags ++ [x] }

/-- `s` with a range of the Lake cleared and counted as one entry region opened. -/
def State.regionCleared (s : State) (u : Nat) (a : Word) (n : Nat) : State := (s.zeroLake a n).countEmb (16 + u) 4 1

theorem regionCleared_rest (s : State) (u : Nat) (a : Word) (n : Nat) :
    ∃ lm d, s.regionCleared u a n = { s with lakeMark := lm, ecnt := d, mem := memClear s.mem a.toNat n } := by
  obtain ⟨lm, hzero⟩ := zeroLake_rest s a n
  obtain ⟨d, hcount⟩ := countEmb_ecnt (s.zeroLake a n) (16 + u) 4 1
  exact ⟨lm, d, by rw [State.regionCleared, hcount, hzero]⟩

/-- The tag joins the others, its entries are cleared, and the instruction retires. -/
theorem gopen_opens {p : Proc} (h : TagTaken s s' sl f p) :
    exec (.gopen (.sluice sl) f) s = .next (((s'.addTag sl (tagNamed f p s'.nextId)).regionCleared sl (dBase (p.getD (lD1 f)))
      (128 * ((p.getS (lRb f)).toNat % 2 ^ 26))).retire (sluKey + sl) p 8 false 1) := by
  obtain ⟨hi, rfl, hok, hstores, hlegal, hallow⟩ := h
  have hword := Bool.and_eq_true_iff.mpr ⟨isSluice_sluKey sl, hok⟩
  change execGopen (.sluice sl) f s = _
  simp only [execGopen, unitKey, issue64_eq hi hword, Nat.add_sub_cancel_left, hstores, hlegal, hallow, Bool.false_eq_true, if_false]
  rfl

/-- A new tag's region reads zero, and no other byte changes. -/
structure Opened (s t : State) (sl : Fin 16) (x : OpenTag) (a : Word) (n : Nat) (p : Proc) : Prop where
  tags  : (t.sluice sl).tags = (s.sluice sl).tags ++ [x]
  zeros : ∀ i < n, memByte t.mem (a.toNat + i) = 0
  other : s.SameMemOutside t a.toNat n
  regs  : t.proc (sluKey + sl) = { p with pc := (s.proc (sluKey + sl)).pc + 8 }

theorem regionCleared_opened (s : State) (sl : Fin 16) (x : OpenTag) (a : Word) (n : Nat) (p : Proc) :
    Opened s (((s.addTag sl x).regionCleared sl a n).retire (sluKey + sl) p 8 false 1) sl x a n p := by
  obtain ⟨lm, d, h⟩ := regionCleared_rest (s.addTag sl x) sl a n
  have hmem (t : Nat) : memByte ((s.addTag sl x).regionCleared sl a n).mem t =
      if a.toNat ≤ t ∧ t < a.toNat + n then 0 else memByte s.mem t := by
    rw [h]
    exact memByte_clear ..
  rw [retire_embankment (isCore_sluKey sl)]
  refine ⟨?_, fun i hi => ?_, fun t ht => ?_, ?_⟩
  · rw [State.setProc_sluice, h]
    exact congrArg Sluice.tags (State.setSluice_sluice_same ..)
  · rw [State.setProc_mem, hmem, if_pos ⟨Nat.le_add_right .., Nat.add_lt_add_left hi _⟩]
  · rw [State.setProc_mem, hmem, if_neg (by omega)]
  · rw [State.setProc_proc_same, h]
    rfl

/-! ## Sending -/

theorem await_waits (s : State) (k id : Nat) : ∀ y, (s.await k id).2.xfer id = some y → y.left ≠ 0 := by
  intro y hy
  rcases hx : s.xfer id with _ | w
  · have hnone : (s.await k id).2.xfer id = none := by
      have hx' : ({ s with nextId := s.nextId + 1, reqs := s.reqs ++ [Req.mk s.nextId k (nodeOfUnit k) 0 (.ueWr id)] } : State).xfer id =
        none := hx
      simp only [State.await, State.takeId, State.xferAdd, hx']
    rw [hnone] at hy
    cases hy
  · have hleft := (xferAdd_xfer (s := { s with nextId := s.nextId + 1, reqs := s.reqs ++ [Req.mk s.nextId k (nodeOfUnit k) 0 (.ueWr id)] })
      (n := 1) hx).2
    have heq : some y = some { w with left := w.left + 1 } := hy.symm.trans hleft
    rw [Option.some.injEq] at heq
    rw [heq]
    exact Nat.succ_ne_zero _

/-- From `s`, the packet `q` has been sent, and the transfer `id` waits for its acknowledgement. -/
structure Sent (s t : State) (q : Packet) (id : Nat) : Prop where
  rest  : ∃ i rs xs, t = { s with nextId := i, reqs := rs, xfers := xs, mesh := s.mesh ++ [q] }
  waits : ∀ y, t.xfer id = some y → y.left ≠ 0

namespace Sent

variable {q : Packet} {id : Nat}

theorem mesh (h : Sent s t q id) : t.mesh = s.mesh ++ [q] := by
  obtain ⟨⟨_, _, _, rfl⟩, -⟩ := h
  rfl

theorem mem (h : Sent s t q id) : t.mem = s.mem := by
  obtain ⟨⟨_, _, _, rfl⟩, -⟩ := h
  rfl

theorem safety (h : Sent s t q id) : t.safety = s.safety := by
  obtain ⟨⟨_, _, _, rfl⟩, -⟩ := h
  rfl

theorem proc (h : Sent s t q id) (k : Nat) : t.proc k = s.proc k := by
  obtain ⟨⟨_, _, _, rfl⟩, -⟩ := h
  rfl

theorem openTag (h : Sent s t q id) (u gtag step : Nat) : t.openTag u gtag step = s.openTag u gtag step := by
  obtain ⟨⟨_, _, _, rfl⟩, -⟩ := h
  rfl

end Sent

/-- The gradient packet in which a block goes to a stack (R344). -/
def blockPacket (u st id : Nat) (x : OpenTag) (b : Nat) (z : Block) : Packet :=
  { mkPacket .gblk 4 (nodeOfSluice u) (nodeOfStack st) id with
    gtag := x.gtag, block := x.pb + b, cnt := x.total, slu := u, ue := true, step := x.step % 65536, blk := z }

theorem sendBlk_hands {st : Nat} (h : x.arm = .ghand st) (s : State) (u b : Nat) (z : Block) :
    Sent s (s.sendBlk u x b z) (blockPacket u st s.nextId x b z) x.xfer := by
  obtain ⟨rs, xs, hawait⟩ := await_rest s (sluKey + u) x.xfer
  have hwaits := await_waits s (sluKey + u) x.xfer
  rw [hawait] at hwaits
  simp only [State.sendBlk, h, hawait]
  exact ⟨⟨_, rs, xs, rfl⟩, hwaits⟩

/-- The message in which a block goes to the Sluice of a peer (R344). -/
def blockMessage (s : State) (u peer slu id : Nat) (x : OpenTag) (b : Nat) (z : Block) : Message :=
  { mkMessage s (sluKey + u) .blk (BitVec.ofNat 12 peer) (nodeOfSluice slu) slu id with
    ncell := 1, addr := BitVec.ofNat 64 (x.gtag + b * 2 ^ 32), cnt := x.total, slu := Fin.ofNat 16 slu, step := x.step,
    payload := blockBytes z }

/-- The peer and the Sluice of it that a word of `gsend` names. -/
theorem blockMessage_of_word (s : State) (u id n : Nat) (h : n < 65536) (x : OpenTag) (z : Block) :
    blockMessage s u (n % 4096) (n / 4096 % 16) id x 0 z =
      { mkMessage s (sluKey + u) .blk (BitVec.ofNat 12 n) (nodeOfSluice (n / 4096)) (n / 4096) id with
        ncell := 1, addr := BitVec.ofNat 64 x.gtag, cnt := x.total, slu := Fin.ofNat 16 (n / 4096), step := x.step,
        payload := blockBytes z } := by
  have hpeer : BitVec.ofNat 12 (n % 4096) = BitVec.ofNat 12 n := BitVec.eq_of_toNat_eq (by simp)
  have hslu : n / 4096 % 16 = n / 4096 := Nat.mod_eq_of_lt (by omega)
  rw [blockMessage, hpeer, hslu, Nat.zero_mul, Nat.add_zero]

/-- A message goes out by port `pt`, in direction `d`. -/
structure Routed (s : State) (m : Message) (d pt : Nat) : Prop where
  inside : inTorus s.group.extm1 m.dst = true
  way    : torusDir s.group.extm1 s.group.coord m.dst = some d
  port   : s.pickPort d m = some pt

theorem sendMessage_routed {m : Message} {d pt : Nat} (h : Routed s m d pt) (node : Nat) :
    s.sendMessage node m = s.send { mkPacket .xt 5 node (nodeOfPort pt) 0 with
      ctl := .message { m with vc := wraps s.group.extm1 s.group.coord d } } := by
  simp only [State.sendMessage, h.inside, if_true, h.way, h.port]

theorem sendBlk_sends {peer slu b d pt : Nat} (h : x.arm = .gsend peer slu)
    (hr : Routed s (blockMessage s u peer slu s.nextId x b z) d pt) :
    Sent s (s.sendBlk u x b z) { mkPacket .xt 5 (nodeOfSluice u) (nodeOfPort pt) 0 with
      ctl := .message { blockMessage s u peer slu s.nextId x b z with vc := wraps s.group.extm1 s.group.coord d } } x.xfer := by
  obtain ⟨rs, xs, hawait⟩ := await_rest s (sluKey + u) x.xfer
  have hwaits := await_waits s (sluKey + u) x.xfer
  rw [hawait] at hwaits
  have hr' : Routed { s with nextId := s.nextId + 1, reqs := rs, xfers := xs } (blockMessage s u peer slu s.nextId x b z) d pt :=
    ⟨hr.inside, hr.way, hr.port⟩
  have hsend : s.sendBlk u x b z = ({ s with nextId := s.nextId + 1, reqs := rs, xfers := xs } : State).send
      { mkPacket .xt 5 (nodeOfSluice u) (nodeOfPort pt) 0 with
        ctl := .message { blockMessage s u peer slu s.nextId x b z with vc := wraps s.group.extm1 s.group.coord d } } := by
    simp only [State.sendBlk, h, hawait]
    exact sendMessage_routed hr' _
  rw [hsend]
  exact ⟨⟨_, rs, xs, rfl⟩, hwaits⟩

/-- A tag stays open while a block of it is not sent or waits for its acknowledgement. -/
theorem tagOn_waits {gtag step : Nat} (h : s.openTag u gtag step = some x)
    (hw : x.unsent ≠ 0 ∨ ∀ y, s.xfer x.xfer = some y → y.left ≠ 0) : s.tagOn u gtag step = s := by
  rw [State.tagOn, h]
  dsimp only
  split
  next y hy =>
    have hopen : (decide (x.unsent = 0) && decide (y.left = 0) && x.arm != .none) = false := by
      rcases hw with hw | hw
      · rw [decide_eq_false hw, Bool.false_and, Bool.false_and]
      · rw [decide_eq_false (hw y hy), Bool.and_false, Bool.false_and]
    rw [hopen]
    rfl
  · rfl

/-! ## The entries of an armed tag -/

theorem layerCount_notes (s : State) (u gtag : Nat) (hand : Bool) (z : Block) :
    SluiceNotes s (s.layerCount u gtag hand z) ∧ ((s.layerCount u gtag hand z).sluice u).tags = (s.sluice u).tags := by
  unfold State.layerCount
  extract_lets y l c sat c1 c2
  split
  · exact ⟨.refl s, rfl⟩
  · exact ⟨setSluice_notes .., (congrArg Sluice.tags (State.setSluice_sluice_same ..)).trans rfl⟩

theorem countEmb_sluice (s : State) (i j n w : Nat) : (s.countEmb i j n).sluice w = s.sluice w := by
  obtain ⟨c, hc⟩ := countEmb_ecnt s i j n
  rw [hc]
  rfl

theorem sluPoison_notes (s : State) (u code : Nat) (pay : List (Nat × Nat)) : SluiceNotes s (s.sluPoison u code pay) :=
  ⟨⟨⟨_, _, _, _, _, _, _, rfl⟩, fun _ h => h⟩, rfl, fun _ => rfl⟩

/-- Where no entry is done, nothing is sent. -/
theorem sendEntries_idle (hc : s.Clean) {bs : List Nat} (h : ∀ b ∈ bs, (s.entryOf x b).done = false) (u : Nat) :
    ∃ d, s.sendEntries u x 0 0 bs = s.accessed d s.mem := by
  induction bs generalizing s with
  | nil => exact ⟨s.ecnt, rfl⟩
  | cons b bs ih =>
    obtain ⟨d, hread⟩ := readEntry_clean hc u x b
    obtain ⟨d', hd'⟩ := ih (hc.accessed d s.mem) fun b' hb' => h b' (List.mem_cons_of_mem _ hb')
    refine ⟨d', ?_⟩
    rw [State.sendEntries, hread]
    simp only [h b (List.mem_cons_self ..), Bool.not_false, Bool.true_or, if_true, hd']
    rfl

/-- Does a tag that is armed hand its blocks to a stack? -/
def Arm.hands : Arm → Bool
  | .ghand _ => true
  | _ => false

/-- The Sluice has put back entry `e` as sent, its counter at `c`, and counted its block `z` (R344). -/
def State.blockPut (s : State) (u : Nat) (x : OpenTag) (e : AccEntry) (z : Block) (c : Word) : State :=
  (((((s.sluCheck u x.gtag 0 e.resBad).setSluCtr u c).writeEntry u x 0 { e with sent := true }).layerCount u x.gtag x.arm.hands z).countEmb
    (16 + u) (if x.arm.hands then 2 else 1) 1)

/-- One block less of its open tag is to be sent, and a saturated block is reported. -/
def State.blockTold (s : State) (u : Nat) (x : OpenTag) (z : Block) : State :=
  let s1 := match s.openTag u x.gtag x.step with
    | some y => s.setTag u { y with unsent := y.unsent - 1 }
    | none => s
  if z.e = 255 then s1.sluPoison u 0x1601 [(4, x.gtag), (4, 0), (6, x.step)] else s1

section
variable {e : AccEntry}

theorem blockPut_puts (hc : s.Clean) (u : Nat) (x : OpenTag) (e : AccEntry) (z : Block) (c : Word) :
    EntryPut s (s.blockPut u x e z c) u (entryAddr x 0) { e with sent := true } c e.resBad ∧
      ((s.blockPut u x e z c).sluice u).tags = (s.sluice u).tags := by
  obtain ⟨hput, hslu⟩ := putEntry_clean hc u x 0 x.gtag e.resBad c { e with sent := true }
  obtain ⟨hlayer, htags⟩ := layerCount_notes _ u x.gtag x.arm.hands z
  exact ⟨hput.followed (hlayer.trans (countEmb_notes ..)),
    (congrArg Sluice.tags (countEmb_sluice ..)).trans (htags.trans (congrArg Sluice.tags hslu))⟩

theorem blockTold_tells (h : s.openTag u x.gtag x.step = some x) (z : Block) :
    SluiceNotes s (s.blockTold u x z) ∧ (s.blockTold u x z).openTag u x.gtag x.step = some { x with unsent := x.unsent - 1 } := by
  have hleft := setTag_openTag (s := s) (u := u) (x := { x with unsent := x.unsent - 1 }) (by rw [h]; rfl)
  simp only [State.blockTold, h]
  refine ⟨(setSluice_notes ..).trans ((sluPoison_notes ..).ite (.refl _)), ?_⟩
  split
  · exact hleft
  · exact hleft

theorem sendEntries_sends (hread : s.readEntry u x 0 = (t, some e)) (hdone : e.done = true) (hsent : e.sent = false)
    (hnorm : normalise (t.sluDraw u) (t.proc (sluKey + u)).ctrV e.acc = (z, c)) (hz : z.e ≠ 0) :
    s.sendEntries u x 0 0 [0] = ((t.blockPut u x e z c).blockTold u x z).sendBlk u x 0 z := by
  have hdue : ¬ (!e.done || e.sent) = true := by rw [hdone, hsent]; decide
  rw [State.sendEntries, hread]
  dsimp only
  rw [if_neg hdue, hnorm]
  dsimp only
  rw [if_neg hz]
  rfl

/-- The one entry of a tag is put back as sent and counted, and its block is sent. -/
theorem sendEntries_one (hc : s.Clean) (he : s.entryOf x 0 = e) (hdone : e.done = true) (hsent : e.sent = false)
    (hnorm : normalise (s.sluDraw u) (s.proc (sluKey + u)).ctrV e.acc = (z, c)) (hz : z.e ≠ 0)
    (htag : s.openTag u x.gtag x.step = some x) :
    ∃ v, s.sendEntries u x 0 0 [0] = v.sendBlk u x 0 z ∧ EntryPut s v u (entryAddr x 0) { e with sent := true } c e.resBad ∧
      v.openTag u x.gtag x.step = some { x with unsent := x.unsent - 1 } := by
  obtain ⟨d, hread⟩ := readEntry_clean hc u x 0
  rw [he] at hread
  obtain ⟨hput, htags⟩ := blockPut_puts (hc.accessed d s.mem) u x e z c
  have htag' : ((s.accessed d s.mem).blockPut u x e z c).openTag u x.gtag x.step = some x :=
    (openTag_of_tags (htags.trans (congrArg Sluice.tags (State.accessed_sluice ..))) ..).trans htag
  obtain ⟨htold, hleft⟩ := blockTold_tells htag' z
  exact ⟨_, sendEntries_sends hread hdone hsent hnorm hz, (hput.preceded (accessed_notes ..)).followed htold, hleft⟩

end

/-! ## Arming -/

/-- Sluice `sl` issues, from the registers `p`, an instruction that arms its open tag `o`. -/
structure ArmDue (s s' : State) (sl : Fin 16) (f : BitVec 57) (p : Proc) (o : OpenTag) : Prop where
  issues  : Issues s s' (sluKey + sl) [.s (lRa f), .s (lRb f)] 8
  regs    : s'.proc (sluKey + sl) = p
  word    : lOk f ['t', 'a', 'b'] 1 = true
  stores  : s'.storesOut (sluKey + sl) = false
  room    : p.tagCount (lTag f) < 255
  gtag    : (p.getS (lRa f)).toNat < 2 ^ 32
  opens   : s'.openTag sl (p.getS (lRa f)).toNat p.seedStep.toNat = some o
  unarmed : o.arm = .none
  clean   : s'.Clean

/-- A tag armed, its completion to be counted at `tag`. -/
def OpenTag.armed (o : OpenTag) (a : Arm) (tag : Nat) : OpenTag := { o with arm := a, tag := tag }

/-- The check of R73 as the first done block of a tag is renormalised. -/
def State.armCheck (s : State) (u : Nat) (o : OpenTag) (adder : Bool) : State :=
  match s.doneBlocks o with
  | b :: _ => s.sluCheck u o.gtag b adder
  | [] => s

/-- The tag of Sluice `u` is armed, and the instruction that arms it has retired. -/
def State.armTo (s : State) (u : Nat) (f : BitVec 57) (o x : OpenTag) (adder : Bool) : State :=
  ((s.armCheck u o adder).setTag u x).retire (sluKey + u) ((s.proc (sluKey + u)).tagUp (lTag f)) 8 false 1

theorem armCheck_notes (s : State) (u : Nat) (o : OpenTag) (adder : Bool) : SluiceNotes s (s.armCheck u o adder) := by
  unfold State.armCheck
  split
  · exact sluCheck_notes ..
  · exact .refl s

theorem armCheck_sluice (s : State) (u : Nat) (o : OpenTag) (adder : Bool) (j : Nat) : (s.armCheck u o adder).sluice j = s.sluice j := by
  unfold State.armCheck
  split
  · exact sluCheck_sluice ..
  · rfl

theorem armCheck_tells {b : Nat} {bs : List Nat} (h : s.doneBlocks o = b :: bs) (u : Nat) :
    ∃ d ∈ (s.armCheck u o true).safety.queue, d.code = 0x2306 := by
  rw [State.armCheck, h]
  exact sluCheck_tells s u o.gtag b rfl

section
variable {p : Proc} {a : Arm}

theorem armTag_arms (h : ArmDue s s' sl f p o) (a : Arm) (adder : Bool) : s'.armTag (sluKey + sl) f a false adder =
    ((s'.armTo sl f o (o.armed a (lTag f)) adder).sendEntries sl (o.armed a (lTag f)) 0 0 (List.range o.nb)).tagOn
      sl (o.armed a (lTag f)).gtag (o.armed a (lTag f)).step := by
  obtain ⟨-, rfl, -, hstores, hroom, hgtag, hopens, hunarmed, -⟩ := h
  have harm : (o.arm != Arm.none) = false := by rw [hunarmed]; rfl
  simp only [State.armTag, Nat.add_sub_cancel_left, hstores, ge_iff_le, Nat.not_le.mpr hroom, hgtag, hopens, harm, Bool.false_eq_true,
    decide_false, Bool.or_false, if_true, if_false]
  rfl

theorem armTo_eq (s : State) (sl : Fin 16) (f : BitVec 57) (o x : OpenTag) (adder : Bool) : s.armTo sl f o x adder =
    ((s.armCheck sl o adder).setTag sl x).setProc (sluKey + sl)
      { (s.proc (sluKey + sl)).tagUp (lTag f) with pc := (s.proc (sluKey + sl)).pc + 8 } := by
  have hproc : ((s.armCheck sl o adder).setTag sl x).proc (sluKey + sl) = s.proc (sluKey + sl) := (armCheck_notes ..).proc _
  rw [State.armTo, retire_embankment (isCore_sluKey sl), hproc]
  rfl

/-- `t` has armed the tag that `x` now is: but for the check of R73, nothing else has happened. -/
structure Armed (s t : State) (sl : Fin 16) (f : BitVec 57) (x : OpenTag) (p : Proc) : Prop where
  work  : SluiceWork s t
  mem   : t.mem = s.mem
  regs  : t.proc (sluKey + sl) = { p.tagUp (lTag f) with pc := p.pc + 8 }
  opens : t.openTag sl x.gtag x.step = some x

theorem armTo_armed (h : ArmDue s s' sl f p o) (a : Arm) (adder : Bool) :
    Armed s' (s'.armTo sl f o (o.armed a (lTag f)) adder) sl f (o.armed a (lTag f)) p := by
  have hcheck := armCheck_notes s' sl o adder
  obtain ⟨hg, hst⟩ := openTag_names h.opens
  have hopens : ((s'.armCheck sl o adder).openTag sl o.gtag o.step).isSome := by
    rw [openTag_of_tags (congrArg Sluice.tags (armCheck_sluice ..)), hg, hst, h.opens]
    rfl
  rw [armTo_eq, h.regs]
  exact ⟨(hcheck.work.trans (setSluice_notes ..).work).trans (setProc_work ..), hcheck.mem, State.setProc_proc_same ..,
    setTag_openTag (x := o.armed a (lTag f)) hopens⟩

/-- A tag with no done block is armed, and nothing is sent. -/
theorem armTag_idle (h : ArmDue s s' sl f p o) (a : Arm) (adder : Bool) (hunsent : o.unsent ≠ 0)
    (hnone : ∀ b < o.nb, (s'.entryOf o b).done = false) :
    Armed s' (s'.armTag (sluKey + sl) f a false adder) sl f (o.armed a (lTag f)) p := by
  have harm := armTo_armed h a adder
  rw [armTag_arms h]
  generalize s'.armTo sl f o (o.armed a (lTag f)) adder = t at *
  obtain ⟨hwork, hmem, hregs, hopens⟩ := harm
  obtain ⟨d, hidle⟩ := sendEntries_idle (s := t) (x := o.armed a (lTag f)) (hwork.clean h.clean) (bs := List.range o.nb)
    (fun b hb => (congrArg AccEntry.done (entryOf_of_mem hmem o b)).trans (hnone b (List.mem_range.mp hb))) sl
  have hopens' : (t.accessed d t.mem).openTag sl (o.armed a (lTag f)).gtag (o.armed a (lTag f)).step = some (o.armed a (lTag f)) := hopens
  rw [hidle, tagOn_waits hopens' (.inl hunsent)]
  exact ⟨hwork.trans (accessed_work ..), hmem, hregs, hopens⟩

/-- The one block of tag `o` is done and not sent, and renormalises to `z`, with the counter at `c`. -/
structure BlockDue (s : State) (sl : Fin 16) (o : OpenTag) (p : Proc) (e : AccEntry) (z : Block) (c : Word) : Prop where
  one     : o.nb = 1
  entry   : s.entryOf o 0 = e
  done    : e.done = true
  unsent  : e.sent = false
  value   : normalise (s.sluDraw sl) p.ctrV e.acc = (z, c)
  nonzero : z.e ≠ 0

theorem BlockDue.doneBlocks {e : AccEntry} (h : BlockDue s sl o p e z c) : s.doneBlocks o = [0] := by
  have hdone : (accEntry (s.bytesAt (entryAddr o 0).toNat 128)).done = true := (congrArg AccEntry.done h.entry).trans h.done
  simp [State.doneBlocks, h.one, hdone]

/-- The one block of a tag has been sent as the packet `q`. -/
structure BlockGone (s t : State) (sl : Fin 16) (f : BitVec 57) (o : OpenTag) (p : Proc) (e : AccEntry) (c : Word) (adder : Bool)
    (q : Packet) : Prop where
  other : s.SameMemOutside t (entryAddr o 0).toNat 128
  mesh  : t.mesh = s.mesh ++ [q]
  regs  : t.proc (sluKey + sl) = { p.tagUp (lTag f) with pc := p.pc + 8, ctrV := c }
  check : adder = true ∨ e.resBad = true → ∃ d ∈ t.safety.queue, d.code = 0x2306

/-- A tag of one done block is armed, and its block is sent. -/
theorem armTag_sends {e : AccEntry} {q : Packet} (h : ArmDue s s' sl f p o) (hb : BlockDue s' sl o p e z c) (adder : Bool)
    (hq : ∀ v, SluiceWork s' v → Sent v (v.sendBlk sl (o.armed a (lTag f)) 0 z) q o.xfer) :
    BlockGone s' (s'.armTag (sluKey + sl) f a false adder) sl f o p e c adder q := by
  have harm := armTo_armed h a adder
  have htells (ha : adder = true) : ∃ d ∈ (s'.armTo sl f o (o.armed a (lTag f)) adder).safety.queue, d.code = 0x2306 := by
    subst ha
    rw [armTo_eq]
    exact armCheck_tells hb.doneBlocks sl
  rw [armTag_arms h, hb.one]
  generalize s'.armTo sl f o (o.armed a (lTag f)) adder = t at *
  obtain ⟨hwork, hmem, hregs, hopens⟩ := harm
  have hnorm : normalise (t.sluDraw sl) (t.proc (sluKey + sl)).ctrV e.acc = (z, c) := by
    rw [show t.sluDraw sl = s'.sluDraw sl by rw [State.sluDraw, State.sluDraw, hregs, h.regs]; rfl, hregs]
    exact hb.value
  obtain ⟨v, hsend, hput, hleft⟩ := sendEntries_one (x := o.armed a (lTag f)) (hwork.clean h.clean)
    ((entryOf_of_mem hmem o 0).trans hb.entry) hb.done hb.unsent hnorm hb.nonzero hopens
  have hsent := hq v (hwork.trans hput.work)
  have hleft' := (hsent.openTag ..).trans hleft
  rw [List.range_one, hsend, tagOn_waits hleft' (.inr hsent.waits)]
  refine ⟨outside_of_write (hsent.mem.trans (hput.mem.trans (by rw [hmem]; rfl))) (length_accBytes _), ?_, ?_, ?_⟩
  · rw [hsent.mesh, hput.work.mesh, hwork.mesh]
  · rw [hsent.proc, hput.regs, hregs]
  · rw [hsent.safety]
    exact fun hbad => hbad.elim (fun ha => hput.work.tells (htells ha)) hput.check

/-! ## The instructions -/

theorem gsend_arms (h : ArmDue s s' sl f p o) (hrb : (p.getS (lRb f)).toNat < 65536) (adder : Bool) :
    exec (.gsend (.sluice sl) f adder) s = .next (s'.armTag (sluKey + sl) f
      (.gsend ((p.getS (lRb f)).toNat % 4096) ((p.getS (lRb f)).toNat / 4096 % 16)) false adder) := by
  have hword := Bool.and_eq_true_iff.mpr ⟨isSluice_sluKey sl, h.word⟩
  change execGsend (.sluice sl) f adder s = _
  simp only [execGsend, unitKey, issue64_eq h.issues hword, h.regs, ge_iff_le, Nat.not_le.mpr hrb, decide_false]

theorem ghand_arms (h : ArmDue s s' sl f p o) (hrb : (p.getS (lRb f)).toNat < 44) (adder : Bool) :
    exec (.ghand (.sluice sl) f adder) s =
      .next (s'.armTag (sluKey + sl) f (.ghand (p.getS (lRb f)).toNat) false adder) := by
  have hword := Bool.and_eq_true_iff.mpr ⟨isSluice_sluKey sl, h.word⟩
  change execGhand (.sluice sl) f adder s = _
  simp only [execGhand, unitKey, issue64_eq h.issues hword, h.regs, ge_iff_le, Nat.not_le.mpr hrb, decide_false,
    Nat.mod_eq_of_lt (hrb.trans (by decide : 44 < 64))]

theorem armTag_hands {e : AccEntry} (h : ArmDue s s' sl f p o) (hb : BlockDue s' sl o p e z c) (st : Nat) (adder : Bool) :
    BlockGone s' (s'.armTag (sluKey + sl) f (.ghand st) false adder) sl f o p e c adder (blockPacket sl st s'.nextId o 0 z) := by
  refine armTag_sends h hb adder fun v hv => ?_
  have hgo := sendBlk_hands (x := o.armed (.ghand st) (lTag f)) rfl v sl 0 z
  obtain ⟨⟨_, _, _, _, _, _, _, rfl⟩, -⟩ := hv
  exact hgo

theorem armTag_messages {e : AccEntry} {peer slu d pt : Nat} (h : ArmDue s s' sl f p o) (hb : BlockDue s' sl o p e z c) (adder : Bool)
    (hr : Routed s' (blockMessage s' sl peer slu s'.nextId o 0 z) d pt) :
    BlockGone s' (s'.armTag (sluKey + sl) f (.gsend peer slu) false adder) sl f o p e c adder
      { mkPacket .xt 5 (nodeOfSluice sl) (nodeOfPort pt) 0 with
        ctl := .message { blockMessage s' sl peer slu s'.nextId o 0 z with vc := wraps s'.group.extm1 s'.group.coord d } } := by
  refine armTag_sends h hb adder fun v hv => ?_
  obtain ⟨⟨_, _, _, _, _, _, _, rfl⟩, -⟩ := hv
  exact sendBlk_sends (x := o.armed (.gsend peer slu) (lTag f)) rfl ⟨hr.inside, hr.way, hr.port⟩

end

end Sys2Proof.Machine

open Sys2Proof Sys2Proof.Machine

/-- Settles O31: `gopen` by `gopen_opens`, `gsend` and `ghand` by `armTag_idle` while no block is done and by `armTag_sends` for a block
that is. -/
theorem gradientTagsOpenAndArm : Obligations.GradientTagsOpenAndArm := by
  unfold Obligations.GradientTagsOpenAndArm
  rintro sl f s s' _ _ _ _ _ rfl rfl rfl rfl rfl hstores
  refine ⟨fun hissues hword hlegal hallow => ?_, fun hissues hword hroom hgtag hc o hopens hunarmed hunsent => ?_⟩
  · obtain ⟨htags, hzeros, hother, hregs⟩ := regionCleared_opened s' sl (tagNamed f (s'.proc (sluKey + sl)) s'.nextId) _ _ _
    exact ⟨_, gopen_opens ⟨hissues, rfl, hword, hstores, hlegal, hallow⟩, htags, hzeros, hother, hregs⟩
  have hdue : ArmDue s s' sl f (s'.proc (sluKey + sl)) o :=
    ⟨hissues, rfl, hword, hstores, hroom, hgtag, hopens, hunarmed, hc⟩
  refine ⟨fun hnone => ⟨fun adder hrb => ?_, fun adder hrb => ?_⟩, fun e z c adder hone he hdone hsent hnorm hz =>
    ⟨fun hrb => ?_, fun m d pt hrb hm hin hway hport => ?_⟩⟩
  · obtain ⟨hwork, hmem, hregs, hopen⟩ := armTag_idle hdue _ adder hunsent hnone
    exact ⟨_, gsend_arms hdue hrb adder, hopen, hwork.mesh, hmem, hregs⟩
  · obtain ⟨hwork, hmem, hregs, hopen⟩ := armTag_idle hdue _ adder hunsent hnone
    exact ⟨_, ghand_arms hdue hrb adder, hopen, hwork.mesh, hmem, hregs⟩
  · obtain ⟨hother, hmesh, hregs, hcheck⟩ := armTag_hands hdue ⟨hone, he.symm, hdone, hsent, hnorm, hz⟩ _ adder
    exact ⟨_, ghand_arms hdue hrb adder, hother, hmesh, hregs, hcheck⟩
  · have hpeer : m = blockMessage s' sl _ _ s'.nextId o 0 z := hm.trans (blockMessage_of_word _ _ _ _ hrb _ _).symm
    subst hpeer
    obtain ⟨hother, hmesh, hregs, hcheck⟩ := armTag_messages hdue ⟨hone, he.symm, hdone, hsent, hnorm, hz⟩ adder
      ⟨hin, hway, hport⟩
    exact ⟨_, gsend_arms hdue hrb adder, hother, hmesh, hregs, hcheck⟩

end
